-- ==== Sys2Proof/Word.lean ====
section
/-! DEFINITION. The plainest types of the model: the byte, the two hosts, the four ordering numbers. -/
namespace Sys2Proof

/-- One stored byte. -/
abbrev Byte := BitVec 8

/-- The two host ports (R353): A is primary, B secondary. -/
inductive HostId where
  | a
  | b
  deriving DecidableEq, Repr, Inhabited

/-- The index by which events and registers name a host (R413: 0 A, 1 B). -/
def HostId.idx : HostId → Nat
  | .a => 0
  | .b => 1

/-- The ordering numbers of 00_scope.md, the value of the PART fuse (R1, R440). -/
inductive Part where
  | pz8x
  | pz8t
  | pz4x
  | pz2x
  deriving DecidableEq, Repr, Inhabited

/-- The byte whose value is `n` modulo 256. -/
abbrev Byte.of (n : Nat) : Byte := BitVec.ofNat 8 n

end Sys2Proof
end

