-- ==== Sys2Proof/Machine/Map.lean ====
section
/-! DEFINITION. Finite maps as sorted lists, and the little-endian and bit-field helpers that every record uses. -/
namespace Sys2Proof.Machine

/-- A finite map: keys strictly rising. -/
abbrev NMap (α : Type) := List (Nat × α)

/-- The value at `k`. -/
def mget {α : Type} : NMap α → Nat → Option α
  | [], _ => none
  | (a, v) :: r, k => if a = k then some v else mget r k

/-- The value at `k`, or `d` where nothing is listed. -/
def mgetD {α : Type} (m : NMap α) (k : Nat) (d : α) : α := (mget m k).getD d

/-- Put `v` at `k`. -/
def mset {α : Type} : NMap α → Nat → α → NMap α
  | [], k, v => [(k, v)]
  | (a, w) :: r, k, v =>
    if k < a then (k, v) :: (a, w) :: r
    else if k = a then (k, v) :: r
    else (a, w) :: mset r k v

/-- Take `k` out. -/
def merase {α : Type} : NMap α → Nat → NMap α
  | [], _ => []
  | (a, w) :: r, k => if k = a then r else (a, w) :: merase r k

/-- Apply `f` to the value at `k`, if any. -/
def mmodify {α : Type} (m : NMap α) (k : Nat) (f : α → α) : NMap α :=
  m.map (fun p => if p.1 = k then (p.1, f p.2) else p)

/-- Keys strictly rising from `lo`. -/
def msorted {α : Type} : Nat → NMap α → Bool
  | _, [] => true
  | lo, (a, _) :: r => decide (lo ≤ a) && msorted (a + 1) r

/-- The smallest natural number below `bound` that `used` does not hold. -/
def freshBelow (bound : Nat) (used : List Nat) : Option Nat :=
  (List.range bound).find? (fun n => !used.contains n)

/-- The number that bytes spell, lowest byte first. -/
def leNat : List Byte → Nat
  | [] => 0
  | b :: r => b.toNat + 256 * leNat r

/-- `n` as `k` bytes, lowest byte first. -/
def toLE : Nat → Nat → List Byte
  | 0, _ => []
  | k + 1, n => Byte.of n :: toLE k (n / 256)

/-- The number that bytes spell, highest byte first. -/
def beNat (b : List Byte) : Nat := leNat b.reverse

/-- `n` as `k` bytes, highest byte first. -/
def toBE (k n : Nat) : List Byte := (toLE k n).reverse

/-- `k` zero bytes. -/
def zeros (k : Nat) : List Byte := List.replicate k 0#8

/-- Bytes cut or padded with zeros to `k`. -/
def fitBytes (k : Nat) (b : List Byte) : List Byte := b.take k ++ zeros (k - b.length)

/-- `n` bytes of a record from offset `off`, as a number. -/
def fld (b : List Byte) (off n : Nat) : Nat := leNat ((b.drop off).take n)

/-- Bits [lo + w − 1 : lo] of `v`. -/
def bits (v lo w : Nat) : Nat := v / 2 ^ lo % 2 ^ w

/-- Bit `i` of `v`. -/
def bit (v i : Nat) : Bool := v.testBit i

/-- `v` read as a signed integer of `w` bits (R482). -/
def sgn (w v : Nat) : Int :=
  let u := v % 2 ^ w
  if 2 * u < 2 ^ w then (u : Int) else (u : Int) - (2 ^ w : Nat)

/-- The low `w` bits of an integer's two's complement. -/
def unsgn (w : Nat) (i : Int) : Nat := (i % (2 ^ w : Nat)).toNat

/-- 1 for true. -/
def b2n (b : Bool) : Nat := if b then 1 else 0

/-- ⌈a / b⌉. -/
def cdiv (a b : Nat) : Nat := (a + b - 1) / b

/-- The indices of the bits set in `v` among the first `n`. -/
def bitList (n v : Nat) : List Nat := (List.range n).filter (fun i => v.testBit i)

/-- The number whose set bits are the given indices. -/
def maskOf (l : List Nat) : Nat := l.foldl (fun a i => a ||| 2 ^ i) 0

/-- Every set bit of `a` is set in `b`. -/
def subMask (a b : Nat) : Bool := (a &&& b) == a

/-- The value at index `i`, or the default. -/
def nth {α : Type} [Inhabited α] (l : List α) (i : Nat) : α := l.getD i default

/-- Replace the element at index `i`. -/
def setNth {α : Type} (l : List α) (i : Nat) (v : α) : List α := l.set i v

/-- Cut a list into pieces of `n` (the last may be shorter); `fuel` bounds the number of pieces. -/
def piecesOf {α : Type} (n : Nat) : Nat → List α → List (List α)
  | 0, _ => []
  | fuel + 1, l => if l.isEmpty then [] else l.take n :: piecesOf n fuel (l.drop n)

/-- Cut a list into pieces of `n`. -/
def chunksOf {α : Type} (n : Nat) (l : List α) : List (List α) := piecesOf n (l.length + 1) l

end Sys2Proof.Machine
end

