-- ==== Sys2Proof/Machine/Image.lean ====
section
/-! DEFINITION. A job's training state, its mapping record and the waystation image of both (10, 12), as State and the commands that bring
an image hold them. -/
namespace Sys2Proof.Machine

/-- A training-state group record (R246). -/
structure TGroup where
  id : Nat
  tier : Nat
  delay : Nat
  form : Nat
  workWide : Bool
  replicated : Bool
  keepEn : Bool
  variantEn : Bool
  gradType : Nat
  elements : Nat
  settleCtr : Nat
  settleVal : Nat
  relCtr : Nat
  relVal : Nat
  keepRank : Nat
  paramSlot : Nat
  homeCore : Nat
  tsOff : Nat
  bank0 : Nat
  bank1 : Nat
  grad : Nat
  hostAddr : Nat
  gather : Nat
  gatherPages : Nat
  variant : Nat
  prog : Nat
  deriving DecidableEq, Repr, Inhabited

/-- One ledger slot (R260): its device pages, 0 unmarked, 1 valid, 2 skipped; ordinal, step number and headroom. -/
structure LedSlot where
  pages : List Nat
  mark : Nat
  ordinal : Nat
  step : Nat
  h : Int
  deriving DecidableEq, Repr, Inhabited

/-- A group's running state (R251–R266). -/
structure TrainGrp where
  g : TGroup
  cur : Bool
  partBank : BitVec 4
  updates : Nat
  lastStep : Nat
  /-- takes part in the running update step (R270, R271) -/
  inStep : Bool
  settled : Bool
  /-- the cycle at which the settlement was observed (R253) -/
  settleAt : Nat
  /-- poisoned gradient blocks counted at settlement -/
  gradPoison : Nat
  /-- the update leg has written the other bank -/
  wrote : Bool
  ledger : List LedSlot
  /-- part applied in this step; its staged master and moments (R261) -/
  applied : Option Nat
  staged : List Byte
  /-- part whose new master and moments wait for write-back, with the bytes -/
  owed : Option (Nat × List Byte)
  /-- keep entry: 0 absent, 1 pinned, 2 released, 3 pinned again by a later hit, 4 evicted, its pages free at
  the next tick; its pool pages; stage of release (R264, R265) -/
  keep : Nat
  keepPages : List Nat
  relStage : Nat
  /-- events that each page error record of its bank counted at the last clean tally of the group (R274) -/
  cleanSeen : NMap Nat
  deriving DecidableEq, Repr, Inhabited

/-- One page of a replicated group whose digest the replica tally takes (R272): the next word, the sum so far, and 0 while it waits for a
service digest leg, 1 while one runs, 2 when it is complete. -/
structure DigPage where
  group : Nat
  page : Nat
  next : Nat
  sum : Nat
  st : Nat
  deriving DecidableEq, Repr, Inhabited

/-- Training state of a job (10). -/
structure Train where
  table : List Byte
  dpSize : Nat
  dpRank : Nat
  hrInit : Int
  hrMin : Int
  hrMax : Int
  cleanRun : Nat
  tallyT : Nat
  hrAddr : Nat
  paramAddr : Nat
  statusAddr : Nat
  vltAddr : Nat
  groups : List TrainGrp
  /-- free pages of the keep pool -/
  pool : List Nat
  ordinal : Nat
  h : Int
  clean : Nat
  skips : Nat
  lastSkip : Nat
  repairs : Nat
  rollbacks : Nat
  /-- copy of the 256 parameter records taken at the step's first tick (R267) -/
  params : List Byte
  /-- blocks counted for R256 and R271 in this step -/
  extra : Nat
  /-- a rollback has been asked for (R263, R275) -/
  rollback : Bool
  /-- open page ranges of the replica tally: group, first page, pages; parent digests by rank (R273) -/
  bisect : List (Nat × Nat × Nat × List Nat)
  /-- groups whose root digests have been compared at this close (R272) -/
  tallied : List Nat
  /-- page digests of the replica tally (R272) -/
  digs : List DigPage
  /-- pages of the staging buffers of tier-2 parts (R247, R261) -/
  stagePages : List Nat
  deriving DecidableEq, Repr, Inhabited

/-- A mapping record (R335) with its bounds and devices. -/
structure MapRec where
  dp : Nat
  tp : Nat
  pp : Nat
  sp : Nat
  ep : Nat
  rank : Nat
  mode : Nat
  layers : Nat
  kvHeads : Nat
  qPerKv : Nat
  topK : Nat
  experts : Nat
  capFactor : Nat
  bounds : List Nat
  devices : List Nat
  deriving DecidableEq, Repr, Inhabited

/-- A waystation image as this device sent it (R347): ordinal, stage, training state and the bytes by job address. -/
structure WayImage where
  ordinal : Nat
  stage : Nat
  train : Train
  map : Option MapRec
  variants : NMap (Nat × Nat)
  bytes : List (Nat × List Byte)
  deriving DecidableEq, Repr, Inhabited

/-- What every member of a resharded job holds alike (R342, R343): ordinal, headroom, CLEAN_COUNT, SKIPS and the other counts of the job
status record, and the variant slot states. -/
structure Carry where
  ordinal : Nat
  h : Int
  clean : Nat
  skips : Nat
  lastSkip : Nat
  repairs : Nat
  rollbacks : Nat
  variants : NMap (Nat × Nat)
  deriving DecidableEq, Repr, Inhabited

end Sys2Proof.Machine
end

