-- ==== Sys2Proof/Syntax.lean ====
section
/-! DEFINITION. The commands of the block: one constructor of `Instr` for each row of spec/opcode_table.json, with
the operands that a happening of that row carries (an address, a value, a record, a frame, a reading). -/
namespace Sys2Proof

/-- A die that runs a drover (R20, R71): C-die `d` or serai `n`. -/
inductive DieId where
  | cdie (d : BitVec 3)
  | serai (n : BitVec 2)
  deriving DecidableEq, Repr, Inhabited

/-- A unit with a thermal comparator (R428). -/
inductive ThermUnit where
  | cdie (d : BitVec 3)
  | serai (n : BitVec 2)
  | idie (i : BitVec 1)
  | stack (n : BitVec 4)
  deriving DecidableEq, Repr, Inhabited

/-- What STATUS_WORD of one rail reports (R423). -/
structure RailStatus where
  rail : BitVec 5
  fault : Bool
  warning : Bool
  deriving DecidableEq, Repr, Inhabited

/-- What the sensors give at one tick (R83, R390, R426, R427, R429) and which drovers missed the check (R21). -/
structure TickIn where
  /-- energy of the ended stage of each C-die in nJ, C-die 0 first -/
  energy : List Nat
  tempC : List (BitVec 8)
  tempS : List (BitVec 8)
  tempI : List (BitVec 8)
  tempH : List (BitVec 8)
  /-- mean power of each rail in the ended stage, mW, rail 0 first -/
  railPower : List Nat
  /-- mean package power of the ended stage, W -/
  packageW : BitVec 16
  missing : List DieId
  /-- jobs of which every member holds the generation restored (R350) -/
  restored : BitVec 16
  deriving DecidableEq, Repr, Inhabited

/-- The lines (64-byte aligned device addresses) that a step's reads meet with one symbol in error, and with an uncorrectable error, and
the accumulator lines (eight entries of an engine's banks) that they meet uncorrectable (R394, R395). -/
structure Faults where
  corr : List (BitVec 48)
  uncorr : List (BitVec 48)
  acc : List (BitVec 16)
  deriving DecidableEq, Repr, Inhabited

/-- What a device is sent at the start of a reshard (R342, R343): the blocks of other members, one stream for each receive entry, the image
that its waystation partner answers, and the lines that its own reads meet in error. -/
structure ReshardIn where
  recv : List (List Byte)
  image : Option Machine.WayImage
  f : Faults
  deriving DecidableEq, Repr, Inhabited

/-- An engine group (R71). -/
inductive GroupId where
  | array (core : BitVec 7)
  | vector (core : BitVec 7)
  | mover (core : BitVec 7) (m : BitVec 2)
  | coll (serai : BitVec 2)
  deriving DecidableEq, Repr, Inhabited

/-- A running leg, named by its job and its task. -/
structure LegId where
  job : BitVec 4
  task : BitVec 32
  deriving DecidableEq, Repr, Inhabited

/-- A data frame as a port receives it (R281): header fields and payload. -/
structure Frame where
  port : BitVec 6
  dest : BitVec 16
  src : BitVec 16
  tag : BitVec 16
  cls : BitVec 2
  vl : Bool
  epoch : Bool
  kgen : Bool
  typ : BitVec 4
  poison : Bool
  offset : BitVec 32
  window : BitVec 4
  txn : BitVec 15
  flow : BitVec 10
  payload : List Byte
  deriving DecidableEq, Repr, Inhabited

/-- A control frame as a port receives it (R283). -/
structure CtrlFrame where
  port : BitVec 6
  cls : BitVec 2
  vl : Bool
  reply : Bool
  lambdaNew : BitVec 4
  ccount : BitVec 32
  value : BitVec 64
  deriving DecidableEq, Repr, Inhabited

/-- The SPDM transports (R448). -/
inductive SpdmT where
  | doe (h : HostId)
  | attest (h : HostId)
  | mctp
  deriving DecidableEq, Repr, Inhabited

/-- A die-to-die link (R11, R30): C-die and serai, C-die d and d + 1, serai ring, I-die and serai, optical engine and serai. -/
inductive LinkId where
  | cs (d : BitVec 3)
  | cc (d : BitVec 3)
  | ring (n : BitVec 2)
  | idie (i : BitVec 1)
  | oe (n : BitVec 4)
  deriving DecidableEq, Repr, Inhabited

/-- Who writes a register through the arbiter (R383). -/
inductive Writer where
  | host (h : HostId)
  | caravaneer
  | drover (d : DieId)
  | debugPort
  deriving DecidableEq, Repr, Inhabited

/-- A register without a row of its own: by BAR0 offset, by device address, a dword of the command ring in BAR2, or a
field of a port's configuration space (R352, R356, R358); `ide` where an IDE stream carries the write (R355). -/
inductive RegTarget where
  | bar0 (off : BitVec 24)
  | dev (addr : BitVec 48)
  | ring (off : BitVec 16) (ide : Bool)
  | barSize (log2 : BitVec 6)
  /-- Device Control: Max_Payload_Size and Max_Read_Request_Size as encoded, and the 10-bit tag enable -/
  | maxPayload (code : BitVec 3)
  | maxRead (code : BitVec 3)
  | tag10
  | msixEnable
  | msixVector (v : BitVec 6)
  deriving DecidableEq, Repr, Inhabited

/-- An outcome of reading one line (R395). -/
inductive LineRead where
  | clean
  | corrected
  | uncorrectable
  deriving DecidableEq, Repr, Inhabited

/-- The reply of one PMBus read (R392). -/
inductive VrbReply where
  | data (v : BitVec 32)
  | nack
  | pecErr
  deriving DecidableEq, Repr, Inhabited

/-- A command record (R361): JOB, the reserved byte beside it, HSN and bytes 0x08 … 0x3F, byte 0x08 lowest.
The opcode is the row's. -/
structure CmdRec where
  job : BitVec 8
  rsvd : BitVec 8
  hsn : BitVec 32
  params : BitVec 448
  deriving DecidableEq, Repr, Inhabited


/-- One command for each row of spec/opcode_table.json, in the table's order. -/
inductive Instr where
  | pwrokRise (straps : BitVec 5) (railsInRange : Bool)
  | bootPhaseDone
  | bootPhaseTimeout (code : BitVec 8)
  | pwrokFall
  | perstAssert (h : HostId)
  | perstRelease (h : HostId)
  | refclkLoss
  | thermalTrip (u : ThermUnit) (temp : BitVec 8)
  | pmbAlert (rails : List RailStatus)
  | regulatorPoll (rails : List RailStatus)
  | trstN
  | tick (inp : TickIn)
  | lateDrop (channel : BitVec 6) (pos : BitVec 64)
  | gatherFillLimit (l : LegId)
  | droverRestart (d : DieId)
  | leadHoldEnd (core : BitVec 7)
  | backhaulHoldEnd (l : LegId)
  | startLeg (g : GroupId) (f : Faults)
  | legSuspend (l : LegId)
  | stageOverrun (l : LegId)
  | matrixTile (core : BitVec 7) (f : Faults)
  | outputDrain (core : BitVec 7) (f : Faults)
  | elementIteration (core : BitVec 7) (f : Faults)
  | tapSweepIteration (core : BitVec 7) (f : Faults)
  | moverPiece (core : BitVec 7) (m : BitVec 2) (f : Faults)
  | attentionPair (core : BitVec 7) (f : Faults)
  | attentionFinish (core : BitVec 7)
  | appendTokens (core : BitVec 7) (f : Faults)
  | saddlebagFlush (core : BitVec 7) (f : Faults)
  | haloStampSeen (core : BitVec 7) (f : Faults)
  | haloPublish (core : BitVec 7) (f : Faults)
  | taskComplete (l : LegId) (f : Faults)
  | taskFail (l : LegId)
  | jobRelease (job : BitVec 4)
  | groupSettle (job : BitVec 4) (group : BitVec 16) (f : Faults)
  | stepClose (job : BitVec 4)
  | poisonTally (job : BitVec 4) (total : BitVec 64)
  | replicaTally (job : BitVec 4) (group : BitVec 16) (roots : List (BitVec 64))
  | tallyBisectRound (job : BitVec 4) (group : BitVec 16) (lower : List (List (BitVec 64)))
      (logs : List (List Bool))
  | stepComplete (job : BitVec 4)
  | slowTierFetchDone (job : BitVec 4) (group : BitVec 16) (part : BitVec 32) (f : Faults)
  | slowTierWriteback (job : BitVec 4) (group : BitVec 16) (part : BitVec 32) (f : Faults)
  | waystationCommit (owner : BitVec 16) (tag : BitVec 16) (ordinal : BitVec 32) (stage : BitVec 48)
  | reshardStart (job : BitVec 4) (x : ReshardIn)
  | reshardSwitch (job : BitVec 4) (confirm : Option Machine.Carry)
  | kvPreempt (job : BitVec 4) (seq : BitVec 32) (f : Faults)
  | kvFerryBack (job : BitVec 4) (seq : BitVec 32) (f : Faults)
  | mediaSampleTake (channel : BitVec 6) (f : Faults)
  | mediaDecodeStart (half : BitVec 1)
  | mediaDecodeDone (channel : BitVec 6) (pos : BitVec 64) (f : Faults)
  | collectiveChunkStep (serai : BitVec 2) (l : LegId) (f : Faults)
  | collectivePeerTimeout (l : LegId) (peer : BitVec 13)
  | transactionTimeout (txn : BitVec 15)
  | portDownDiscard (port : BitVec 6)
  | fabricStallDetect (port : BitVec 6) (cls : BitVec 2) (vl : Bool)
  | frameWrite (fr : Frame)
  | frameWriteAck (fr : Frame)
  | frameRead (fr : Frame) (f : Faults)
  | frameReadData (fr : Frame)
  | frameSignal (fr : Frame)
  | frameSignalAck (fr : Frame)
  | frameTxnNack (fr : Frame)
  | frameService (fr : Frame)
  | frameReservedType (fr : Frame)
  | collectiveData (fr : Frame)
  | collectiveReady (fr : Frame)
  | collectiveAck (fr : Frame)
  | collectiveAbort (fr : Frame)
  | timeRequest (fr : Frame)
  | timeResponse (fr : Frame)
  | stageRenumber (stage : BitVec 48) (periodUs : BitVec 14)
  | periodChange
  | keySwitch
  | keyOldErase
  | routeSwitch
  | timekeeperSwitch
  | ctrlIdle (c : CtrlFrame)
  | ctrlAck (c : CtrlFrame)
  | ctrlNak (c : CtrlFrame)
  | ctrlCredit (c : CtrlFrame)
  | ctrlNarrow (c : CtrlFrame)
  | controlFrameResend (port : BitVec 6) (ctype : BitVec 4)
  | dataFrameReceiveFail (port : BitVec 6) (tagFail : Bool)
  | codewordUncorrectable (port : BitVec 6) (wave : BitVec 2)
  | wavelengthFail (port : BitVec 6) (wave : BitVec 2)
  | narrowComplete (port : BitVec 6)
  | portAuthDown (port : BitVec 6)
  | portLightSample (port : BitVec 6) (light : Bool)
  | trainingPhaseDone (port : BitVec 6) (healthy : BitVec 4)
  | trainingMessage (port : BitVec 6) (msg : List Byte)
  | trainingTimeout (port : BitVec 6)
  | refusedRetry (port : BitVec 6)
  | downRetrain (port : BitVec 6)
  | linkFlitReplay (l : LinkId)
  | linkFail (l : LinkId)
  | scrubLine (addr : BitVec 48) (o : LineRead)
  | parityFault (addr : BitVec 48) (group : BitVec 1) (active : Bool)
  | postedWriteTaken (block : BitVec 8)
  | vrbTransactionDone (r : VrbReply)
  | msixDeferredSend (h : HostId) (v : BitVec 6)
  | msixPendingSend (h : HostId) (v : BitVec 6)
  | takeoverSwitch
  | activationPause
  | activationResume (switched : Bool)
  | confirmWindowExpiry
  | mbxCmdTailWrite (h : HostId) (value : BitVec 32) (whole : Bool) (ide : Bool)
  | mbxCplHeadWrite (h : HostId) (value : BitVec 32) (whole : Bool) (ide : Bool)
  | devTimeLoRead (h : HostId)
  | devErrClear (h : HostId) (value : BitVec 32)
  | apply (w : Writer) (t : RegTarget) (value : BitVec 32)
  | vrbCmdWrite (h : HostId) (value : BitVec 32)
  | vrbDroppedClear (h : HostId) (value : BitVec 32)
  | postedWrite (w : Writer) (block : BitVec 8) (off : BitVec 12) (value : BitVec 32)
  | registerWrite (w : Writer) (t : RegTarget) (value : BitVec 32)
  | bar4Read (h : HostId) (off : BitVec 48) (len : BitVec 13) (ide : Bool) (f : Faults)
  | bar4Write (h : HostId) (off : BitVec 48) (data : List Byte) (ide : Bool) (f : Faults)
  | mbxResync (h : HostId) (c : CmdRec)
  | deviceConfig (h : HostId) (c : CmdRec)
  | powerCapSet (h : HostId) (c : CmdRec)
  | hostBPartitionSet (h : HostId) (c : CmdRec)
  | caravaneerTakeover (h : HostId) (c : CmdRec)
  | eventMirrorSet (h : HostId) (c : CmdRec)
  | settingsSet (h : HostId) (c : CmdRec)
  | settingsGet (h : HostId) (c : CmdRec)
  | faultReportGet (h : HostId) (c : CmdRec)
  | jobCreate (h : HostId) (c : CmdRec)
  | jobDestroy (h : HostId) (c : CmdRec)
  | memMap (h : HostId) (c : CmdRec)
  | memUnmap (h : HostId) (c : CmdRec)
  | tasklistLoad (h : HostId) (c : CmdRec) (f : Faults)
  | tasklistUnload (h : HostId) (c : CmdRec)
  | stepSubmit (h : HostId) (c : CmdRec)
  | replayLogSet (h : HostId) (c : CmdRec)
  | kvPoolSet (h : HostId) (c : CmdRec)
  | kvAdmit (h : HostId) (c : CmdRec)
  | kvRelease (h : HostId) (c : CmdRec)
  | kvPin (h : HostId) (c : CmdRec)
  | kvUnpin (h : HostId) (c : CmdRec)
  | mediaChannelOpen (h : HostId) (c : CmdRec) (f : Faults)
  | mediaSubmit (h : HostId) (c : CmdRec)
  | mediaChannelClose (h : HostId) (c : CmdRec)
  | trainStateSet (h : HostId) (c : CmdRec) (f : Faults)
  | variantLoad (h : HostId) (c : CmdRec)
  | variantUnload (h : HostId) (c : CmdRec)
  | collGroupSet (h : HostId) (c : CmdRec) (f : Faults)
  | jobMapSet (h : HostId) (c : CmdRec) (f : Faults)
  | jobReshard (h : HostId) (c : CmdRec) (f : Faults)
  | waystationSet (h : HostId) (c : CmdRec) (reserved : Bool)
  | waystationHost (h : HostId) (c : CmdRec)
  | waystationStatus (h : HostId) (c : CmdRec)
  | waystationRestore (h : HostId) (c : CmdRec) (image : Option Machine.WayImage)
  | fabricJoin (h : HostId) (c : CmdRec)
  | fabricLeave (h : HostId) (c : CmdRec)
  | fabricKeySet (h : HostId) (c : CmdRec)
  | fabricKeySwitch (h : HostId) (c : CmdRec)
  | fabricPortSet (h : HostId) (c : CmdRec)
  | fabricRouteLoad (h : HostId) (c : CmdRec)
  | fabricRouteSwitch (h : HostId) (c : CmdRec)
  | fabricTimekeeperSet (h : HostId) (c : CmdRec)
  | fabricWindowSet (h : HostId) (c : CmdRec)
  | fabricPeersSet (h : HostId) (c : CmdRec) (f : Faults)
  | fabricPortStatus (h : HostId) (c : CmdRec)
  | fabricDomainStatus (h : HostId) (c : CmdRec)
  | updateBegin (h : HostId) (c : CmdRec)
  | updateChunk (h : HostId) (c : CmdRec)
  | updateStatus (h : HostId) (c : CmdRec)
  | updateActivate (h : HostId) (c : CmdRec)
  | updateConfirm (h : HostId) (c : CmdRec)
  | attestGet (h : HostId) (c : CmdRec)
  | updManifestPiece (total : BitVec 32) (piece : BitVec 6) (data : List Byte)
  | updChunkPiece (chunk : BitVec 32) (piece : BitVec 6) (data : List Byte)
  | updStatus (offset : BitVec 16)
  | updActivate
  | updConfirm
  | getState
  | getThermal
  | getPower
  | setEndpointId (eid : BitVec 8)
  | getEndpointId
  | getMctpVersionSupport (msgType : BitVec 8)
  | getMessageTypeSupport
  | getVersion (t : SpdmT) (msg : List Byte)
  | getCapabilities (t : SpdmT) (msg : List Byte)
  | negotiateAlgorithms (t : SpdmT) (msg : List Byte)
  | getDigests (t : SpdmT) (msg : List Byte)
  | getCertificate (t : SpdmT) (msg : List Byte)
  | spdmChallenge (t : SpdmT) (msg : List Byte)
  | getMeasurements (t : SpdmT) (msg : List Byte)
  | keyExchange (t : SpdmT) (msg : List Byte)
  | finish (t : SpdmT) (msg : List Byte)
  | endSession (t : SpdmT) (msg : List Byte)
  | ideKmQuery (h : HostId)
  | ideKmKeyProg (h : HostId) (stream : BitVec 8) (keySet : BitVec 1) (rxTx : BitVec 1) (sub : BitVec 4)
      (key : BitVec 256) (iv : BitVec 64)
  | ideKmKSetGo (h : HostId) (stream : BitVec 8) (keySet : BitVec 1) (rxTx : BitVec 1) (sub : BitVec 4)
  | ideKmKSetStop (h : HostId) (stream : BitVec 8) (keySet : BitVec 1) (rxTx : BitVec 1) (sub : BitVec 4)
  | dbgXferUpdate (req : BitVec 512)
  | dbgXferCapture
  | dbgStatus
  | dbgChallenge
  | dbgUnlockPiece
  | dbgLock
  | dbgRead (f : Faults)
  | dbgWrite (f : Faults)
  | dbgHalt
  | dbgStep
  | dbgResume
  | dbgHaltStatus
  | dbgBpSet
  | dbgBpClear
  | dbgBpHit
  | dbgReplayEnter
  | dbgReplayExit
  | dbgReplayStatus
  | flashProgramDone (ok : Bool)
  | activationVerifyDone (failed : List (BitVec 8))
  | controlFrameDiscard (port : BitVec 6) (tagFail : Bool)
  | reservedOpcodeCommand (h : HostId) (op : BitVec 16) (c : CmdRec)
  | dbgReservedOp
  | mctpUnknownRequest (code : BitVec 8)
  | spdmUnsupportedRequest (t : SpdmT) (msg : List Byte)
  deriving DecidableEq, Repr

end Sys2Proof
end

