-- ==== Sys2Proof/Decode.lean ====
section
/-! DEFINITION. The command that a word of spec/opcode_table.json spells (no row gives bits, so no word spells one), and the
64-byte command record of the rings: the record of a slot, the slot of a record, the command an opcode names. -/
namespace Sys2Proof

/-- The command that `nbits` bits `w` spell by the table: none, for no row gives bits. -/
def decodeTableWord (_nbits _w : Nat) : Option Instr := none

/-- Opcodes of the command catalogue (R370). -/
def opcodes : List Nat :=
  (List.range 9).map (· + 0x0001) ++ (List.range 8).map (· + 0x0101) ++ (List.range 5).map (· + 0x0201)
    ++ (List.range 3).map (· + 0x0301) ++ (List.range 10).map (· + 0x0401) ++ (List.range 12).map (· + 0x0501)
    ++ (List.range 6).map (· + 0x0601)

/-- The 64 bytes of a command record as a number, byte 0 lowest: OPCODE, JOB, the reserved byte, HSN, parameters (R361). -/
def CmdRec.slot (c : CmdRec) (op : Nat) : BitVec 512 :=
  BitVec.ofNat 512 (op % 2 ^ 16 + c.job.toNat * 2 ^ 16 + c.rsvd.toNat * 2 ^ 24 + c.hsn.toNat * 2 ^ 32
    + c.params.toNat * 2 ^ 64)

/-- The record that a slot holds (R361). -/
def recordOf (w : BitVec 512) : BitVec 16 × CmdRec :=
  (w.extractLsb' 0 16, ⟨w.extractLsb' 16 8, w.extractLsb' 24 8, w.extractLsb' 32 32, w.extractLsb' 64 448⟩)

/-- The command that an opcode of the catalogue names (R370); any other opcode is the reserved one's row. `f`, `x` and `w` are
what the command meets outside its record: faulty lines, and the answers of a waystation partner. -/
def commandOf (op : BitVec 16) (h : HostId) (c : CmdRec) (f : Faults) (x : Bool) (w : Option Machine.WayImage) : Instr :=
  match op with
  | 0x0001#16 => .mbxResync h c
  | 0x0002#16 => .deviceConfig h c
  | 0x0003#16 => .powerCapSet h c
  | 0x0004#16 => .hostBPartitionSet h c
  | 0x0005#16 => .caravaneerTakeover h c
  | 0x0006#16 => .eventMirrorSet h c
  | 0x0007#16 => .settingsSet h c
  | 0x0008#16 => .settingsGet h c
  | 0x0009#16 => .faultReportGet h c
  | 0x0101#16 => .jobCreate h c
  | 0x0102#16 => .jobDestroy h c
  | 0x0103#16 => .memMap h c
  | 0x0104#16 => .memUnmap h c
  | 0x0105#16 => .tasklistLoad h c f
  | 0x0106#16 => .tasklistUnload h c
  | 0x0107#16 => .stepSubmit h c
  | 0x0108#16 => .replayLogSet h c
  | 0x0201#16 => .kvPoolSet h c
  | 0x0202#16 => .kvAdmit h c
  | 0x0203#16 => .kvRelease h c
  | 0x0204#16 => .kvPin h c
  | 0x0205#16 => .kvUnpin h c
  | 0x0301#16 => .mediaChannelOpen h c f
  | 0x0302#16 => .mediaSubmit h c
  | 0x0303#16 => .mediaChannelClose h c
  | 0x0401#16 => .trainStateSet h c f
  | 0x0402#16 => .variantLoad h c
  | 0x0403#16 => .variantUnload h c
  | 0x0404#16 => .collGroupSet h c f
  | 0x0405#16 => .jobMapSet h c f
  | 0x0406#16 => .jobReshard h c f
  | 0x0407#16 => .waystationSet h c x
  | 0x0408#16 => .waystationHost h c
  | 0x0409#16 => .waystationStatus h c
  | 0x040A#16 => .waystationRestore h c w
  | 0x0501#16 => .fabricJoin h c
  | 0x0502#16 => .fabricLeave h c
  | 0x0503#16 => .fabricKeySet h c
  | 0x0504#16 => .fabricKeySwitch h c
  | 0x0505#16 => .fabricPortSet h c
  | 0x0506#16 => .fabricRouteLoad h c
  | 0x0507#16 => .fabricRouteSwitch h c
  | 0x0508#16 => .fabricTimekeeperSet h c
  | 0x0509#16 => .fabricWindowSet h c
  | 0x050A#16 => .fabricPeersSet h c f
  | 0x050B#16 => .fabricPortStatus h c
  | 0x050C#16 => .fabricDomainStatus h c
  | 0x0601#16 => .updateBegin h c
  | 0x0602#16 => .updateChunk h c
  | 0x0603#16 => .updateStatus h c
  | 0x0604#16 => .updateActivate h c
  | 0x0605#16 => .updateConfirm h c
  | 0x0606#16 => .attestGet h c
  | _ => .reservedOpcodeCommand h op c

/-- The command that a slot of a host's ring holds. -/
def slotCommand (h : HostId) (r : BitVec 512) (f : Faults) (x : Bool) (w : Option Machine.WayImage) : Instr :=
  commandOf (recordOf r).1 h (recordOf r).2 f x w

/-- Host, opcode and record of a mailbox command; none for every other happening. -/
def Instr.mailbox : Instr → Option (HostId × BitVec 16 × CmdRec)
  | .mbxResync h c => some (h, 0x0001#16, c)
  | .deviceConfig h c => some (h, 0x0002#16, c)
  | .powerCapSet h c => some (h, 0x0003#16, c)
  | .hostBPartitionSet h c => some (h, 0x0004#16, c)
  | .caravaneerTakeover h c => some (h, 0x0005#16, c)
  | .eventMirrorSet h c => some (h, 0x0006#16, c)
  | .settingsSet h c => some (h, 0x0007#16, c)
  | .settingsGet h c => some (h, 0x0008#16, c)
  | .faultReportGet h c => some (h, 0x0009#16, c)
  | .jobCreate h c => some (h, 0x0101#16, c)
  | .jobDestroy h c => some (h, 0x0102#16, c)
  | .memMap h c => some (h, 0x0103#16, c)
  | .memUnmap h c => some (h, 0x0104#16, c)
  | .tasklistLoad h c _ => some (h, 0x0105#16, c)
  | .tasklistUnload h c => some (h, 0x0106#16, c)
  | .stepSubmit h c => some (h, 0x0107#16, c)
  | .replayLogSet h c => some (h, 0x0108#16, c)
  | .kvPoolSet h c => some (h, 0x0201#16, c)
  | .kvAdmit h c => some (h, 0x0202#16, c)
  | .kvRelease h c => some (h, 0x0203#16, c)
  | .kvPin h c => some (h, 0x0204#16, c)
  | .kvUnpin h c => some (h, 0x0205#16, c)
  | .mediaChannelOpen h c _ => some (h, 0x0301#16, c)
  | .mediaSubmit h c => some (h, 0x0302#16, c)
  | .mediaChannelClose h c => some (h, 0x0303#16, c)
  | .trainStateSet h c _ => some (h, 0x0401#16, c)
  | .variantLoad h c => some (h, 0x0402#16, c)
  | .variantUnload h c => some (h, 0x0403#16, c)
  | .collGroupSet h c _ => some (h, 0x0404#16, c)
  | .jobMapSet h c _ => some (h, 0x0405#16, c)
  | .jobReshard h c _ => some (h, 0x0406#16, c)
  | .waystationSet h c _ => some (h, 0x0407#16, c)
  | .waystationHost h c => some (h, 0x0408#16, c)
  | .waystationStatus h c => some (h, 0x0409#16, c)
  | .waystationRestore h c _ => some (h, 0x040A#16, c)
  | .fabricJoin h c => some (h, 0x0501#16, c)
  | .fabricLeave h c => some (h, 0x0502#16, c)
  | .fabricKeySet h c => some (h, 0x0503#16, c)
  | .fabricKeySwitch h c => some (h, 0x0504#16, c)
  | .fabricPortSet h c => some (h, 0x0505#16, c)
  | .fabricRouteLoad h c => some (h, 0x0506#16, c)
  | .fabricRouteSwitch h c => some (h, 0x0507#16, c)
  | .fabricTimekeeperSet h c => some (h, 0x0508#16, c)
  | .fabricWindowSet h c => some (h, 0x0509#16, c)
  | .fabricPeersSet h c _ => some (h, 0x050A#16, c)
  | .fabricPortStatus h c => some (h, 0x050B#16, c)
  | .fabricDomainStatus h c => some (h, 0x050C#16, c)
  | .updateBegin h c => some (h, 0x0601#16, c)
  | .updateChunk h c => some (h, 0x0602#16, c)
  | .updateStatus h c => some (h, 0x0603#16, c)
  | .updateActivate h c => some (h, 0x0604#16, c)
  | .updateConfirm h c => some (h, 0x0605#16, c)
  | .attestGet h c => some (h, 0x0606#16, c)
  | .reservedOpcodeCommand h op c => if opcodes.contains op.toNat then none else some (h, op, c)
  | _ => none

end Sys2Proof
end

