-- ==== Sys2Proof/Config.lean ====
section
/-! DEFINITION. What an implementation fixes and what the manual leaves open: the constants of each
ordering number (00_scope.md, 01, 14, 16), and the free values, opaque constants that no proof can see into. -/
namespace Sys2Proof

/-- Kinds of unit that a power ceiling covers (table "Power ceilings per ordering number", R32). -/
inductive PowerUnit where
  | cdie
  | serai
  | hbm
  | idie
  | engine
  deriving DecidableEq, Repr

namespace Part

/-- Compute dies present (table "Pazathal ordering numbers and their contents", R1, R2). -/
def cdies : Part → Nat
  | .pz8x => 8
  | .pz8t => 8
  | .pz4x => 4
  | .pz2x => 2

/-- Memory-side dies present. -/
def serais : Part → Nat
  | .pz8x => 4
  | .pz8t => 4
  | .pz4x => 2
  | .pz2x => 1

/-- I/O dies present. -/
def idies : Part → Nat
  | .pz2x => 1
  | _ => 2

/-- Cores, numbered 16 d + cc. -/
def cores (p : Part) : Nat := 16 * p.cdies

/-- HBM stacks. -/
def hbms (p : Part) : Nat := 4 * p.serais

/-- Optical engines. -/
def engines (p : Part) : Nat := 4 * p.serais

/-- Optical ports. -/
def ports (p : Part) : Nat := 16 * p.serais

/-- Media halves (R4, R30): bit mask. -/
def mediaHalves : Part → Nat
  | .pz8x => 3
  | .pz8t => 0
  | .pz4x => 3
  | .pz2x => 1

/-- Media stream slots of the device (R85, R388). -/
def mediaSlots : Part → Nat
  | .pz8x => 256
  | .pz8t => 0
  | .pz4x => 256
  | .pz2x => 128

/-- Media samples in flight (R85, R388). -/
def mediaSamples : Part → Nat
  | .pz8x => 4096
  | .pz8t => 0
  | .pz4x => 4096
  | .pz2x => 2048

/-- Host B's port and the standby Caravaneer (R4, R30). -/
def dual : Part → Bool
  | .pz2x => false
  | _ => true

/-- The host has a port on this part. -/
def hasHost (p : Part) : HostId → Bool
  | .a => true
  | .b => p.dual

/-- Serai to which a C-die attaches (R9). -/
def cdieSerai (d : Nat) : Nat := d / 2

/-- Serai to which an HBM stack attaches (R9). -/
def stackSerai (n : Nat) : Nat := n / 4

/-- Serai to which an optical engine attaches (R9). -/
def engineSerai (n : Nat) : Nat := n / 4

/-- Serai to which an I-die attaches (R9): I-die 0 to SE0, I-die 1 to the highest-numbered serai present. -/
def idieSerai (p : Part) (i : Nat) : Nat := if i = 0 then 0 else p.serais - 1

/-- Links of the serai ring (R11, R30, R31): none with one serai, a single one between two. -/
def ringLinks (p : Part) : Nat := if p.serais = 4 then 4 else p.serais - 1

/-- PCIe device ID and DEV_ID.PART (R352, R388). -/
def devId : Part → Nat
  | .pz8x => 0x0D81
  | .pz8t => 0x0D82
  | .pz4x => 0x0D84
  | .pz2x => 0x0D88

/-- PKG_ID and the PART fuse (R416, R440). -/
def pkgId : Part → Nat
  | .pz8x => 1
  | .pz8t => 2
  | .pz4x => 4
  | .pz2x => 8

/-- Package maximum power in W (R32). -/
def pkgMaxW : Part → Nat
  | .pz8x => 2800
  | .pz8t => 2700
  | .pz4x => 1450
  | .pz2x => 760

/-- Margin of the power table in W (R32). -/
def marginW : Part → Nat
  | .pz8x => 94
  | .pz8t => 44
  | .pz4x => 52
  | .pz2x => 61

/-- Ceiling of one unit of a kind in W (R32): an I-die without its media complex has the lower one. -/
def ceilW (p : Part) : PowerUnit → Nat
  | .cdie => 190
  | .serai => 70
  | .hbm => 36
  | .idie => if p.mediaHalves = 0 then 20 else 45
  | .engine => 15

/-- Units of a kind (R2, R32). -/
def unitsOf (p : Part) : PowerUnit → Nat
  | .cdie => p.cdies
  | .serai => p.serais
  | .hbm => p.hbms
  | .idie => p.idies
  | .engine => p.engines

/-- CAP_DIES (R388, table "Capability values per ordering number"). -/
def capDies : Part → BitVec 32
  | .pz8x => 0x00107FFF#32
  | .pz8t => 0x00107FFF#32
  | .pz4x => 0x0010730F#32
  | .pz2x => 0x00101103#32

/-- CAP_STACKS. -/
def capStacks : Part → BitVec 32
  | .pz8x => 0x0048FFFF#32
  | .pz8t => 0x0048FFFF#32
  | .pz4x => 0x004800FF#32
  | .pz2x => 0x0048000F#32

/-- CAP_PORTS_LO. -/
def capPortsLo : Part → BitVec 32
  | .pz2x => 0x0000FFFF#32
  | _ => 0xFFFFFFFF#32

/-- CAP_PORTS_HI. -/
def capPortsHi : Part → BitVec 32
  | .pz8x => 0xFFFFFFFF#32
  | .pz8t => 0xFFFFFFFF#32
  | _ => 0#32

/-- CAP_MEDIA. -/
def capMedia : Part → BitVec 32
  | .pz8x => 0x40010003#32
  | .pz8t => 0#32
  | .pz4x => 0x40010003#32
  | .pz2x => 0x20008001#32

/-- CAP_LINKS. -/
def capLinks : Part → BitVec 32
  | .pz8x => 0x000C3478#32
  | .pz8t => 0x000C3478#32
  | .pz4x => 0x00061134#32
  | .pz2x => 0x00030012#32

/-- CAP_HOST. -/
def capHost : Part → BitVec 32
  | .pz2x => 1#32
  | _ => 3#32

/-- Rail `n` is present on the part (table "Rails", R420). -/
def hasRail (p : Part) (n : Nat) : Bool :=
  if n < 8 then n < p.cdies
  else if n < 12 then n - 8 < p.serais
  else if n < 16 then n - 12 < p.serais
  else if n < 18 then n - 16 < p.idies
  else if n < 22 then n - 18 < p.serais
  else if n < 26 then n - 22 < p.serais
  else if n < 30 then n - 26 < p.serais
  else n == 30

/-- Nominal voltage in mV and current limit in A of a rail (R420). -/
def railRating (p : Part) (n : Nat) : Nat × Nat :=
  if n < 8 then (700, 250)
  else if n < 12 then (750, 40)
  else if n < 16 then (750, 95)
  else if n < 18 then (800, if p.mediaHalves = 0 then 26 else 57)
  else if n < 22 then (1050, 80)
  else if n < 26 then (750, 90)
  else if n < 30 then (1800, 36)
  else (1800, 3)

/-- PMBus address of a rail's regulator (R420, R422). -/
def railAddress (n : Nat) : Nat := 0x40 + n

/-- Fibre connector of an optical port, and the positions on which it transmits and receives (R418). -/
def fibre (port : Nat) : Nat × Nat × Nat := (port / 4, port % 4 + 1, 12 - port % 4)

end Part

/-- One component of a decoded picture (R227): its own grid, its depth in bits and whether it is signed, its sampling factors across
and down, the position of its first sample that the stream signals, in halves of a luma sample, and its values row by row, frame by
frame. -/
structure Plane where
  w : Nat
  h : Nat
  depth : Nat
  signed : Bool
  fx : Nat
  fy : Nat
  pos : Option (Int × Int)
  frames : List (List Int)
  deriving DecidableEq, Repr, Inhabited

/-- What a decoder that follows a published standard makes of a part's bytes (R226, R227). The standards
are outside the manual, so `Config.decode` below is uninterpreted. -/
inductive Decoded where
  /-- size of the luma grid and the components in stream order -/
  | pixels (w h : Nat) (planes : List Plane)
  /-- rate in Hz, bits of a sample, and one value list for each channel -/
  | audio (rate bits : Nat) (chans : List (List Int))
  /-- the bytes break the standard's syntax; a decoder-specific code -/
  | corrupt (detail : Nat)
  /-- a feature outside the table "Decoder support" -/
  | unsupported (detail : Nat)
  /-- a limit of the table "Decoder support" is passed -/
  | limit
  deriving DecidableEq, Repr, Inhabited

namespace Config

/-- A fresh free value for each counter value: the manual states none (log 1). -/
opaque freeNat : Nat → Nat

/-- A draw of the hardware entropy source (R441), numbered by the free counter (log 1). -/
opaque random : Nat → BitVec 384

/-- HEVC, AV1, AVC, JPEG 2000, JPEG, FLAC, Opus and AAC-LC (R219, R226): the firmware manifest that runs, codec number, film-grain flag
and the part's bytes (log 20). -/
opaque decode : List Byte → Nat → Bool → List Byte → Decoded

/-- One tile of a TIFF part under LZW, Deflate or Zstandard (R226): compression code and bytes. -/
opaque inflate : Nat → List Byte → Option (List Byte)

/-- Values of the media complex that the manual leaves open (log 46): the case, and the operands. Case 0 and 1 are X and Y of
a mesh point outside the grid (R231), 2 a tone entry beyond the table (R235), 3 a packed scale above 127 (R235), 4 the rounding of a chroma
position that is no whole quarter and 5 the nearest of two equally near samples (R227), 6 the decoder-specific code of UNSUPPORTED (R239),
7 an audio sample of fewer than 16 bits as S16 (R227). -/
opaque mediaOpen : Nat → Int → Int → Int

/-- How the bicubic kernel table of a firmware rounds a tap (R219, R233): the manifest that runs, phase 0 … 255, tap 0 … 3; its last bit
counts (log 21). -/
opaque bicubic : List Byte → Nat → Nat → Int

/-- Consistency rules of an engine, drover-controller or serai block whose chapter states none (R79, log 6):
block address and pending register list. -/
opaque blockConsistent : Nat → List (Nat × Nat) → Bool

/-- What the manual leaves open of the working exponents of the Adam form's reciprocal square root (R268, log 24): whether a block of an odd
exponent is aligned to the even one above it or below it, and the k of R145 for a block's exponent. -/
opaque adamOdd : Int → Bool
opaque adamK : Int → Nat

/-- Accumulation scale of a backward task's dQ, dV and dK tile, 0 to 2 (R204): the manual states none, but the same task gives the
same bits (R203, log 1): the tile, the body's bytes and the bounds. -/
opaque backScale : Nat → List Nat → List Int → Nat

/-- exp2neg of R199 for a negative argument, which a backward task's LSE input can give: the manual states none (log 1). -/
opaque exp2negBelow : Int → Int

/-- AES-256-GCM, ECDH and the other SPDM session primitives of R447: session secret from both public values
(log 26). -/
opaque sessionSecret : List Byte → Nat → BitVec 384

/-- The received optical power and the laser bias that the optical engine measures (R310, log 11). -/
opaque opticalSensor : Nat → Nat → Nat

/-- The symbols that the FEC of a port corrects in a stage (R310, log 70). -/
opaque fecCorrected : Nat → Nat → Nat

end Config

end Sys2Proof
end

