-- ==== Sys2Proof/Machine/Flags.lean ====
section
/-! DEFINITION. The arithmetic of 02_number_formats.md and 05_accumulation.md and every flag it raises: rounding,
narrowing, requantisation, alignment, accumulator codes, Philox, the digest mixer. -/
namespace Sys2Proof.Machine

/-- 2^n as an integer. -/
def pow2 (n : Nat) : Int := (2 ^ n : Nat)

/-- round_shift of R44: modes 0 RNE, 1 RTZ, 2 RSTO; a negative `n` is the exact left shift. -/
def roundShift (x n : Int) (mode u : Nat) : Int :=
  if n ≤ 0 then x * pow2 (-n).toNat
  else
    let k := n.toNat
    let q := x / pow2 k
    let f := (x % pow2 k).toNat
    match mode with
    | 0 => if f > 2 ^ (k - 1) ∨ (f = 2 ^ (k - 1) ∧ q % 2 = 1) then q + 1 else q
    | 1 => if x < 0 ∧ f ≠ 0 then q + 1 else q
    | _ =>
      let r := if k ≤ 32 then u / 2 ^ (32 - k) else u * 2 ^ (k - 32)
      if f + r ≥ 2 ^ k then q + 1 else q

/-- Alignment of R50: `x` at exponent `e` to exponent `t`. -/
def align (x e t : Int) (mode u : Nat) : Int := roundShift x (t - e) mode u

/-- The least and the greatest value of a signed type of `w` bits (R33). -/
def typeMin (w : Nat) : Int := -pow2 (w - 1)
def typeMax (w : Nat) : Int := pow2 (w - 1) - 1

/-- narrow() of R46: clamp to a signed type of `w` bits. -/
def narrow (w : Nat) (x : Int) : Int :=
  if x < typeMin w then typeMin w else if x > typeMax w then typeMax w else x

/-- Narrowing saturates (the SAT flag of R46). -/
def narrowSat (w : Nat) (x : Int) : Bool := decide (x < typeMin w ∨ x > typeMax w)

/-- sat32 of R141. -/
def sat32 (x : Int) : Int := narrow 32 x

/-- Number of bits of a magnitude: 0 for 0, 7 for 96 (R49). -/
def bitLen (n : Nat) : Nat := if n = 0 then 0 else Nat.log2 n + 1

/-- What one narrowing write makes of a block: elements, scale exponent, some element saturated. -/
structure Block where
  qs : List Int
  e : Int
  sat : Bool
  deriving DecidableEq, Repr, Inhabited

/-- Requantisation with a given scale (R48): values `x` with their random words `u`, at exponent `ex`. -/
def requantGiven (xs : List (Int × Nat)) (ex e : Int) (w mode : Nat) : Block :=
  let vs := xs.map (fun p => if e ≥ ex then roundShift p.1 (e - ex) mode p.2 else p.1 * pow2 (ex - e).toNat)
  ⟨vs.map (narrow w), e, vs.any (narrowSat w)⟩

/-- The rounding loop of R49: raise `s` until every element fits; one raise is enough, `fuel` bounds it. -/
def requantLoop (xs : List (Int × Nat)) (w mode : Nat) : Nat → Int → List Int × Int
  | 0, s => (xs.map (fun p => narrow w (roundShift p.1 s mode p.2)), s)
  | fuel + 1, s =>
    let qs := xs.map (fun p => roundShift p.1 s mode p.2)
    if qs.any (narrowSat w) then requantLoop xs w mode fuel (s + 1) else (qs, s)

/-- requant_auto of R49. -/
def requantAuto (xs : List (Int × Nat)) (ex : Int) (w mode : Nat) : Block :=
  let m := xs.foldl (fun a p => max a p.1.natAbs) 0
  let s0 : Int := (bitLen m : Int) - ((w : Int) - 1)
  let s := if ex + s0 < -127 then -127 - ex else s0
  let r := requantLoop xs w mode 3 s
  if ex + r.2 > 127 then
    let vs := xs.map (fun p => roundShift p.1 (127 - ex) mode p.2)
    ⟨vs.map (narrow w), 127, vs.any (narrowSat w)⟩
  else ⟨r.1, ex + r.2, false⟩

/-- Requantisation under AUTO_SCALE or GIVEN_SCALE. -/
def requant (auto : Bool) (given : Int) (xs : List (Int × Nat)) (ex : Int) (w mode : Nat) : Block :=
  if auto then requantAuto xs ex w mode else requantGiven xs ex given w mode

/-- A saturated block is poisoned on write (R47): CLASS 1, or SAT_KEEP = 0. -/
def satPoisons (cls : Nat) (satKeep : Bool) : Bool := cls == 1 || !satKeep

/-- The scale byte of exponent `e` (R34). -/
def scaleByte (e : Int) : Byte := Byte.of (unsgn 8 e)

/-- The poison scale (R34). -/
def poisonScale : Byte := 0x80#8

/-- The exponent of a scale byte (R34). -/
def scaleExp (b : Byte) : Int := sgn 8 b.toNat

/-- Accumulator marks (R111). -/
def accPos : Int := pow2 47 - 1
def accNeg : Int := -(pow2 47 - 1)
def accPoison : Int := -pow2 47

/-- An exact value as an accumulator code: outside ±(2^47 − 2) it becomes the mark of its sign (R112, R115, R118). -/
def accCode (x : Int) : Int :=
  if x > pow2 47 - 2 then accPos else if x < -(pow2 47 - 2) then accNeg else x

/-- The code is a saturation mark. -/
def accIsSat (a : Int) : Bool := a == accPos || a == accNeg

/-- Addition into an entry (R112). -/
def accAdd (a b : Int) : Int :=
  if a = accPoison ∨ b = accPoison then accPoison
  else if accIsSat a then a
  else if accIsSat b then b
  else accCode (a + b)

/-- The addition set a saturation mark that the entry did not hold (internal saturation, R112). -/
def accAddIsat (a b : Int) : Bool := accIsSat (accAdd a b) && !accIsSat a

/-- One round of Philox 4×32 (R45). -/
def philoxRound (c : Nat × Nat × Nat × Nat) (k0 k1 : Nat) : Nat × Nat × Nat × Nat :=
  let p := 0xD2511F53 * c.1
  let s := 0xCD9E8D57 * c.2.2.1
  ((s / 2 ^ 32) ^^^ c.2.1 ^^^ k0, s % 2 ^ 32, (p / 2 ^ 32) ^^^ c.2.2.2 ^^^ k1, p % 2 ^ 32)

/-- `n` rounds of Philox. -/
def philoxRounds : Nat → Nat × Nat × Nat × Nat → Nat → Nat → Nat × Nat × Nat × Nat
  | 0, c, _, _ => c
  | n + 1, c, k0, k1 =>
    philoxRounds n (philoxRound c k0 k1) ((k0 + 0x9E3779B9) % 2 ^ 32) ((k1 + 0xBB67AE85) % 2 ^ 32)

/-- Philox 4×32-10 (R45): output word `w`. -/
def philox (c0 c1 c2 c3 k0 k1 w : Nat) : Nat :=
  let o := philoxRounds 10 (c0, c1, c2, c3) k0 k1
  match w with
  | 0 => o.1
  | 1 => o.2.1
  | 2 => o.2.2.1
  | _ => o.2.2.2

/-- Output word `w` under the key of a job seed (R45). -/
def philoxSeed (seed c0 c1 c2 c3 w : Nat) : Nat := philox c0 c1 c2 c3 (seed % 2 ^ 32) (seed / 2 ^ 32 % 2 ^ 32) w

/-- The bits `u` of stochastic rounding of element `l` of tensor `tid` (R45). -/
def rstoBits (seed step tid l : Nat) : Nat :=
  let g := l / 4
  philoxSeed seed (g % 2 ^ 32) (1 * 2 ^ 16 + g / 2 ^ 32 % 2 ^ 16) tid step (l % 4)

/-- The bits of an RSTO instruction: program index `x`, task, linear lane index (R142). -/
def rstoInstr (seed step task x l : Nat) : Nat :=
  let g := l / 4
  philoxSeed seed (g % 2 ^ 32) ((0x0100 + x) * 2 ^ 16 + g / 2 ^ 32 % 2 ^ 16) task step (l % 4)

/-- mix64 of R151. -/
def mix64 (z : Nat) : Nat :=
  let a := (z ^^^ (z / 2 ^ 33)) * 0xFF51AFD7ED558CCD % 2 ^ 64
  let b := (a ^^^ (a / 2 ^ 33)) * 0xC4CEB9FE1A85EC53 % 2 ^ 64
  b ^^^ (b / 2 ^ 33)

/-- The digest term of one stored element (R151). -/
def digestTerm (l code sb : Nat) : Nat := mix64 ((mix64 (l % 2 ^ 64) + code * 2 ^ 8 + sb) % 2 ^ 64)

/-- 64-bit reduction sum, clamped and sticky at ±(2^63 − 1) (R150): running sum and whether it is clamped. -/
def sumClamp (a : Int × Bool) (v : Int) : Int × Bool :=
  if a.2 then a
  else if a.1 + v > pow2 63 - 1 then (pow2 63 - 1, true)
  else if a.1 + v < -(pow2 63 - 1) then (-(pow2 63 - 1), true)
  else (a.1 + v, false)

end Sys2Proof.Machine
end

