-- ==== Sys2Proof/Machine/Operands.lean ====
section
/-! DEFINITION. Tensor descriptors and plane layout (02_number_formats.md, R37–R40): every operand form that a task
body can name. -/
namespace Sys2Proof.Machine

/-- Element types (R33, R37). -/
inductive ElTy where
  | s4
  | s8
  | s16
  | s32
  | u8
  | u16
  | mx
  deriving DecidableEq, Repr, Inhabited

/-- The type of a TYPE code; none when reserved. -/
def ElTy.ofCode : Nat → Option ElTy
  | 0 => some .s4
  | 1 => some .s8
  | 2 => some .s16
  | 3 => some .s32
  | 4 => some .u8
  | 5 => some .u16
  | 6 => some .mx
  | _ => none

/-- Bits of one element. -/
def ElTy.width : ElTy → Nat
  | .s4 => 4
  | .s8 => 8
  | .s16 => 16
  | .s32 => 32
  | .u8 => 8
  | .u16 => 16
  | .mx => 8

/-- The type carries a scale plane (R33). -/
def ElTy.scaled : ElTy → Bool
  | .u8 => false
  | .u16 => false
  | _ => true

/-- A signed arithmetic type. -/
def ElTy.signed : ElTy → Bool
  | .u8 => false
  | .u16 => false
  | _ => true

/-- Block size of a BLOCK code; 0 is B0 (R35, R37). -/
def blockSize : Nat → Option Nat
  | 0 => some 0
  | 1 => some 16
  | 2 => some 32
  | 3 => some 64
  | 4 => some 128
  | _ => none

/-- A tensor descriptor (R37). -/
structure Desc where
  data : Nat
  ts : Bool
  scale : Nat
  ty : ElTy
  /-- block size; 0 for B0 -/
  blk : Nat
  axis : Nat
  rankM1 : Nat
  round : Nat
  cls : Nat
  satKeep : Bool
  tid : Nat
  dim0 : Nat
  dim1 : Nat
  dim2 : Nat
  dim3 : Nat
  deriving DecidableEq, Repr, Inhabited

/-- Dimension `k`, 1 beyond the rank. -/
def Desc.dim (d : Desc) (k : Nat) : Nat :=
  if k > d.rankM1 then 1
  else match k with
    | 0 => d.dim0
    | 1 => d.dim1
    | 2 => d.dim2
    | _ => d.dim3

/-- Padded length of dimension `k` (R39). -/
def Desc.pad (d : Desc) (k : Nat) : Nat :=
  if d.blk ≠ 0 ∧ k = d.axis then cdiv (d.dim k) d.blk * d.blk else d.dim k

/-- Blocks along dimension `k` (m_k of R39). -/
def Desc.mlen (d : Desc) (k : Nat) : Nat :=
  if d.blk ≠ 0 ∧ k = d.axis then cdiv (d.dim k) d.blk else d.dim k

/-- Elements of the padded data plane. -/
def Desc.count (d : Desc) : Nat := d.pad 0 * d.pad 1 * d.pad 2 * d.pad 3

/-- Bytes of the data plane and of the scale plane. -/
def Desc.dataBytes (d : Desc) : Nat := cdiv (d.count * d.ty.width) 8
def Desc.scaleBytes (d : Desc) : Nat :=
  if !d.ty.scaled then 0
  else if d.blk = 0 then 1
  else d.mlen 0 * d.mlen 1 * d.mlen 2 * d.mlen 3

/-- An element index (i0, i1, i2, i3). -/
structure Idx where
  i0 : Nat
  i1 : Nat
  i2 : Nat
  i3 : Nat
  deriving DecidableEq, Repr, Inhabited

/-- Component `k`. -/
def Idx.at (i : Idx) (k : Nat) : Nat :=
  match k with
  | 0 => i.i0
  | 1 => i.i1
  | 2 => i.i2
  | _ => i.i3

/-- Linear index of an element (R39). -/
def Desc.lin (d : Desc) (i : Idx) : Nat :=
  i.i0 + d.pad 0 * (i.i1 + d.pad 1 * (i.i2 + d.pad 2 * i.i3))

/-- The element index of a linear index. -/
def Desc.unlin (d : Desc) (l : Nat) : Idx :=
  let a := d.pad 0
  let b := d.pad 1
  let c := d.pad 2
  ⟨l % a, l / a % b, l / a / b % c, l / a / b / c⟩

/-- The element is real, not padding (R40). -/
def Desc.real (d : Desc) (i : Idx) : Bool :=
  decide (i.i0 < d.dim 0 ∧ i.i1 < d.dim 1 ∧ i.i2 < d.dim 2 ∧ i.i3 < d.dim 3)

/-- First data byte of the element of linear index `l` (R39). -/
def Desc.dataAt (d : Desc) (l : Nat) : Nat := d.data + l * d.ty.width / 8

/-- Index of the block of an element (R39). -/
def Desc.blockOf (d : Desc) (i : Idx) : Idx :=
  if d.blk = 0 then ⟨0, 0, 0, 0⟩
  else match d.axis with
    | 0 => { i with i0 := i.i0 / d.blk }
    | 1 => { i with i1 := i.i1 / d.blk }
    | 2 => { i with i2 := i.i2 / d.blk }
    | _ => { i with i3 := i.i3 / d.blk }

/-- Address of the scale byte of an element (R39). -/
def Desc.scaleAt (d : Desc) (i : Idx) : Nat :=
  if d.blk = 0 then d.scale
  else
    let j := d.blockOf i
    d.scale + j.i0 + d.mlen 0 * (j.i1 + d.mlen 1 * (j.i2 + d.mlen 2 * j.i3))

/-- The real elements of the block that holds an element (R39, R40). -/
def Desc.blockElems (d : Desc) (i : Idx) : List Idx :=
  let j := d.blockOf i
  (List.range d.blk).filterMap (fun k =>
    let x : Idx := match d.axis with
      | 0 => { i with i0 := j.i0 * d.blk + k }
      | 1 => { i with i1 := j.i1 * d.blk + k }
      | 2 => { i with i2 := j.i2 * d.blk + k }
      | _ => { i with i3 := j.i3 * d.blk + k }
    if d.real x then some x else none)

/-- The 64-byte unit `u` of a body. -/
def unitOf (b : List Byte) (u : Nat) : List Byte := (b.drop (64 * u)).take 64

/-- All bytes from `a` up to `b` (not included) are zero. -/
def zeroBytes (r : List Byte) (a b : Nat) : Bool := ((r.drop a).take (b - a)).all (· == 0#8)

/-- A descriptor read from its 64 bytes when it meets every condition of the table "Tensor descriptor" (R37, R38). -/
def parseDesc (r : List Byte) : Option Desc :=
  let w0 := fld r 0x00 8
  let w1 := fld r 0x08 8
  let w2 := fld r 0x10 4
  let rank := bits w2 10 2
  let dims := [fld r 0x18 4, fld r 0x1C 4, fld r 0x20 4, fld r 0x24 4]
  let dimsOk := (List.range 4).all (fun k =>
    let v := nth dims k
    if k ≤ rank then decide (1 ≤ v ∧ v ≤ 2 ^ 31 - 1) else v == 0)
  let ts := bit w0 47
  match ElTy.ofCode (bits w2 0 4), blockSize (bits w2 4 3) with
  | some ty, some blk =>
    if bits w0 44 3 == 0 && bits w0 48 16 == 0 && bits w1 44 20 == 0 && bit w2 7 == false && bits w2 17 15 == 0
      && zeroBytes r 0x28 0x40 && r.length == 64
      && bits w0 0 6 == 0 && bits w1 0 6 == 0
      && (!ts || (bits w0 24 20 == 0 && bits w1 24 20 == 0))
      && (ty.scaled || (bits w1 0 44 == 0 && blk == 0))
      && (ty != .mx || (blk == 32 && bits w2 8 2 == 0))
      && decide (bits w2 8 2 ≤ rank) && bits w2 12 2 != 3 && dimsOk
    then some ⟨bits w0 0 44, ts, bits w1 0 44, ty, blk, bits w2 8 2, rank, bits w2 12 2, bits w2 14 2, bit w2 16,
      fld r 0x14 4, fld r 0x18 4, fld r 0x1C 4, fld r 0x20 4, fld r 0x24 4⟩
    else none
  | _, _ => none

/-- Both planes of a TS = 1 descriptor lie within a tile-store range (R38). -/
def Desc.inTs (d : Desc) (base len : Nat) : Bool :=
  !d.ts || (decide (base ≤ d.data ∧ d.data + d.dataBytes ≤ base + len)
    && (!d.ty.scaled || decide (base ≤ d.scale ∧ d.scale + d.scaleBytes ≤ base + len)))

/-- The signed value of a stored code. -/
def ElTy.value (t : ElTy) (code : Nat) : Int := if t.signed then sgn t.width code else (code : Int)

/-- All element indices of a box of extents. -/
def boxIdx (e0 e1 e2 e3 : Nat) : List Idx :=
  (List.range e3).flatMap (fun c3 => (List.range e2).flatMap (fun c2 => (List.range e1).flatMap (fun c1 =>
    (List.range e0).map (fun c0 => ⟨c0, c1, c2, c3⟩))))

end Sys2Proof.Machine
end

