-- ==== Sys2Proof/Machine/Bodies.lean ====
section
/-! DEFINITION. The task header (R24–R26, R67) and the bodies of matrix work, element programs, tap sweeps and mover
transfers (04, 05, 06), read from their bytes with the checks of R38, R107, R128, R133, R138–R160. -/
namespace Sys2Proof.Machine

/-- A task header (R24, R67). -/
structure TaskHdr where
  id : Nat
  kind : Nat
  units : Nat
  budget : Nat
  /-- first and second wait: counter and value -/
  waitA : Option (Nat × Nat)
  waitB : Option (Nat × Nat)
  signal : Option Nat
  body : Nat
  record : Nat
  core : Nat
  deriving DecidableEq, Repr, Inhabited

/-- KIND names a task kind (R25). -/
def kindOk (k : Nat) : Bool := [0x01, 0x02, 0x03, 0x04, 0x05, 0x06, 0x10].contains k

/-- One wait of the dependency fields (R67): none when not enabled; the outer option is none when it breaks R67. -/
def parseWait (ctr val : Nat) (en : Bool) : Option (Option (Nat × Nat)) :=
  if en then some (some (ctr, val)) else if ctr == 0 && val == 0 then some none else none

/-- A header that passes the checks of R26 that need no job: reserved bits, KIND, BODY_UNITS, BUDGET, alignment,
CORE of a collective. -/
def parseHdr (r : List Byte) : Option TaskHdr :=
  let w1 := fld r 0x04 4
  let w2 := fld r 0x08 4
  let w3 := fld r 0x0C 4
  let w4 := fld r 0x10 4
  let w5 := fld r 0x14 4
  let b := fld r 0x18 8
  let rec_ := fld r 0x20 8
  let c := fld r 0x28 4
  let sig : Option (Option Nat) :=
    if bit w5 12 then some (some (bits w5 0 12)) else if bits w5 0 12 == 0 then some none else none
  match parseWait (bits w3 0 12) (bits w4 0 16) (bit w3 12), parseWait (bits w3 16 12) (bits w4 16 16) (bit w3 28),
      sig with
  | some wa, some wb, some sg =>
    if r.length == 64 && kindOk (bits w1 0 8) && bits w1 16 16 == 0 && bits w1 8 8 != 0 && bits w2 24 8 == 0
      && decide (bits w2 0 24 ≤ 8500000) && bits w3 13 3 == 0 && bits w3 29 3 == 0 && bits w5 13 19 == 0
      && bits b 44 20 == 0 && bits b 0 6 == 0 && bits rec_ 44 20 == 0 && bits rec_ 0 6 == 0
      && bits c 7 25 == 0 && zeroBytes r 0x2C 0x40 && (bits w1 0 8 != 0x10 || bits c 0 7 == 0)
    then some ⟨fld r 0 4, bits w1 0 8, bits w1 8 8, bits w2 0 24, wa, wb, sg, bits b 0 44, bits rec_ 0 44, bits c 0 7⟩
    else none
  | _, _, _ => none

/-- Array control unit (R106). -/
structure MatCtl where
  mode : Nat
  prec : Nat
  arrays : Nat
  /-- banks of a chunk -/
  nb : Nat
  ring : Bool
  gather : Bool
  m0 : Nat
  mLen : Nat
  n0 : Nat
  nLen : Nat
  k0 : Nat
  kLen : Nat
  chunkN : Nat
  slots : Nat
  stride : Nat
  fillCtr : Nat
  fillLimit : Nat
  fillTarget : Nat
  tagOff : Nat
  deriving DecidableEq, Repr, Inhabited

/-- An output set (R114). -/
structure OutSet where
  begin_ : Nat
  fuse : Nat
  explicit : Bool
  auto : Bool
  given : Int
  sacc : Int
  outN0 : Nat
  outM0 : Nat
  expX : Int
  expW : Int
  expP : Int
  bx : Nat
  bxN : Nat
  bw : Nat
  bwN : Nat
  bp : Nat
  bpN : Nat
  maxe : Nat
  out : Desc
  pre : Option Desc
  fz : Option Desc
  deriving DecidableEq, Repr, Inhabited

/-- A matrix body (R106). -/
structure MatBody where
  ctl : MatCtl
  stat : List Desc
  strm : List Desc
  sets : List OutSet
  deriving DecidableEq, Repr, Inhabited

/-- Rows of a group (table "Array modes"). -/
def mEff (mode : Nat) : Nat := match mode with
  | 0 => 512
  | 1 => 256
  | _ => 128

/-- Rows of a K tile (R101). -/
def kTile (prec : Nat) : Nat := if prec = 2 then 256 else 128

/-- Stationary and streamed type of a precision (R91). -/
def precTypes : Nat → Option (ElTy × ElTy)
  | 0 => some (.s8, .s8)
  | 1 => some (.s8, .s4)
  | 2 => some (.s4, .s4)
  | 3 => some (.s16, .s8)
  | 4 => some (.s8, .s16)
  | 5 => some (.s16, .s16)
  | 6 => some (.s4, .s8)
  | _ => none

/-- Band bound β (R122). -/
def bandBound : Nat → Nat
  | 0 => 19
  | 1 => 15
  | 2 => 11
  | 3 => 27
  | 4 => 27
  | 5 => 35
  | _ => 15

/-- ARRAYS fits the mode (R98). -/
def arraysOk (mode arrays : Nat) : Bool := match mode with
  | 0 => arrays == 0xF
  | 1 => arrays == 0x3 || arrays == 0xF
  | 2 => arrays != 0
  | _ => false

/-- Number of streams and of stationary descriptors (R97). -/
def streamsOf (mode arrays : Nat) : Nat := match mode with
  | 0 => 1
  | 1 => if arrays == 0xF then 2 else 1
  | _ => (bitList 4 arrays).length
def statsOf (mode arrays : Nat) : Nat := match mode with
  | 2 => (bitList 4 arrays).length
  | _ => 1

/-- An array control unit with its reserved fields zero and its own ranges kept (R106, R107). -/
def parseMatCtl (r : List Byte) : Option MatCtl :=
  let w := fld r 0 4
  let s := fld r 0x20 4
  let g := fld r 0x24 4
  let c : MatCtl := ⟨bits w 0 2, bits w 4 3, bits w 8 4, bits w 12 2 + 1, bit w 14, bit w 15, fld r 4 4, fld r 8 4,
    fld r 0x0C 4, fld r 0x10 4, fld r 0x14 4, fld r 0x18 4, bits (fld r 0x1C 4) 0 11, bits s 0 5, bits s 8 24,
    bits g 0 12, bits g 16 5, bits (fld r 0x28 4) 0 10, bits (fld r 0x2C 4) 0 24⟩
  let len (v : Nat) : Bool := decide (1 ≤ v ∧ v ≤ 2 ^ 31 - 1)
  if bits w 2 2 == 0 && bit w 7 == false && bits w 16 16 == 0 && bits (fld r 0x1C 4) 11 21 == 0 && bits s 5 3 == 0
    && bits g 12 4 == 0 && bits g 21 11 == 0 && bits (fld r 0x28 4) 10 22 == 0 && bits (fld r 0x2C 4) 24 8 == 0
    && zeroBytes r 0x30 0x40 && (precTypes c.prec).isSome && arraysOk c.mode c.arrays
    && len c.mLen && len c.nLen && len c.kLen && c.k0 % 32 == 0
    && decide (1 ≤ c.chunkN ∧ c.chunkN ≤ 256 * c.nb)
    && (if c.ring then decide (1 ≤ c.slots ∧ c.slots ≤ 16) && c.n0 == 0 else c.slots == 0 && c.stride == 0)
    && (if c.gather then decide (c.mLen ≤ mEff c.mode ∧ c.fillLimit ≤ 16 ∧ 1 ≤ c.fillTarget ∧ c.fillTarget ≤ mEff c.mode)
          && c.tagOff % 64 == 0
        else zeroBytes r 0x24 0x30)
  then some c else none

/-- A bound field: job address and count with reserved bits zero; the address is zero when the count is (R114). -/
def boundField (v : Nat) : Bool :=
  bits v 51 13 == 0 && decide (bits v 44 7 ≤ 64) && bits v 0 6 == 0 && (bits v 44 7 != 0 || bits v 0 44 == 0)

/-- One output set from the units that follow `u`, with the unit index after it (R114, R133). -/
def parseOutSet (b : List Byte) (u : Nat) : Option (OutSet × Nat) :=
  let r := unitOf b u
  let w := fld r 0 4
  let e := fld r 0x0C 4
  let bx := fld r 0x10 8
  let bw := fld r 0x18 8
  let bp := fld r 0x20 8
  let mx := fld r 0x28 8
  let bg := bits w 0 2
  let fu := bits w 2 2
  let ex := bit w 4
  let au := bit w 5
  let n1 := u + 2
  let pre := if bg = 0 then some none else (parseDesc (unitOf b n1)).map some
  let n2 := if bg = 0 then n1 else n1 + 1
  let fz := if fu = 0 then some none else (parseDesc (unitOf b n2)).map some
  let n3 := if fu = 0 then n2 else n2 + 1
  match parseDesc (unitOf b (u + 1)), pre, fz with
  | some out, some p, some z =>
    if r.length == 64 && bg != 3 && fu != 3 && bits w 6 2 == 0 && bits w 26 6 == 0 && bits e 24 8 == 0
      && boundField bx && boundField bw && boundField bp && bits mx 44 20 == 0 && bits mx 0 6 == 0
      && zeroBytes r 0x30 0x40
      && (if au then bits w 8 8 == 0 else bits w 8 8 != 0x80)
      && (ex || bits w 16 10 == 0)
      && (!ex || zeroBytes r 0x0C 0x28)
      && (bits e 0 8 != 0x80 && bits e 8 8 != 0x80 && bits e 16 8 != 0x80)
      && (bg != 0 || (bits e 16 8 == 0 && bp == 0))
    then some (⟨bg, fu, ex, au, sgn 8 (bits w 8 8), sgn 10 (bits w 16 10), fld r 4 4, fld r 8 4, sgn 8 (bits e 0 8),
      sgn 8 (bits e 8 8), sgn 8 (bits e 16 8), bits bx 0 44, bits bx 44 7, bits bw 0 44, bits bw 44 7, bits bp 0 44,
      bits bp 44 7, bits mx 0 44, out, p, z⟩, n3)
    else none
  | _, _, _ => none

/-- `n` output sets from unit `u` on. -/
def parseOutSets (b : List Byte) : Nat → Nat → Option (List OutSet × Nat)
  | 0, u => some ([], u)
  | n + 1, u =>
    match parseOutSet b u with
    | none => none
    | some (s, v) => (parseOutSets b n v).map (fun p => (s :: p.1, p.2))

/-- `n` descriptors from unit `u` on. -/
def parseDescs (b : List Byte) : Nat → Nat → Option (List Desc)
  | 0, _ => some []
  | n + 1, u =>
    match parseDesc (unitOf b u), parseDescs b n (u + 1) with
    | some d, some r => some (d :: r)
    | _, _ => none

/-- Conditions on a stationary or streamed operand (R89). -/
def matOperandOk (d : Desc) (t : ElTy) : Bool :=
  d.ts && d.rankM1 == 1 && d.blk == 32 && d.axis == 0 && d.ty == t

/-- Types of the accumulator's tensors: S8, S16, S32. -/
def wideTy (t : ElTy) : Bool := t == .s8 || t == .s16 || t == .s32

/-- The output descriptor meets R128, the preload R116 and the fuse tensor R126. -/
def outSetOk (c : MatCtl) (s : OutSet) : Bool :=
  let o := s.out
  let chunks := cdiv c.nLen c.chunkN
  o.ts && wideTy o.ty && o.rankM1 == 1
    && ((o.blk == 32 && decide (o.axis ≤ 1)) || (o.blk == 0 && !s.auto))
    && (o.blk != 32 || o.axis != 0 ||
        (s.outN0 % 32 == 0 && (c.chunkN % 32 == 0 || chunks == 1)
          && ((s.outN0 + c.nLen) % 32 == 0 || s.outN0 + c.nLen == o.dim0)))
    && (o.blk != 32 || o.axis != 1 ||
        (s.outM0 % 32 == 0 && ((s.outM0 + c.mLen) % 32 == 0 || s.outM0 + c.mLen == o.dim1)))
    && decide (s.outN0 + c.nLen ≤ o.dim0 ∧ s.outM0 + c.mLen ≤ o.dim1)
    && (!c.gather || o.axis == 0)
    && (match s.pre with
        | none => s.begin_ == 0
        | some p => p.ts && wideTy p.ty && (p.blk == 0 || p.blk == 32)
            && (if s.begin_ = 1 then p.rankM1 == 0 && p.dim0 == o.dim0 && p.axis == 0
                else p.rankM1 == 1 && p.dim0 == o.dim0 && p.dim1 == o.dim1 && decide (p.axis ≤ 1)))
    && (match s.fz with
        | none => s.fuse == 0
        | some z => z.ts && wideTy z.ty && (z.blk == 0 || z.blk == 32) && z.rankM1 == 1
            && z.dim0 == o.dim0 && z.dim1 == o.dim1)

/-- DIM0 is the K of both operands of a pair (R89, R98): the one stationary tensor of a string, each array's own under Hjelad. With a ring
the stream's DIM0 is its panel's (R104). -/
def sameK (ring : Bool) (st sw : List Desc) : Bool :=
  ring || (sw.zipIdx).all (fun p => p.1.dim0 == (nth st (if st.length = 1 then 0 else p.2)).dim0)

/-- A matrix body that passes every check of R38, R89–R91, R98, R104, R107, R116, R126, R128 and R133 against the tile-store range of its
job. DESIGN CHOICE (log 64): the weight tensors of a string-2 pair may differ in DIM1 where each covers the task's columns, and gather tags
outside the job's range break the body. -/
def parseMat (b : List Byte) (tsBase tsLen : Nat) : Option MatBody :=
  match parseMatCtl (unitOf b 0) with
  | none => none
  | some c =>
    let ns := statsOf c.mode c.arrays
    let nw := streamsOf c.mode c.arrays
    match parseDescs b ns 1, parseDescs b nw (1 + ns), parseOutSets b nw (1 + ns + nw), precTypes c.prec with
    | some st, some sw, some (os, u), some (tx, tw) =>
      let kt := kTile c.prec
      let inR (d : Desc) := d.inTs tsBase tsLen
      if b.length == 64 * u && sameK c.ring st sw
        && st.all (fun d => matOperandOk d tx && inR d && decide (c.m0 + c.mLen ≤ d.dim1 ∧ c.k0 + c.kLen ≤ d.dim0))
        && sw.all (fun d => matOperandOk d tw &&
            (if c.ring then
              d.dim0 == kt && d.dim1 == c.chunkN && decide (tsBase ≤ d.data ∧ tsBase ≤ d.scale
                ∧ d.data + 64 * (c.slots - 1) * c.stride + d.dataBytes ≤ tsBase + tsLen
                ∧ d.scale + 64 * (c.slots - 1) * c.stride + d.scaleBytes ≤ tsBase + tsLen)
            else inR d && decide (c.n0 + c.nLen ≤ d.dim1 ∧ c.k0 + c.kLen ≤ d.dim0)))
        && os.all (fun o => outSetOk c o && inR o.out && (o.pre.map inR).getD true && (o.fz.map inR).getD true)
        && (!c.gather || decide (tsBase ≤ c.tagOff ∧ c.tagOff + 64 * c.mLen ≤ tsBase + tsLen))
      then some ⟨c, st, sw, os⟩ else none
    | _, _, _, _ => none

/-- Stream unit (R137). -/
structure StreamU where
  s0 : Int
  s1 : Int
  s2 : Int
  s3 : Int
  base : Nat
  fe : Int
  feMode : Bool
  bAddr : Nat
  bCount : Nat
  deriving DecidableEq, Repr, Inhabited

/-- Instruction word (R140). -/
structure EIns where
  op : Nat
  immB : Bool
  dst : Nat
  a : Nat
  b : Nat
  c : Nat
  guard : Nat
  gneg : Bool
  rmode : Nat
  imm : Int
  deriving DecidableEq, Repr, Inhabited

/-- Vector output unit (R147). -/
structure VOut where
  src : Nat
  auto : Bool
  given : Int
  resExp : Int
  resMode : Bool
  resStream : Nat
  maxe : Nat
  deriving DecidableEq, Repr, Inhabited

/-- Reduction unit (R149). -/
structure RedU where
  mode : Nat
  rows : Bool
  src : Nat
  guard : Nat
  exp : Int
  expMode : Bool
  expStream : Nat
  auto : Bool
  given : Int
  deriving DecidableEq, Repr, Inhabited

/-- Element-program body (R152). -/
structure ElemBody where
  iter : Idx
  tabs : List Nat
  prog : List EIns
  ins : List (StreamU × Desc)
  outs : List (VOut × Desc)
  reds : List (RedU × Option Desc)
  deriving DecidableEq, Repr, Inhabited

/-- An instruction word's fields. -/
def decodeIns (w : Nat) : EIns :=
  ⟨bits w 0 7, bit w 7, bits w 8 4, bits w 12 5, bits w 17 5, bits w 22 5, bits w 27 2, bit w 29, bits w 30 2,
    sgn 32 (bits w 32 32)⟩

/-- A source code names a register, a present stream or LANE (R140, R152). -/
def srcOk (nIn c : Nat) : Bool := decide (c < 16 ∨ (16 ≤ c ∧ c < 16 + nIn) ∨ c = 22)

/-- Use of the fields of an instruction by opcode: destination (0 none, 1 register, 2 predicate), a (0 none, 1 source,
2 predicate), b (same), c (0 none, 1 source, 2 count, 3 predicate, 4 slot), rounds (table "Instructions"). -/
def insUse (op : Nat) : Option (Nat × Nat × Nat × Nat × Bool) :=
  if op = 0x00 then some (0, 0, 0, 0, false)
  else if op = 0x01 then some (1, 1, 0, 0, false)
  else if op ≤ 0x06 then some (1, 1, 1, 0, false)
  else if op = 0x07 then some (1, 1, 1, 2, true)
  else if op ≤ 0x0A then some (1, 1, 1, 0, false)
  else if op = 0x0B then some (1, 1, 1, 0, true)
  else if op ≤ 0x0D then some (1, 1, 1, 0, false)
  else if op = 0x0E then some (1, 1, 1, 1, false)
  else if op ≤ 0x10 then some (1, 1, 0, 0, false)
  else if op ≤ 0x13 then some (1, 1, 1, 0, false)
  else if op ≤ 0x15 then some (1, 1, 0, 0, false)
  else if op = 0x16 then some (1, 1, 1, 0, false)
  else if op = 0x17 then some (1, 1, 1, 3, false)
  else if op ≤ 0x1D then some (2, 1, 1, 0, false)
  else if op ≤ 0x1F then some (2, 2, 2, 0, false)
  else if op = 0x20 then some (2, 2, 0, 0, false)
  else if op = 0x21 then some (1, 1, 0, 4, false)
  else if op ≤ 0x23 then some (1, 1, 1, 0, false)
  else if op = 0x24 then some (0, 1, 1, 0, false)
  else if op = 0x25 then some (0, 0, 0, 0, false)
  else if op = 0x26 then some (1, 0, 1, 0, true)
  else if op = 0x27 then some (1, 0, 0, 0, false)
  else none

/-- The instruction meets R140 and R141: `big` when the iteration space holds 2^50 or more elements. -/
def insOk (nIn nTab : Nat) (big : Bool) (i : EIns) : Bool :=
  match insUse i.op with
  | none => false
  | some (d, a, b, c, rnd) =>
    (match d with
      | 0 => i.dst == 0
      | 1 => true
      | _ => decide (1 ≤ i.dst ∧ i.dst ≤ 3))
    && (match a with
      | 0 => i.a == 0
      | 1 => srcOk nIn i.a
      | _ => decide (i.a ≤ 3))
    && (match b with
      | 0 => i.b == 0 && !i.immB
      | 1 => if i.immB then i.b == 0 else srcOk nIn i.b
      | _ => decide (i.b ≤ 3) && !i.immB)
    && (i.immB || i.imm == 0)
    && (match c with
      | 0 => i.c == 0
      | 1 => srcOk nIn i.c
      | 2 => true
      | 3 => decide (i.c ≤ 3)
      | _ => decide (i.c ≤ 5 ∨ (8 ≤ i.c ∧ i.c < 8 + nTab)))
    && (if rnd then i.rmode != 3 && (i.rmode != 2 || !big) else i.rmode == 0)

/-- A stream unit with its reserved bits zero. -/
def parseStream (r : List Byte) : Option StreamU :=
  let f := fld r 0x14 4
  let a := fld r 0x18 8
  let n := bits a 44 7
  if r.length == 64 && bits f 11 21 == 0 && bits a 51 13 == 0 && bits a 0 6 == 0 && zeroBytes r 0x20 0x40
    && (if bit f 10 then decide (1 ≤ n ∧ n ≤ 64) else a == 0)
  then some ⟨sgn 32 (fld r 0 4), sgn 32 (fld r 4 4), sgn 32 (fld r 8 4), sgn 32 (fld r 0x0C 4), fld r 0x10 4,
    sgn 10 (bits f 0 10), bit f 10, bits a 0 44, n⟩
  else none

/-- A vector output unit with its reserved bits zero (R147, R152). -/
def parseVOut (r : List Byte) (nIn : Nat) (sweep : Bool) : Option VOut :=
  let w := fld r 0 4
  let m := fld r 8 8
  let o : VOut := ⟨bits w 0 5, bit w 5, sgn 8 (bits w 8 8), sgn 10 (bits w 16 10), bit w 26, bits w 27 3, bits m 0 44⟩
  if r.length == 64 && bits w 6 2 == 0 && bits w 30 2 == 0 && fld r 4 4 == 0 && bits m 44 20 == 0 && bits m 0 6 == 0
    && zeroBytes r 0x10 0x40 && decide (o.src < 16)
    && (if o.auto then bits w 8 8 == 0 else bits w 8 8 != 0x80)
    && (if o.resMode then decide (o.resStream < nIn) else o.resStream == 0)
    && (!sweep || (o.src == 0 && bits w 16 10 == 0 && !o.resMode))
  then some o else none

/-- A reduction unit with its reserved bits zero (R149, R152). -/
def parseRed (r : List Byte) (nIn : Nat) : Option RedU :=
  let w := fld r 0 4
  let g := fld r 4 4
  let u : RedU := ⟨bits w 0 3, bit w 3, bits w 4 5, bits w 9 2, sgn 10 (bits w 12 10), bit w 22, bits w 23 3,
    bit w 26, sgn 8 (bits g 0 8)⟩
  if r.length == 64 && u.mode != 7 && bit w 11 == false && bits w 27 5 == 0 && bits g 8 24 == 0
    && zeroBytes r 0x08 0x40
    && (if u.mode = 6 then decide (16 ≤ u.src ∧ u.src < 16 + nIn) && !u.rows else srcOk nIn u.src)
    && (if u.expMode then decide (u.expStream < nIn) else u.expStream == 0)
    && (if u.auto then bits g 0 8 == 0 else bits g 0 8 != 0x80)
  then some u else none

/-- Input streams from unit `u` on. -/
def parseIns (b : List Byte) : Nat → Nat → Option (List (StreamU × Desc))
  | 0, _ => some []
  | n + 1, u =>
    match parseStream (unitOf b u), parseDesc (unitOf b (u + 1)), parseIns b n (u + 2) with
    | some s, some d, some r => some ((s, d) :: r)
    | _, _, _ => none

/-- Outputs from unit `u` on. -/
def parseVOuts (b : List Byte) (nIn : Nat) : Nat → Nat → Option (List (VOut × Desc))
  | 0, _ => some []
  | n + 1, u =>
    match parseVOut (unitOf b u) nIn false, parseDesc (unitOf b (u + 1)), parseVOuts b nIn n (u + 2) with
    | some s, some d, some r => some ((s, d) :: r)
    | _, _, _ => none

/-- Reductions from unit `u` on, with the unit after them. -/
def parseReds (b : List Byte) (nIn : Nat) : Nat → Nat → Option (List (RedU × Option Desc) × Nat)
  | 0, u => some ([], u)
  | n + 1, u =>
    match parseRed (unitOf b u) nIn with
    | none => none
    | some r =>
      if r.mode = 6 then (parseReds b nIn n (u + 1)).map (fun p => ((r, none) :: p.1, p.2))
      else match parseDesc (unitOf b (u + 1)) with
        | none => none
        | some d => (parseReds b nIn n (u + 2)).map (fun p => ((r, some d) :: p.1, p.2))

/-- Linear index of a stream at an iteration index, as an integer (R138). -/
def StreamU.lin (s : StreamU) (i : Idx) : Int :=
  s.base + i.i0 * s.s0 + i.i1 * s.s1 + i.i2 * s.s2 + i.i3 * s.s3

/-- All 16 corners of the iteration space stay within the padded tensor (R138). -/
def streamCorners (s : StreamU) (d : Desc) (it : Idx) : Bool :=
  (boxIdx 2 2 2 2).all (fun c =>
    let l := s.lin ⟨c.i0 * (it.i0 - 1), c.i1 * (it.i1 - 1), c.i2 * (it.i2 - 1), c.i3 * (it.i3 - 1)⟩
    decide (0 ≤ l ∧ l < d.count))

/-- An output's dimensions equal the iteration space (R147). -/
def outMatches (d : Desc) (it : Idx) : Bool :=
  (List.range 4).all (fun k => if k ≤ d.rankM1 then d.dim k == it.at k else it.at k == 1)

/-- An element-program body that passes every check of R38, R138, R140, R141, R147, R150 and R152. DESIGN CHOICE (log 68): the bytes of
the last program unit past its instructions must be zero. -/
def parseElem (b : List Byte) (tsBase tsLen : Nat) : Option ElemBody :=
  let r := unitOf b 0
  let w := fld r 0 4
  let nI := bits w 0 7
  let nIn := bits w 8 3
  let nOut := bits w 11 2
  let nRed := bits w 13 2
  let nTab := bits w 16 4
  let it : Idx := ⟨fld r 4 4, fld r 8 4, fld r 0x0C 4, fld r 0x10 4⟩
  let prog := (List.range nI).map (fun k => decodeIns (fld b (64 + 8 * k) 8))
  let up := 1 + cdiv nI 8
  let uo := up + 2 * nIn
  let ur := uo + 2 * nOut
  let total := it.i0 * it.i1 * it.i2 * it.i3
  let tabs := (List.range nTab).map (fun t => fld r (0x20 + 4 * t) 4)
  match parseIns b nIn up, parseVOuts b nIn nOut uo, parseReds b nIn nRed ur with
  | some ins, some outs, some (reds, u) =>
    if b.length == 64 * u && decide (1 ≤ nI ∧ nI ≤ 64 ∧ nIn ≤ 6 ∧ nOut ≤ 2 ∧ nRed ≤ 2 ∧ nTab ≤ 8)
      && bit w 7 == false && bit w 15 == false && bits w 20 12 == 0 && zeroBytes r 0x14 0x20
      && (List.range 4).all (fun k => decide (1 ≤ it.at k ∧ it.at k ≤ 2 ^ 31 - 1))
      && zeroBytes r (0x20 + 4 * nTab) 0x40
      && zeroBytes b (64 + 8 * nI) (64 * up)
      && tabs.all (fun t => t % 64 == 0 && decide (t < 2 ^ 24 ∧ tsBase ≤ t ∧ t + 64 + 256 ≤ tsBase + tsLen))
      && prog.all (insOk nIn nTab (decide (2 ^ 50 ≤ total)))
      && ins.all (fun p => p.2.ts && (p.2.ty == .s4 || wideTy p.2.ty) && (p.2.blk == 32 || p.2.blk == 0)
          && p.2.inTs tsBase tsLen && streamCorners p.1 p.2 it)
      && outs.all (fun p => p.2.ts && (p.2.ty == .s4 || wideTy p.2.ty) && p.2.inTs tsBase tsLen
          && outMatches p.2 it && ((p.2.blk == 32 && p.2.axis == 0) || (p.2.blk == 0 && !p.1.auto)))
      && reds.all (fun p => match p.2 with
          | none => true
          | some d => d.ts && wideTy d.ty && d.inTs tsBase tsLen && d.rankM1 == 0
              && d.dim0 == (if p.1.rows then it.i1 * it.i2 * it.i3 else 1)
              && ((d.blk == 32 && d.axis == 0) || (d.blk == 0 && !p.1.auto))
              && (p.1.mode != 4 || (d.ty == .s32 && !p.1.auto && p.1.given == 0
                    && (p.1.rows || decide (total < 2 ^ 31)))))
    then some ⟨it, tabs, prog, ins, outs, reds⟩ else none
  | _, _, _ => none

/-- Tap control unit and its descriptors (R155). -/
structure TapBody where
  kh : Nat
  kw : Nat
  sh : Nat
  sw : Nat
  dh : Nat
  dw : Nat
  cinPg : Nat
  coutPg : Nat
  padT : Nat
  padB : Nat
  padL : Nat
  padR : Nat
  padV : Int
  padE : Int
  oy0 : Nat
  oyLen : Nat
  ox0 : Nat
  oxLen : Nat
  c0 : Nat
  cLen : Nat
  iyBase : Nat
  sTap : Int
  x : Desc
  w : Desc
  o : VOut
  out : Desc
  deriving DecidableEq, Repr, Inhabited

/-- A tap-sweep body that passes R38 and R155; its output range and the rows that the geometry needs are checked apart
(R156, R163). -/
def parseTap (b : List Byte) (tsBase tsLen : Nat) : Option TapBody :=
  let r := unitOf b 0
  let w := fld r 0 4
  let p := fld r 4 4
  let t := fld r 0x2C 4
  let e := fld r 0x30 4
  match parseDesc (unitOf b 1), parseDesc (unitOf b 2), parseVOut (unitOf b 3) 0 true, parseDesc (unitOf b 4) with
  | some x, some wt, some o, some out =>
    let cin := bits w 24 4 + 1
    let cout := bits w 28 4 + 1
    let pair := (x.ty == .s8 && wt.ty == .s8) || (x.ty == .s16 && wt.ty == .s8) || (x.ty == .s8 && wt.ty == .s16)
    let beta : Int := if x.ty == .s8 && wt.ty == .s8 then 14 else 22
    let sTap : Int := if bit t 10 then sgn 10 (bits t 0 10)
      else sgn 8 (bits e 0 8) + sgn 8 (bits e 8 8) + beta - 30
    let inR (d : Desc) := d.ts && d.blk == 32 && d.axis == 0 && d.inTs tsBase tsLen
    let q : TapBody := ⟨bits w 0 4 + 1, bits w 4 4 + 1, bits w 8 4 + 1, bits w 12 4 + 1, bits w 16 4 + 1,
      bits w 20 4 + 1, cin, cout, bits p 0 8, bits p 8 8, bits p 16 8, bits p 24 8, sgn 32 (fld r 8 4),
      sgn 8 (bits (fld r 0x0C 4) 0 8), fld r 0x10 4, fld r 0x14 4, fld r 0x18 4, fld r 0x1C 4, fld r 0x20 4,
      fld r 0x24 4, fld r 0x28 4, sTap, x, wt, o, out⟩
    if b.length == 320 && inR x && inR wt && inR out && pair && bits (fld r 0x0C 4) 8 24 == 0
      && bits (fld r 0x0C 4) 0 8 != 0x80 && bits t 11 21 == 0 && (bit t 10 || bits t 0 10 == 0)
      && bits e 16 16 == 0 && bits e 0 8 != 0x80 && bits e 8 8 != 0x80 && zeroBytes r 0x34 0x40
      && !(narrowSat x.ty.width q.padV)
      && x.rankM1 == 2 && wt.rankM1 == 3 && out.rankM1 == 2 && (out.ty == .s4 || wideTy out.ty)
      && wt.dim1 == cin && wt.dim2 == q.kw && wt.dim3 == q.kh && x.dim0 % cin == 0 && wt.dim0 == out.dim0
      && out.dim0 * cin == x.dim0 * cout && q.c0 % 32 == 0
    then some q else none
  | _, _, _, _ => none

/-- An endpoint of a byte copy (R158). -/
inductive End where
  | job (a : Nat)
  | ts (core off : Nat)
  | fabric (peer off : Nat)
  deriving DecidableEq, Repr, Inhabited

/-- A mover body (R158). -/
inductive MovBody where
  | copy (mover len : Nat) (src dst : End)
  | box (mover : Nat) (so dO ext : Idx) (src dst : Desc)
  | ring (mover : Nat) (so ext : Idx) (src : Desc) (task strm fills wrap : Nat) (a0 a1 b0 b1 : Int)
  deriving DecidableEq, Repr, Inhabited

/-- The mover that a body names. -/
def MovBody.mover : MovBody → Nat
  | .copy m _ _ _ => m
  | .box m _ _ _ _ _ => m
  | .ring m _ _ _ _ _ _ _ _ _ _ _ => m

/-- An endpoint field of the mover control unit (R158): reserved bits zero, 64-byte aligned. -/
def parseEnd (v : Nat) : Option End :=
  if bits v 0 6 != 0 || bits v 53 11 != 0 then none
  else match bits v 44 2 with
    | 0 => if bits v 46 7 == 0 then some (.job (bits v 0 44)) else none
    | 1 => if bits v 24 20 == 0 then some (.ts (bits v 46 7) (bits v 0 24)) else none
    | 2 => if bits v 46 7 == 0 then some (.fabric (bits v 32 12) (bits v 0 32)) else none
    | _ => none

/-- A mover body with its reserved and unused fields zero (R158). -/
def parseMover (b : List Byte) : Option MovBody :=
  let r := unitOf b 0
  let w := fld r 0 4
  let m := bits w 0 2
  let op := bits w 2 2
  let bx := unitOf b 1
  let i4 (o : Nat) : Idx := ⟨fld bx o 4, fld bx (o + 4) 4, fld bx (o + 8) 4, fld bx (o + 12) 4⟩
  let ext := i4 0x20
  let extOk := (List.range 4).all (fun k => decide (1 ≤ ext.at k ∧ ext.at k ≤ 2 ^ 31 - 1)) && zeroBytes bx 0x30 0x40
  if bits w 4 28 != 0 || !zeroBytes r 0x34 0x40 then none
  else if op = 0 then
    match parseEnd (fld r 8 8), parseEnd (fld r 0x10 8) with
    | some s, some d =>
      if b.length == 64 && fld r 4 4 % 64 == 0 && zeroBytes r 0x18 0x34 then some (.copy m (fld r 4 4) s d) else none
    | _, _ => none
  else if op = 1 then
    match parseDesc (unitOf b 2), parseDesc (unitOf b 3) with
    | some s, some d =>
      if b.length == 256 && zeroBytes r 4 0x34 && extOk then some (.box m (i4 0) (i4 0x10) ext s d) else none
    | _, _ => none
  else if op = 2 then
    match parseDesc (unitOf b 2) with
    | some s =>
      let f := fld r 0x20 4
      if b.length == 192 && zeroBytes r 4 0x18 && bits (fld r 0x1C 4) 2 30 == 0 && bits f 0 16 != 0
        && bits f 16 16 != 0 && extOk && zeroBytes bx 0x10 0x20
      then some (.ring m (i4 0) ext s (fld r 0x18 4) (bits (fld r 0x1C 4) 0 2) (bits f 0 16) (bits f 16 16)
        (sgn 32 (fld r 0x24 4)) (sgn 32 (fld r 0x28 4)) (sgn 32 (fld r 0x2C 4)) (sgn 32 (fld r 0x30 4)))
      else none
    | none => none
  else none

end Sys2Proof.Machine
end

