-- ==== Sys2Proof/Machine/State.lean ====
section
/-! DEFINITION. The state of the block as plain data, its stop reasons and the state after reset. Field docstrings name
the rule of spec/ that gives the piece of state; INVENTORY.md lists them all with their reset values. -/
namespace Sys2Proof.Machine

/-- No command of the table is stopped by a fault: the manual gives every row an effect, so nobody raises one. The one
constructor keeps the type inhabited and is raised by no meaning (safe). -/
inductive Fault where
  /-- never raised -/
  | none
  deriving DecidableEq, Repr

/-- Why a command has no meaning here. -/
inductive Refusal where
  /-- raised by Machine/Dispatch.lean alone, for a row whose meaning is not written yet (safe: nothing is claimed) -/
  | notModelled (mnemonic : String)
  deriving DecidableEq, Repr

/-- A timestamp (R61): stage number and cycle offset. -/
structure Stamp where
  stage : Nat
  offset : Nat
  deriving DecidableEq, Repr, Inhabited

/-- An event record (R413), fields as numbers; the 64 bytes are `EventRec.bytes`. -/
structure EventRec where
  seq : Nat
  code : Nat
  cls : Nat
  /-- 0xFF when none -/
  job : Nat
  srcType : Nat
  srcIndex : Nat
  time : Stamp
  /-- 0xFFFF_FFFF when none -/
  task : Nat
  addr : Nat
  arg0 : Nat
  arg1 : Nat
  report : Nat
  status : Nat
  deriving DecidableEq, Repr, Inhabited

/-- A completion record (R363). -/
structure CplRec where
  dsn : Nat
  hsn : Nat
  status : Nat
  kind : Nat
  job : Nat
  opcode : Nat
  stage : Nat
  result : Nat
  deriving DecidableEq, Repr, Inhabited

/-- A configuration register held twice, with its parity bits, one for each 16 bits of either copy (R78, R385). -/
structure CfgReg where
  pend : BitVec 32
  act : BitVec 32
  pendPar : BitVec 2
  actPar : BitVec 2
  deriving DecidableEq, Repr, Inhabited

/-- A host's page of registers (R391) and its apply register (R387). -/
structure HostPage where
  winLo : CfgReg
  winHi : CfgReg
  apply : Bool
  last : Nat
  deriving DecidableEq, Repr, Inhabited

/-- What completes an open command (R364). -/
inductive OpenKind where
  /-- JOB_DESTROY: the tick that releases the job -/
  | release
  /-- DEVICE_CONFIG: the tick that takes the period -/
  | period
  /-- key, route and timekeeper switches: the tick that begins this stage -/
  | stageAt (stage : Nat)
  /-- MEDIA_SUBMIT: its last entry is taken -/
  | submit (channel : Nat)
  /-- KV_PIN: the sequence is resident -/
  | pin (seq : Nat)
  /-- UPDATE_CHUNK, UPDATE_BEGIN, SETTINGS_SET: the flash holds the data -/
  | flash
  /-- UPDATE_ACTIVATE: service resumes -/
  | activate
  /-- CARAVANEER_TAKEOVER: the new Caravaneer runs -/
  | takeover
  /-- UPDATE_CONFIRM held through a pause (R465) -/
  | confirm
  /-- JOB_RESHARD: the switch or its failure -/
  | reshard
  /-- WAYSTATION_RESTORE: the state has been copied back -/
  | restore
  /-- a later command of the host on the same object waits for the earlier one (R366) -/
  | waiting
  deriving DecidableEq, Repr, Inhabited

/-- A command taken and not completed (R360, R367). -/
structure OpenCmd where
  hsn : Nat
  op : Nat
  job : Nat
  kind : OpenKind
  cmd : CmdRec
  deriving DecidableEq, Repr, Inhabited

/-- One selective IDE stream of a port (R355, R448): keys by key-set, direction and sub-stream; key sets in use. -/
structure IdeStream where
  keys : NMap (BitVec 256)
  ivs : NMap (BitVec 64)
  go : NMap Bool
  deriving DecidableEq, Repr, Inhabited

/-- The PCI Express function of a host port, as its configuration space presents it (R352): read-only, the same on every port of a part. -/
structure PcieFn where
  deviceId : Nat
  classCode : Nat
  maxGen : Nat
  maxWidth : Nat
  maxPayload : Nat
  maxRead : Nat
  tag10 : Bool
  aer : Bool
  resizableBar : Bool
  msixVectors : Nat
  doe : Nat
  sriov : Bool
  ats : Bool
  pri : Bool
  intx : Bool
  deriving DecidableEq, Repr, Inhabited

/-- The function of a part's ports (R352). -/
def Part.pcieFn (p : Part) : PcieFn :=
  { deviceId := p.devId % 2 ^ 16, classCode := 0x120000, maxGen := 5, maxWidth := 16, maxPayload := 512, maxRead := 4096, tag10 := true, aer := true
    resizableBar := true, msixVectors := 64, doe := 1, sriov := false, ats := false, pri := false, intx := false }

/-- A host port with its mailboxes (13). -/
structure HostPort where
  /-- link up (R354, R432) -/
  link : Bool
  /-- PERST_x_N asserted (R354) -/
  perst : Bool
  /-- payload and read-request sizes in force, in bytes, and the 10-bit tag enable (R352) -/
  mps : Nat
  mrrs : Nat
  tag10 : Bool
  /-- log2 of the BAR4 size (R356) -/
  barLog : Nat
  /-- MSI-X enabled in the function (R358) -/
  msixOn : Bool
  /-- vectors programmed and unmasked -/
  msixProg : BitVec 64
  /-- vectors latched pending -/
  msixPend : BitVec 64
  /-- vectors whose message waits for the 2 µs spacing -/
  msixDefer : BitVec 64
  /-- cycle of the last message of each vector -/
  msixLast : NMap Nat
  /-- messages sent for each vector -/
  msixSent : NMap Nat
  mirrorOn : Bool
  mirror : Nat
  /-- ring indices (R359) -/
  cmdTail : BitVec 32
  cmdHead : BitVec 32
  cplHead : BitVec 32
  cplTail : BitVec 32
  evtTail : BitVec 32
  cmdRing : NMap (BitVec 512)
  cplRing : NMap CplRec
  /-- expected HSN, last HSN accepted, next DSN (R362, R363, R367) -/
  expHsn : Nat
  lastHsn : Nat
  nextDsn : Nat
  /-- commands taken and not completed, oldest first -/
  openCmds : List OpenCmd
  /-- step notices owed: HSN, job, step -/
  notices : List (Nat × Nat × Nat)
  page : HostPage
  /-- DEV_TIME capture (R389) -/
  timeCap : Stamp
  /-- PERR and MBX_INDEX bits of DEV_ERR (R389) -/
  perr : Bool
  mbxIndex : Bool
  streams : NMap IdeStream
  /-- the last BAR4 read completion: data and EP bit; none where the port answered Unsupported Request (R355–R357) -/
  rd : Option (List Byte × Bool)
  deriving DecidableEq, Repr, Inhabited

/-- A register of an engine, drover-controller, serai or optical-engine block (R20, R78, R385): shadow of its writer
and the stage of its last active-copy mismatch. -/
structure BlkReg where
  cfg : CfgReg
  shadow : BitVec 32
  lastFault : Option Nat
  deriving DecidableEq, Repr, Inhabited

/-- A configuration block outside BAR0 (R19, R78–R80, R385–R387). -/
structure Blk where
  regs : NMap BlkReg
  apply : Bool
  last : Nat
  /-- copy sampled at a tick while a leg ran, applied at its boundary (R80) -/
  sampled : Option (NMap (BitVec 32))
  /-- posted-write registers and the write being taken (R386) -/
  pw : NMap (BitVec 32)
  posted : Option (Nat × BitVec 32)
  dropped : Bool
  /-- halted by an active-copy mismatch: 0 no; 1 from the next tick; 2 halted, restarts at the tick after -/
  halt : Nat
  deriving DecidableEq, Repr, Inhabited

/-- The regulator bridge (R392). -/
structure Vrb where
  cmd : BitVec 32
  /-- the write that BUSY stands for, not in VRB_CMD until it has been taken (R386) -/
  next : BitVec 32
  busy : Bool
  dropped : Bool
  nack : Bool
  pecErr : Bool
  data : BitVec 32
  deriving DecidableEq, Repr, Inhabited

/-- A page error record (R402–R404). -/
structure PageRec where
  corr : Nat
  unc : Nat
  /-- stage of the last event -/
  last : Nat
  /-- stage at which EV_MEM_CORR was last posted -/
  posted : Option Nat
  /-- corrected lines with the stage of their last corrected event -/
  lines : NMap Nat
  deriving DecidableEq, Repr, Inhabited

/-- One entry of a fault report (R411). -/
structure RepEntry where
  task : Nat
  state : Nat
  kind : Nat
  status : Nat
  progress : Nat
  deriving DecidableEq, Repr, Inhabited

/-- A fault report (R411). -/
structure Report where
  id : Nat
  cause : Nat
  cls : Nat
  job : Nat
  step : Nat
  time : Stamp
  seq : Nat
  entries : List RepEntry
  deriving DecidableEq, Repr, Inhabited

/-- A drover as the Caravaneer sees it (R21). -/
structure DroverSt where
  missed : Nat
  lastRestart : Option Nat
  deriving DecidableEq, Repr, Inhabited

/-- Temperatures, shares and power of the last tick (R82, R83, R426, R427, R429). -/
structure Power where
  capW : Nat
  /-- throttled share of each C-die and serai drover in mW; none where not throttled -/
  throttleC : NMap Nat
  throttleS : NMap Nat
  /-- HBM stacks held at half bandwidth -/
  halved : NMap Bool
  allow : NMap Nat
  tempC : List (BitVec 8)
  tempS : List (BitVec 8)
  tempI : List (BitVec 8)
  tempH : List (BitVec 8)
  railPower : List Nat
  packageW : Nat
  tjMax : Nat
  deriving DecidableEq, Repr, Inhabited

/-- A bank-select record (R442); a copy that is not valid is `none` in `Flash`. -/
structure BankRec where
  seq : BitVec 32
  confirmed : Bool
  trial : Bool
  bad : BitVec 2
  deriving DecidableEq, Repr, Inhabited

/-- One copy of the settings (R443, R450): sequence and, by setting number, format and value. -/
structure SettingsCopy where
  seq : BitVec 32
  vals : NMap (Nat × Nat)
  deriving DecidableEq, Repr, Inhabited

/-- A flash bank: manifest bytes and image chunks (R442). -/
structure Bank where
  manifest : List Byte
  chunks : NMap (List Byte)
  deriving DecidableEq, Repr, Inhabited

/-- The delivery record (R455): SHA-512 of the manifest, chunk count, chunks held. -/
structure Delivery where
  sha : List Byte
  chunks : Nat
  held : List Nat
  deriving DecidableEq, Repr, Inhabited

/-- The boot flash (R442). -/
structure Flash where
  rec0 : Option BankRec
  rec1 : Option BankRec
  chain : List (List Byte)
  delivery : Option Delivery
  set0 : SettingsCopy
  set1 : SettingsCopy
  bankA : Bank
  bankB : Bank
  deriving DecidableEq, Repr, Inhabited

/-- The security fuses (R440) and the identity of the security block (R445, R449). -/
structure Fuses where
  rootKeyHash : List Byte
  svn : Nat
  idKeyHash : List Byte
  idModulus : Nat
  idPrivate : Nat
  romDigest : List Byte
  deriving DecidableEq, Repr, Inhabited

/-- Who asked for a flash write or an activation (R458). -/
inductive Asker where
  | cmd (h : HostId) (hsn : Nat)
  | mctp
  deriving DecidableEq, Repr, Inhabited

/-- A flash write in progress, or an update request that waits behind one (R450, R455, R456, R458). -/
inductive FlashOp where
  | manifest (bytes : List Byte)
  | chunk (i : Nat) (bytes : List Byte)
  | setting (n : Nat) (v : Nat)
  /-- UPDATE_CHUNK of a host: its bytes are read when its turn comes -/
  | chunkAt (h : HostId) (addr i : Nat)
  /-- UPDATE_STATUS of a host -/
  | status (h : HostId) (addr n : Nat)
  /-- UPD_STATUS from a bitmap byte offset -/
  | statusFrom (off : Nat)
  | activate
  | confirm
  deriving DecidableEq, Repr, Inhabited

/-- Where an activation stands (R460). -/
inductive ActPhase where
  | verify
  | armed
  | paused
  deriving DecidableEq, Repr, Inhabited

/-- Firmware update (R455–R465). -/
structure Update where
  /-- bank that runs: false A, true B -/
  running : Bool
  trial : Bool
  /-- cycle at which the confirm window ends -/
  windowEnd : Nat
  act : Option (ActPhase × Asker)
  /-- stage in which the activation was armed -/
  armedAt : Nat
  /-- the pause is a fallback (R465) -/
  fallback : Bool
  /-- UPD_CONFIRM held through the pause (R465) -/
  heldConfirm : Bool
  flashQ : List (FlashOp × Asker)
  pieceTotal : Nat
  pieces : NMap (List Byte)
  chunkNo : Nat
  chunkPieces : NMap (List Byte)
  deriving DecidableEq, Repr, Inhabited

/-- One SPDM connection (R448): how far the negotiation has come, transcripts, the session and the last response. -/
structure SpdmConn where
  ver : Bool
  caps : Bool
  algs : Bool
  /-- message transcript of version, capabilities and algorithms -/
  vca : List Byte
  /-- transcript of digests and certificates -/
  msgB : List Byte
  /-- transcript of measurements -/
  msgL : List Byte
  /-- session: identifier, handshake finished, secret -/
  session : Option (Nat × Bool × BitVec 384)
  resp : List Byte
  deriving DecidableEq, Repr, Inhabited

/-- MCTP endpoint (R429). -/
structure Mctp where
  eid : BitVec 8
  resp : List Byte
  deriving DecidableEq, Repr, Inhabited

/-- A breakpoint slot (R475). -/
structure Bp where
  kind : Nat
  haltAll : Bool
  reads : Bool
  writes : Bool
  job : Nat
  task : Nat
  value : Nat
  len : Nat
  hits : Nat
  /-- last hit: time, source type and index, task, granule address -/
  hitTime : Stamp
  hitSrc : Nat
  hitTask : Nat
  hitAddr : Nat
  /-- job, step, task and legs run of the leg that was held; it starts when its unit resumes -/
  hitLeg : Option (Nat × Nat × Nat × Nat)
  deriving DecidableEq, Repr, Inhabited

/-- Replay mode (R478–R481). -/
structure Replay where
  job : Nat
  logVa : Nat
  pages : Nat
  step : Nat
  running : Bool
  divColl : List Nat
  /-- observed IN_DIGEST of each divergent collective, as `divColl` -/
  divDigest : List Nat
  divBatch : List (Nat × Nat)
  divTally : Bool
  divHead : Bool
  stopped : Nat
  deriving DecidableEq, Repr, Inhabited

/-- The debug port (18). -/
structure Dbg where
  ir : BitVec 8
  /-- the 512-bit data register of DBG_XFER -/
  dr : BitVec 512
  reqs : List (BitVec 512)
  resps : List (BitVec 512)
  level : Nat
  nonce : Option (BitVec 256)
  pieces : NMap (List Byte)
  pieceLevel : Nat
  fails : Nat
  haltCores : BitVec 128
  haltC : BitVec 8
  haltS : BitVec 4
  haltCvr : Bool
  /-- one-step grants of halted targets: type and index (R473); a core's grant that task `t` of job `j` has taken reads
  (8 + j, core + 128 t) until the task ends -/
  grants : List (Nat × Nat)
  /-- instructions run by single steps of the halted Caravaneer -/
  cvrSteps : Nat
  bps : NMap Bp
  replay : Option Replay
  deriving DecidableEq, Repr, Inhabited

/-- Port states (R290), in the order of their codes. -/
inductive PortSt where
  | off
  | dark
  | training
  | up
  | narrowing
  | refused
  | down
  deriving DecidableEq, Repr, Inhabited

/-- The code of a port state. -/
def PortSt.code : PortSt → Nat
  | .off => 0
  | .dark => 1
  | .training => 2
  | .up => 3
  | .narrowing => 4
  | .refused => 5
  | .down => 6

/-- An optical port (R282–R310). -/
structure Port where
  st : PortSt
  /-- training phase 1 … 5; 0 outside TRAINING -/
  phase : Nat
  /-- cycle at which the phase began (R291) -/
  phaseAt : Nat
  lambdaOk : BitVec 4
  lambdaUsed : BitVec 4
  refuse : Nat
  peerId : Nat
  peerPort : Nat
  /-- end identity of the peer of the previous session (R284) -/
  prevPeer : Option (Nat × Nat)
  /-- last data sequence accepted in the previous session, and the cycle at which the port went DOWN (R284, R301) -/
  lastRx : Option Nat
  downAt : Option Nat
  lastChange : Stamp
  /-- cycle of the last state change -/
  since : Nat
  retrains : Nat
  txBytes : Nat
  rxBytes : Nat
  fecCorr : Nat
  fecUnc : Nat
  retrans : Nat
  authFails : Nat
  rejects : Nat
  creditStall : Nat
  rttNs : Nat
  /-- training nonces, own and peer's; the peer's proof has been verified (R293) -/
  nonce : BitVec 128
  peerNonce : Option (BitVec 128)
  peerOk : Bool
  /-- the training message this end sent last; the peer's first ACK has come in phase 5 (R293) -/
  txMsg : List Byte
  peerAck : Bool
  /-- the peer's LAST_SEQ where it may resume (R284) -/
  resume : Option Nat
  /-- link keys and salts of this session, send and receive, 36 bytes each (R286) -/
  txKey : List Byte
  rxKey : List Byte
  /-- receive key of the old generation, until its slot is erased (R288) -/
  rxOld : List Byte
  /-- next data sequence to send; next data sequence to accept (R282) -/
  txSeq : Nat
  rxSeq : Nat
  /-- frames sent and not acknowledged, oldest first -/
  unacked : List (Nat × Frame)
  /-- frames that wait to be sent, with the stage from which each waits for credits (none: for something else) and its lane on arrival
  (R299, R302) -/
  waiting : List (Option Nat × Bool × Frame)
  /-- cycle from which some frame waits for credits (R302) -/
  stallFrom : Option Nat
  /-- the arbiter of this output (R18): the source served last in each class, and 64-byte units that lead and backhaul frames are owed
  for the service frames sent ahead of them -/
  lastSrc : NMap Nat
  svcOwed : Nat
  /-- control frames sent and the last number accepted (R283) -/
  ctlTx : Nat
  ctlRx : Nat
  /-- last control frame sent of each kind: a CREDIT by its class and lane, a NARROW by REPLY -/
  ctlOut : NMap CtrlFrame
  /-- credits held by the sender for each (class, lane) and in the shared pool (R302) -/
  reserve : NMap Nat
  shared : Nat
  /-- last CREDIT totals received; totals returned to the peer -/
  creditIn : NMap Nat
  creditOut : NMap Nat
  /-- set to which the port is narrowing and the requests sent (R294, R283) -/
  narrowTo : BitVec 4
  narrowTries : Nat
  narrowAgreed : Bool
  /-- codewords uncorrectable in this stage, by wavelength; tag failures in this stage (R287, R294) -/
  uncStage : NMap Nat
  tagStage : Nat
  /-- time exchange: departure stamp of the REQUEST and its number (R306) -/
  t1 : Option Stamp
  exchange : Nat
  /-- the peer is locked to this domain's timekeeper, as its last TIME frame said; none before one came (R305) -/
  peerLocked : Option Bool
  deriving DecidableEq, Repr, Inhabited

/-- What a fabric transaction serves (R301, R304). -/
inductive TxnFor where
  /-- a write of a mover transfer -/
  | write (job task : Nat)
  /-- a read: tile-store device address and byte count -/
  | read (job task : Nat) (addr bytes : Nat)
  /-- a collective frame -/
  | coll (job task : Nat)
  /-- the copy of a generation of a job's waystation image (R348) -/
  | way (job ordinal : Nat)
  deriving DecidableEq, Repr, Inhabited

/-- A transaction of a source serai that has had no answer (R281, R301, R302). -/
structure Txn where
  tag : Nat
  dest : Nat
  flow : Nat
  epoch : Bool
  port : Nat
  /-- cycle of the request -/
  at_ : Nat
  use_ : TxnFor
  deriving DecidableEq, Repr, Inhabited

/-- Domain membership, keys, routing and time (R285, R288, R296–R309). -/
structure Domain where
  joined : Bool
  domainId : Nat
  deviceId : Nat
  timekeeper : Nat
  timePorts : List Nat
  inUse : Option Nat
  hops : Nat
  locked : Bool
  holdover : Bool
  /-- host A must join again (R309) -/
  lost : Bool
  /-- phase error not yet slewed, in cycles (R307) -/
  phaseErr : Int
  /-- one-step correction taken at the next tick -/
  stepErr : Int
  renumber : Bool
  /-- announced period and its stage (R307) -/
  announce : Option (Nat × Nat)
  key0 : Option (BitVec 256)
  key1 : Option (BitVec 256)
  kgen : Bool
  keyAt : Option Nat
  eraseAt : Option Nat
  route0 : NMap Nat
  route1 : NMap Nat
  epoch : Bool
  routeAt : Option Nat
  tkAt : Option (Nat × List Nat × Nat)
  txns : List Txn
  /-- tags not to be reused until the cycle given (R301) -/
  quarantine : NMap Nat
  deriving DecidableEq, Repr, Inhabited

/-- Where a task of a step stands (R65–R77). -/
inductive TState where
  | waiting
  | ready
  | running
  | suspended
  | done
  | failed
  | notRun
  | aborted
  deriving DecidableEq, Repr, Inhabited

/-- A running leg (R72, R75): its group, its start, the arrays it holds, whether it has overrun, and the translations
it started with (R29). -/
structure Leg where
  group : GroupId
  startStage : Nat
  start : Nat
  arrays : Nat
  overran : Bool
  pt : NMap Nat
  /-- this leg's group is the vector group as well (KIND 0x05) -/
  both : Bool
  /-- its first tile boundary since the tick or the job's abort has been reached: it starts no further tile (R66, R73, R103) -/
  ended : Bool
  deriving DecidableEq, Repr, Inhabited

/-- Output summary of one output set (R132) with the state that spans its chunks. -/
structure OutSum where
  sat : Bool
  isat : Bool
  psn : Bool
  bnd : Bool
  /-- largest scale written; none yet -/
  maxScale : Option Int
  poisoned : Nat
  saturated : Nat
  /-- the B0 scale byte has been written poisoned (R43) -/
  b0 : Bool
  deriving DecidableEq, Repr, Inhabited

/-- Running state of a matrix or convolution task (R101–R113). -/
structure MatSt where
  sacc : Int
  /-- next tile -/
  tile : Nat
  /-- chunks (row group, chunk) that wait for the output stage, oldest first -/
  drain : List (Nat × Nat)
  drained : Nat
  filled : List Nat
  freed : List Nat
  /-- rows taken by a gather task (R110) -/
  taken : List Nat
  /-- the first leg has begun -/
  begun : Bool
  sums : List OutSum
  /-- stationary, streamed and preload bounds of each set under the rule (R121, R123) -/
  bnds : List (Option (Int × Int × Int))
  /-- byte ranges that overlap under R129: first address and length -/
  undef : List (Nat × Nat)
  /-- halo stamps seen and publications done (R175, R176) -/
  haloIn : List Nat
  haloOut : List Nat
  skipped : Nat
  /-- cycles spent in halo waits, and the cycle of the last boundary (R171, R175) -/
  haloWait : Nat
  lastAt : Nat
  deriving DecidableEq, Repr, Inhabited

/-- Partial result of one reduction segment (R149, R150). -/
structure SegSt where
  v : Int
  i : Int
  seen : Bool
  clamp : Bool
  taint : Bool
  deriving DecidableEq, Repr, Inhabited

/-- Running state of an element program or a tap sweep (R134–R156). -/
structure ElemSt where
  begun : Bool
  iter : Nat
  /-- working exponent and bound of each stream (R139) -/
  works : List Int
  bounds : List Int
  sat : Bool
  isat : Bool
  psn : Bool
  bnd : Bool
  lut : Bool
  dz : Bool
  o0 : OutSum
  o1 : OutSum
  red0 : NMap SegSt
  red1 : NMap SegSt
  dig0 : Nat
  dig1 : Nat
  segPoisoned : Nat
  /-- tables of slots 8 … 15 as loaded at the leg's start: 64-byte header and entries -/
  tabs : List (List Byte)
  deriving DecidableEq, Repr, Inhabited

/-- Running state of a mover transfer (R158–R160, R486). -/
structure MovSt where
  begun : Bool
  piece : Nat
  fill : Nat
  sat : Bool
  psn : Bool
  nan : Bool
  poisoned : Nat
  saturated : Nat
  /-- fabric frames still to be answered -/
  owed : Nat
  /-- every piece has been issued -/
  issued : Bool
  deriving DecidableEq, Repr, Inhabited

/-- One open query column (R199): running maximum, normaliser, poisoned. -/
structure AttCol where
  m : Option Int
  l : Nat
  pois : Bool
  deriving DecidableEq, Repr, Inhabited

/-- One row of an attention task's work range as its first leg read it (R188, R189). -/
structure AttRow where
  seqRec : Nat
  q : Nat
  kv : Nat
  deriving DecidableEq, Repr, Inhabited

/-- A query block (forward) or a bale group (backward) whose results wait for ATTENTION_FINISH. -/
structure AttFin where
  row : Nat
  blk : Nat
  cols : List AttCol
  /-- tiles counted when its last pair ended -/
  tile : Nat
  deriving DecidableEq, Repr, Inhabited

/-- Running state of an attention task (R193–R209). -/
structure AttSt where
  begun : Bool
  saccS : Int
  saccV : Int
  /-- accumulation scales of the dQ, dV and dK passes, which the manual does not state (log 1) -/
  saccQ : Int
  saccDv : Int
  saccDk : Int
  /-- bounds of the score pass and of the value or dP pass: stationary, streamed (R198) -/
  bounds : List Int
  rows : List AttRow
  /-- cursor: row, query block, bale group -/
  row : Nat
  blk : Nat
  grp : Nat
  /-- the block under the cursor is open -/
  opened : Bool
  cols : List AttCol
  fin : List AttFin
  tiles : Nat
  run : Nat
  skip : Nat
  empty : Nat
  pois : Nat
  sat : Bool
  isat : Bool
  psn : Bool
  bnd : Bool
  outs : List OutSum
  /-- append cursor: row, tokens of that row copied; tokens and bales of the task -/
  appRow : Nat
  appTok : Nat
  appended : Nat
  flushed : Nat
  /-- reserved pool bales and list pages (R207) -/
  bales : List Nat
  listPages : List Nat
  /-- staging slots: row and bale position that each holds (R209) -/
  slots : NMap (Nat × Nat)
  deriving DecidableEq, Repr, Inhabited

/-- One entry of a segment table (R318): peer rank, receive, first element, elements. -/
structure CollSeg where
  peer : Nat
  recv : Bool
  off : Nat
  len : Nat
  deriving DecidableEq, Repr, Inhabited

/-- Running state of a collective task (R325–R332). -/
structure CollSt where
  begun : Bool
  /-- chunk-steps done, by index in the schedule; a tile of the progress mark -/
  done : List Nat
  /-- incoming chunks granted with READY, by schedule index of the chunk-step that consumes them -/
  granted : List Nat
  /-- staging buffers: schedule index and received pieces by byte offset -/
  staged : NMap (NMap (List Byte))
  /-- combined scale byte of each block (R320) -/
  xs : NMap Nat
  /-- transactions not yet answered -/
  owed : Nat
  sat : Bool
  psn : Bool
  poisoned : Nat
  saturated : Nat
  maxScale : Option Int
  b0 : Bool
  /-- 48-bit sums of a B0 block's elements that its owner holds until the block is complete (R321) -/
  sums : List Int
  sent : Nat
  received : Nat
  peerWait : Nat
  /-- stage and cycle at which the leg last made progress (R330, R332) -/
  lastStage : Nat
  lastAt : Nat
  /-- stage at which the first leg began, of each peer's last READY or data, and of the last suspension (R330) -/
  began : Nat
  heard : NMap Nat
  susp : Nat
  /-- a keep hit completed it (R264) -/
  hit : Bool
  /-- the segment table as the first leg read it (R319) -/
  segs : List CollSeg
  /-- digest of the input as the first leg found it (R477) -/
  inDigest : Nat
  deriving DecidableEq, Repr, Inhabited

/-- Running state of an update leg (R253, R268, R269): next iteration, blocks written poisoned, and what a user program's task state holds. -/
structure UpdSt where
  begun : Bool
  iter : Nat
  poisoned : Nat
  run : ElemSt
  deriving DecidableEq, Repr, Inhabited

/-- What a running task's engine holds. -/
inductive Eng where
  | idle
  | mat (m : MatSt)
  | elem (e : ElemSt)
  | mov (m : MovSt)
  | att (a : AttSt)
  | coll (c : CollSt)
  | upd (u : UpdSt)
  deriving DecidableEq, Repr, Inhabited


/-- A failure met by a task (R407, R411): status, report number, cause event code and its sequence number (0 where
EV_TASK_FAIL itself is the cause). -/
structure Failure where
  status : Nat
  report : Nat
  cause : Nat
  seq : Nat
  /-- when it was met: WHEN of its report (R411) -/
  met : Stamp
  deriving DecidableEq, Repr, Inhabited

/-- One task of the running step (R65–R77, R407–R410, R484). -/
structure TaskRun where
  hdr : TaskHdr
  st : TState
  /-- its descriptor is among the at most 256 that its core has queued (R85) -/
  queued : Bool
  /-- body copy read when the task became ready (R484) -/
  body : List Byte
  legs : Nat
  progress : Option Nat
  empty : Bool
  ctrOver : Bool
  nan : Bool
  /-- failure met, waiting for the task's boundary (R407) -/
  fail : Option Failure
  /-- all work is done; TASK_COMPLETE may follow -/
  finished : Bool
  leg : Option Leg
  overruns : Nat
  heldUntil : Option Nat
  /-- state of the task in its group's banks, spilled for another job's leg (R74) -/
  spilled : Option (NMap Int)
  /-- EV_KV_WAIT or EV_KEEP_WAIT has been posted for it (R214, R265) -/
  waitNoted : Bool
  /-- a gather task's fill target has been observed, or its fill limit reached (R109) -/
  fillHit : Bool
  status : Nat
  ended : Stamp
  eng : Eng
  deriving DecidableEq, Repr, Inhabited

/-- A loaded task list (R373). -/
structure TaskList where
  hdrs : List TaskHdr
  /-- job address of the first header of a native list -/
  at_ : Option Nat
  deriving DecidableEq, Repr, Inhabited

/-- A submitted step that waits (R65, R372). -/
structure QStep where
  list : Nat
  step : Nat
  update : Bool
  chans : List Nat
  host : HostId
  hsn : Nat
  deriving DecidableEq, Repr, Inhabited

/-- The running step of a job (R65). -/
structure RunStep where
  q : QStep
  tasks : List TaskRun
  /-- update legs of settled groups, in order of settlement (R253); TASK_ID 0x4000_0000 + GROUP_ID -/
  upds : List TaskRun
  /-- counters seen at 1 or more by a tick, with the stage of the first such tick (s0 of R109) -/
  seen : NMap Nat
  /-- sequence number of the first task failure's event, 0 none (R411) -/
  firstFail : Nat
  /-- timestamp of that event: WHEN of the step report (R411) -/
  firstAt : Stamp
  /-- close of an update step: 0 none, 1 closing (tally owed), 2 tallied, 3 closed (R255) -/
  close : Nat
  rolledBack : Bool
  /-- entries of the step record (R477): raw bytes, oldest first -/
  logEntries : List (List Byte)
  resultsLost : Bool
  resultUsed : Nat
  skip : Bool
  devTally : Nat
  totTally : Nat
  headroom : Nat
  deriving DecidableEq, Repr, Inhabited

/-- One directory entry of a cache, with its bale list and list pages (R184, R186). -/
structure KvDir where
  len : Nat
  sbFill : Nat
  /-- 0 none, 1 open, 2 stowed -/
  sbState : Nat
  sbCore : Nat
  sbOff : Nat
  kmax : Option Int
  vmax : Option Int
  list : List (Nat × Nat)
  pages : List Nat
  /-- order of the last append, for stowing (R187) -/
  used : Nat
  deriving DecidableEq, Repr, Inhabited

/-- A sequence (R186, R213–R217). -/
structure KvSeq where
  id : Nat
  prio : Nat
  order : Nat
  pinned : Bool
  /-- its bales are in the ferry area -/
  ferried : Bool
  seqRec : Nat
  dirs : NMap KvDir
  deriving DecidableEq, Repr, Inhabited

/-- A cache pool (R185). -/
structure KvPool where
  d : Nat
  caches : Nat
  pool : Nat
  pages : Nat
  sbOff : Nat
  sbBytes : Nat
  ferry : Nat
  ferryPages : Nat
  /-- units in use: job address and kind (0 bale, 1 list page, 2 sequence record); the same for the ferry area -/
  units : NMap Nat
  ferryUnits : NMap Nat
  seqs : List KvSeq
  nextOrder : Nat
  deriving DecidableEq, Repr, Inhabited

/-- A service digest leg on a core's vector group (R63, R272). -/
structure SvcLeg where
  job : Nat
  group : Nat
  page : Nat
  deriving DecidableEq, Repr, Inhabited

/-- A collective group (R312). -/
structure CollGroup where
  size : Nat
  rank : Nat
  timeout : Nat
  members : List Nat
  deriving DecidableEq, Repr, Inhabited

/-- A READY received (R326): group, step, sequence, source rank, phase, ring step, chunk, and the sender's signature and LEN. -/
structure ReadyRec where
  group : Nat
  step : Nat
  seq : Nat
  src : Nat
  phase : Nat
  ring : Nat
  chunk : Nat
  sig : Nat
  len : Nat
  deriving DecidableEq, Repr, Inhabited

/-- A reshard that is open (R341–R344): the new record and table, the group, the segments; `moved` after step 2, in stage
`movedAt`. -/
structure Reshard where
  map : MapRec
  tableAddr : Nat
  group : Nat
  segs : Nat
  entries : Nat
  stage : Nat
  moved : Bool
  movedAt : Nat
  /-- the new table's empty state, its groups and KEEP_PAGES -/
  train : Train
  newGroups : List TGroup
  keepPages : Nat
  /-- the device has no shard under the new record (R341) -/
  leaving : Bool
  /-- what the switch carries over (R342, R343); none until step 2 on a device that joins -/
  carry : Option Carry
  /-- the counts of the groups at G, in the form through a checkpoint -/
  counts : NMap (Nat × Nat)
  deriving DecidableEq, Repr, Inhabited

/-- Waystation settings of a job (R346–R349). -/
structure Way where
  partner : Nat
  pages : Nat
  k : Nat
  /-- generation under way: its image and the stage at which it began -/
  open_ : Option WayImage
  /-- stage at which the close of a later step began to wait for it; EV_WAYSTATION_LATE posted -/
  waitFrom : Option Nat
  late : Bool
  /-- committed generations, newer first, at most two -/
  kept : List WayImage
  /-- the next generation copies every page -/
  full : Bool
  /-- copy frames of the open generation still to be sent, frames sent, and those that wait for their answers (R348) -/
  pend : List (List Byte)
  sent : Nat
  acks : Nat
  deriving DecidableEq, Repr, Inhabited

/-- A fabric window (R303). -/
structure Window where
  base : Nat
  pages : Nat
  read : Bool
  write : Bool
  signal : Bool
  deriving DecidableEq, Repr, Inhabited

/-- The replay log of a job (R476). -/
structure ReplayLog where
  va : Nat
  pages : Nat
  keep : Bool
  /-- offset at which the next record goes; offsets and sizes of the records kept, oldest first -/
  next : Nat
  recs : List (Nat × Nat)
  deriving DecidableEq, Repr, Inhabited

/-- A job (R62). -/
structure Job where
  owner : HostId
  backhaul : Bool
  home : Nat
  tag : Nat
  hbms : Nat
  seed : Nat
  budget : Nat
  tsBase : Nat
  tsBytes : Nat
  cores : Nat
  /-- page table: job page number to device page address (R28); the next tick's copy (R29) -/
  pt : NMap Nat
  ptNext : NMap Nat
  /-- spill pages of each core (R64) -/
  spill : NMap (List Nat)
  ctrs : NMap Nat
  lists : NMap TaskList
  queue : List QStep
  run : Option RunStep
  /-- lost-line list (R400): job addresses of lines -/
  lost : List Nat
  /-- stage from which an aborted job may be released (R66) -/
  abort : Option Nat
  /-- fault report of the job-fatal error that aborted the job; 0 none (R411, R412) -/
  report : Nat
  replayLog : Option ReplayLog
  windows : NMap Window
  /-- peer entries: DEVICE_ID and window (R303) -/
  peers : NMap (Nat × Nat)
  kv : Option KvPool
  train : Option Train
  /-- variant slots: 1 frozen or 2 train, and rank; an unlisted slot is free; changes for the next step (R270) -/
  variants : NMap (Nat × Nat)
  variantNext : NMap (Nat × Nat)
  groups : NMap CollGroup
  readies : List ReadyRec
  map : Option MapRec
  reshard : Option Reshard
  way : Option Way
  deriving DecidableEq, Repr, Inhabited

/-- One set of stationary registers and band scales of a core's four arrays (R87, R93, R95); an element or a band that is not listed is
gated (R90). -/
structure StatSet where
  /-- the element in each cell, by ((array × 256 + contraction index in the tile) × 128 + column) -/
  x : NMap Int
  /-- the scale code of each band, 0x80 for a poisoned one (R94), by ((array × 8 + band) × 128 + column) -/
  e : NMap Nat
  deriving DecidableEq, Repr, Inhabited

/-- A core's engines between tasks (R76, R95, R111, R134). -/
structure CoreSt where
  /-- accumulator entries by ((array × 4 + bank) × 128 + row) × 256 + column; unlisted entries are 0 -/
  acc : NMap Int
  la : NMap Int
  /-- the two register sets of the cells: the tile-load path writes the shadow one, a swap exchanges them (R95) -/
  active : StatSet
  shadow : StatSet
  /-- stages in which lead overruns were recorded -/
  overruns : List Nat
  /-- last stage of the backhaul hold -/
  holdEnd : Option Nat
  deriving DecidableEq, Repr, Inhabited

/-- Packed planes of one output of a sample (R235, R238): data bytes, scale bytes and real length. -/
structure Packed where
  data : List Byte
  scale : List Byte
  len : Nat
  deriving DecidableEq, Repr, Inhabited

/-- One output's recipe with the records it names, as read at intake (R229–R235). -/
structure RecipeData where
  recipe : List Byte
  lens : List Byte
  mesh : List Byte
  band : List Byte
  tone : List Byte
  deriving DecidableEq, Repr, Inhabited

/-- A sample in flight (R220–R240): part descriptors, recipes, parts started, and its packed outputs by part. -/
structure Sample where
  pos : Nat
  idx : Nat
  tag : Nat
  half : Nat
  parts : List (List Byte)
  recipes : List RecipeData
  started : Nat
  done : NMap Packed
  clamp : Bool
  /-- stage in which the packed output was complete -/
  doneStage : Nat
  ready : Bool
  /-- reference tick of R242 -/
  ref : Option Nat
  deriving DecidableEq, Repr, Inhabited

/-- A drop record (R239). -/
structure Drop where
  pos : Nat
  idx : Nat
  tag : Nat
  half : Nat
  reason : Nat
  part : Nat
  detail : Nat
  stage : Nat
  deriving DecidableEq, Repr, Inhabited

/-- An open media channel (R220–R244). -/
structure Chan where
  job : Nat
  strict : Bool
  half : Nat
  outs : Nat
  batchN : Nat
  reserve : Nat
  late : Nat
  dropRoom : Nat
  stepBatches : Nat
  buffers : Nat
  salt : Nat
  inflight : Nat
  ctr : Nat
  window : Nat
  recipes : List Nat
  /-- geometry of the outputs at open: data plane bytes, scale plane bytes of a batch (R221) -/
  planes : List (Nat × Nat)
  /-- device pages of each buffer set -/
  sets : List (List Nat)
  /-- next submission position; entries of the open MEDIA_SUBMIT already taken -/
  nextPos : Nat
  taken : Nat
  samples : List Sample
  drops : List Drop
  closed : Bool
  finalSent : Bool
  /-- batches issued; consumptions begun; sets freed (R222) -/
  batches : Nat
  consumed : Nat
  freed : Nat
  deriving DecidableEq, Repr, Inhabited

/-- A region reserved for another device's images (R346–R349): pages, and the committed generations, newer first. -/
structure WayRegion where
  pages : List Nat
  gens : List (Nat × Nat)
  deriving DecidableEq, Repr, Inhabited

/-- The whole block. -/
structure State where
  -- identity, fuses, flash (R1, R388, R440–R445)
  part : Part
  serial : Nat
  stepping : Nat
  fuses : Fuses
  flash : Flash
  -- lands, boot, clocks (16)
  pwrok : Bool
  strapRecovery : Bool
  strapSpiSlow : Bool
  strapSmb : BitVec 3
  phase : BitVec 4
  failCode : BitVec 8
  phaseReached : BitVec 4
  thermtrip : Bool
  faultN : Bool
  /-- cycle at which the 1 ms pulse of FAULT_N ends (R389) -/
  faultNEnd : Nat
  cfgActive : Bool
  ready : Bool
  fatal : Bool
  paused : Bool
  cvrSide : Bool
  /-- the Caravaneer runs (R408) -/
  cvrIntact : Bool
  /-- bank of the record read at start differs from the bank booted, or TRIAL was 1 (R444) -/
  fallbackNote : Bool
  /-- settings reset or ignored, to be reported (R451) -/
  settingsNote : List Nat
  -- time (03)
  ticking : Bool
  stage : Nat
  offset : Nat
  now : Nat
  period : Nat
  periodAt : Option (Nat × Nat)
  /-- the period before the last change and the stage from which the present one is in force (R306) -/
  periodWas : Nat
  periodFrom : Nat
  -- device registers (14)
  devCtl : CfgReg
  devApply : Bool
  devLast : Nat
  perrDev : Bool
  vrb : Vrb
  blks : NMap Blk
  -- hosts (13)
  hostA : HostPort
  hostB : HostPort
  turn : Option HostId
  grantCores : Nat
  grantStacks : Nat
  grantHalves : Nat
  -- memory and reliability (15)
  mem : NMap Byte
  marked : List Nat
  pageRecs : NMap PageRec
  worn : List Nat
  /-- pages held by firmware for no job (waystation regions, staging) -/
  held : List Nat
  events : List EventRec
  nextSeq : Nat
  reports : List Report
  nextReport : Nat
  linkRun : NMap Nat
  linkStage : NMap Nat
  -- control hierarchy and power (01, 03, 16)
  drovers : NMap DroverSt
  /-- Caravaneer takeover (R22): 0 none, 1 asked for, 2 placement stopped at the tick, 3 switched, resumes at a tick -/
  takeover : Nat
  power : Power
  /-- job served first by each group at the previous tick and since the last tick (R72) -/
  rrPrev : NMap Nat
  rrCur : NMap Nat
  jobs : NMap Job
  cores : NMap CoreSt
  /-- service digest legs that run, by core (R63, R72, R272) -/
  svc : NMap SvcLeg
  -- media (09): channels by number; channel served last by each half (R225)
  chans : NMap Chan
  rrHalf : NMap Nat
  -- waystation regions by owner × 65,536 + tag (12)
  ways : NMap WayRegion
  -- fabric (11)
  ports : NMap Port
  dom : Domain
  -- security, update, management, debug (16, 17, 18)
  upd : Update
  doeA : SpdmConn
  doeB : SpdmConn
  attA : SpdmConn
  attB : SpdmConn
  mctpConn : SpdmConn
  mctp : Mctp
  dbg : Dbg
  -- the model's own
  /-- numbers the free values drawn (log 1); no statement rests on its value -/
  freeCtr : Nat
  /-- commands that wait, first in, first out -/
  pending : List Instr
  deriving DecidableEq, Repr

/-- Parity bits of a register's two 16-bit groups (R385): even parity of each group. -/
def parityOf (v : BitVec 32) : BitVec 2 :=
  let p (n : Nat) := ((List.range 16).filter (fun i => (v.toNat / 2 ^ n).testBit i)).length % 2
  BitVec.ofNat 2 (p 0 + 2 * p 16)

/-- A configuration register at one value in both copies. -/
def CfgReg.init (v : BitVec 32) : CfgReg := ⟨v, v, parityOf v, parityOf v⟩

/-- A host page at its reset values (R391). -/
def HostPage.init : HostPage := ⟨.init 0, .init 0, false, 0⟩

/-- A host port at reset: rings empty, indices 0, HSN 1 expected, DSN 1 next. -/
def HostPort.init : HostPort where
  link := false
  perst := true
  mps := 128
  mrrs := 512
  tag10 := false
  barLog := 30
  msixOn := false
  msixProg := 0
  msixPend := 0
  msixDefer := 0
  msixLast := []
  msixSent := []
  mirrorOn := false
  mirror := 0
  cmdTail := 0
  cmdHead := 0
  cplHead := 0
  cplTail := 0
  evtTail := 0
  cmdRing := []
  cplRing := []
  expHsn := 1
  lastHsn := 0
  nextDsn := 1
  openCmds := []
  notices := []
  page := .init
  timeCap := ⟨0, 0⟩
  perr := false
  mbxIndex := false
  streams := []
  rd := none

/-- An optical port before the boot has enabled it (log 11). -/
def Port.init : Port where
  st := .off
  phase := 0
  phaseAt := 0
  lambdaOk := 0
  lambdaUsed := 0
  refuse := 0
  peerId := 0
  peerPort := 0
  prevPeer := none
  lastRx := none
  downAt := none
  lastChange := ⟨0, 0⟩
  since := 0
  retrains := 0
  txBytes := 0
  rxBytes := 0
  fecCorr := 0
  fecUnc := 0
  retrans := 0
  authFails := 0
  rejects := 0
  creditStall := 0
  rttNs := 0
  nonce := 0
  peerNonce := none
  peerOk := false
  txMsg := []
  peerAck := false
  resume := none
  txKey := []
  rxKey := []
  rxOld := []
  txSeq := 0
  rxSeq := 0
  unacked := []
  waiting := []
  stallFrom := none
  lastSrc := []
  svcOwed := 0
  ctlTx := 0
  ctlRx := 0
  ctlOut := []
  reserve := []
  shared := 0
  creditIn := []
  creditOut := []
  narrowTo := 0
  narrowTries := 0
  narrowAgreed := false
  uncStage := []
  tagStage := 0
  t1 := none
  exchange := 0
  peerLocked := none

/-- A device outside any domain, without keys or routes (R285, R296, R297). -/
def Domain.init : Domain where
  joined := false
  domainId := 0
  deviceId := 0
  timekeeper := 0
  timePorts := []
  inUse := none
  hops := 0
  locked := false
  holdover := false
  lost := false
  phaseErr := 0
  stepErr := 0
  renumber := false
  announce := none
  key0 := none
  key1 := none
  kgen := false
  keyAt := none
  eraseAt := none
  route0 := []
  route1 := []
  epoch := false
  routeAt := none
  tkAt := none
  txns := []
  quarantine := []

/-- No SPDM connection. -/
def SpdmConn.init : SpdmConn := ⟨false, false, false, [], [], [], none, []⟩

/-- Power state of a part before the first tick: no cap, no throttling, allowance 64 (R83). -/
def Power.init (p : Part) : Power where
  capW := p.pkgMaxW
  throttleC := []
  throttleS := []
  halved := []
  allow := []
  tempC := []
  tempS := []
  tempI := []
  tempH := []
  railPower := []
  packageW := 0
  tjMax := 0

/-- The debug port locked, empty queues, no halts (18). -/
def Dbg.init : Dbg := ⟨0x01, 0, [], [], 0, none, [], 0, 0, 0, 0, 0, false, [], 0, [], none⟩

/-- No update under way. -/
def Update.init : Update := ⟨false, false, 0, none, 0, false, false, [], 0, [], 0, []⟩

/-- Settings never written: defaults apply (R450, log 3). -/
def SettingsCopy.init : SettingsCopy := ⟨0, []⟩

/-- An empty boot flash (log 3). -/
def Flash.init : Flash := ⟨none, none, [], none, .init, .init, ⟨[], []⟩, ⟨[], []⟩⟩

/-- Fuses and identity of the unit (log 2). -/
def Fuses.init : Fuses := ⟨zeros 64, 0, zeros 64, 0, 0, zeros 64⟩

/-- PWROK low: everything held in reset (R433 phase 0x0), memory with nothing listed, no command waiting. -/
def State.reset : State where
  part := .pz8x
  serial := 1
  stepping := 1
  fuses := .init
  flash := .init
  pwrok := false
  strapRecovery := false
  strapSpiSlow := false
  strapSmb := 0
  phase := 0
  failCode := 0
  phaseReached := 0
  thermtrip := false
  faultN := false
  faultNEnd := 0
  cfgActive := false
  ready := false
  fatal := false
  paused := false
  cvrSide := false
  cvrIntact := true
  fallbackNote := false
  settingsNote := []
  ticking := false
  stage := 0
  offset := 0
  now := 0
  period := 200
  periodAt := none
  periodWas := 200
  periodFrom := 0
  devCtl := .init 1
  devApply := false
  devLast := 0
  perrDev := false
  vrb := ⟨0, 0, false, false, false, false, 0⟩
  blks := []
  hostA := .init
  hostB := .init
  turn := none
  grantCores := 0
  grantStacks := 0
  grantHalves := 0
  mem := []
  marked := []
  pageRecs := []
  worn := []
  held := []
  events := []
  nextSeq := 1
  reports := []
  nextReport := 1
  linkRun := []
  linkStage := []
  drovers := []
  takeover := 0
  power := .init .pz8x
  rrPrev := []
  rrCur := []
  jobs := []
  cores := []
  svc := []
  chans := []
  rrHalf := []
  ways := []
  ports := []
  dom := .init
  upd := .init
  doeA := .init
  doeB := .init
  attA := .init
  attB := .init
  mctpConn := .init
  mctp := ⟨0, []⟩
  dbg := .init
  freeCtr := 0
  pending := []

end Sys2Proof.Machine
end

