-- ==== Sys2Proof/Machine/Ops.lean ====
section
/-! DEFINITION. The named operations that every meaning uses: device memory, line reads and page error records, events,
MSI-X, completion records, taking a command, device-fatal errors. -/
namespace Sys2Proof.Machine

/-- The timestamp of this moment (R61). -/
def State.stamp (s : State) : Stamp := ⟨s.stage, s.offset⟩

/-- The stage that the next tick begins (R60). -/
def State.nextStage (s : State) : Nat := if s.ticking then (s.stage + 1) % 2 ^ 48 else 0

/-- The device is out of reset, has booted and is not fatal: units work. -/
def State.live (s : State) : Bool := s.pwrok && s.ready && !s.fatal

/-- The device works and the Caravaneer is not halted (R473, R474): what its firmware does can happen. -/
def State.cvrWorks (s : State) : Bool := s.live && !s.dbg.haltCvr

/-- A host's port. -/
def State.host (s : State) : HostId → HostPort
  | .a => s.hostA
  | .b => s.hostB

/-- Change a host's port. -/
def State.setHost (s : State) (h : HostId) (p : HostPort) : State :=
  match h with
  | .a => { s with hostA := p }
  | .b => { s with hostB := p }

/-- A fresh free value and the counter after it (log 1). -/
def State.free (s : State) : Nat × State := (Config.freeNat s.freeCtr, { s with freeCtr := s.freeCtr + 1 })

/-- A fresh random draw (R441). -/
def State.draw (s : State) : BitVec 384 × State := (Config.random s.freeCtr, { s with freeCtr := s.freeCtr + 1 })

/-- Regions of device addresses (R27). -/
inductive Region where
  | hbm (stack : Nat)
  | depot (serai : Nat)
  | tile (core : Nat)
  | regs
  | host (h : HostId)
  | none
  deriving DecidableEq, Repr, Inhabited

/-- Bases of the device address map (R27). -/
def depotBase : Nat := 0x020000000000
def tileBase : Nat := 0x030000000000
def regBase : Nat := 0x040000000000
def hostABase : Nat := 0x800000000000
def hostBBase : Nat := 0xC00000000000

/-- Region of a device address on a part: `none` where it is unpopulated (R27, R483); a stack is there with its serai (R9). -/
def regionOf (p : Part) (a : Nat) : Region :=
  if a < depotBase then
    if Part.stackSerai (a / 2 ^ 37) < p.serais ∧ a % 2 ^ 37 < 72 * 2 ^ 30 then .hbm (a / 2 ^ 37) else .none
  else if a < tileBase then
    if (a - depotBase) / 2 ^ 28 < p.serais then .depot ((a - depotBase) / 2 ^ 28) else .none
  else if a < regBase then
    if (a - tileBase) / 2 ^ 24 < p.cores ∧ (a - tileBase) % 2 ^ 24 < 12 * 2 ^ 20 then .tile ((a - tileBase) / 2 ^ 24)
    else .none
  else if a < regBase + 2 ^ 32 then .regs
  else if a < hostABase then .none
  else if a < hostBBase then .host .a
  else if a < 2 ^ 48 then (if p.dual then .host .b else .none)
  else .none

/-- The address is device memory (HBM, depot or tile store). -/
def Region.isMem : Region → Bool
  | .hbm _ => true
  | .depot _ => true
  | .tile _ => true
  | _ => false

/-- First address of a core's tile store. -/
def tileAt (core : Nat) : Nat := tileBase + core * 2 ^ 24

/-- First address of a host's window. -/
def hostBase : HostId → Nat
  | .a => hostABase
  | .b => hostBBase

/-- The device event log (R379). -/
def logBase : Nat := 0x0011FFC00000
def logBytes : Nat := 4 * 2 ^ 20

/-- The address lies in the event log. -/
def inLog (a : Nat) : Bool := decide (logBase ≤ a ∧ a < logBase + logBytes)

/-- The line of an address. -/
def lineOf (a : Nat) : Nat := a / 64 * 64

/-- What an unlisted address reads as (R435, log 4, log 9). -/
def memDefault : Byte := 0#8

/-- The byte at an address. -/
def memByte (m : NMap Byte) (a : Nat) : Byte := mgetD m a memDefault

/-- Write one byte: the default takes the entry out. -/
def memPut (m : NMap Byte) (a : Nat) (b : Byte) : NMap Byte := if b = memDefault then merase m a else mset m a b

/-- Write consecutive bytes. -/
def memPuts (m : NMap Byte) (a : Nat) : List Byte → NMap Byte
  | [] => m
  | b :: r => memPuts (memPut m a b) (a + 1) r

/-- The canonical form of memory: addresses strictly rising, no entry equal to the default. -/
def Memory.wf (m : NMap Byte) : Bool := msorted 0 m && m.all (fun p => p.2 != memDefault)

/-- `n` bytes from `a`. -/
def memBytes (m : NMap Byte) (a n : Nat) : List Byte := (List.range n).map (fun k => memByte m (a + k))

/-- The byte at a device address. -/
def State.byte (s : State) (a : Nat) : Byte := memByte s.mem a

/-- `n` bytes of device memory from `a`. -/
def State.bytes (s : State) (a n : Nat) : List Byte := memBytes s.mem a n

/-- Write consecutive bytes: a line wholly written loses its mark, a line written in part keeps it (R398). -/
def State.store (s : State) (a : Nat) (d : List Byte) : State :=
  { s with mem := memPuts s.mem a d,
           marked := s.marked.filter (fun l => !decide (a ≤ l ∧ l + 64 ≤ a + d.length)) }

/-- The lines that `n` bytes from `a` touch. -/
def linesOf (a n : Nat) : List Nat :=
  if n = 0 then [] else (List.range ((a + n - 1) / 64 - a / 64 + 1)).map (fun k => (a / 64 + k) * 64)

/-- A list without repeats, first occurrences kept. -/
def dedup (l : List Nat) : List Nat := l.foldl (fun acc x => if acc.contains x then acc else acc ++ [x]) []

/-- Source type and index of the unit that holds a device address (R413, R485). -/
def holderOf (p : Part) (a : Nat) : Nat × Nat :=
  match regionOf p a with
  | .hbm n => (4, n)
  | .depot n => (3, n)
  | .tile c => (1, c)
  | .host h => (7, h.idx)
  | _ => (0, 0)

/-- A blank event of a code: no job, no task, source the active Caravaneer (R413, R485). -/
def State.ev (s : State) (code : Nat) : EventRec :=
  ⟨0, code, 0, 0xFF, 0, b2n s.cvrSide, ⟨0, 0⟩, 0xFFFFFFFF, 0, 0, 0, 0, 0⟩

/-- The 64 bytes of an event record (R413). -/
def EventRec.bytes (e : EventRec) : List Byte :=
  toLE 8 e.seq ++ toLE 4 (e.code % 2 ^ 16 + e.cls % 4 * 2 ^ 16 + e.job % 256 * 2 ^ 24)
    ++ toLE 4 (e.srcIndex % 2 ^ 12 + e.srcType % 16 * 2 ^ 12)
    ++ toLE 8 (e.time.stage % 2 ^ 48) ++ toLE 4 (e.time.offset % 2 ^ 24)
    ++ toLE 4 e.task ++ toLE 8 e.addr ++ toLE 8 e.arg0 ++ toLE 8 e.arg1 ++ toLE 4 e.report ++ toLE 4 (e.status % 2 ^ 16)

/-- The vector can be sent now (R358). -/
def HostPort.canSend (p : HostPort) (v : Nat) : Bool := p.link && p.msixOn && p.msixProg.getLsbD v

/-- 2 µs in cycles of 850 MHz (R358). -/
def msixGap : Nat := 1700

/-- A vector whose message cannot go is pending (R358). -/
def HostPort.latch (p : HostPort) (v : Nat) : HostPort :=
  { p with msixPend := p.msixPend ||| BitVec.ofNat 64 (2 ^ v), msixDefer := p.msixDefer &&& ~~~(BitVec.ofNat 64 (2 ^ v)) }

/-- Send one message of a vector. -/
def HostPort.send (p : HostPort) (now v : Nat) : HostPort :=
  { p with msixLast := mset p.msixLast v now, msixSent := mset p.msixSent v (mgetD p.msixSent v 0 + 1),
           msixPend := p.msixPend &&& ~~~(BitVec.ofNat 64 (2 ^ v)),
           msixDefer := p.msixDefer &&& ~~~(BitVec.ofNat 64 (2 ^ v)) }

/-- A record is posted for a vector: send at once, 2 µs after the previous message, or latch it pending (R358). -/
def HostPort.signal (p : HostPort) (now v : Nat) : HostPort :=
  if !p.canSend v then p.latch v
  else match mget p.msixLast v with
    | some t =>
      if now < t + msixGap then { p with msixDefer := p.msixDefer ||| BitVec.ofNat 64 (2 ^ v) } else p.send now v
    | none => p.send now v

/-- Signal a vector of a host. -/
def State.signal (s : State) (h : HostId) (v : Nat) : State := s.setHost h ((s.host h).signal s.now v)

/-- Host memory can be reached (R354): the port's link is up. -/
def State.hostUp (s : State) (h : HostId) : Bool := (s.host h).link

/-- Write one record to a host's mirror when it is enabled, advance MBX_EVT_TAIL and signal vector 1 (R379). While the link is down nothing
reaches that host's memory (R354): the record is in the device log alone (log 71). -/
def State.mirror (s : State) (h : HostId) (e : EventRec) : State :=
  let p := s.host h
  if p.mirrorOn && s.hostUp h then
    let s1 := s.store (hostBase h + p.mirror + 64 * (p.evtTail.toNat % 65536)) e.bytes
    s1.setHost h ({ p with evtTail := p.evtTail + 1 }.signal s.now 1)
  else s

/-- The host that owns a job. -/
def State.owner (s : State) (j : Nat) : Option HostId := (mget s.jobs j).map Job.owner

/-- The event arbiter numbers an event, writes it to the device log and to the entitled mirrors (R378, R379). While
the Caravaneer is halted or damaged it posts nothing of its own (R408, R474). -/
def State.post (s : State) (e0 : EventRec) : State :=
  if !s.pwrok || (e0.srcType == 0 && (s.dbg.haltCvr || !s.cvrIntact)) then s
  else
    let e := { e0 with seq := s.nextSeq, time := s.stamp }
    let s1 := { (s.store (logBase + 64 * (e.seq % 65536)) e.bytes) with
      nextSeq := s.nextSeq + 1, events := s.events ++ [e] }
    let s2 := s1.mirror .a e
    if e.job = 0xFF ∨ s.owner e.job = some .b then s2.mirror .b e else s2

/-- State of a task in a fault report (R412): 0 not started, 1 partial, 2 done. -/
def TaskRun.repState (t : TaskRun) : Nat :=
  match t.st with
  | .done => 2
  | .waiting => 0
  | .ready => 0
  | .notRun => 0
  | _ => 1

/-- The progress mark as a record holds it (R409). -/
def progMark (p : Option Nat) : Nat := (p.map (· % 2 ^ 32)).getD 0xFFFFFFFF

/-- A task's report entry (R411, R412): a partial task carries its failure status, or ST_ABORTED. -/
def TaskRun.entry (t : TaskRun) : RepEntry :=
  let st := t.repState
  ⟨t.hdr.id, st, t.hdr.kind,
    if st = 0 then 0 else if st = 2 ∨ t.st = .failed then t.status
      else match t.fail with
        | some f => f.status
        | none => 0x000F,
    if st = 0 then 0xFFFFFFFF else progMark t.progress⟩

/-- Keep a report; the 64 newest stay (R411). -/
def State.addReport (s : State) (r : Report) : State :=
  { s with reports := (s.reports ++ [r]).drop (s.reports.length + 1 - 64), nextReport := s.nextReport + 1 }

/-- Keep a report whose number was reserved when its cause was met. -/
def State.putReport (s : State) (r : Report) : State :=
  { s with reports := (s.reports ++ [r]).drop (s.reports.length + 1 - 64) }

/-- The report of every task of a job's running step. -/
def jobReport (s : State) (j : Nat) (run : RunStep) (cause cls seq : Nat) : Report :=
  ⟨s.nextReport, cause, cls, j, run.q.step, s.stamp, seq, run.tasks.map TaskRun.entry⟩

/-- One report for each job with a running step (R408, R411). -/
def State.fatalReports (s : State) (cause seq : Nat) : State :=
  s.jobs.foldl (fun s p => match p.2.run with
    | some r => s.addReport (jobReport s p.1 r cause 3 seq)
    | none => s) s

/-- DEV_CTL.FAULTN_FATAL and FAULTN_JOB in force (R389). -/
def State.faultnFatal (s : State) : Bool := s.devCtl.act.getLsbD 0
def State.faultnJob (s : State) : Bool := s.devCtl.act.getLsbD 1

/-- The Caravaneer works: intact, not halted (R474), its firmware loaded in phase 3 (R433, log 72). -/
def State.cvrUp (s : State) : Bool :=
  s.cvrIntact && !s.dbg.haltCvr && decide (4 ≤ (if s.phase = 0xF then s.phaseReached else s.phase).toNat)

/-- A device-fatal error (R408, R415): the cause's own event first, then the reports and EV_DEVICE_FATAL, FATAL,
FAULT_N and vector 18. A fault after the first is logged and changes nothing more (R407). -/
def State.deviceFatal (s : State) (cause : Option EventRec) (arg0 arg1 : Nat) : State :=
  if !s.pwrok then s
  else if s.fatal then (cause.map s.post).getD s
  else
    let rid := if s.jobs.any (fun p => p.2.run.isSome) then s.nextReport else 0
    let seq := s.nextSeq
    let s1 := (cause.map (fun e => s.post { e with report := rid })).getD s
    let s2 := if s1.cvrUp then
        (s1.fatalReports arg0 seq).post { s1.ev 0x020A with cls := 3, arg0 := arg0, arg1 := arg1, report := rid }
      else s1
    let s3 := { s2 with fatal := true, faultN := s2.faultN || s2.faultnFatal }
    (s3.signal .a 18).signal .b 18

/-- The page error record of a line's 2 MiB (R402). -/
def pageKey (a : Nat) : Nat := a / 2 ^ 21

/-- An empty record. -/
def PageRec.init : PageRec := ⟨0, 0, 0, none, []⟩

/-- An HBM page becomes worn, once (R403). -/
def State.wear (s : State) (l reason : Nat) : State :=
  match regionOf s.part l with
  | .hbm n =>
    if s.worn.contains (pageKey l) then s
    else { s with worn := s.worn ++ [pageKey l] }.post
      { s.ev 0x0204 with srcType := 4, srcIndex := n, addr := pageKey l * 2 ^ 21, arg0 := reason }
  | _ => s

/-- One corrected event of a line (R402–R404), met by a reader of a job's task, or of none (0xFF, 0xFFFF_FFFF). -/
def State.corrected (s : State) (job task l : Nat) : State :=
  if !(regionOf s.part l).isMem then s
  else
    let r := mgetD s.pageRecs (pageKey l) .init
    let due := match r.posted with
      | none => true
      | some p => decide (p + 1000 ≤ s.stage)
    let lines := mset r.lines l s.stage
    let r1 : PageRec := { r with corr := r.corr + 1, last := s.stage, lines := lines,
                                 posted := if due then some s.stage else r.posted }
    let s1 := { s with pageRecs := mset s.pageRecs (pageKey l) r1 }
    let u := holderOf s.part l
    let s2 := if due then s1.post { s.ev 0x0201 with
      job := job, task := task, srcType := u.1, srcIndex := u.2, addr := l, arg0 := r1.corr } else s1
    if 16 ≤ (lines.filter (fun p => decide (s.stage ≤ p.2 + 100000))).length then s2.wear l 1 else s2

/-- Mark a line of device memory (R398). -/
def State.mark (s : State) (l : Nat) : State :=
  if (regionOf s.part l).isMem && !s.marked.contains l then { s with marked := s.marked ++ [l] } else s

/-- Count one uncorrectable event (R402) and wear the page (R403). -/
def State.countUnc (s : State) (l : Nat) : State :=
  if !(regionOf s.part l).isMem then s
  else
    let r := mgetD s.pageRecs (pageKey l) .init
    { s with pageRecs := mset s.pageRecs (pageKey l) { r with unc := r.unc + 1, last := s.stage } }

/-- Who reads, and for which job and task, with the class that an uncorrectable line has there (R406). -/
structure Reader where
  srcType : Nat
  srcIndex : Nat
  job : Nat
  task : Nat
  cls : Nat
  deriving DecidableEq, Repr, Inhabited

/-- An uncorrectable line met by a reader: marked, counted, EV_MEM_UNCORR, then wear (R398, R402, R403, R406). A line
of the event log is device-fatal. -/
def State.uncorrectable (s : State) (r : Reader) (l : Nat) : State :=
  let u := holderOf s.part l
  let e : EventRec := { s.ev 0x0202 with
    cls := if inLog l then 3 else r.cls, srcType := u.1, srcIndex := u.2, job := r.job, task := r.task, addr := l
    arg0 := r.srcType * 2 ^ 12 + r.srcIndex }
  let s1 := (s.mark l).countUnc l
  if inLog l then (s1.deviceFatal (some e) 0x0202 0).wear l 0 else (s1.post e).wear l 0

/-- Device address of a job address under a page table (R28). -/
def xlate (pt : NMap Nat) (va : Nat) : Option Nat := (mget pt (va / 2 ^ 21)).map (· + va % 2 ^ 21)

/-- A line that some job has lost to host memory (R400). -/
def lostLine (s : State) (l : Nat) : Bool := s.jobs.any (fun p => p.2.lost.any (fun va => xlate p.2.pt va == some l))

/-- The line reads uncorrectable: marked, lost, or met so in this step. -/
def badLine (s : State) (f : Faults) (l : Nat) : Bool :=
  s.marked.contains l || f.uncorr.any (fun a => lineOf a.toNat == l) || lostLine s l

/-- The lines among `ls` that read uncorrectable. -/
def badLines (s : State) (f : Faults) (ls : List Nat) : List Nat := ls.filter (badLine s f)

/-- Account for every line that a step reads: corrected events and uncorrectable ones, in address order given. -/
def State.meet (s : State) (r : Reader) (f : Faults) (ls : List Nat) : State :=
  ls.foldl (fun t l =>
    if badLine s f l then t.uncorrectable r l
    else if f.corr.any (fun a => lineOf a.toNat == l) then t.corrected r.job r.task l
    else t) s

/-- The reads that come before a write of lines in part (R395): a corrected line counts one corrected event, an uncorrectable
one is marked. -/
def State.merge (s : State) (r : Reader) (f : Faults) (ls : List Nat) : State :=
  ls.foldl (fun t l =>
    if badLine s f l then t.mark l
    else if f.corr.any (fun a => lineOf a.toNat == l) then t.corrected r.job r.task l
    else t) s

/-- A write that may cover lines in part (R395, R398): each such line is read first, and an uncorrectable one keeps its
mark. -/
def State.put (s : State) (r : Reader) (f : Faults) (a : Nat) (d : List Byte) : State :=
  let part := (linesOf a d.length).filter (fun l => !decide (a ≤ l ∧ l + 64 ≤ a + d.length))
  (s.merge r f part).store a d

/-- The 32 bytes of a completion record (R363). -/
def CplRec.bytes (r : CplRec) : List Byte :=
  toLE 4 r.dsn ++ toLE 4 r.hsn ++ toLE 4 (r.status % 2 ^ 16 + r.kind % 256 * 2 ^ 16 + r.job % 256 * 2 ^ 24) ++ toLE 4 (r.opcode % 2 ^ 16)
    ++ toLE 8 (r.stage % 2 ^ 48) ++ toLE 8 r.result

/-- Post a completion record or a step notice to a host (R363). -/
def State.record (s : State) (h : HostId) (kind hsn op job status stage result : Nat) : State :=
  let p := s.host h
  let r : CplRec := ⟨p.nextDsn, hsn, status, kind, job, op, stage, result % 2 ^ 64⟩
  let p1 := { p with cplRing := mset p.cplRing (p.cplTail.toNat % 1024) r, cplTail := p.cplTail + 1,
                     nextDsn := if p.nextDsn = 0xFFFFFFFF then 1 else p.nextDsn + 1 }
  s.setHost h (p1.signal s.now (if job = 0xFF then 0 else 2 + job % 16))

/-- A host's open count (R360). -/
def HostPort.openCount (p : HostPort) : Nat :=
  p.openCmds.length + p.notices.length + (p.cplTail - p.cplHead).toNat

/-- A host has a slot that the device may take now (R360). -/
def State.mayTake (s : State) (h : HostId) : Bool :=
  let p := s.host h
  s.pwrok && s.ready && !s.paused && s.takeover == 0 && s.cvrIntact && !s.dbg.haltCvr && s.part.hasHost h
    && p.cmdHead != p.cmdTail && decide (p.openCount < 1024)

/-- It is this host's turn: the other took the last one, or has no slot to take (R360). -/
def State.turnOf (s : State) (h : HostId) : Bool :=
  s.turn != some h || !(s.mayTake (match h with
    | .a => .b
    | .b => .a))

end Sys2Proof.Machine

namespace Sys2Proof

open Sys2Proof.Machine

/-- Bits [lo + w − 1 : lo] at byte offset `off` of a command record, `off` at least 8 (R361). -/
def CmdRec.par (c : CmdRec) (off lo w : Nat) : Nat := bits c.params.toNat ((off - 8) * 8 + lo) w

/-- Every parameter bit outside the listed fields (offset, low bit, width) is zero (R370). -/
def CmdRec.onlyFields (c : CmdRec) (fs : List (Nat × Nat × Nat)) : Bool :=
  let m := fs.foldl (fun a f => a ||| ((2 ^ f.2.2 - 1) * 2 ^ ((f.1 - 8) * 8 + f.2.1))) 0
  c.params.toNat &&& m == c.params.toNat

end Sys2Proof

namespace Sys2Proof.Machine

/-- Take the slot at MBX_CMD_HEAD, which holds command `c` (R360, log 8). -/
def State.take (s : State) (h : HostId) (op : Nat) (c : CmdRec) : State :=
  let p := s.host h
  { (s.setHost h { p with cmdRing := mset p.cmdRing (p.cmdHead.toNat % 1024) (c.slot op),
                          cmdHead := p.cmdHead + 1 }) with turn := some h }

/-- What a command's own part answers: it has completed, or it stays open. -/
inductive CmdRes where
  | done (s : State) (status result : Nat)
  /-- completed with the stage from which its effect holds -/
  | doneAt (s : State) (status result stage : Nat)
  | later (s : State) (k : OpenKind)
  deriving DecidableEq, Repr

/-- A command row: opcode, host A only, job command, job named by host A too (JOB_DESTROY), accepted while fatal,
parameter fields. -/
structure CmdSpec where
  op : Nat
  aOnly : Bool
  job : Bool
  anyJobA : Bool
  fatalOk : Bool
  fields : List (Nat × Nat × Nat)
  deriving DecidableEq, Repr

/-- Accept the command with the expected HSN (R362). -/
def State.accept (s : State) (h : HostId) : State :=
  let p := s.host h
  s.setHost h { p with lastHsn := p.expHsn, expHsn := if p.expHsn = 0xFFFFFFFF then 1 else p.expHsn + 1 }

/-- Host A's JOB_DESTROY of the job is open: a later command of host B for it finds no job (R375). -/
def State.destroyedByA (s : State) (j : Nat) : Bool :=
  s.hostA.openCmds.any (fun (o : OpenCmd) => o.kind == .release && o.job == j)

/-- The checks that come before a command's own part; 0 when all pass (R353, R370, R375, R408). DESIGN CHOICE (log 60): the order of the
checks where a command breaks several rules: device fatal, host, reserved bits, job number, job; a command's own part and any
ST_ABSENT come after. -/
def cmdCheck (sp : CmdSpec) (h : HostId) (c : CmdRec) (s : State) : Nat :=
  if s.fatal && !sp.fatalOk then 0x0016
  else if sp.aOnly && h == .b then 0x0003
  else if c.rsvd != 0 || !c.onlyFields sp.fields then 0x0003
  else if !sp.job then (if c.job.toNat = 0xFF then 0 else 0x0003)
  else if 16 ≤ c.job.toNat then 0x0003
  else match mget s.jobs c.job.toNat with
    | none => 0x0005
    | some j =>
      if (j.owner = h ∨ (sp.anyJobA ∧ h = .a)) ∧ (if sp.anyJobA then h = .a ∨ !s.destroyedByA c.job.toNat else j.abort.isNone)
      then 0 else 0x0005

/-- A command whose own part runs: it is taken in turn, in sequence, and passes the common checks (R360, R362, R370). -/
def State.runs (s : State) (sp : CmdSpec) (h : HostId) (c : CmdRec) : Bool :=
  s.mayTake h && s.turnOf h && c.hsn.toNat == (s.host h).expHsn && cmdCheck sp h c s == 0

/-- The state in which a command's own part starts: its slot is taken and its HSN accepted. -/
def State.begun (s : State) (op : Nat) (h : HostId) (c : CmdRec) : State := (s.take h op c).accept h

/-- What follows a command's own part: its completion record, or its place among the open commands (R364). -/
def cmdAnswer (op : Nat) (h : HostId) (c : CmdRec) : CmdRes → State
  | .done t st r => t.record h 0 c.hsn.toNat op c.job.toNat st t.stage r
  | .doneAt t st r g => t.record h 0 c.hsn.toNat op c.job.toNat st g r
  | .later t kd =>
    t.setHost h { t.host h with openCmds := (t.host h).openCmds ++ [⟨c.hsn.toNat, op, c.job.toNat, kd, c⟩] }

/-- A command that was taken: out of sequence, rejected by the common checks, or run (R362, R364, R370). -/
def State.command (s : State) (sp : CmdSpec) (h : HostId) (c : CmdRec) (body : State → CmdRes) : State :=
  if !(s.mayTake h && s.turnOf h) then s
  else
    let s1 := s.take h sp.op c
    let hsn := c.hsn.toNat
    let jb := c.job.toNat
    if hsn ≠ (s1.host h).expHsn then s1.record h 0 hsn sp.op jb 0x0006 s1.stage (s1.host h).expHsn
    else
      let s2 := s.begun sp.op h c
      let k := cmdCheck sp h c s2
      if k ≠ 0 then s2.record h 0 hsn sp.op jb k s2.stage 0
      else cmdAnswer sp.op h c (body s2)

/-- Complete the open commands of a host that `f` picks, with a status and result each. -/
def State.completeWhere (s : State) (h : HostId) (f : OpenCmd → Option (Nat × Nat)) : State :=
  let hit := (s.host h).openCmds.filterMap (fun o => (f o).map (fun r => (o, r)))
  let s1 := s.setHost h { s.host h with openCmds := (s.host h).openCmds.filter (fun o => (f o).isNone) }
  hit.foldl (fun t p => t.record h 0 p.1.hsn p.1.op p.1.job p.2.1 t.stage p.2.2) s1

/-- Complete open commands of both hosts. -/
def State.completeBoth (s : State) (f : OpenCmd → Option (Nat × Nat)) : State :=
  (s.completeWhere .a f).completeWhere .b f

/-- Device address of a bus address of a host (R483); none from 2^46 on. -/
def hostAddr (h : HostId) (ha : Nat) : Option Nat := if ha < 2 ^ 46 then some (hostBase h + ha) else none

/-- `n` bytes of host memory at a bus address; none when the access fails (R370). -/
def State.hostRead (s : State) (h : HostId) (ha n : Nat) : Option (List Byte) :=
  if s.hostUp h ∧ ha + n ≤ 2 ^ 46 then some (s.bytes (hostBase h + ha) n) else none

/-- Write host memory at a bus address; none when the access fails. -/
def State.hostWrite (s : State) (h : HostId) (ha : Nat) (d : List Byte) : Option State :=
  if s.hostUp h ∧ ha + d.length ≤ 2 ^ 46 then some (s.store (hostBase h + ha) d) else none

/-- Device addresses of `n` bytes at a job address, none when a page is not mapped (R17). -/
def mappedAll (pt : NMap Nat) (va n : Nat) : Bool :=
  decide (va + n ≤ 2 ^ 44) && (n == 0 ||
    (List.range ((va + n - 1) / 2 ^ 21 - va / 2 ^ 21 + 1)).all (fun k => (mget pt (va / 2 ^ 21 + k)).isSome))

/-- A translated device address can be reached: its host's link is up where it lies in host memory (R354). -/
def State.reach (s : State) (a : Nat) : Bool :=
  match regionOf s.part a with
  | .host h => s.hostUp h
  | .none => false
  | .regs => false
  | _ => true

/-- Every byte of a job range is mapped and can be reached. -/
def State.jobReach (s : State) (pt : NMap Nat) (va n : Nat) : Bool :=
  mappedAll pt va n && (n == 0 ||
    (List.range ((va + n - 1) / 2 ^ 21 - va / 2 ^ 21 + 1)).all (fun k =>
      match mget pt (va / 2 ^ 21 + k) with
      | some a => s.reach a
      | none => false))

/-- The byte at a job address; the default where it is not mapped. -/
def jobByte (s : State) (pt : NMap Nat) (va : Nat) : Byte := ((xlate pt va).map s.byte).getD memDefault

/-- `n` bytes at a job address. -/
def jobBytes (s : State) (pt : NMap Nat) (va n : Nat) : List Byte :=
  (List.range n).map (fun k => jobByte s pt (va + k))

/-- Device lines of `n` bytes at a job address. -/
def jobLines (pt : NMap Nat) (va n : Nat) : List Nat := (linesOf va n).filterMap (fun l => xlate pt l)

/-- Write bytes at a job address, page by page within lines. -/
def State.jobStore (s : State) (pt : NMap Nat) (va : Nat) (d : List Byte) : State :=
  (linesOf va d.length).foldl (fun t l =>
    let lo := max l va
    let hi := min (l + 64) (va + d.length)
    match xlate pt lo with
    | some a => t.store a ((d.drop (lo - va)).take (hi - lo))
    | none => t) s

/-- A job. -/
def State.job (s : State) (j : Nat) : Option Job := mget s.jobs j

/-- Replace a job. -/
def State.setJob (s : State) (j : Nat) (v : Job) : State := { s with jobs := mset s.jobs j v }

/-- A core's state. -/
def CoreSt.init : CoreSt := ⟨[], [], ⟨[], []⟩, ⟨[], []⟩, [], none⟩
def State.core (s : State) (c : Nat) : CoreSt := mgetD s.cores c .init
def State.setCore (s : State) (c : Nat) (v : CoreSt) : State := { s with cores := mset s.cores c v }

end Sys2Proof.Machine
end

