-- ==== Sys2Proof/Machine/Clock.lean ====
section
/-! DEFINITION. The 850 MHz clock between commands (R59, R61, log 28). -/
namespace Sys2Proof.Machine

/-- Cycles of a stage period (R58, R61). -/
def State.periodCycles (s : State) : Nat := s.period * 850

/-- One cycle with no command (log 28): time since PWROK goes on, the offset stays below the period until the tick
comes, and a FAULT_N pulse of 1 ms ends (R389). -/
def State.idleCycle (s : State) : State :=
  if s.pwrok then
    { s with
      now := s.now + 1
      offset := if s.ticking && decide (s.offset + 1 < s.periodCycles) then s.offset + 1 else s.offset
      faultN := s.faultN && !(!s.fatal && decide (s.faultNEnd ≤ s.now + 1)) }
  else s

end Sys2Proof.Machine
end

