-- ==== Sys2Proof/Machine/Crypto.lean ====
section
/-! DEFINITION. The published primitives that chapters 11 and 17 name: SHA-512, HMAC, HKDF, RSASSA-PKCS1-v1_5 with
SHA-512, and CRC-32 of IEEE 802.3, as functions on bytes. -/
namespace Sys2Proof.Machine

/-- Round constants of SHA-512, twenty to a list. -/
def shaK0 : List Nat := [
  0x428A2F98D728AE22, 0x7137449123EF65CD, 0xB5C0FBCFEC4D3B2F, 0xE9B5DBA58189DBBC,
  0x3956C25BF348B538, 0x59F111F1B605D019, 0x923F82A4AF194F9B, 0xAB1C5ED5DA6D8118,
  0xD807AA98A3030242, 0x12835B0145706FBE, 0x243185BE4EE4B28C, 0x550C7DC3D5FFB4E2,
  0x72BE5D74F27B896F, 0x80DEB1FE3B1696B1, 0x9BDC06A725C71235, 0xC19BF174CF692694,
  0xE49B69C19EF14AD2, 0xEFBE4786384F25E3, 0x0FC19DC68B8CD5B5, 0x240CA1CC77AC9C65]

/-- Round constants of SHA-512, twenty to a list. -/
def shaK1 : List Nat := [
  0x2DE92C6F592B0275, 0x4A7484AA6EA6E483, 0x5CB0A9DCBD41FBD4, 0x76F988DA831153B5,
  0x983E5152EE66DFAB, 0xA831C66D2DB43210, 0xB00327C898FB213F, 0xBF597FC7BEEF0EE4,
  0xC6E00BF33DA88FC2, 0xD5A79147930AA725, 0x06CA6351E003826F, 0x142929670A0E6E70,
  0x27B70A8546D22FFC, 0x2E1B21385C26C926, 0x4D2C6DFC5AC42AED, 0x53380D139D95B3DF,
  0x650A73548BAF63DE, 0x766A0ABB3C77B2A8, 0x81C2C92E47EDAEE6, 0x92722C851482353B]

/-- Round constants of SHA-512, twenty to a list. -/
def shaK2 : List Nat := [
  0xA2BFE8A14CF10364, 0xA81A664BBC423001, 0xC24B8B70D0F89791, 0xC76C51A30654BE30,
  0xD192E819D6EF5218, 0xD69906245565A910, 0xF40E35855771202A, 0x106AA07032BBD1B8,
  0x19A4C116B8D2D0C8, 0x1E376C085141AB53, 0x2748774CDF8EEB99, 0x34B0BCB5E19B48A8,
  0x391C0CB3C5C95A63, 0x4ED8AA4AE3418ACB, 0x5B9CCA4F7763E373, 0x682E6FF3D6B2B8A3,
  0x748F82EE5DEFB2FC, 0x78A5636F43172F60, 0x84C87814A1F0AB72, 0x8CC702081A6439EC]

/-- Round constants of SHA-512, twenty to a list. -/
def shaK3 : List Nat := [
  0x90BEFFFA23631E28, 0xA4506CEBDE82BDE9, 0xBEF9A3F7B2C67915, 0xC67178F2E372532B,
  0xCA273ECEEA26619C, 0xD186B8C721C0C207, 0xEADA7DD6CDE0EB1E, 0xF57D4F7FEE6ED178,
  0x06F067AA72176FBA, 0x0A637DC5A2C898A6, 0x113F9804BEF90DAE, 0x1B710B35131C471B,
  0x28DB77F523047D84, 0x32CAAB7B40C72493, 0x3C9EBE0A15C9BEBC, 0x431D67C49C100D4C,
  0x4CC5D4BECB3E42B6, 0x597F299CFC657E2A, 0x5FCB6FAB3AD6FAEC, 0x6C44198C4A475817]

/-- Initial hash value of SHA-512. -/
def shaH : List Nat := [
  0x6A09E667F3BCC908, 0xBB67AE8584CAA73B, 0x3C6EF372FE94F82B, 0xA54FF53A5F1D36F1,
  0x510E527FADE682D1, 0x9B05688C2B3E6C1F, 0x1F83D9ABFB41BD6B, 0x5BE0CD19137E2179]

/-- All 80 round constants. -/
def shaKs : List Nat := shaK0 ++ shaK1 ++ shaK2 ++ shaK3

/-- Rotate a 64-bit number right. -/
def rotr64 (x n : Nat) : Nat := (x / 2 ^ n) ||| (x * 2 ^ (64 - n) % 2 ^ 64)

/-- The eight working variables. -/
structure Sha where
  a : Nat
  b : Nat
  c : Nat
  d : Nat
  e : Nat
  f : Nat
  g : Nat
  h : Nat
  deriving DecidableEq, Repr, Inhabited

/-- The next word of the message schedule from the sixteen before it, oldest first. -/
def shaNext (w : List Nat) : Nat :=
  let x := nth w 1
  let y := nth w 14
  (nth w 0 + (rotr64 x 1 ^^^ rotr64 x 8 ^^^ x / 2 ^ 7) + nth w 9 + (rotr64 y 19 ^^^ rotr64 y 61 ^^^ y / 2 ^ 6))
    % 2 ^ 64

/-- The rounds: `w` holds the next sixteen schedule words. -/
def shaRounds : List Nat → List Nat → Sha → Sha
  | [], _, s => s
  | k :: ks, w, s =>
    let t1 := s.h + (rotr64 s.e 14 ^^^ rotr64 s.e 18 ^^^ rotr64 s.e 41)
      + ((s.e &&& s.f) ^^^ ((2 ^ 64 - 1 - s.e) &&& s.g)) + k + nth w 0
    let t2 := (rotr64 s.a 28 ^^^ rotr64 s.a 34 ^^^ rotr64 s.a 39)
      + ((s.a &&& s.b) ^^^ (s.a &&& s.c) ^^^ (s.b &&& s.c))
    shaRounds ks (w.drop 1 ++ [shaNext w])
      ⟨(t1 + t2) % 2 ^ 64, s.a, s.b, s.c, (s.d + t1) % 2 ^ 64, s.e, s.f, s.g⟩

/-- One block of 128 bytes. -/
def shaBlock (s : Sha) (b : List Byte) : Sha :=
  let r := shaRounds shaKs ((chunksOf 8 b).map beNat) s
  ⟨(s.a + r.a) % 2 ^ 64, (s.b + r.b) % 2 ^ 64, (s.c + r.c) % 2 ^ 64, (s.d + r.d) % 2 ^ 64,
    (s.e + r.e) % 2 ^ 64, (s.f + r.f) % 2 ^ 64, (s.g + r.g) % 2 ^ 64, (s.h + r.h) % 2 ^ 64⟩

/-- SHA-512 of a message, 64 bytes. -/
def sha512 (m : List Byte) : List Byte :=
  let z := (128 - (m.length + 17) % 128) % 128
  let p := m ++ [0x80#8] ++ zeros z ++ toBE 16 (8 * m.length)
  let i : Sha := ⟨nth shaH 0, nth shaH 1, nth shaH 2, nth shaH 3, nth shaH 4, nth shaH 5, nth shaH 6, nth shaH 7⟩
  let s := (chunksOf 128 p).foldl shaBlock i
  [s.a, s.b, s.c, s.d, s.e, s.f, s.g, s.h].flatMap (toBE 8)

/-- Bytes combined with one byte by exclusive or. -/
def xorByte (b : List Byte) (v : Byte) : List Byte := b.map (· ^^^ v)

/-- HMAC with SHA-512 (RFC 2104). -/
def hmac512 (key msg : List Byte) : List Byte :=
  let k := fitBytes 128 (if key.length > 128 then sha512 key else key)
  sha512 (xorByte k 0x5C#8 ++ sha512 (xorByte k 0x36#8 ++ msg))

/-- HKDF with SHA-512 (RFC 5869), `n` bytes, at most 64. -/
def hkdf512 (ikm salt info : List Byte) (n : Nat) : List Byte :=
  (hmac512 (hmac512 salt ikm) (info ++ [0x01#8])).take n

/-- b^e modulo n by `fuel` squarings, least significant exponent bit first. -/
def powModGo (n : Nat) : Nat → Nat → Nat → Nat → Nat
  | 0, _, _, acc => acc
  | fuel + 1, b, e, acc =>
    if e = 0 then acc
    else powModGo n fuel (b * b % n) (e / 2) (if e % 2 = 1 then acc * b % n else acc)

/-- b^e modulo n for exponents below 2^4200. -/
def powMod (b e n : Nat) : Nat := powModGo n 4200 (b % n) e (1 % n)

/-- The encoded message of RSASSA-PKCS1-v1_5 with SHA-512 for a 512-byte modulus (RFC 8017). -/
def pkcs1 (msg : List Byte) : List Byte :=
  let der : List Byte := [0x30, 0x51, 0x30, 0x0D, 0x06, 0x09, 0x60, 0x86, 0x48, 0x01, 0x65, 0x03, 0x04, 0x02, 0x03,
    0x05, 0x00, 0x04, 0x40]
  [0x00#8, 0x01#8] ++ List.replicate 426 0xFF#8 ++ [0x00#8] ++ der ++ sha512 msg

/-- A signature of 512 bytes verifies under modulus `n` and exponent `e`. -/
def rsaVerify (n e : Nat) (msg sig : List Byte) : Bool :=
  sig.length == 512 && decide (beNat sig < n) && powMod (beNat sig) e n == beNat (pkcs1 msg)

/-- The signature of a message under modulus `n` and private exponent `d`. -/
def rsaSign (n d : Nat) (msg : List Byte) : List Byte := toBE 512 (powMod (beNat (pkcs1 msg)) d n)

/-- Eight steps of the reflected CRC-32. -/
def crcBits : Nat → Nat → Nat
  | 0, c => c
  | k + 1, c => crcBits k (if c % 2 = 1 then (c / 2) ^^^ 0xEDB88320 else c / 2)

/-- CRC-32 of IEEE 802.3. -/
def crc32 (m : List Byte) : Nat := (m.foldl (fun c b => crcBits 8 (c ^^^ b.toNat)) 0xFFFFFFFF) ^^^ 0xFFFFFFFF

end Sys2Proof.Machine
end

