-- ==== Sys2Proof/Machine/Registers.lean ====
section
/-! DEFINITION. The register interface (14_registers.md): register reads, the arbiter's writes, parity, posted writes,
apply registers and their tick sample, the regulator bridge. -/
namespace Sys2Proof.Machine

/-- Write a configuration register's pending copy: parity is recomputed in the groups that change (R385). -/
def CfgReg.write (r : CfgReg) (v : BitVec 32) : CfgReg :=
  let p := parityOf v
  let g0 := v.toNat % 2 ^ 16 == r.pend.toNat % 2 ^ 16
  let g1 := v.toNat / 2 ^ 16 == r.pend.toNat / 2 ^ 16
  { r with
    pend := v
    pendPar := BitVec.ofNat 2 (b2n (if g0 then r.pendPar.getLsbD 0 else p.getLsbD 0)
      + 2 * b2n (if g1 then r.pendPar.getLsbD 1 else p.getLsbD 1)) }

/-- The pending copy passes its parity check. -/
def CfgReg.pendOk (r : CfgReg) : Bool := r.pendPar == parityOf r.pend

/-- The active copy passes its parity check. -/
def CfgReg.actOk (r : CfgReg) : Bool := r.actPar == parityOf r.act

/-- The pending copy becomes active (R79). -/
def CfgReg.takeUp (r : CfgReg) : CfgReg := { r with act := r.pend, actPar := r.pendPar }

/-- An MW write: new data bits and whether any mask bit is set (R384). -/
def mwData (old v : Nat) : Nat := (old &&& (65535 - v / 2 ^ 16 % 2 ^ 16)) ||| (v % 2 ^ 16 &&& (v / 2 ^ 16 % 2 ^ 16))
def mwAny (v : Nat) : Bool := v / 2 ^ 16 % 2 ^ 16 != 0

/-- Stored bits of the host-written registers (R6, R389, R391). -/
def devCtlMask : Nat := 0x3
def winLoMask : Nat := 0xC0000000
def winHiMask : Nat := 0xFFFF

/-- BAR0 registers answer a host (R381, R432). -/
def State.bar0Up (s : State) (h : HostId) : Bool := s.pwrok && s.cfgActive && (s.host h).link && s.part.hasHost h

/-- DEV_STATE (R389). -/
def State.devState (s : State) : Nat :=
  s.phase.toNat + 16 * b2n s.ready + 32 * b2n s.fatal + 64 * b2n s.paused + 128 * b2n s.cvrSide

/-- DEV_ERR (R389). -/
def State.devErr (s : State) : Nat :=
  b2n s.perrDev + 2 * b2n s.hostA.perr + 4 * b2n s.hostB.perr + 8 * b2n s.hostA.mbxIndex + 16 * b2n s.hostB.mbxIndex

/-- The apply register as read (R387). -/
def applyRead (a : Bool) (last : Nat) : Nat := b2n a + 2 * last

/-- VRB_STATUS (R392). -/
def State.vrbStatus (s : State) : Nat :=
  b2n s.vrb.busy + 2 * b2n s.vrb.dropped + 4 * b2n s.vrb.nack + 8 * b2n s.vrb.pecErr

/-- A register of BAR0 as a host reads it; the host page is the reader's own (R381, R388–R392). An offset outside the
register blocks reads zero. -/
def State.bar0Read (s : State) (h : HostId) (off : Nat) : Nat :=
  let pg := (s.host h).page
  match off with
  | 0x0000 => s.part.devId
  | 0x0004 => s.stepping % 256
  | 0x0008 => s.serial % 2 ^ 32
  | 0x000C => s.serial / 2 ^ 32 % 2 ^ 32
  | 0x1000 => s.part.capDies.toNat
  | 0x1004 => s.part.capStacks.toNat
  | 0x1008 => s.part.capPortsLo.toNat
  | 0x100C => s.part.capPortsHi.toNat
  | 0x1010 => s.part.capMedia.toNat
  | 0x1014 => s.part.capLinks.toNat
  | 0x1018 => s.part.capHost.toNat
  | 0x2000 => s.devState
  | 0x2004 => s.devErr
  | 0x2008 => s.stage % 2 ^ 32
  | 0x200C => (s.host h).timeCap.stage / 2 ^ 32 % 2 ^ 16
  | 0x2010 => (s.host h).timeCap.offset % 2 ^ 24
  | 0x2014 => s.devCtl.pend.toNat
  | 0x2018 => applyRead s.devApply s.devLast
  | 0x201C => s.power.tjMax % 256 + s.power.packageW % 2 ^ 16 * 256
  | 0x3000 => pg.winLo.pend.toNat
  | 0x3004 => pg.winHi.pend.toNat
  | 0x3008 => applyRead pg.apply pg.last
  | 0x4000 => s.vrb.cmd.toNat
  | 0x4004 => s.vrbStatus
  | 0x4008 => s.vrb.data.toNat
  | _ => 0

/-- A dword of a host's doorbell page (R393). -/
def State.doorbellRead (s : State) (h : HostId) (off : Nat) : Nat :=
  let p := s.host h
  match off with
  | 0x00 => p.cmdTail.toNat
  | 0x04 => p.cmdHead.toNat
  | 0x08 => p.cplHead.toNat
  | 0x0C => p.cplTail.toNat
  | 0x10 => p.evtTail.toNat
  | _ => 0

/-- Blocks outside BAR0 (log 6): 0 … 127 cores, 128 … 135 C-die drover controllers, 136 … 139 serais, 140 … 155 optical
engines, 4 KiB each from 0x0400_0100_0000. -/
def blkBase : Nat := regBase + 0x01000000
def blkAddr (i : Nat) : Nat := blkBase + i * 4096

/-- The block is present on the part. -/
def blkPresent (p : Part) (i : Nat) : Bool :=
  if i < 128 then decide (i < p.cores)
  else if i < 136 then decide (i - 128 < p.cdies)
  else if i < 140 then decide (i - 136 < p.serais)
  else if i < 156 then decide (i - 140 < p.engines)
  else false

/-- The drover that alone writes a block (R20). -/
def blkDrover (i : Nat) : DieId :=
  if i < 128 then .cdie (BitVec.ofNat 3 (i / 16))
  else if i < 136 then .cdie (BitVec.ofNat 3 (i - 128))
  else if i < 140 then .serai (BitVec.ofNat 2 (i - 136))
  else .serai (BitVec.ofNat 2 (Part.engineSerai (i - 140)))

/-- Source type and index of a block's configuration events (R485). -/
def blkSrc (i : Nat) : Nat × Nat :=
  if i < 128 then (1, i)
  else if i < 136 then (2, i - 128)
  else if i < 140 then (3, i - 136)
  else (3, (i - 140) / 4)

/-- An untouched block. -/
def Blk.init : Blk := ⟨[], false, 0, none, [], none, false, 0⟩
def State.blk (s : State) (i : Nat) : Blk := mgetD s.blks i .init
def State.setBlk (s : State) (i : Nat) (b : Blk) : State := { s with blks := mset s.blks i b }

/-- A register of a block that nothing has written. -/
def BlkReg.init : BlkReg := ⟨.init 0, 0, none⟩

/-- The writer may write the block's registers: its drover, or the debug port (R20, R386, R472). -/
def mayWriteBlk (w : Writer) (i : Nat) : Bool :=
  match w with
  | .drover d => d == blkDrover i
  | .debugPort => true
  | _ => false

/-- The block has posted-write registers: serais and optical engines (R386). -/
def blkPosted (i : Nat) : Bool := decide (136 ≤ i)

/-- A register of the window as the debug port and firmware read it (R381, R471). -/
def State.regRead (s : State) (addr : Nat) : Nat :=
  let x := addr - regBase
  if addr < regBase then 0
  else if 0x5000 ≤ x ∧ x < 0x6000 then s.bar0Read .b (x - 0x2000)
  else if x < 0x01000000 then s.bar0Read .a x
  else
    let i := (addr - blkBase) / 4096
    let o := (addr - blkBase) % 4096
    if !blkPresent s.part i then 0
    else
      let b := s.blk i
      if o = 0xFFC then applyRead b.apply b.last
      else if o = 0xFF8 then b2n b.posted.isSome + 2 * b2n b.dropped
      else if blkPosted i ∧ 0x800 ≤ o then (mgetD b.pw o 0).toNat
      else (mgetD b.regs o .init).cfg.pend.toNat

/-- A write to DEV_CTL (R384, R389): clears DEV_APPLY.APPLY unless the mask is all zero (R78). -/
def State.writeDevCtl (s : State) (v : Nat) : State :=
  if mwAny v then
    { s with devCtl := s.devCtl.write (BitVec.ofNat 32 (mwData s.devCtl.pend.toNat v &&& devCtlMask)), devApply := false }
  else s

/-- A write to WIN_BASE_LO or WIN_BASE_HI of a host's page (R391): clears its APPLY (R78). -/
def State.writeWin (s : State) (h : HostId) (hi : Bool) (v : Nat) : State :=
  let p := s.host h
  let g := p.page
  s.setHost h { p with page :=
    if hi then { g with winHi := g.winHi.write (BitVec.ofNat 32 (v &&& winHiMask)), apply := false }
    else { g with winLo := g.winLo.write (BitVec.ofNat 32 (v &&& winLoMask)), apply := false } }

/-- A write to an apply register: bit 0 under its mask (R387). -/
def applyWrite (old : Bool) (v : Nat) : Bool := if v.testBit 16 then v.testBit 0 else old

/-- Clear DEV_ERR bits that the host owns (R389). -/
def State.clearErr (s : State) (h : HostId) (v : Nat) : State :=
  match h with
  | .a => { s with
      perrDev := s.perrDev && !v.testBit 0
      hostA := { s.hostA with perr := s.hostA.perr && !v.testBit 1, mbxIndex := s.hostA.mbxIndex && !v.testBit 3 } }
  | .b => { s with
      hostB := { s.hostB with perr := s.hostB.perr && !v.testBit 2, mbxIndex := s.hostB.mbxIndex && !v.testBit 4 } }

/-- A write to an apply register of BAR0: DEV_APPLY from host A, HOST_APPLY of the writer's page. -/
def State.writeApply (s : State) (h : HostId) (dev : Bool) (v : Nat) : State :=
  if dev then (if h = .a then { s with devApply := applyWrite s.devApply v } else s)
  else
    let p := s.host h
    s.setHost h { p with page := { p.page with apply := applyWrite p.page.apply v } }

/-- Host A starts a bridge transaction, or the write is dropped while BUSY is set (R386, R392). -/
def State.vrbWrite (s : State) (v : Nat) : State :=
  if s.vrb.busy then { s with vrb := { s.vrb with dropped := true } }
  else { s with vrb := { s.vrb with next := BitVec.ofNat 32 (v &&& 0x3FF1F), busy := true } }

/-- A host's write to a BAR0 register (R381, R382); registers marked A ignore host B. -/
def State.bar0Write (s : State) (h : HostId) (off v : Nat) : State :=
  match off with
  | 0x2004 => s.clearErr h v
  | 0x2014 => if h = .a then s.writeDevCtl v else s
  | 0x2018 => s.writeApply h true v
  | 0x3000 => s.writeWin h false v
  | 0x3004 => s.writeWin h true v
  | 0x3008 => s.writeApply h false v
  | 0x4000 => if h = .a then s.vrbWrite v else s
  | 0x4004 => if h = .a ∧ v.testBit 1 then { s with vrb := { s.vrb with dropped := false } } else s
  | _ => s

/-- A posted write to a block: BUSY set, or dropped while BUSY is set (R386). -/
def State.pwWrite (s : State) (i o v : Nat) : State :=
  let b := s.blk i
  match b.posted with
  | some _ => s.setBlk i { b with dropped := true }
  | none => s.setBlk i { b with posted := some (o, BitVec.ofNat 32 v) }

/-- A write to a register of a block outside BAR0 (R20, R78, R386); the debug port leaves the drover's shadow (R472). -/
def State.blkWrite (s : State) (w : Writer) (i o v : Nat) : State :=
  if !(blkPresent s.part i && mayWriteBlk w i && o % 4 == 0) then s
  else
    let b := s.blk i
    if o = 0xFFC then s.setBlk i { b with apply := applyWrite b.apply v }
    else if o = 0xFF8 then (if v.testBit 1 then s.setBlk i { b with dropped := false } else s)
    else if blkPosted i ∧ 0x800 ≤ o then s.pwWrite i o v
    else
      let r := mgetD b.regs o .init
      let r1 : BlkReg := { r with
        cfg := r.cfg.write (BitVec.ofNat 32 v)
        shadow := if w == .debugPort then r.shadow else BitVec.ofNat 32 v }
      s.setBlk i { b with regs := mset b.regs o r1, apply := false }

/-- A write by device address from firmware or the debug port (R383, R471). -/
def State.devWrite (s : State) (w : Writer) (addr v : Nat) : State :=
  let x := addr - regBase
  if addr < regBase ∨ addr % 4 ≠ 0 then s
  else if x < 0x01000000 then
    if 0x5000 ≤ x ∧ x < 0x6000 then s.bar0Write .b (x - 0x2000) v else s.bar0Write .a x v
  else s.blkWrite w ((addr - blkBase) / 4096) ((addr - blkBase) % 4096) v

/-- The window base that BAR4 uses (R391): base bits below the BAR size count as zero. -/
def HostPort.winBase (p : HostPort) : Nat :=
  let b := p.page.winHi.act.toNat % 2 ^ 16 * 2 ^ 32 + p.page.winLo.act.toNat
  b / 2 ^ p.barLog * 2 ^ p.barLog

/-- The pending pair of a host page is consistent (R391). -/
def HostPort.winOk (p : HostPort) : Bool :=
  (p.page.winHi.pend.toNat % 2 ^ 16 * 2 ^ 32 + p.page.winLo.pend.toNat) % 2 ^ p.barLog == 0

/-- The tick sample of DEV_CTL (R79, R385, R387, R390). -/
def State.sampleDev (s : State) : State :=
  if !s.devApply then s
  else if !s.devCtl.pendOk then
    { s with devApply := false, devLast := 3, perrDev := true }.post
      { s.ev 0x0105 with addr := regBase + 0x2014, arg0 := regBase + 0x2014 }
  else if s.devCtl.pend.getLsbD 1 && !s.devCtl.pend.getLsbD 0 then
    { s with devApply := false, devLast := 2 }.post { s.ev 0x0104 with arg0 := regBase + 0x2000, status := 0x0007 }
  else { s with devCtl := s.devCtl.takeUp, devApply := false, devLast := 1 }

/-- Device address of a host's page (R381). -/
def pageAddr : HostId → Nat
  | .a => regBase + 0x3000
  | .b => regBase + 0x5000

/-- EV_CFG_PARITY of a register of a host's page: WIN_BASE_HI or WIN_BASE_LO, copy 0 pending, 1 active (R385, R485). -/
def State.postPage (s : State) (h : HostId) (hi : Bool) (copy : Nat) : State :=
  let a := if hi then pageAddr h + 4 else pageAddr h
  s.post { s.ev 0x0105 with srcType := 7, srcIndex := h.idx, addr := a, arg0 := a, arg1 := copy }

/-- The tick sample of a host page (R79, R385, R387, R391). -/
def State.samplePage (s : State) (h : HostId) : State :=
  let p := s.host h
  let g := p.page
  if !g.apply then s
  else if !(g.winLo.pendOk && g.winHi.pendOk) then
    let s1 := s.setHost h { p with page := { g with apply := false, last := 3 }, perr := true }
    let s2 := if g.winLo.pendOk then s1 else s1.postPage h false 0
    if g.winHi.pendOk then s2 else s2.postPage h true 0
  else if !p.winOk then
    (s.setHost h { p with page := { g with apply := false, last := 2 } }).post { s.ev 0x0104 with
      srcType := 7, srcIndex := h.idx, arg0 := pageAddr h, status := 0x0007 }
  else s.setHost h { p with page := { g with winLo := g.winLo.takeUp, winHi := g.winHi.takeUp, apply := false, last := 1 } }

/-- The drover restores a register from its shadow, in the pending copy (R385). -/
def BlkReg.restore (r : BlkReg) : BlkReg := { r with cfg := { r.cfg with pend := r.shadow, pendPar := parityOf r.shadow } }

/-- The configuration block of a group's unit: a core's engine block, or a serai's (R20, R80). -/
def groupBlk : GroupId → Nat
  | .array k => k.toNat
  | .vector k => k.toNat
  | .mover k _ => k.toNat
  | .coll n => 136 + n.toNat

/-- A leg runs on a group of block `i`, a service digest leg among them (R63, R80). -/
def legOnBlk (s : State) (i : Nat) : Bool :=
  (mget s.svc i).isSome || s.jobs.any (fun p => match p.2.run with
    | none => false
    | some r => (r.tasks ++ r.upds).any (fun t => match t.leg with
      | none => false
      | some l => groupBlk l.group == i))

/-- The tick sample of one block outside BAR0 (R79, R80, R385): a block that an active-copy mismatch halted is written
from the shadow and restarts one tick later. -/
def State.sampleBlk (s : State) (i : Nat) : State :=
  let b0 := s.blk i
  let b : Blk := match b0.halt with
    | 0 => b0
    | 1 => { b0 with halt := 2 }
    | _ => { b0 with
        halt := 0
        regs := b0.regs.map (fun p => (p.1, if p.2.cfg.actOk then p.2 else { p.2 with cfg := .init p.2.shadow })) }
  let u := blkSrc i
  if !b.apply then s.setBlk i b
  else match b.regs.filter (fun p => !p.2.cfg.pendOk) with
    | q :: bad =>
      let s1 := s.setBlk i { b with
        regs := b.regs.map (fun p => (p.1, if p.2.cfg.pendOk then p.2 else p.2.restore)), apply := true, last := 3 }
      (q :: bad).foldl (fun (t : State) p => t.post
        { t.ev 0x0105 with srcType := u.1, srcIndex := u.2, addr := blkAddr i + p.1, arg0 := blkAddr i + p.1 }) s1
    | [] =>
      if Config.blockConsistent i (b.regs.map (fun p => (p.1, p.2.cfg.pend.toNat))) then
        if legOnBlk s i then
          s.setBlk i { b with apply := false, last := 1, sampled := some (b.regs.map (fun p => (p.1, p.2.cfg.pend))) }
        else s.setBlk i { b with
          apply := false, last := 1, sampled := none
          regs := b.regs.map (fun p => (p.1, { p.2 with cfg := p.2.cfg.takeUp })) }
      else (s.setBlk i { b with apply := false, last := 2 }).post { s.ev 0x0104 with
        srcType := u.1, srcIndex := u.2, arg0 := blkAddr i, status := 0x0007 }

/-- A block takes its sampled copy when the leg of its group reaches its boundary (R80). -/
def State.boundaryApply (s : State) (i : Nat) : State :=
  let b := s.blk i
  match b.sampled with
  | none => s
  | some m => s.setBlk i { b with
      sampled := none
      regs := b.regs.map (fun p => (p.1, match mget m p.1 with
        | some v => { p.2 with cfg := { p.2.cfg with act := v, actPar := parityOf v } }
        | none => p.2)) }

/-- Every block samples its pending copy at the tick. -/
def State.sampleAll (s : State) : State :=
  s.blks.foldl (fun t p => t.sampleBlk p.1) (((s.sampleDev).samplePage .a).samplePage .b)

/-- The stored parity bit of a group of the pending or the active copy no longer fits. -/
def CfgReg.spoil (r : CfgReg) (g : Nat) : CfgReg :=
  { r with pendPar := BitVec.ofNat 2 ((parityOf r.pend).toNat ^^^ (2 ^ g)) }
def CfgReg.spoilAct (r : CfgReg) (g : Nat) : CfgReg :=
  { r with actPar := BitVec.ofNat 2 ((parityOf r.act).toNat ^^^ (2 ^ g)) }

/-- PARITY_FAULT of DEV_CTL (table "Parity fault sequence", host-written). -/
def State.parityDev (s : State) (g : Nat) (active : Bool) : State :=
  if active then
    { s with devCtl := .init 1, devApply := false, perrDev := true }.post
      { s.ev 0x0105 with addr := regBase + 0x2014, arg0 := regBase + 0x2014, arg1 := 1 }
  else { s with devCtl := s.devCtl.spoil g }

/-- PARITY_FAULT of a host page register. -/
def State.parityPage (s : State) (h : HostId) (hi : Bool) (g : Nat) (active : Bool) : State :=
  let p := s.host h
  let sp : HostPage := if hi then { p.page with winHi := p.page.winHi.spoil g } else { p.page with winLo := p.page.winLo.spoil g }
  if active then
    let z : HostPage := if hi then { p.page with winHi := .init 0, apply := false } else { p.page with winLo := .init 0, apply := false }
    (s.setHost h { p with page := z, perr := true }).postPage h hi 1
  else s.setHost h { p with page := sp }

/-- PARITY_FAULT of a block's register (firmware-written): the block halts at the next tick; a second mismatch within
1,000 stages is device-fatal. -/
def State.parityBlk (s : State) (i o g : Nat) (active : Bool) : State :=
  let b := s.blk i
  let r := mgetD b.regs o .init
  let u := blkSrc i
  if active then
    let e : EventRec := { s.ev 0x0105 with
      srcType := u.1, srcIndex := u.2, addr := blkAddr i + o, arg0 := blkAddr i + o, arg1 := 1 }
    match r.lastFault with
    | some f =>
      if s.stage ≤ f + 1000 then s.deviceFatal (some { e with cls := 3 }) 0x0105 0
      else (s.setBlk i { b with halt := 1, regs := mset b.regs o { r with cfg := r.cfg.spoilAct g, lastFault := some s.stage } }).post e
    | none => (s.setBlk i { b with halt := 1, regs := mset b.regs o { r with cfg := r.cfg.spoilAct g, lastFault := some s.stage } }).post e
  else s.setBlk i { b with regs := mset b.regs o { r with cfg := r.cfg.spoil g } }

/-- PARITY_FAULT (R385): `addr` is the register's device address. The active copy is checked as it is used; the pending copy at the next
tick sample with APPLY = 1. -/
def execParityFault (addr : BitVec 48) (group : BitVec 1) (active : Bool) (s : State) :
    Host.Outcome State Fault Refusal :=
  let a := addr.toNat
  let g := group.toNat
  if !s.pwrok then .next s
  else if a = regBase + 0x2014 then .next (s.parityDev g active)
  else if a = regBase + 0x3000 then .next (s.parityPage .a false g active)
  else if a = regBase + 0x3004 then .next (s.parityPage .a true g active)
  else if a = regBase + 0x5000 then .next (s.parityPage .b false g active)
  else if a = regBase + 0x5004 then .next (s.parityPage .b true g active)
  else if blkBase ≤ a ∧ blkPresent s.part ((a - blkBase) / 4096) then
    .next (s.parityBlk ((a - blkBase) / 4096) ((a - blkBase) % 4096) g active)
  else .next s

/-- POSTED_WRITE_TAKEN (R386): the block takes the write and BUSY clears. -/
def execPostedWriteTaken (block : BitVec 8) (s : State) : Host.Outcome State Fault Refusal :=
  let b := s.blk block.toNat
  match b.posted with
  | some (o, v) => .next (s.setBlk block.toNat { b with pw := mset b.pw o v, posted := none })
  | none => .next s

/-- Reply lengths of the bridge commands (table "Bridge commands"). -/
def vrbBytes : Nat → Option Nat
  | 0x20 => some 0
  | 0x79 => some 1
  | 0x7A => some 0
  | 0x7B => some 0
  | 0x7D => some 0
  | 0x88 => some 1
  | 0x8B => some 1
  | 0x8C => some 1
  | 0x8D => some 1
  | 0x96 => some 1
  | _ => none

/-- The bridge sends the transaction written (R392): listed rail, listed code, matching BYTES. -/
def State.vrbSends (s : State) : Bool :=
  let c := s.vrb.next.toNat
  s.part.hasRail (c % 32) && bits c 16 2 != 3 && vrbBytes (bits c 8 8) == some (bits c 16 2)

/-- VRB_TRANSACTION_DONE (R386, R392): the write has been taken, and the reply stands in VRB_DATA. -/
def execVrbTransactionDone (r : VrbReply) (s : State) : Host.Outcome State Fault Refusal :=
  let v : Vrb := { s.vrb with cmd := s.vrb.next }
  let n := bits v.cmd.toNat 16 2
  if !v.busy then .next s
  else if !s.vrbSends then .next { s with vrb := { v with busy := false, nack := true, pecErr := false, data := 0 } }
  else match r with
    | .data d => .next { s with vrb := { v with
        busy := false, nack := false, pecErr := false
        data := if n = 0 then d &&& 0xFF#32 else if n = 1 then d &&& 0xFFFF#32 else d } }
    | .nack => .next { s with vrb := { v with busy := false, nack := true, pecErr := false, data := 0 } }
    | .pecErr => .next { s with vrb := { v with busy := false, nack := false, pecErr := true, data := 0 } }

/-- DEV_TIME_LO_READ (R389): the timestamp is captured for that host. -/
def execDevTimeLoRead (h : HostId) (s : State) : Host.Outcome State Fault Refusal :=
  if s.bar0Up h then .next (s.setHost h { s.host h with timeCap := s.stamp }) else .next s

/-- DEV_ERR_CLEAR (R389). -/
def execDevErrClear (h : HostId) (value : BitVec 32) (s : State) : Host.Outcome State Fault Refusal :=
  if s.bar0Up h then .next (s.clearErr h value.toNat) else .next s

/-- A host's write to an apply register of BAR0. -/
def State.hostApply (s : State) (h : HostId) (t : RegTarget) (value : BitVec 32) : State :=
  match t with
  | .bar0 off =>
    if s.bar0Up h ∧ off.toNat = 0x2018 then s.writeApply h true value.toNat
    else if s.bar0Up h ∧ off.toNat = 0x3008 then s.writeApply h false value.toNat
    else s
  | _ => s

/-- A write of firmware or the debug port to an apply register. -/
def State.unitApply (s : State) (w : Writer) (t : RegTarget) (value : BitVec 32) : State :=
  match t with
  | .dev a =>
    if s.pwrok ∧ blkBase ≤ a.toNat ∧ (a.toNat - blkBase) % 4096 = 0xFFC then
      s.blkWrite w ((a.toNat - blkBase) / 4096) ((a.toNat - blkBase) % 4096) value.toNat
    else if s.pwrok ∧ (a.toNat = regBase + 0x2018 ∨ a.toNat = regBase + 0x3008 ∨ a.toNat = regBase + 0x5008) then
      s.devWrite w a.toNat value.toNat
    else s
  | _ => s

/-- APPLY (R78, R387): a write to an apply register, DEV_APPLY, HOST_APPLY or that of a block. -/
def execApply (w : Writer) (t : RegTarget) (value : BitVec 32) (s : State) : Host.Outcome State Fault Refusal :=
  .next (match w with
    | .host h => s.hostApply h t value
    | u => s.unitApply u t value)

/-- VRB_CMD_WRITE (R392): host A starts a transaction; host B's write is ignored and sets nothing. -/
def execVrbCmdWrite (h : HostId) (value : BitVec 32) (s : State) : Host.Outcome State Fault Refusal :=
  if s.bar0Up h ∧ h = .a then .next (s.vrbWrite value.toNat) else .next s

/-- VRB_DROPPED_CLEAR (R392). -/
def execVrbDroppedClear (h : HostId) (value : BitVec 32) (s : State) : Host.Outcome State Fault Refusal :=
  if s.bar0Up h ∧ h = .a ∧ value.getLsbD 1 then .next { s with vrb := { s.vrb with dropped := false } } else .next s

/-- POSTED_WRITE (R386): by the block's drover or the debug port. -/
def execPostedWrite (w : Writer) (block : BitVec 8) (off : BitVec 12) (value : BitVec 32) (s : State) :
    Host.Outcome State Fault Refusal :=
  if s.pwrok && blkPresent s.part block.toNat && blkPosted block.toNat && mayWriteBlk w block.toNat
      && decide (0x800 ≤ off.toNat ∧ off.toNat < 0xFF8) && off.toNat % 4 == 0 then
    .next (s.pwWrite block.toNat off.toNat value.toNat)
  else .next s

/-- Default, lowest and highest value of a setting (R450). -/
def settingRange : Nat → Option (Nat × Nat × Nat)
  | 1 => some (0, 0, 1)
  | 2 => some (30, 5, 1440)
  | 3 => some (1, 0, 1)
  | 4 => some (0, 0, 1)
  | 5 => some (1, 0, 1)
  | _ => none

/-- The newer settings copy. -/
def Flash.newerSet1 (f : Flash) : Bool := decide ((f.set1.seq - f.set0.seq).toNat < 2 ^ 31)
def Flash.settings (f : Flash) : SettingsCopy := if f.newerSet1 then f.set1 else f.set0

/-- Format of the firmware's settings (R450). -/
def settingFormat : Nat := 1

/-- The value of a setting in force (R450, R451). -/
def State.setting (s : State) (n : Nat) : Nat :=
  let d := ((settingRange n).map (fun r => r.1)).getD 0
  match mget s.flash.settings.vals n with
  | some (f, v) => if f = settingFormat then v else d
  | none => d

/-- The setting IDE_REQUIRED leaves the port open, or a key set in use protects the TLP (R355, R450). -/
def State.ideOk (s : State) (h : HostId) (ide : Bool) : Bool :=
  s.setting 1 != 1 || (ide && (s.host h).streams.any (fun p => p.2.go.any (fun q => q.2)))

/-- A dword of BAR2 (R356): the command ring as written, the completion ring as posted, the doorbell page; zero outside them. -/
def State.bar2Dword (s : State) (h : HostId) (off : Nat) : Nat :=
  let p := s.host h
  if off < 0x10000 then bits (mgetD p.cmdRing (off / 64) 0).toNat (off % 64 / 4 * 32) 32
  else if off < 0x18000 then match mget p.cplRing ((off - 0x10000) / 32) with
    | some r => fld r.bytes (off % 32 / 4 * 4) 4
    | none => 0
  else if off < 0x19000 then s.doorbellRead h (off - 0x18000)
  else 0

/-- A host's read of a dword of BAR2 (R355, R356, R432): none where the port answers Unsupported Request. -/
def State.bar2Read (s : State) (h : HostId) (off : Nat) (ide : Bool) : Option Nat :=
  if s.bar0Up h && s.ideOk h ide && decide (off < 0x100000) && off % 4 == 0 then some (s.bar2Dword h off) else none

/-- One dword of the command ring in BAR2 (R356, log 8). -/
def ringPut (r : NMap (BitVec 512)) (off v : Nat) : NMap (BitVec 512) :=
  let i := off / 64
  let b := off % 64 / 4 * 32
  let old := (mgetD r i 0).toNat
  mset r i (BitVec.ofNat 512 (old - bits old b 32 * 2 ^ b + v % 2 ^ 32 * 2 ^ b))

/-- A host's read of its port's PCIe function (R352, R432): none where the configuration space does not answer. -/
def State.pcieRead (s : State) (h : HostId) : Option PcieFn := if s.bar0Up h then some (Part.pcieFn s.part) else none

/-- A host's write: BAR0, its command ring and its own configuration space (R352, log 71). -/
def State.hostRegWrite (s : State) (h : HostId) (t : RegTarget) (value : BitVec 32) : State :=
  let p := s.host h
  if !s.bar0Up h then s
  else match t with
    | .bar0 off => if off.toNat % 4 = 0 then s.bar0Write h off.toNat value.toNat else s
    | .ring off ide =>
      if off.toNat % 4 = 0 ∧ s.ideOk h ide then s.setHost h { p with cmdRing := ringPut p.cmdRing off.toNat value.toNat } else s
    | .barSize n => if 30 ≤ n.toNat ∧ n.toNat ≤ 41 then s.setHost h { p with barLog := n.toNat } else s
    | .maxPayload n => if n.toNat ≤ 2 then s.setHost h { p with mps := 128 * 2 ^ n.toNat } else s
    | .maxRead n => if n.toNat ≤ 5 then s.setHost h { p with mrrs := 128 * 2 ^ n.toNat } else s
    | .tag10 => s.setHost h { p with tag10 := value.getLsbD 0 }
    | .msixEnable => s.setHost h { p with msixOn := value.getLsbD 0 }
    | .msixVector k =>
      let m := BitVec.ofNat 64 (2 ^ k.toNat)
      s.setHost h { p with msixProg := if value.getLsbD 0 then p.msixProg ||| m else p.msixProg &&& ~~~m }
    | .dev _ => s

/-- A write of firmware or the debug port, by device address. -/
def State.unitRegWrite (s : State) (w : Writer) (t : RegTarget) (value : BitVec 32) : State :=
  match t with
  | .dev a => if s.pwrok then s.devWrite w a.toNat value.toNat else s
  | _ => s

/-- REGISTER_WRITE (R381–R384, R78): the arbiter applies one write. A host reaches BAR0, its command ring and its own
configuration space; firmware and the debug port write by device address. -/
def execRegisterWrite (w : Writer) (t : RegTarget) (value : BitVec 32) (s : State) : Host.Outcome State Fault Refusal :=
  .next (match w with
    | .host h => s.hostRegWrite h t value
    | u => s.unitRegWrite u t value)

end Sys2Proof.Machine
end

