-- ==== Sys2Proof/Machine/Jobs.lean ====
section
/-! DEFINITION. Jobs and tasks as shared operations (03, 15): completion records, failing and completing a task, not-run
tasks, dependency counters, aborting and releasing a job. -/
namespace Sys2Proof.Machine

/-- The summary of an output before anything is written. -/
def OutSum.init : OutSum := ⟨false, false, false, false, none, 0, 0, false⟩

/-- Summary bytes of one output set (R132). -/
def OutSum.bytes (o : OutSum) (sacc : Int) : List Byte :=
  toLE 4 (b2n (o.sat || o.isat) + 2 * b2n o.isat + 4 * b2n o.psn + 8 * b2n o.bnd)
    ++ toLE 4 (unsgn 10 sacc + (match o.maxScale with
        | some e => unsgn 8 e
        | none => 0x81) * 2 ^ 16)
    ++ toLE 4 o.poisoned ++ toLE 4 o.saturated

/-- The largest scale written as a byte: 0x81 if none (R121). -/
def OutSum.maxByte (o : OutSum) : Nat := match o.maxScale with
  | some e => unsgn 8 e
  | none => 0x81

/-- Vector summary (R154). -/
def ElemSt.bytes (e : ElemSt) : List Byte :=
  toLE 4 (b2n (e.sat || e.isat) + 2 * b2n e.isat + 4 * b2n e.psn + 8 * b2n e.bnd + 16 * b2n e.lut + 32 * b2n e.dz)
    ++ toLE 4 e.iter ++ toLE 8 e.dig0
    ++ toLE 4 e.o0.poisoned ++ toLE 4 e.o0.saturated ++ toLE 4 e.o0.maxByte
    ++ toLE 4 e.o1.poisoned ++ toLE 4 e.o1.saturated ++ toLE 4 e.o1.maxByte
    ++ toLE 4 e.segPoisoned ++ toLE 4 0 ++ toLE 8 e.dig1 ++ zeros 8

/-- Mover summary (R486). -/
def MovSt.bytes (m : MovSt) (pieces : Nat) : List Byte :=
  toLE 4 (b2n m.sat + 4 * b2n m.psn) ++ toLE 4 m.poisoned ++ toLE 4 m.saturated ++ toLE 4 pieces ++ zeros 48

/-- Attention summary, then the three words of each output (R212). -/
def AttSt.bytes (a : AttSt) : List Byte :=
  toLE 4 (b2n (a.sat || a.isat) + 2 * b2n a.isat + 4 * b2n a.psn + 8 * b2n a.bnd) ++ toLE 4 a.run ++ toLE 4 a.skip
    ++ toLE 4 a.empty ++ toLE 4 a.pois ++ toLE 4 a.appended ++ toLE 4 a.flushed
    ++ toLE 4 (unsgn 10 a.saccS + unsgn 10 a.saccV * 2 ^ 16)
    ++ a.outs.flatMap (fun o => toLE 4 o.poisoned ++ toLE 4 o.saturated ++ toLE 4 o.maxByte)

/-- Collective summary (R332). -/
def CollSt.bytes (c : CollSt) : List Byte :=
  toLE 4 (b2n c.sat + 4 * b2n c.psn) ++ toLE 4 c.poisoned ++ toLE 4 c.saturated
    ++ toLE 4 (match c.maxScale with
        | some e => unsgn 8 e
        | none => 0x81)
    ++ toLE 8 c.sent ++ toLE 8 c.received ++ toLE 4 c.peerWait ++ zeros 28

/-- The summary of a task whose engine has done nothing (R409): zero counts, and MAX_SCALE 0x81 for every output that the
kind or the body names. A matrix or convolution body names its sets by MODE and ARRAYS (R97, R98), an attention body by
PHASE (R210). -/
def idleSummary (t : TaskRun) : List Byte :=
  let w := fld t.body 0 4
  let none_ : List Byte := zeros 8 ++ toLE 4 0x81
  let sets := if arraysOk (bits w 0 2) (bits w 8 4) then streamsOf (bits w 0 2) (bits w 8 4) else 0
  let mat : List Byte := (List.replicate sets (OutSum.init.bytes 0)).flatten
  match t.hdr.kind with
  | 0x01 => mat ++ (if bit w 15 then toLE 4 0 else [])
  | 0x02 => zeros 16 ++ none_ ++ none_ ++ zeros 24
  | 0x03 => zeros 16 ++ none_ ++ none_ ++ zeros 24
  | 0x04 => zeros 64
  | 0x05 => zeros 32 ++ (List.replicate (match bits w 0 2 with
      | 0 => 1
      | 1 => 3
      | _ => 0) none_).flatten
  | 0x06 => mat ++ zeros 16
  | 0x10 => zeros 12 ++ toLE 4 0x81 ++ zeros 48
  | _ => []

/-- The engine summary that follows the common part of a completion record (R409). The rows taken by a gather task
follow the output summaries (R110, log 12). -/
def engSummary (t : TaskRun) : List Byte :=
  match t.eng with
  | .idle => idleSummary t
  | .mat m => m.sums.flatMap (fun o => o.bytes m.sacc) ++
      (match parseMatCtl (unitOf t.body 0) with
        | some c => if c.gather && t.hdr.kind == 0x01 then toLE 4 m.taken.length else []
        | none => [])
      ++ (if t.hdr.kind = 0x06 then toLE 4 m.skipped ++ toLE 4 m.haloWait ++ zeros 8 else [])
  | .elem e => e.bytes
  | .mov m => m.bytes ((t.progress.map (fun p => p + 1)).getD 0)
  | .att a => a.bytes
  | .coll c => c.bytes
  | .upd _ => []

/-- The common part of a completion record (R409). -/
def recordBytes (t : TaskRun) (step : Nat) (at_ : Stamp) : List Byte :=
  toLE 4 t.hdr.id ++ toLE 4 (t.status % 2 ^ 16 + t.hdr.kind % 256 * 2 ^ 16) ++ toLE 4 step ++ toLE 4 t.legs
    ++ toLE 4 (progMark t.progress) ++ toLE 4 (b2n t.empty + 2 * b2n t.ctrOver + 4 * b2n t.nan)
    ++ toLE 8 (at_.stage % 2 ^ 48) ++ toLE 4 (at_.offset % 2 ^ 24) ++ zeros 28

/-- Index of a task in the running step. -/
def RunStep.find (r : RunStep) (id : Nat) : Option Nat := r.tasks.findIdx? (fun t => t.hdr.id == id)

/-- Task `i` of a running step. -/
def RunStep.task (r : RunStep) (i : Nat) : Option TaskRun := r.tasks[i]?

/-- The running step of a job. -/
def State.runOf (s : State) (j : Nat) : Option RunStep := (s.job j).bind Job.run

/-- A task of a job's running step, by its id. -/
def State.taskOf (s : State) (j id : Nat) : Option TaskRun :=
  (s.runOf j).bind (fun r => (r.tasks ++ r.upds).find? (fun t => t.hdr.id == id))

/-- Change one task of a running step. -/
def RunStep.modTask (r : RunStep) (id : Nat) (f : TaskRun → TaskRun) : RunStep :=
  { r with
    tasks := r.tasks.map (fun t => if t.hdr.id = id then f t else t)
    upds := r.upds.map (fun t => if t.hdr.id = id then f t else t) }

/-- Change the running step of a job. -/
def State.modRun (s : State) (j : Nat) (f : RunStep → RunStep) : State :=
  { s with jobs := mmodify s.jobs j (fun jb => { jb with run := jb.run.map f }) }

/-- Change one task. -/
def State.modTask (s : State) (j id : Nat) (f : TaskRun → TaskRun) : State := s.modRun j (fun r => r.modTask id f)

/-- Change a job. -/
def State.modJob (s : State) (j : Nat) (f : Job → Job) : State := { s with jobs := mmodify s.jobs j f }

/-- Source type and index of the unit that runs a task (R413, R485). -/
def TaskRun.src (t : TaskRun) : Nat × Nat :=
  if t.hdr.kind = 0x10 then
    match t.leg with
    | some l => (match l.group with
        | .coll n => (3, n.toNat)
        | _ => (3, 0))
    | none => (3, 0)
  else (1, t.hdr.core)

/-- A task meets its first failure (R407): the report's number is reserved and the cause's event, if it has one, is
posted with it. A later fault is logged and changes nothing more. -/
def State.taskFault (s : State) (j id status : Nat) (cause : Option EventRec) : State :=
  match s.taskOf j id with
  | none => s
  | some t =>
    if t.fail.isSome ∨ t.st = .done ∨ t.st = .failed ∨ t.st = .notRun ∨ t.st = .aborted then (cause.map s.post).getD s
    else
      let rid := s.nextReport
      let seq := s.nextSeq
      let s1 := { s with nextReport := rid + 1 }
      let s2 := match cause with
        | some e => s1.post { e with report := rid, job := j, task := id }
        | none => s1
      s2.modTask j id (fun t => { t with fail := some ⟨status, rid, (cause.map EventRec.code).getD 0x0208,
        if cause.isSome then seq else 0, s.stamp⟩ })

/-- EV_ADDR_FAULT at an address of a task, with its unit as source (R17, R414); ADDR is the device address a mapped page
leads to, where the page's target cannot be reached, and 0 for an unmapped one (R413). -/
def State.addrFault (s : State) (j : Nat) (t : TaskRun) (jobAddr : Nat) : EventRec :=
  { s.ev 0x0207 with
    cls := 1, srcType := t.src.1, srcIndex := t.src.2, job := j, task := t.hdr.id,
    addr := ((s.job j).bind (fun b => if s.jobReach b.pt jobAddr 1 then none else xlate b.pt jobAddr)).getD 0, arg0 := jobAddr, status := 0x000E }

/-- Dead counters of a step (R70). -/
def RunStep.dead (r : RunStep) (c : Nat) : Bool :=
  r.tasks.any (fun t => t.hdr.signal == some c && (t.st == .failed || t.st == .notRun))

/-- Every task that signals the counter has completed, failed or been not run. -/
def RunStep.signalled (r : RunStep) (c : Nat) : Bool :=
  r.tasks.all (fun t => t.hdr.signal != some c || t.st == .done || t.st == .failed || t.st == .notRun)

/-- A wait is satisfied (R67). -/
def waitMet (ctrs : NMap Nat) (w : Option (Nat × Nat)) : Bool := match w with
  | none => true
  | some (c, v) => decide (v ≤ mgetD ctrs c 0)

/-- A wait that can never be satisfied any more. -/
def waitDead (r : RunStep) (ctrs : NMap Nat) (w : Option (Nat × Nat)) : Bool := match w with
  | none => false
  | some (c, _) => r.dead c && r.signalled c && !waitMet ctrs w

/-- Tasks that wait on dead counters are not run, and theirs become dead in turn (R70); `fuel` passes. -/
def notRunPass (ctrs : NMap Nat) : Nat → RunStep → RunStep
  | 0, r => r
  | n + 1, r =>
    let r1 := { r with tasks := r.tasks.map (fun t =>
      if t.st = .waiting ∧ (waitDead r ctrs t.hdr.waitA ∨ waitDead r ctrs t.hdr.waitB) then { t with st := .notRun } else t) }
    if r1.tasks == r.tasks then r else notRunPass ctrs n r1

/-- Resolve the dependants of failed tasks of a job (R70). -/
def State.resolveNotRun (s : State) (j : Nat) : State :=
  match s.job j with
  | none => s
  | some jb => s.modRun j (fun r => notRunPass jb.ctrs (r.tasks.length + 1) r)

/-- Increment a dependency counter: 0xFFFF holds (R68, R69). Answers whether it overflowed. -/
def State.incCtr (s : State) (j c : Nat) : State × Bool :=
  match s.job j with
  | none => (s, false)
  | some jb =>
    let v := mgetD jb.ctrs c 0
    if 0xFFFF ≤ v then (s, true) else (s.setJob j { jb with ctrs := mset jb.ctrs c (v + 1) }, false)

/-- Drop the lost lines that a write of whole lines replaces (R400). -/
def dropLost (lost : List Nat) (va n : Nat) : List Nat := lost.filter (fun l => !decide (va ≤ l ∧ l + 64 ≤ va + n))

/-- Write bytes at a job address of a job (R400): whole lines leave the lost-line list. -/
def State.jobPut (s : State) (j va : Nat) (d : List Byte) : State :=
  match s.job j with
  | none => s
  | some jb => (s.jobStore jb.pt va d).modJob j (fun b => { b with lost := dropLost b.lost va d.length })

/-- Write a task's completion record; none when its page cannot be written (R409). -/
def State.writeRecord (s : State) (j : Nat) (t : TaskRun) (step : Nat) : Option State :=
  match s.job j with
  | none => none
  | some jb =>
    let d := recordBytes t step s.stamp ++ engSummary t
    if s.jobReach jb.pt t.hdr.record d.length then some (s.jobPut j t.hdr.record d) else none

/-- The legs of a task stop and its group falls idle. -/
def TaskRun.idle (t : TaskRun) (st : TState) (at_ : Stamp) : TaskRun := { t with st := st, leg := none, ended := at_ }

/-- The job is being aborted. -/
def aborting (s : State) (j : Nat) : Bool := (s.job j).any (fun (b : Job) => b.abort.isSome)

/-- A job report takes the final state of a task whose leg has stopped after the abort (R412). -/
def State.refine (s : State) (j : Nat) (t : TaskRun) : State :=
  match s.job j with
  | none => s
  | some jb => { s with reports := s.reports.map (fun (r : Report) =>
      if jb.report ≠ 0 ∧ r.id = jb.report then
        { r with entries := r.entries.map (fun (e : RepEntry) => if e.task = t.hdr.id then t.entry else e) }
      else r) }

/-- The end of a failed task (R407, R409, R411, R412): the record, EV_TASK_FAIL, the report; it does not signal, and
its dependants are resolved. A record that cannot be written posts EV_ADDR_FAULT before it unless that has been `noted`. -/
def State.endFailedAs (s : State) (noted : Bool) (j id : Nat) : State :=
  match s.taskOf j id, s.runOf j with
  | some t, some r =>
    match t.fail with
    | none => s
    | some f =>
      let t1 := { t.idle .failed s.stamp with status := f.status }
      let s0 := match s.writeRecord j t1 r.q.step with
        | some z => z
        | none => if noted then s else s.post (s.addrFault j t t.hdr.record)
      let seq := s0.nextSeq
      let s1 := s0.post { s0.ev 0x0208 with
        cls := 1, srcType := t.src.1, srcIndex := t.src.2, job := j, task := id, report := f.report, status := f.status }
      let s2 := s1.modTask j id (fun _ => t1)
      let s3 := s2.putReport ⟨f.report, f.cause, 1, j, r.q.step, if f.seq = 0 then s.stamp else f.met, if f.seq = 0 then seq else f.seq,
        [⟨id, 1, t.hdr.kind, f.status, progMark t.progress⟩]⟩
      let s4 := s3.modRun j (fun r => if r.firstFail = 0 then { r with firstFail := seq, firstAt := s.stamp } else r)
      if aborting s j then s4.refine j t1 else s4.resolveNotRun j
  | _, _ => s

/-- The end of a failed task. -/
def State.endFailed (s : State) (j id : Nat) : State := s.endFailedAs false j id

/-- Status of a completed task (R409): MX NaN, counter overflow, empty, OK. -/
def doneStatus (t : TaskRun) : Nat :=
  if t.nan then 0x000C else if t.ctrOver then 0x000B else if t.empty then 0x000A else 0

/-- A task completes (R68, R69, R409): its record is written, then it signals. A record that cannot be written fails
the task. -/
def State.endDone (s : State) (j id : Nat) : State :=
  match s.taskOf j id, s.runOf j, s.job j with
  | some t, some r, some jb =>
    let overs := match t.hdr.signal with
      | some c => decide (0xFFFF ≤ mgetD jb.ctrs c 0)
      | none => false
    let t1 := { t.idle .done s.stamp with ctrOver := overs }
    let t2 := { t1 with status := doneStatus t1 }
    match s.writeRecord j t2 r.q.step with
    | some s1 =>
      let s2 := s1.modTask j id (fun _ => t2)
      let s3 := match t.hdr.signal with
        | some c => (s2.incCtr j c).1
        | none => s2
      if aborting s j then s3 else s3.resolveNotRun j
    | none => (s.taskFault j id 0x000E (some (s.addrFault j t t.hdr.record))).endFailedAs true j id
  | _, _, _ => s

/-- A started task that an abort stops: its record carries its failure, or ST_ABORTED (R409, R412). -/
def State.endAborted (s : State) (j id : Nat) : State :=
  match s.taskOf j id, s.runOf j with
  | some t, some r =>
    let st := match t.fail with
      | some f => f.status
      | none => 0x000F
    let t1 := { t.idle .aborted s.stamp with status := st }
    let s1 := s.modTask j id (fun _ => t1)
    (match s1.writeRecord j t1 r.q.step with
      | some s2 => s2.refine j t1
      | none => if t.fail.isSome then (s1.post (s1.addrFault j t t.hdr.record)).refine j t1
        else (s.taskFault j id 0x000E (some (s.addrFault j t t.hdr.record))).endFailedAs true j id)
  | _, _ => s

/-- Post a step notice and forget that it is owed (R365). -/
def State.notice (s : State) (j : Nat) (q : QStep) (status : Nat) (count : Nat) : State :=
  let p := s.host q.host
  let s1 := s.setHost q.host { p with notices := p.notices.filter (fun n => n != (q.hsn, j, q.step)) }
  s1.record q.host 1 q.hsn 0x0107 j status s.stage (q.step % 2 ^ 32 + count * 2 ^ 32)

/-- Ids of the running step's tasks in a state. -/
def Job.tasksIn (jb : Job) (st : TState) : List Nat :=
  match jb.run with
  | some r => (r.tasks.filter (fun (t : TaskRun) => t.st == st)).map (fun (t : TaskRun) => t.hdr.id)
  | none => []

/-- Tasks of a step that failed or were not run (R365). -/
def RunStep.lost (r : RunStep) : Nat := (r.tasks.filter (fun (t : TaskRun) => t.st == .failed || t.st == .notRun)).length

/-- Abort a job (R66, R244, R375): queued steps, channels and suspended state go, suspended tasks are stopped, open commands of the job
complete with ST_ABORTED but for JOB_DESTROY itself. Running legs stop at their next boundary. -/
def State.abortJob (s : State) (j : Nat) : State :=
  match s.job j with
  | none => s
  | some jb =>
    if jb.abort.isSome then s
    else
      let s1 := (jb.tasksIn .suspended).foldl (fun (t : State) i => t.endAborted j i) (s.modJob j (fun b => { b with abort := some s.nextStage, queue := [] }))
      let s2 := jb.queue.foldl (fun (t : State) q => t.notice j q 0x000F 0) s1
      ({ s2 with chans := s2.chans.filter (fun p => p.2.job != j) } : State).completeBoth
        (fun (o : OpenCmd) => if o.job = j ∧ o.kind ≠ OpenKind.release then some (0x000F, 0) else none)

/-- A job-fatal error (R66, R406, R411, R415): the cause's event, EV_JOB_FATAL, the report, the abort, and FAULT_N for
1 ms under DEV_CTL.FAULTN_JOB. A fault of a job that is being aborted is logged and changes nothing more. -/
def State.jobFatal (s : State) (j : Nat) (cause : Option EventRec) (code : Nat) : State :=
  match s.job j with
  | none => (cause.map s.post).getD s
  | some jb =>
    if jb.abort.isSome then (cause.map s.post).getD s
    else
      let rid := s.nextReport
      let seq := s.nextSeq
      let s1 := (cause.map (fun e => s.post { e with report := rid })).getD s
      let rep : Report := match jb.run with
        | some r => jobReport s1 j r code 2 seq
        | none => ⟨rid, code, 2, j, 0, s.stamp, seq, []⟩
      let s2 := (s1.addReport rep).post { s1.ev 0x0209 with cls := 2, job := j, arg0 := code, report := rid }
      let s3 := if s2.faultnJob then { s2 with faultN := true, faultNEnd := s2.now + 850000 } else s2
      (s3.modJob j (fun (b : Job) => { b with report := rid })).abortJob j

/-- Lines that a job's own structures stand in are read (R406): its sequence records, spill areas and training-state table. Each
uncorrectable one posts EV_MEM_UNCORR of class 2 and aborts the job. -/
def State.fatalMeet (s : State) (r : Reader) (f : Faults) (ls : List Nat) : State :=
  ls.foldl (fun (x : State) l =>
    if badLine s f l then
      let u := holderOf s.part l
      (((x.mark l).countUnc l).jobFatal r.job (some { x.ev 0x0202 with
        cls := 2, srcType := u.1, srcIndex := u.2, job := r.job, task := r.task, addr := l
        arg0 := r.srcType * 2 ^ 12 + r.srcIndex }) 0x0202).wear l 0
    else if f.corr.any (fun a => lineOf a.toNat == l) then x.corrected r.job r.task l
    else x) s

/-- Lines of some pages that read uncorrectable or corrected: those marked, and those that the step's reads meet so. -/
def State.linesMet (s : State) (f : Faults) (pages : List Nat) : List Nat :=
  (dedup (s.marked ++ f.uncorr.map (fun a => lineOf a.toNat) ++ f.corr.map (fun a => lineOf a.toNat))).filter (fun l =>
    pages.contains (l / 2 ^ 21))

/-- Pages of a job's training state outside its address space (R247). -/
def Train.pages (r : Train) : List Nat :=
  r.pool ++ r.stagePages ++ r.groups.flatMap (fun g => g.keepPages ++ g.ledger.flatMap (fun l => l.pages))

/-- Pages that a job holds: mapped, spill and training (R28, R64, R247), as page numbers of device addresses. -/
def Job.pages (jb : Job) : List Nat :=
  (jb.pt.map (fun p => p.2 / 2 ^ 21)) ++ (jb.ptNext.map (fun p => p.2 / 2 ^ 21)) ++ jb.spill.flatMap (fun p => p.2)
    ++ ((jb.train.map Train.pages).getD [])

/-- Pages in HBM or depot that no mapping, pool or buffer may take: worn pages, the event log, firmware's, every job's,
every channel's sets and the waystation regions (R221, R346, R379, R403). -/
def State.usedPages (s : State) : List Nat :=
  s.worn ++ [logBase / 2 ^ 21, logBase / 2 ^ 21 + 1] ++ s.held ++ s.jobs.flatMap (fun p => p.2.pages)
    ++ s.chans.flatMap (fun p => p.2.sets.flatten) ++ s.ways.flatMap (fun p => p.2.pages)

/-- First page and number of pages that mappings may take in a stack, and in a depot below its staging buffers and
counters (log 31). -/
def stackPages (n : Nat) : Nat × Nat := (n * 2 ^ 16, 36864)
def depotPages (n : Nat) : Nat × Nat := ((depotBase + n * 2 ^ 28) / 2 ^ 21, 95)

/-- The first free page at or after `p`, `fuel` pages at most. -/
def nextFree (used : List Nat) : Nat → Nat → Option Nat
  | 0, _ => none
  | fuel + 1, p => if used.contains p then nextFree used fuel (p + 1) else some p

/-- Free pages of a range. -/
def freePages (used : List Nat) (r : Nat × Nat) : Nat :=
  r.2 - (dedup (used.filter (fun p => decide (r.1 ≤ p ∧ p < r.1 + r.2)))).length

/-- Take `n` pages from ranges in rotation, the lowest free page of each (R28, log 31): a range without a free page
leaves the rotation. Ranges carry the next page to look at. -/
def takePages (used : List Nat) : Nat → Nat → List (Nat × Nat) → List Nat
  | 0, _, _ => []
  | _, 0, _ => []
  | _, _, [] => []
  | fuel + 1, n + 1, (p, k) :: rest =>
    match nextFree used k p with
    | none => takePages used fuel (n + 1) rest
    | some q => q :: takePages used fuel n (rest ++ [(q + 1, k - (q + 1 - p))])

/-- `n` free pages of ranges, or none where they hold fewer (R28). -/
def State.allocPages (s : State) (n : Nat) (ranges : List (Nat × Nat)) : Option (List Nat) :=
  let used := s.usedPages
  if n ≤ (ranges.map (freePages used)).sum then some (takePages used (n + ranges.length) n ranges) else none

/-- Ranges of the stacks in a mask. -/
def stackRanges (mask : Nat) : List (Nat × Nat) := (bitList 16 mask).map stackPages

/-- `n` pages of a job's memory partition (R28, R64). -/
def State.allocJob (s : State) (hbms n : Nat) : Option (List Nat) := s.allocPages n (stackRanges hbms)

/-- Release an aborted job at a tick (R66): legs that still run stop, the running step's notice carries ST_ABORTED,
the job's pages, counters, tile-store ranges and id are free, and JOB_DESTROY completes. -/
def State.releaseJob (s : State) (j : Nat) : State :=
  match s.job j with
  | none => s
  | some jb =>
    let s1 := (jb.tasksIn .running).foldl (fun (t : State) i => t.endAborted j i) s
    let s2 := match jb.run with
      | some r => s1.notice j r.q 0x000F r.lost
      | none => s1
    let s3 := { s2 with
      jobs := merase s2.jobs j
      dbg := { s2.dbg with replay := s2.dbg.replay.map (fun (r : Replay) => if r.job = j then { r with running := false } else r) } }
    s3.completeBoth (fun (o : OpenCmd) => if o.job = j ∧ o.kind = OpenKind.release then some (0, 0) else none)

/-- JOB_RELEASE (R66): at the tick after the abort. -/
def execJobRelease (job : BitVec 4) (s : State) : Host.Outcome State Fault Refusal :=
  match s.job job.toNat with
  | some jb => (match jb.abort with
      | some g => if s.cvrWorks && s.ticking && decide (g ≤ s.stage) then .next (s.releaseJob job.toNat) else .next s
      | none => .next s)
  | none => .next s

/-- Change a job's training state. -/
def State.modTrain (s : State) (j : Nat) (f : Train → Train) : State :=
  s.modJob j (fun b => { b with train := b.train.map f })

/-- An update leg that fails counts one poisoned block (R256); it has no record, signal or report. -/
def State.updFailed (s : State) (j id : Nat) : State :=
  (s.modTask j id (fun t => t.idle .failed s.stamp)).modTrain j (fun (r : Train) => { r with extra := r.extra + 1 })

/-- KIND of an update leg, a number no header can hold (R25, R253). -/
def updKind : Nat := 0x100

end Sys2Proof.Machine
end

