-- ==== Sys2Proof/Machine/Update.lean ====
section
/-! DEFINITION. The boot flash, manifests, persistent settings, trickle delivery, activation and confirmation (17). -/
namespace Sys2Proof.Machine

/-- A component entry of a manifest (R452). -/
structure Comp where
  ty : Nat
  off : Nat
  len : Nat
  hash : List Byte
  deriving DecidableEq, Repr, Inhabited

/-- What a manifest that passes check 1 of R454 says. -/
structure Manifest where
  svn : Nat
  hwType : Nat
  parts : Nat
  serials : List Nat
  chunks : Nat
  imageBytes : Nat
  comps : List Comp
  hashes : List (List Byte)
  rootKey : List Byte
  signed : List Byte
  sig : List Byte
  deriving DecidableEq, Repr, Inhabited

/-- Component entry `i` with its reserved bytes zero and its fields in range. -/
def parseComp (m : List Byte) (i : Nat) : Option Comp :=
  let r := (m.drop (64 + 128 * i)).take 128
  if r.length == 128 && zeroBytes r 1 4 && zeroBytes r 0x10 0x40 && fld r 8 4 % 4096 == 0 && fld r 0xC 4 != 0 then
    some ⟨fld r 0 1, fld r 8 4, fld r 0xC 4, r.drop 0x40⟩
  else none

/-- Check 1 of R454: magic, format, reserved bits, ranges and a length that fits the counts (R452). -/
def parseManifest (m : List Byte) : Option Manifest :=
  let w1 := fld m 4 4
  let w2 := fld m 8 4
  let w3 := fld m 0xC 4
  let ib := fld m 0x10 4
  let ns := bits w3 0 11
  let nc := bits w3 16 9
  let so := 64 + 1024
  let co := so + cdiv (8 * ns) 64 * 64
  let ro := co + 64 * nc
  let total := ro + 576 + 512
  let comps := (List.range 8).filterMap (parseComp m)
  if m.length == total && fld m 0 4 == 0x464D5A50 && bits w1 0 16 == 1 && bits w1 16 8 == 8
      && decide (bits w1 24 8 ≤ 64) && bits w2 20 12 == 0 && decide (ns ≤ 1024) && bits w3 11 5 == 0
      && bits w3 25 7 == 0 && decide (1 ≤ ib ∧ ib ≤ 32440320) && nc == cdiv ib 65536 && fld m 0x14 4 == total
      && decide (total ≤ 65536) && zeroBytes m 0x20 0x40 && comps.length == 8
      && zeroBytes m (so + 8 * ns) co && zeroBytes m (ro + 516) (ro + 576) then
    some ⟨bits w1 24 8, bits w2 0 16, bits w2 16 4, (List.range ns).map (fun i => fld m (so + 8 * i) 8), nc, ib, comps,
      (List.range nc).map (fun i => (m.drop (co + 64 * i)).take 64), (m.drop ro).take 516, m.take (total - 512),
      m.drop (total - 512)⟩
  else none

/-- Check 2 of R454: the root key is the fused one and the signature verifies. -/
def Manifest.authentic (f : Fuses) (m : Manifest) : Bool :=
  sha512 m.rootKey == f.rootKeyHash
    && rsaVerify (beNat (m.rootKey.take 512)) (beNat (m.rootKey.drop 512)) m.signed m.sig

/-- Check 3: binding to the hardware (R453). -/
def Manifest.bound (s : State) (m : Manifest) : Bool :=
  m.hwType == 0x0D80 && m.parts &&& s.part.pkgId != 0 && (m.serials.isEmpty || m.serials.contains s.serial)

/-- Check 5: every type once, components inside the image and apart. -/
def Manifest.placed (m : Manifest) : Bool :=
  (List.range 8).all (fun i => (m.comps.filter (fun c => c.ty == i + 1)).length == 1)
    && m.comps.all (fun c => decide (c.off + c.len ≤ m.imageBytes))
    && (List.range 8).all (fun i => (List.range i).all (fun j =>
        let a := nth m.comps i
        let b := nth m.comps j
        decide (a.off + a.len ≤ b.off ∨ b.off + b.len ≤ a.off)))

/-- The manifest checks in their order: status 0 when all pass (R454). -/
def manifestStatus (s : State) (b : List Byte) : Nat :=
  match parseManifest b with
  | none => 0x0003
  | some m =>
    if !m.authentic s.fuses then 0x0013
    else if !m.bound s then 0x0013
    else if m.svn < s.fuses.svn then 0x0014
    else if !m.placed then 0x0003
    else 0

/-- A flash bank: B when the flag is set. -/
def Flash.bank (f : Flash) (b : Bool) : Bank := if b then f.bankB else f.bankA
def Flash.setBank (f : Flash) (b : Bool) (v : Bank) : Flash := if b then { f with bankB := v } else { f with bankA := v }

/-- `n` image bytes of a bank from `off`. -/
def Bank.image (b : Bank) (off n : Nat) : List Byte :=
  (((List.range ((off + n) / 65536 + 1 - off / 65536)).flatMap (fun k =>
    fitBytes 65536 (mgetD b.chunks (off / 65536 + k) []))).drop (off % 65536)).take n

/-- The component's bytes hash to its manifest entry. -/
def Bank.compOk (b : Bank) (c : Comp) : Bool := sha512 (b.image c.off c.len) == c.hash

/-- The 64 bytes of a bank-select record (R442). -/
def BankRec.bytes (r : BankRec) : List Byte :=
  let b := toLE 4 0x53425A50 ++ toLE 4 r.seq.toNat ++ toLE 4 (b2n r.confirmed + 2 * b2n r.trial + 4 * r.bad.toNat) ++ zeros 44
  b ++ toLE 4 (crc32 b) ++ zeros 4

/-- What 64 bytes of a copy read as: a record where MAGIC and CRC are valid (R442, R444). -/
def readRec (b : List Byte) : Option BankRec :=
  let w := fld b 8 4
  if fld b 0 4 = 0x53425A50 ∧ fld b 0x38 4 = crc32 (b.take 0x38) then
    some ⟨BitVec.ofNat 32 (fld b 4 4), bit w 0, bit w 1, BitVec.ofNat 2 (bits w 2 2)⟩
  else none

/-- Where each area of the boot flash starts and how long it is, in the order of the table "Boot flash layout" (R442). -/
def flashLayout : List (Nat × Nat) :=
  [(0x0000000, 0x10000), (0x0010000, 0x10000), (0x0020000, 0x10000), (0x0030000, 0x10000), (0x0040000, 0x40000), (0x0080000, 0x40000),
    (0x00C0000, 0x140000), (0x0200000, 0x1F00000), (0x2100000, 0x1F00000)]

/-- The record with the higher sequence, compared modulo 2^32, of the valid copies (R444). -/
def Flash.record (f : Flash) : Option BankRec := match f.rec0, f.rec1 with
  | some a, some b => if (b.seq - a.seq).toNat < 2 ^ 31 then some b else some a
  | some a, none => some a
  | none, some b => some b
  | none, none => none

/-- The record in force, bank A confirmed when neither copy is valid (R444). -/
def Flash.recordD (f : Flash) : BankRec := f.record.getD ⟨0, false, false, 0⟩

/-- Write the record into the copy that does not hold the newer valid one, SEQ one above (R443). -/
def Flash.writeRecord (f : Flash) (r : BankRec) : Flash :=
  let v := { r with seq := f.recordD.seq + 1 }
  match f.rec0, f.rec1 with
  | some a, some b => if (b.seq - a.seq).toNat < 2 ^ 31 then { f with rec0 := some v } else { f with rec1 := some v }
  | some _, none => { f with rec1 := some v }
  | none, _ => { f with rec0 := some v }

/-- The bank passes the manifest checks and its first-stage component hashes right (R444). -/
def bankPasses (s : State) (b : Bool) : Bool :=
  let k := s.flash.bank b
  manifestStatus s k.manifest == 0 && (match parseManifest k.manifest with
    | some m => m.comps.all (fun c => c.ty != 1 || k.compOk c)
    | none => false)

/-- Bank selection of boot phase 2 (R444): the bank to boot and the flash after it; none when no bank passes. A delivery record goes when
the bank it describes becomes the confirmed one (log 73). -/
def bankSelect (s : State) : Option (Bool × Flash) :=
  let r := s.flash.recordD
  let bad (b : Bool) : Bool := r.bad.getLsbD (b2n b)
  let f0 := if r.trial then s.flash.writeRecord { r with trial := false } else s.flash
  let cand := r.confirmed
  let candOk := (r.trial || !bad cand) && bankPasses s cand
  if candOk then some (cand, f0)
  else if !bad (!cand) && bankPasses s (!cand) then
    some (!cand, { f0.writeRecord { f0.recordD with confirmed := !cand, trial := false } with delivery := none })
  else none

/-- Write a setting into both copies, the one that does not hold the newer settings first (R443, R450). -/
def Flash.putSetting (f : Flash) (n v : Nat) : Flash :=
  let c := f.settings
  let c1 : SettingsCopy := ⟨c.seq + 1, mset c.vals n (settingFormat, v)⟩
  let c2 : SettingsCopy := ⟨c.seq + 2, c1.vals⟩
  if f.newerSet1 then { f with set0 := c1, set1 := c2 } else { f with set0 := c2, set1 := c1 }

/-- The check of stored settings against the formats of the firmware about to run (R451): older ones are reset to their
default, newer ones are kept and not used; both are to be reported, an ignored one with bit 15 set. -/
def State.checkSettings (s : State) : State :=
  s.flash.settings.vals.foldl (fun t p =>
    if p.2.1 < settingFormat then
      { t with flash := t.flash.putSetting p.1 (((settingRange p.1).map (fun r => r.1)).getD 0),
               settingsNote := t.settingsNote ++ [p.1] }
    else if settingFormat < p.2.1 then { t with settingsNote := t.settingsNote ++ [p.1 + 0x8000] }
    else t) s

/-- Up to four 16-bit numbers in one argument. -/
def packNotes (l : List Nat) : Nat := leNat ((l.take 4).flatMap (toLE 2))

/-- EV_SETTINGS_RESET, eight settings to an event (R451). -/
def State.postSettings (s : State) : State :=
  { (chunksOf 8 s.settingsNote).foldl (fun t l =>
      t.post { t.ev 0x0603 with arg0 := packNotes l, arg1 := packNotes (l.drop 4) }) s with settingsNote := [] }

/-- The running manifest. -/
def State.runningManifest (s : State) : Option Manifest := parseManifest (s.flash.bank s.upd.running).manifest

/-- SVN bits burned up to the running manifest's value (R464). -/
def State.burnSvn (s : State) : State :=
  match s.runningManifest with
  | some m => { s with fuses := { s.fuses with svn := max s.fuses.svn m.svn } }
  | none => s

/-- An update command is refused while an activation is open (R458). -/
def State.updBusy (s : State) : Bool := s.upd.act.isSome

/-- UPDATE_BEGIN on manifest bytes (R455): a status, or a flash write. -/
def updBegin (s : State) (b : List Byte) : Nat ⊕ FlashOp :=
  if s.upd.trial then .inl 0x0016
  else
    let st := manifestStatus s b
    if st ≠ 0 then .inl st
    else match s.flash.delivery with
      | some d => if d.sha = sha512 b then .inl 0 else .inr (.manifest b)
      | none => .inr (.manifest b)

/-- Length of chunk `i`. -/
def Manifest.chunkLen (m : Manifest) (i : Nat) : Nat := min 65536 (m.imageBytes - 65536 * i)

/-- The manifest of the delivery: in the inactive bank, which runs while it is on trial (R455, R460). -/
def State.deliveryManifest (s : State) : Option Manifest :=
  parseManifest (s.flash.bank (if s.upd.trial then s.upd.running else !s.upd.running)).manifest

/-- UPDATE_CHUNK on chunk bytes (R456). -/
def updChunk (s : State) (i : Nat) (b : List Byte) : Nat ⊕ FlashOp :=
  match s.flash.delivery, s.deliveryManifest with
  | some d, some m =>
    if d.chunks ≤ i then .inl 0x0003
    else if sha512 b ≠ nth m.hashes i then .inl 0x0013
    else if d.held.contains i then .inl 0
    else .inr (.chunk i b)
  | _, _ => .inl 0x0016

/-- Queue a flash write for its asker. -/
def State.queueFlash (s : State) (op : FlashOp) (a : Asker) : State :=
  { s with upd := { s.upd with flashQ := s.upd.flashQ ++ [(op, a)] } }

/-- Answer an MCTP update request with a status (R457). -/
def State.mctpAnswer (s : State) (b : List Byte) : State := { s with mctp := { s.mctp with resp := b } }

/-- Tell the asker of an update request its status and result. -/
def State.tellRes (s : State) (a : Asker) (st res : Nat) : State :=
  match a with
  | .mctp => s.mctpAnswer (toLE 2 st)
  | .cmd h n => s.completeWhere h (fun o =>
      if o.hsn = n ∧ (o.kind = .flash ∨ o.kind = .activate) then some (st, res) else none)

/-- Tell the asker of a flash write or of an activation its status. -/
def State.tell (s : State) (a : Asker) (st : Nat) : State := s.tellRes a st 0

/-- What a flash write that succeeded leaves (R443, R450, R455, R456). -/
def State.flashed (s : State) (op : FlashOp) : State :=
  let inact := !s.upd.running
  match op with
  | .manifest b =>
    let r := s.flash.recordD
    let f1 := s.flash.setBank inact { s.flash.bank inact with manifest := b }
    let f2 := if r.bad.getLsbD (b2n inact) then f1.writeRecord { r with bad := r.bad &&& ~~~(BitVec.ofNat 2 (2 ^ b2n inact)) }
      else f1
    { s with flash := { f2 with delivery := some ⟨sha512 b, ((parseManifest b).map (fun m => m.chunks)).getD 0, []⟩ } }
  | .chunk i b =>
    let k := s.flash.bank inact
    let f1 := s.flash.setBank inact { k with chunks := mset k.chunks i b }
    { s with flash := { f1 with delivery := f1.delivery.map (fun d => { d with held := d.held ++ [i] }) } }
  | .setting n v => { s with flash := s.flash.putSetting n v }
  | _ => s

/-- Any unit is halted, or replay mode is on (R474). -/
def State.anyHalted (s : State) : Bool :=
  s.dbg.haltCores != 0 || s.dbg.haltC != 0 || s.dbg.haltS != 0 || s.dbg.haltCvr

/-- A JOB_RESHARD or WAYSTATION_RESTORE is open (R459). -/
def State.reshardOpen (s : State) : Bool :=
  (s.hostA.openCmds ++ s.hostB.openCmds).any (fun o => o.kind == .reshard || o.kind == .restore)

/-- Preconditions of UPDATE_ACTIVATE (R459, R474): 0 when all hold. -/
def State.activateStatus (s : State) : Nat :=
  if s.anyHalted || s.dbg.replay.isSome then 0x0016
  else if s.upd.trial then 0x0016
  else match s.flash.delivery with
    | none => 0x0015
    | some d =>
      if d.held.length < d.chunks then 0x0015
      else if s.reshardOpen then 0x0001
      else 0

/-- Start an activation for its asker (R460 step 1). -/
def State.startActivation (s : State) (a : Asker) : State := { s with upd := { s.upd with act := some (.verify, a) } }

/-- UPDATE_CONFIRM (R464): confirm the trial. The confirmed bank runs, so no delivery into the inactive bank is left (log 73). -/
def State.confirm (s : State) : State × Nat :=
  if s.upd.trial then
    let r := s.flash.recordD
    (({ s with flash := { s.flash.writeRecord { r with confirmed := s.upd.running, trial := false } with delivery := none },
               upd := { s.upd with trial := false } }).burnSvn, 0)
  else (s, 0x0015)

/-- The delivery bitmap's bytes (R456). -/
def Delivery.bitmap (d : Delivery) : List Byte := toLE (cdiv d.chunks 8) (maskOf d.held)

/-- What an update request does when its turn comes: it answers, a flash write starts, or an activation is open. -/
inductive DlvRes where
  | answer (s : State) (status result : Nat)
  | write (op : FlashOp)
  | opened (s : State)
  deriving DecidableEq, Repr

/-- A check's outcome as an answer or a flash write. -/
def dlvRes (s : State) : Nat ⊕ FlashOp → DlvRes
  | .inl st => .answer s st 0
  | .inr op => .write op

/-- The chunk that a host command delivers (R456). -/
def State.runChunk (s : State) (h : HostId) (addr i : Nat) : DlvRes :=
  match s.flash.delivery, s.deliveryManifest with
  | some d, some m =>
    if d.chunks ≤ i then .answer s 0x0003 0
    else match s.hostRead h addr (m.chunkLen i) with
      | none => .answer s 0x000E 0
      | some b => dlvRes s (updChunk s i b)
  | _, _ => .answer s 0x0016 0

/-- The bitmap that a host command reads (R456). -/
def State.runStatus (s : State) (h : HostId) (addr n : Nat) : DlvRes :=
  match s.flash.delivery with
  | none => .answer s 0 0
  | some d => match s.hostWrite h addr (d.bitmap.take n) with
    | none => .answer s 0x000E 0
    | some t => .answer t 0 (d.held.length + d.chunks * 2 ^ 32)

/-- A setting's stored value is written unless it is there already (R450). -/
def State.runSetting (s : State) (n v : Nat) : DlvRes :=
  if (mget s.flash.settings.vals n).getD (settingFormat, s.setting n) = (settingFormat, v) then .answer s 0 0 else .write (.setting n v)

/-- An update request in its turn (R455–R459, R464): refused while an activation is open (R458). -/
def State.runUpd (s : State) (op : FlashOp) (a : Asker) : DlvRes :=
  match op with
  | .setting n v => s.runSetting n v
  | .manifest b => if s.updBusy then .answer s 0x0001 0 else dlvRes s (updBegin s b)
  | .chunk i b => if s.updBusy then .answer s 0x0001 0 else dlvRes s (updChunk s i b)
  | .chunkAt h p i => if s.updBusy then .answer s 0x0001 0 else s.runChunk h p i
  | .status h p n => if s.updBusy then .answer s 0x0001 0 else s.runStatus h p n
  | .statusFrom _ => .answer s (if s.updBusy then 0x0001 else 0) 0
  | .activate =>
    if s.updBusy then .answer s 0x0001 0
    else if s.activateStatus ≠ 0 then .answer s s.activateStatus 0 else .opened (s.startActivation a)
  | .confirm => if s.updBusy then .answer s 0x0001 0 else .answer s.confirm.1 s.confirm.2 0

/-- The bytes that follow the status of UPD_STATUS (R457): chunks held, CHUNKS and up to 64 bitmap bytes from an offset. -/
def State.statusBytes (s : State) (off : Nat) : List Byte :=
  match s.flash.delivery with
  | none => toLE 4 0 ++ toLE 4 0
  | some d => toLE 4 d.held.length ++ toLE 4 d.chunks ++ (d.bitmap.drop off).take 64

/-- The answer of a request whose turn has come reaches its asker. -/
def State.answerUpd (s : State) (op : FlashOp) (a : Asker) (st res : Nat) : State :=
  match op with
  | .statusFrom off => if st = 0 then s.mctpAnswer (toLE 2 0 ++ s.statusBytes off) else s.mctpAnswer (toLE 2 st)
  | _ => s.tellRes a st res

/-- Requests take their turns until one writes to the flash (R458), `fuel` of them at most. -/
def State.settleUpd : Nat → State → State
  | 0, s => s
  | fuel + 1, s => match s.upd.flashQ with
    | [] => s
    | (op, a) :: r => match s.runUpd op a with
      | .answer t st res => State.settleUpd fuel (State.answerUpd { t with upd := { t.upd with flashQ := r } } op a st res)
      | .opened t => State.settleUpd fuel { t with upd := { t.upd with flashQ := r } }
      | .write w => { s with upd := { s.upd with flashQ := (w, a) :: r } }

/-- FLASH_PROGRAM_DONE (R450, R456, R458): the write at the front of the queue ends and the requests behind it take their turns; a chunk
delivered on both paths is written once. -/
def execFlashProgramDone (ok : Bool) (s : State) : Host.Outcome State Fault Refusal :=
  match s.upd.flashQ with
  | [] => .next s
  | (op, a) :: r =>
    if !s.pwrok then .next s
    else
      let s1 : State := { s with upd := { s.upd with flashQ := r } }
      .next (State.settleUpd r.length (if ok then (s1.flashed op).tell a 0 else s1.tell a 0x000E))

/-- A request of a host command (R458): its turn comes at once, or after the flash writes and requests that came before it. -/
def State.askUpd (s : State) (op : FlashOp) (h : HostId) (hsn : Nat) (kind : OpenKind) : CmdRes :=
  if !s.upd.flashQ.isEmpty then .later (s.queueFlash op (.cmd h hsn)) kind
  else match s.runUpd op (.cmd h hsn) with
    | .answer t st res => .done t st res
    | .opened t => .later t kind
    | .write w => .later (s.queueFlash w (.cmd h hsn)) kind

/-- A request over MCTP (R457, R458). -/
def State.askMctp (s : State) (op : FlashOp) : State :=
  if !s.upd.flashQ.isEmpty then s.queueFlash op .mctp
  else match s.runUpd op .mctp with
    | .answer t st res => t.answerUpd op .mctp st res
    | .opened t => t
    | .write w => s.queueFlash w .mctp

/-- Chunks that hold a component. -/
def Comp.chunks (c : Comp) : List Nat := (List.range (cdiv (c.off + c.len) 65536)).filter (fun i => c.off / 65536 ≤ i)

/-- ACTIVATION_VERIFY_DONE (R460 step 1): components that hash wrong, or could not be read, clear their chunks' bits and
end the activation with ST_AUTH; otherwise the pause is armed for the next tick. -/
def execActivationVerifyDone (failed : List (BitVec 8)) (s : State) : Host.Outcome State Fault Refusal :=
  match s.upd.act, s.deliveryManifest with
  | some (.verify, a), some m =>
    let k := s.flash.bank (!s.upd.running)
    let bad := m.comps.filter (fun c => !k.compOk c || failed.any (fun t => t.toNat == c.ty))
    if !s.cvrWorks then .next s
    else if bad.isEmpty then .next { s with upd := { s.upd with act := some (.armed, a), armedAt := s.stage } }
    else
      let gone := bad.flatMap Comp.chunks
      let del := s.flash.delivery.map (fun (d : Delivery) =>
        { d with held := d.held.filter (fun i => !gone.contains i) })
      let s1 := { s with
        upd := { s.upd with act := none }
        flash := { s.flash with delivery := del } }
      .next (s1.tell a 0x0013)
  | _, _ => .next s

/-- ACTIVATION_PAUSE (R460 steps 2, 3): at the tick after verification PAUSED is set, TRIAL is written and the settings
are checked for the firmware about to run. -/
def execActivationPause (s : State) : Host.Outcome State Fault Refusal :=
  match s.upd.act with
  | some (.armed, a) =>
    if s.cvrWorks && decide (s.upd.armedAt < s.stage) then
      .next (({ s with
        paused := true
        flash := s.flash.writeRecord { s.flash.recordD with trial := true }
        upd := { s.upd with act := some (.paused, a), fallback := false } } : State).checkSettings)
    else .next s
  | _ => .next s

/-- 60 s of device time in cycles. -/
def minuteCycles : Nat := 60 * 850000000

/-- ACTIVATION_RESUME (R460 step 4, R465): service resumes on the new firmware, on the old one after a failed switch, or
on the confirmed one after a fallback. -/
def execActivationResume (switched : Bool) (s : State) : Host.Outcome State Fault Refusal :=
  match s.upd.act with
  | some (.paused, a) =>
    if !s.cvrWorks then .next s
    else if s.upd.fallback then
      let r := s.flash.recordD
      let s1 := { s with
        paused := false
        upd := { s.upd with act := none, fallback := false, trial := false, running := r.confirmed, heldConfirm := false } }
      let s2 := (s1.post { s1.ev 0x0605 with arg0 := b2n r.confirmed }).postSettings
      .next (if s.upd.heldConfirm then s2.mctpAnswer (toLE 2 0x0015) else s2)
    else if switched then
      let s1 := { s with
        paused := false
        upd := { s.upd with
          act := none, trial := true, running := !s.upd.running
          windowEnd := s.now + s.setting 2 * minuteCycles } }
      let s2 := s1.tell a 0
      .next ((s2.post { s2.ev 0x0604 with arg0 := (s2.runningManifest.map (fun m => m.svn)).getD 0 }).postSettings)
    else
      let r := s.flash.recordD
      let s1 := { s with
        paused := false
        flash := s.flash.writeRecord { r with trial := false }
        upd := { s.upd with act := none } }
      let s2 := s1.tell a 0x000E
      .next ((s2.post { s2.ev 0x0605 with arg0 := b2n r.confirmed }).postSettings)
  | _ => .next s

/-- CONFIRM_WINDOW_EXPIRY (R465): at the first tick at or after the end of the window the pause of the fallback begins. -/
def execConfirmWindowExpiry (s : State) : Host.Outcome State Fault Refusal :=
  if s.cvrWorks && s.upd.trial && s.upd.act.isNone && decide (s.upd.windowEnd ≤ s.now) then
    .next (({ s with
      paused := true
      flash := s.flash.writeRecord { s.flash.recordD with trial := false }
      upd := { s.upd with act := some (.paused, .mctp), fallback := true } } : State).checkSettings)
  else .next s

/-- The row of UpdateBegin in the command catalogue (R370). -/
def specUpdateBegin : CmdSpec :=
  ⟨0x0601, true, false, false, false, [(0x08, 0, 64), (0x10, 0, 32)]⟩

/-- UPDATE_BEGIN (R455). -/
def execUpdateBegin (h : HostId) (c : CmdRec) (s : State) : Host.Outcome State Fault Refusal :=
  .next (s.command specUpdateBegin h c (fun s =>
    let n := c.par 0x10 0 32
    if s.updBusy then .done s 0x0001 0
    else if c.par 0x08 0 3 ≠ 0 ∨ 65536 < n then .done s 0x0003 0
    else match s.hostRead h (c.par 0x08 0 64) n with
      | none => .done s 0x000E 0
      | some b => s.askUpd (.manifest b) h c.hsn.toNat .flash))

/-- The row of UpdateChunk in the command catalogue (R370). -/
def specUpdateChunk : CmdSpec :=
  ⟨0x0602, true, false, false, false, [(0x08, 0, 64), (0x10, 0, 32)]⟩

/-- UPDATE_CHUNK (R456). -/
def execUpdateChunk (h : HostId) (c : CmdRec) (s : State) : Host.Outcome State Fault Refusal :=
  .next (s.command specUpdateChunk h c (fun s =>
    if s.updBusy then .done s 0x0001 0
    else if c.par 0x08 0 3 ≠ 0 then .done s 0x0003 0
    else s.askUpd (.chunkAt h (c.par 0x08 0 64) (c.par 0x10 0 32)) h c.hsn.toNat .flash))

/-- The row of UpdateStatus in the command catalogue (R370). -/
def specUpdateStatus : CmdSpec :=
  ⟨0x0603, true, false, false, false, [(0x08, 0, 64), (0x10, 0, 32)]⟩

/-- UPDATE_STATUS (R456). -/
def execUpdateStatus (h : HostId) (c : CmdRec) (s : State) : Host.Outcome State Fault Refusal :=
  .next (s.command specUpdateStatus h c (fun s =>
    if s.updBusy then .done s 0x0001 0
    else if c.par 0x08 0 3 ≠ 0 then .done s 0x0003 0
    else s.askUpd (.status h (c.par 0x08 0 64) (c.par 0x10 0 32)) h c.hsn.toNat .flash))

/-- The row of UpdateActivate in the command catalogue (R370). -/
def specUpdateActivate : CmdSpec :=
  ⟨0x0604, true, false, false, false, []⟩

/-- UPDATE_ACTIVATE (R459, R460). -/
def execUpdateActivate (h : HostId) (c : CmdRec) (s : State) : Host.Outcome State Fault Refusal :=
  .next (s.command specUpdateActivate h c (fun s => s.askUpd .activate h c.hsn.toNat .activate))

/-- The row of UpdateConfirm in the command catalogue (R370). -/
def specUpdateConfirm : CmdSpec :=
  ⟨0x0605, true, false, false, false, []⟩

/-- UPDATE_CONFIRM (R464). -/
def execUpdateConfirm (h : HostId) (c : CmdRec) (s : State) : Host.Outcome State Fault Refusal :=
  .next (s.command specUpdateConfirm h c (fun s => s.askUpd .confirm h c.hsn.toNat .flash))

/-- The row of SettingsSet in the command catalogue (R370). -/
def specSettingsSet : CmdSpec :=
  ⟨0x0007, true, false, false, false, [(0x08, 0, 16), (0x10, 0, 64)]⟩

/-- SETTINGS_SET (R450, R458). -/
def execSettingsSet (h : HostId) (c : CmdRec) (s : State) : Host.Outcome State Fault Refusal :=
  .next (s.command specSettingsSet h c (fun s =>
    let n := c.par 0x08 0 16
    let v := c.par 0x10 0 64
    match settingRange n with
    | none => .done s 0x0003 0
    | some (_, lo, hi) =>
      if v < lo ∨ hi < v then .done s 0x0003 0 else s.askUpd (.setting n v) h c.hsn.toNat .flash))

/-- The row of SettingsGet in the command catalogue (R370). -/
def specSettingsGet : CmdSpec :=
  ⟨0x0008, false, false, false, true, [(0x08, 0, 16)]⟩

/-- SETTINGS_GET (R450). -/
def execSettingsGet (h : HostId) (c : CmdRec) (s : State) : Host.Outcome State Fault Refusal :=
  .next (s.command specSettingsGet h c (fun s =>
    let n := c.par 0x08 0 16
    if (settingRange n).isSome then .done s 0 (s.setting n) else .done s 0x0003 0))

/-- The MCTP update path answers (R429): from the end of phase 1. -/
def State.mctpUp (s : State) : Bool := s.pwrok && s.cfgActive

/-- Pieces of `total` bytes are all held. -/
def allPieces (total : Nat) (m : NMap (List Byte)) : Bool :=
  (List.range (cdiv total 1024)).all (fun i => (mget m i).isSome)

/-- Pieces joined in order. -/
def joinPieces (total : Nat) (m : NMap (List Byte)) : List Byte :=
  (List.range (cdiv total 1024)).flatMap (fun i => mgetD m i [])

/-- A piece has the length its index gives it. -/
def pieceOk (total i : Nat) (d : List Byte) : Bool := decide (1024 * i < total) && d.length == min 1024 (total - 1024 * i)

/-- UPD_MANIFEST_PIECE (R457). -/
def execUpdManifestPiece (total : BitVec 32) (piece : BitVec 6) (data : List Byte) (s : State) :
    Host.Outcome State Fault Refusal :=
  if !(s.mctpUp && s.ready && s.cvrIntact && !s.dbg.haltCvr) then .next s
  else if s.setting 3 ≠ 1 ∨ s.fatal then .next (s.mctpAnswer (toLE 2 0x0016))
  else if s.updBusy then .next (s.mctpAnswer (toLE 2 0x0001))
  else if 65536 < total.toNat ∨ !pieceOk total.toNat piece.toNat data then .next (s.mctpAnswer (toLE 2 0x0003))
  else
    let old := if s.upd.pieceTotal = total.toNat then s.upd.pieces else []
    let ps := mset old piece.toNat data
    let s1 := { s with upd := { s.upd with pieceTotal := total.toNat, pieces := ps } }
    if allPieces total.toNat ps then
      let s2 := { s1 with upd := { s1.upd with pieceTotal := 0, pieces := [] } }
      .next (s2.askMctp (.manifest (joinPieces total.toNat ps)))
    else .next (s1.mctpAnswer (toLE 2 0))

/-- UPD_CHUNK_PIECE (R457). -/
def execUpdChunkPiece (chunk : BitVec 32) (piece : BitVec 6) (data : List Byte) (s : State) :
    Host.Outcome State Fault Refusal :=
  if !(s.mctpUp && s.ready && s.cvrIntact && !s.dbg.haltCvr) then .next s
  else if s.setting 3 ≠ 1 ∨ s.fatal then .next (s.mctpAnswer (toLE 2 0x0016))
  else if s.updBusy then .next (s.mctpAnswer (toLE 2 0x0001))
  else match s.flash.delivery, s.deliveryManifest with
    | some d, some m =>
      let total := m.chunkLen chunk.toNat
      if d.chunks ≤ chunk.toNat ∨ !pieceOk total piece.toNat data then .next (s.mctpAnswer (toLE 2 0x0003))
      else
        let old := if s.upd.chunkNo = chunk.toNat then s.upd.chunkPieces else []
        let ps := mset old piece.toNat data
        let s1 := { s with upd := { s.upd with chunkNo := chunk.toNat, chunkPieces := ps } }
        if allPieces total ps then
          let s2 := { s1 with upd := { s1.upd with chunkPieces := [] } }
          .next (s2.askMctp (.chunk chunk.toNat (joinPieces total ps)))
        else .next (s1.mctpAnswer (toLE 2 0))
    | _, _ => .next (s.mctpAnswer (toLE 2 0x0016))

/-- UPD_STATUS (R457): status, chunks held, CHUNKS and up to 64 bitmap bytes from an offset. -/
def execUpdStatus (offset : BitVec 16) (s : State) : Host.Outcome State Fault Refusal :=
  if !(s.mctpUp && s.ready && s.cvrIntact && !s.dbg.haltCvr) then .next s
  else if s.setting 3 ≠ 1 ∨ s.fatal then .next (s.mctpAnswer (toLE 2 0x0016))
  else .next (s.askMctp (.statusFrom offset.toNat))

/-- UPD_ACTIVATE (R457): as UPDATE_ACTIVATE; the response is sent when service resumes. -/
def execUpdActivate (s : State) : Host.Outcome State Fault Refusal :=
  if !(s.mctpUp && s.ready && s.cvrIntact && !s.dbg.haltCvr) then .next s
  else if s.setting 3 ≠ 1 ∨ s.setting 4 ≠ 1 ∨ s.fatal then .next (s.mctpAnswer (toLE 2 0x0016))
  else .next (s.askMctp .activate)

/-- UPD_CONFIRM (R457, R465): as UPDATE_CONFIRM; one that arrives in the pause of a fallback is held. -/
def execUpdConfirm (s : State) : Host.Outcome State Fault Refusal :=
  if !(s.mctpUp && s.ready && s.cvrIntact && !s.dbg.haltCvr) then .next s
  else if s.setting 3 ≠ 1 ∨ s.setting 4 ≠ 1 ∨ s.fatal then .next (s.mctpAnswer (toLE 2 0x0016))
  else if s.upd.fallback then .next { s with upd := { s.upd with heldConfirm := true } }
  else .next (s.askMctp .confirm)

end Sys2Proof.Machine
end

