-- ==== Sys2Proof/Machine/Power.lean ====
section
/-! DEFINITION. Package lands, boot phases, regulators, the thermal trip and the management requests over MCTP (16,
R354, R466). -/
namespace Sys2Proof.Machine

/-- What carries across PWROK low (R438): part, serial, fuses and the boot flash; host memory and the PERST lands are
not the device's. The queue and the free counter are the model's own. -/
def State.cold (s : State) : State :=
  { State.reset with
    part := s.part
    serial := s.serial
    stepping := s.stepping
    fuses := s.fuses
    flash := s.flash
    mem := s.mem.filter (fun p => decide (hostABase ≤ p.1))
    hostA := { HostPort.init with perst := s.hostA.perst }
    hostB := { HostPort.init with perst := s.hostB.perst }
    power := .init s.part
    freeCtr := s.freeCtr
    pending := s.pending }

/-- The boot stops (R433): PHASE 0xF, FATAL, the failure code and the phase reached. -/
def State.bootStop (s : State) (code : Nat) : State :=
  { s with phaseReached := s.phase, phase := 0xF, fatal := true, failCode := BitVec.ofNat 8 code }

/-- PWROK_RISE (R417, R431, R433, R438). Straps: bit 0 RECOVERY, bit 1 SPI_SLOW, bits 4:2 SMB_ADDR. -/
def execPwrokRise (straps : BitVec 5) (railsInRange : Bool) (s : State) : Host.Outcome State Fault Refusal :=
  if s.pwrok then .next s
  else
    let s1 := { s.cold with
      pwrok := true
      phase := 1
      strapRecovery := straps.getLsbD 0
      strapSpiSlow := straps.getLsbD 1
      strapSmb := straps.extractLsb' 2 3 }
    .next (if railsInRange then s1 else s1.bootStop 0x11)

/-- A released port trains (R432). -/
def HostPort.train (p : HostPort) (present : Bool) : HostPort := { p with link := present && !p.perst }

/-- Every component of the running bank hashes to its manifest entry (R444). -/
def State.componentsOk (s : State) : Bool :=
  match s.runningManifest with
  | some m => m.comps.all (s.flash.bank s.upd.running).compOk
  | none => false

/-- A component of the running bank failed its check: the bank's BAD bit is set and the boot stops (R444). -/
def State.bootBad (s : State) : State :=
  let r := s.flash.recordD
  { s with flash := s.flash.writeRecord { r with bad := r.bad ||| BitVec.ofNat 2 (2 ^ b2n s.upd.running) } }.bootStop 0x31

/-- Phase 3: a component that differs sets the bank's BAD bit before the boot stops (R444); else the settings are
checked (R451). -/
def State.bootFirmware (s : State) : State :=
  if s.componentsOk then { s.checkSettings with phase := 4 } else s.bootBad

/-- Addresses that phases 4 and 7 write with zero (R435). -/
def isHbm (a : Nat) : Bool := decide (a < depotBase)
def isSram (a : Nat) : Bool := decide (depotBase ≤ a ∧ a < regBase)

/-- The end of phase 7 (R433–R435, R444, R451, R464): SRAM zero, ports enabled, READY, the owed fuse bits and events. -/
def State.bootReady (s : State) : State :=
  let s1 := { s with
    mem := s.mem.filter (fun p => !isSram p.1)
    marked := []
    pageRecs := []
    ports := (List.range s.part.ports).map (fun k => (k, { Port.init with st := .dark }))
    phase := 8
    ready := true }
  let s2 := s1.burnSvn
  let s3 := if s2.fallbackNote then s2.post { s2.ev 0x0605 with arg0 := b2n s2.upd.running } else s2
  s3.postSettings

/-- BOOT_PHASE_DONE (R433): the phase in progress passes and its checks decide. -/
def execBootPhaseDone (s : State) : Host.Outcome State Fault Refusal :=
  if !s.pwrok || s.fatal then .next s
  else match s.phase.toNat with
    | 1 => .next { s with
        cfgActive := true
        phase := 2
        hostA := s.hostA.train true
        hostB := s.hostB.train s.part.dual }
    | 2 =>
      if s.strapRecovery then .next (s.bootStop 0x23)
      else match bankSelect s with
        | none => .next (s.bootStop 0x21)
        | some (b, f) =>
          let r := s.flash.recordD
          .next { s with
            flash := f
            upd := { s.upd with running := b }
            fallbackNote := b != r.confirmed || r.trial
            phase := 3 }
    | 3 => .next s.bootFirmware
    | 4 => .next { s with mem := s.mem.filter (fun p => !isHbm p.1), marked := s.marked.filter (fun l => !isHbm l), phase := 5 }
    | 5 => .next { s with phase := 6 }
    | 6 => .next { s with phase := 7 }
    | 7 => .next s.bootReady
    | _ => .next s

/-- Failure codes of a phase (table "Boot phases"). -/
def phaseCodes : Nat → List Nat
  | 1 => [0x11, 0x12, 0x13]
  | 2 => [0x21, 0x22, 0x23]
  | 3 => [0x31, 0x32]
  | 4 => [0x41, 0x42]
  | 5 => [0x51]
  | 6 => [0x61]
  | 7 => [0x71, 0x72]
  | _ => []

/-- The phase in progress can stop with a code (R436, R444): the recovery strap and the banks decide those of phase 2. -/
def State.mayStop (s : State) (code : Nat) : Bool :=
  (phaseCodes s.phase.toNat).contains code && (match code with
    | 0x21 => !s.strapRecovery && (bankSelect s).isNone
    | 0x22 => !s.strapRecovery
    | 0x23 => s.strapRecovery
    | _ => true)

/-- BOOT_PHASE_TIMEOUT (R433, R434, R444): the phase passes its limit or fails, with one of its codes. -/
def execBootPhaseTimeout (code : BitVec 8) (s : State) : Host.Outcome State Fault Refusal :=
  if s.pwrok && !s.fatal && s.mayStop code.toNat then .next (if code = 0x31 then s.bootBad else s.bootStop code.toNat) else .next s

/-- PWROK_FALL (R437–R439): everything is held in reset; FAULT_N and THERMTRIP_N are released. -/
def execPwrokFall (s : State) : Host.Outcome State Fault Refusal := .next s.cold

/-- A port's state after PERST (R354, R358, R391): link, configuration space, BAR and MSI-X programming, IDE keys, mirror
enable and page are reset; rings, indices and sequence numbers stay; owed messages stay pending. -/
def HostPort.perstReset (p : HostPort) : HostPort :=
  { p with
    perst := true
    link := false
    mps := 128
    mrrs := 512
    tag10 := false
    barLog := 30
    msixOn := false
    msixProg := 0
    msixPend := p.msixPend ||| p.msixDefer
    msixDefer := 0
    msixLast := []
    mirrorOn := false
    page := .init
    timeCap := ⟨0, 0⟩
    perr := false
    mbxIndex := false
    streams := [] }

/-- PERST_ASSERT (R354, R439). -/
def execPerstAssert (h : HostId) (s : State) : Host.Outcome State Fault Refusal :=
  .next (s.setHost h (s.host h).perstReset)

/-- PERST_RELEASE (R354, R432): the port trains, at once or at the end of phase 1. -/
def execPerstRelease (h : HostId) (s : State) : Host.Outcome State Fault Refusal :=
  let p := { s.host h with perst := false }
  .next (s.setHost h (p.train (s.pwrok && s.cfgActive && s.part.hasHost h)))

/-- REFCLK_LOSS (R425): device-fatal, with no event of its own in the catalogue. -/
def execRefclkLoss (s : State) : Host.Outcome State Fault Refusal := .next (s.deviceFatal none 0 0)

/-- Source type and index of a thermal unit (R413). -/
def thermSrc : ThermUnit → Nat × Nat
  | .cdie d => (2, d.toNat)
  | .serai n => (3, n.toNat)
  | .idie i => (0, i.toNat)
  | .stack n => (4, n.toNat)

end Sys2Proof.Machine

namespace Sys2Proof

/-- The unit is present on the part. -/
def ThermUnit.present (p : Part) : ThermUnit → Bool
  | .cdie d => decide (d.toNat < p.cdies)
  | .serai n => decide (n.toNat < p.serais)
  | .idie i => decide (i.toNat < p.idies)
  | .stack n => decide (n.toNat < p.hbms)

/-- Source type and index of a thermal unit (R413). -/
def ThermUnit.src (u : ThermUnit) : Nat × Nat := Machine.thermSrc u

end Sys2Proof

namespace Sys2Proof.Machine

/-- EV_THERMAL of a unit (R427, R428). -/
def State.thermalEvent (s : State) (u : ThermUnit) (temp cls : Nat) : EventRec :=
  { s.ev 0x0701 with cls := cls, srcType := u.src.1, srcIndex := u.src.2, arg0 := u.src.2, arg1 := temp }

/-- THERMAL_TRIP (R428, R439): THERMTRIP_N until PWROK falls, every engine stops, and an intact Caravaneer posts EV_THERMAL before
EV_DEVICE_FATAL; a boot in progress halts in the same way. -/
def execThermalTrip (u : ThermUnit) (temp : BitVec 8) (s : State) : Host.Outcome State Fault Refusal :=
  if !s.pwrok || temp.toNat < 105 || !u.present s.part then .next s
  else
    let s1 := { s with thermtrip := true }
    let s2 := s1.deviceFatal (if s.cvrUp then some (s.thermalEvent u temp.toNat 3) else none) 0x0701 0
    .next (if s.ready || s.fatal then s2 else { s2 with phaseReached := s.phase, phase := 0xF })

/-- The first faulting rail that the part has (R423). -/
def faultingRail (p : Part) (rails : List RailStatus) : Option Nat :=
  (rails.find? (fun r => r.fault && p.hasRail r.rail.toNat)).map (fun r => r.rail.toNat)

/-- Firmware reads the rails' status (R423): a fault is device-fatal with the rail in ARG1; a warning is cleared. -/
def State.readRails (s : State) (rails : List RailStatus) : State :=
  if s.pwrok && s.ready then
    match faultingRail s.part rails with
    | some r => s.deviceFatal none 0 r
    | none => s
  else s

/-- PMB_ALERT (R423). -/
def execPmbAlert (rails : List RailStatus) (s : State) : Host.Outcome State Fault Refusal := .next (s.readRails rails)

/-- REGULATOR_POLL (R423). -/
def execRegulatorPoll (rails : List RailStatus) (s : State) : Host.Outcome State Fault Refusal :=
  .next (s.readRails rails)

/-- TRST_N (R466): the TAP alone is reset; its instruction becomes IDCODE. -/
def execTrstN (s : State) : Host.Outcome State Fault Refusal := .next { s with dbg := { s.dbg with ir := 0x01 } }

/-- GET_STATE (R429): DEV_STATE, failure code, seconds since PWROK rose, phase reached (log 30). -/
def execGetState (s : State) : Host.Outcome State Fault Refusal :=
  if s.mctpUp then
    .next (s.mctpAnswer (toLE 4 s.devState ++ toLE 1 s.failCode.toNat ++ toLE 4 (s.now / 850000000)
      ++ toLE 1 s.phaseReached.toNat))
  else .next s

/-- Temperatures of the present dies and stacks in the order C-dies, serais, I-dies, stacks. -/
def State.temps (s : State) : List Byte :=
  fitBytes s.part.cdies s.power.tempC ++ fitBytes s.part.serais s.power.tempS ++ fitBytes s.part.idies s.power.tempI
    ++ fitBytes s.part.hbms s.power.tempH

/-- A stack's controller doubles its refresh rate (R397). -/
def State.refreshDoubled (s : State) (n : Nat) : Bool := decide (85 ≤ (nth s.power.tempH n).toNat)

/-- GET_THERMAL (R429). -/
def execGetThermal (s : State) : Host.Outcome State Fault Refusal :=
  if s.mctpUp then
    .next (s.mctpAnswer (s.temps ++ toLE 1 (b2n s.thermtrip)
      ++ toLE 1 (maskOf (s.power.throttleC.map (fun p => p.1))) ++ toLE 1 (maskOf (s.power.throttleS.map (fun p => p.1)))))
  else .next s

/-- GET_POWER (R429): package power and the power of every rail of the table in W; zero rails before phase 3. -/
def execGetPower (s : State) : Host.Outcome State Fault Refusal :=
  if s.mctpUp then
    .next (s.mctpAnswer (toLE 2 s.power.packageW ++ (List.range 31).flatMap (fun n =>
      toLE 2 (if s.phase.toNat < 3 then 0 else s.power.railPower.getD n 0 / 1000))))
  else .next s

/-- SET_ENDPOINT_ID (R429, log 30): 0 and 0xFF are no endpoint. -/
def execSetEndpointId (eid : BitVec 8) (s : State) : Host.Outcome State Fault Refusal :=
  if !s.mctpUp then .next s
  else if eid = 0 ∨ eid = 0xFF then .next (s.mctpAnswer [0x02])
  else .next { s with mctp := ⟨eid, [0x00, 0x00, eid, 0x00]⟩ }

/-- GET_ENDPOINT_ID (R429, log 30). -/
def execGetEndpointId (s : State) : Host.Outcome State Fault Refusal :=
  if s.mctpUp then .next (s.mctpAnswer [0x00, s.mctp.eid, 0x00, 0x00]) else .next s

/-- Message types that the endpoint supports: MCTP control, SPDM, vendor-defined PCI (R429). -/
def mctpTypes : List Byte := [0x00, 0x05, 0x7E]

/-- GET_MCTP_VERSION_SUPPORT (R429, log 30): version 1.3 for a supported type, else completion code 0x80. -/
def execGetMctpVersionSupport (msgType : BitVec 8) (s : State) : Host.Outcome State Fault Refusal :=
  if !s.mctpUp then .next s
  else if msgType = 0xFF ∨ mctpTypes.contains msgType then .next (s.mctpAnswer [0x00, 0x01, 0xF1, 0xF3, 0xF0, 0x00])
  else .next (s.mctpAnswer [0x80])

/-- GET_MESSAGE_TYPE_SUPPORT (R429, log 30). -/
def execGetMessageTypeSupport (s : State) : Host.Outcome State Fault Refusal :=
  if s.mctpUp then .next (s.mctpAnswer ([0x00, 0x03] ++ mctpTypes)) else .next s

/-- MCTP_UNKNOWN_REQUEST (R429): the vendor-defined error response, no effect (log 30). -/
def execMctpUnknownRequest (code : BitVec 8) (s : State) : Host.Outcome State Fault Refusal :=
  if s.mctpUp then .next (s.mctpAnswer [code, 0x05]) else .next s

end Sys2Proof.Machine
end

