-- ==== Sys2Proof/Machine/Mailbox.lean ====
section
/-! DEFINITION. Mailbox doorbells, MSI-X messages, BAR4 accesses, takeover and the device commands of the mailbox
(01, 13, 14). -/
namespace Sys2Proof.Machine

/-- An index write that is ignored (R393): the MBX_INDEX bit and EV_MBX_INDEX. -/
def State.badIndex (s : State) (h : HostId) (v : Nat) : State :=
  (s.setHost h { s.host h with mbxIndex := true }).post { s.ev 0x0602 with
    srcType := 7, srcIndex := h.idx, arg0 := h.idx, arg1 := v }

/-- MBX_CMD_TAIL_WRITE (R359, R393). -/
def execMbxCmdTailWrite (h : HostId) (value : BitVec 32) (whole ide : Bool) (s : State) : Host.Outcome State Fault Refusal :=
  let p := s.host h
  if !(s.bar0Up h && s.ideOk h ide) then .next s
  else if whole && decide ((value - p.cmdHead).toNat ≤ 1024) then .next (s.setHost h { p with cmdTail := value })
  else .next (s.badIndex h value.toNat)

/-- MBX_CPL_HEAD_WRITE (R359, R393). -/
def execMbxCplHeadWrite (h : HostId) (value : BitVec 32) (whole ide : Bool) (s : State) : Host.Outcome State Fault Refusal :=
  let p := s.host h
  if !(s.bar0Up h && s.ideOk h ide) then .next s
  else if whole && decide ((p.cplTail - value).toNat ≤ 1024) then .next (s.setHost h { p with cplHead := value })
  else .next (s.badIndex h value.toNat)

/-- MSIX_DEFERRED_SEND (R358): 2 µs after the previous message the deferred one goes out, or is latched pending where it cannot. -/
def execMsixDeferredSend (h : HostId) (v : BitVec 6) (s : State) : Host.Outcome State Fault Refusal :=
  let p := s.host h
  if s.pwrok && p.msixDefer.getLsbD v.toNat && decide (mgetD p.msixLast v.toNat 0 + msixGap ≤ s.now) then
    .next (s.setHost h (if p.canSend v.toNat then p.send s.now v.toNat else p.latch v.toNat))
  else .next s

/-- MSIX_PENDING_SEND (R358): one message for a latched vector that can now be sent. -/
def execMsixPendingSend (h : HostId) (v : BitVec 6) (s : State) : Host.Outcome State Fault Refusal :=
  let p := s.host h
  if s.pwrok && p.msixPend.getLsbD v.toNat && p.canSend v.toNat then .next (s.setHost h (p.send s.now v.toNat)) else .next s

/-- Whether each open command of a host survives the takeover is undefined: a free value decides each (R22, log 1). The
takeover's own command completes. -/
def State.surviveOpen (s : State) (h : HostId) : State :=
  (s.host h).openCmds.foldl (fun (t : State) (o : OpenCmd) =>
    let r := t.free
    if o.kind = OpenKind.takeover ∨ r.1 % 2 = 0 then r.2
    else r.2.setHost h { r.2.host h with openCmds := (r.2.host h).openCmds.filter (fun (x : OpenCmd) => x.hsn != o.hsn) }) s

/-- TAKEOVER_SWITCH (R22 steps 2 and 3, R364): the standby takes the mailboxes of both hosts. DESIGN CHOICE (log 67): the former
active Caravaneer then stands by. -/
def execTakeoverSwitch (s : State) : Host.Outcome State Fault Refusal :=
  if s.live && s.takeover == 2 then
    let s1 := { s with cvrSide := !s.cvrSide, takeover := 3 }
    let s2 := s1.post { s1.ev 0x0106 with arg0 := b2n s1.cvrSide }
    let s3 := (s2.surviveOpen .a).surviveOpen .b
    let s4 := s3.completeBoth (fun (o : OpenCmd) => if o.kind = OpenKind.takeover then some (0, 0) else none)
    .next ((s4.signal .a 18).signal .b 18)
  else .next s

/-- A host may reach a device address through BAR4 (R357): HBM and depots; host B only HBM of its granted stacks. -/
def State.barReach (s : State) (h : HostId) (a : Nat) : Bool :=
  match regionOf s.part a, h with
  | .hbm _, .a => true
  | .depot _, .a => true
  | .hbm n, .b => s.grantStacks.testBit n
  | _, _ => false

/-- The device address of BAR4 offset `off` (R391); none outside the window. -/
def State.barAddr (s : State) (h : HostId) (off : Nat) : Option Nat :=
  if off < 2 ^ (s.host h).barLog then some ((s.host h).winBase + off) else none

/-- EV_HOST_ADDR_FAULT (R357). -/
def State.hostAddrFault (s : State) (h : HostId) (a : Nat) : State :=
  s.post { s.ev 0x0601 with srcType := 7, srcIndex := h.idx, addr := a, arg0 := h.idx }

/-- The host as a reader of memory: an uncorrectable line is contained (R399, R406). -/
def hostReader (h : HostId) : Reader := ⟨7, h.idx, 0xFF, 0xFFFFFFFF, 1⟩

/-- BAR4_READ (R355–R357, R391, R399, R432). -/
def execBar4Read (h : HostId) (off : BitVec 48) (len : BitVec 13) (ide : Bool) (f : Faults) (s : State) :
    Host.Outcome State Fault Refusal :=
  let n := len.toNat
  let ans (t : State) (r : Option (List Byte × Bool)) : State := t.setHost h { t.host h with rd := r }
  if !s.bar0Up h || n == 0 || decide (4096 < n) then .next s
  else if !s.ideOk h ide then .next (ans s none)
  else match s.barAddr h off.toNat with
    | none => .next (ans s none)
    | some a =>
      if !s.ready then .next (ans s (some (List.replicate n 0xFF#8, false)))
      else if !(s.barReach h a && s.barReach h (a + n - 1)) then
        .next (ans (s.hostAddrFault h a) (some (List.replicate n 0xFF#8, false)))
      else
        let ls := linesOf a n
        let bad := !(badLines s f ls).isEmpty
        let d := if bad then zeros n else s.bytes a n
        .next (ans (s.meet (hostReader h) f ls) (some (d, bad)))

/-- BAR4_WRITE (R355–R357, R379, R391, R398, R432): a line written in part is merged and keeps its mark. -/
def execBar4Write (h : HostId) (off : BitVec 48) (data : List Byte) (ide : Bool) (f : Faults) (s : State) :
    Host.Outcome State Fault Refusal :=
  let n := data.length
  if !(s.bar0Up h && s.ideOk h ide && s.ready) || n == 0 || decide (4096 < n) then .next s
  else match s.barAddr h off.toNat with
    | none => .next s
    | some a =>
      if !(s.barReach h a && s.barReach h (a + n - 1)) || inLog a || inLog (a + n - 1) then .next (s.hostAddrFault h a)
      else .next (s.put (hostReader h) f a data)

/-- Entries of the open list (R367). -/
def openList (p : HostPort) : List Byte :=
  p.openCmds.flatMap (fun (o : OpenCmd) => toLE 4 o.hsn ++ toLE 2 o.op ++ toLE 2 (o.job % 256))
    ++ p.notices.flatMap (fun n => toLE 4 n.1 ++ toLE 2 0x0107 ++ toLE 2 (n.2.1 % 256 + 0xFF00))

/-- MBX_RESYNC (R367): outside the count of HSNs. -/
def execMbxResync (h : HostId) (c : CmdRec) (s : State) : Host.Outcome State Fault Refusal :=
  if !(s.mayTake h && s.turnOf h) then .next s
  else
    let s1 := s.take h 0x0001 c
    let p := s1.host h
    let out := c.par 0x08 0 64
    let ans (t : State) (st r : Nat) : State := t.record h 0 c.hsn.toNat 0x0001 c.job.toNat st t.stage r
    let res := p.lastHsn + p.openCmds.length * 2 ^ 32 + p.notices.length * 2 ^ 48
    if c.hsn ≠ 0 ∨ c.rsvd ≠ 0 ∨ c.job ≠ 0xFF ∨ !c.onlyFields [(0x08, 0, 64)] ∨ out % 8 ≠ 0 then .next (ans s1 0x0003 0)
    else if out = 0 then .next (ans s1 0 res)
    else match s1.hostWrite h out (openList p) with
      | some t => .next (ans t 0 res)
      | none => .next (ans s1 0x000E 0)

/-- The row of DeviceConfig in the command catalogue (R370). -/
def specDeviceConfig : CmdSpec :=
  ⟨0x0002, true, false, false, false, [(0x08, 0, 14)]⟩

/-- DEVICE_CONFIG (R58, R59, R307). -/
def execDeviceConfig (h : HostId) (c : CmdRec) (s : State) : Host.Outcome State Fault Refusal :=
  .next (s.command specDeviceConfig h c (fun s =>
    let us := c.par 0x08 0 14
    if us < 25 ∨ 10000 < us then .done s 0x0003 0
    else if s.dom.joined && s.dom.timekeeper != s.dom.deviceId then
      if us = s.period then .doneAt s 0 0 s.stage else .done s 0x0008 0
    else if s.dom.joined then .later { s with dom := { s.dom with announce := some (us, s.stage + 16) } } .period
    else .later { s with periodAt := some (us, s.nextStage) } .period))

/-- The row of PowerCapSet in the command catalogue (R370). -/
def specPowerCapSet : CmdSpec :=
  ⟨0x0003, true, false, false, false, [(0x08, 0, 16)]⟩

/-- POWER_CAP_SET (R82): 60 % of the package maximum at least; a cap above it is out of range (log 32). -/
def execPowerCapSet (h : HostId) (c : CmdRec) (s : State) : Host.Outcome State Fault Refusal :=
  .next (s.command specPowerCapSet h c (fun s =>
    let w := c.par 0x08 0 16
    if 100 * w < 60 * s.part.pkgMaxW ∨ s.part.pkgMaxW < w then .done s 0x0003 0
    else .done { s with power := { s.power with capW := w } } 0 0))

/-- Halves that a channel uses (R218): the one its record names, and those on which it has samples. -/
def Chan.halves (c : Chan) : Nat :=
  c.samples.foldl (fun a (m : Sample) => a ||| 2 ^ m.half) (if c.half = 0 then 0 else 2 ^ (c.half - 1))

/-- Units that jobs and channels of host B use: cores, stacks, media halves (R353). -/
def State.usedByB (s : State) : Nat × Nat × Nat :=
  let js := s.jobs.filter (fun (p : Nat × Job) => p.2.owner == HostId.b)
  let ids := js.map (fun (p : Nat × Job) => p.1)
  let maps (p : Nat × Job) : Nat := (p.2.pt ++ p.2.ptNext).foldl (fun a q => match regionOf s.part q.2 with
    | .hbm n => a ||| 2 ^ n
    | _ => a) 0
  (js.foldl (fun a (p : Nat × Job) => a ||| p.2.cores) 0, js.foldl (fun a (p : Nat × Job) => a ||| p.2.hbms ||| maps p) 0,
    s.chans.foldl (fun a (p : Nat × Chan) => if ids.contains p.2.job then a ||| p.2.halves else a) 0)

/-- A channel of a host-B job leaves its half to the device (R218): some half must stay granted. -/
def State.anyHalfB (s : State) : Bool := s.chans.any (fun p => p.2.half == 0 && s.owner p.2.job == some HostId.b)

/-- The row of HostBPartitionSet in the command catalogue (R370). -/
def specHostBPartitionSet : CmdSpec :=
  ⟨0x0004, true, false, false, false, [(0x08, 0, 128), (0x18, 0, 18)]⟩

/-- HOST_B_PARTITION_SET (R3, R353). DESIGN CHOICE (log 60): a part without host B answers ST_ABSENT whatever the masks are. -/
def execHostBPartitionSet (h : HostId) (c : CmdRec) (s : State) : Host.Outcome State Fault Refusal :=
  .next (s.command specHostBPartitionSet h c (fun s =>
    let cs := c.par 0x08 0 128
    let st := c.par 0x18 0 16
    let hv := c.par 0x18 16 2
    let u := s.usedByB
    if !(s.part.dual && subMask cs (2 ^ s.part.cores - 1) && subMask st (2 ^ s.part.hbms - 1)
        && subMask hv s.part.mediaHalves) then .done s 0x0002 0
    else if subMask u.1 cs && subMask u.2.1 st && subMask u.2.2 hv && !(s.anyHalfB && hv == 0) then
      .done { s with grantCores := cs, grantStacks := st, grantHalves := hv } 0 0
    else .done s 0x0001 0))

/-- The row of CaravaneerTakeover in the command catalogue (R370). -/
def specCaravaneerTakeover : CmdSpec :=
  ⟨0x0005, true, false, false, false, []⟩

/-- CARAVANEER_TAKEOVER (R22, R474): it completes when the standby runs. During a takeover no command is taken (R360). -/
def execCaravaneerTakeover (h : HostId) (c : CmdRec) (s : State) : Host.Outcome State Fault Refusal :=
  .next (s.command specCaravaneerTakeover h c (fun s =>
    if !s.part.dual then .done s 0x0002 0
    else if s.anyHalted || s.dbg.replay.isSome then .done s 0x0016 0
    else .later { s with takeover := 1 } .takeover))

/-- The row of EventMirrorSet in the command catalogue (R370). -/
def specEventMirrorSet : CmdSpec :=
  ⟨0x0006, false, false, false, false, [(0x08, 0, 64), (0x10, 0, 1)]⟩

/-- EVENT_MIRROR_SET (R379, R380). -/
def execEventMirrorSet (h : HostId) (c : CmdRec) (s : State) : Host.Outcome State Fault Refusal :=
  .next (s.command specEventMirrorSet h c (fun s =>
    let a := c.par 0x08 0 64
    let p := s.host h
    if a % 4096 ≠ 0 then .done s 0x0003 0
    else if c.par 0x10 0 1 = 0 then .done (s.setHost h { p with mirrorOn := false }) 0 0
    else if 2 ^ 46 < a + 4 * 2 ^ 20 then .done s 0x000E 0
    else .done (s.setHost h { p with mirrorOn := true, mirror := a, evtTail := 0 }) 0 0))

/-- An entry of a fault report (R411). -/
def RepEntry.bytes (e : RepEntry) : List Byte :=
  toLE 4 e.task ++ toLE 4 (e.state % 4 + e.kind % 256 * 2 ^ 8 + e.status % 2 ^ 16 * 2 ^ 16) ++ toLE 4 e.progress ++ zeros 4

/-- The header of a fault report (R411). -/
def Report.header (r : Report) : List Byte :=
  toLE 4 r.id ++ toLE 4 (r.cause % 2 ^ 16 + r.cls % 4 * 2 ^ 16 + r.job % 256 * 2 ^ 24) ++ toLE 4 r.step
    ++ toLE 4 r.entries.length ++ toLE 4 (64 + 16 * r.entries.length) ++ toLE 8 (r.time.stage % 2 ^ 48)
    ++ toLE 4 (r.time.offset % 2 ^ 24) ++ toLE 8 r.seq ++ zeros 24

/-- The header and as many whole entries as `n` bytes hold; nothing where the header does not fit (log 32). -/
def Report.cut (r : Report) (n : Nat) : List Byte :=
  if n < 64 then [] else r.header ++ (r.entries.take ((n - 64) / 16)).flatMap RepEntry.bytes

/-- The row of FaultReportGet in the command catalogue (R370). -/
def specFaultReportGet : CmdSpec :=
  ⟨0x0009, false, false, false, true, [(0x08, 0, 32), (0x10, 0, 64), (0x18, 0, 32)]⟩

/-- FAULT_REPORT_GET (R411). -/
def execFaultReportGet (h : HostId) (c : CmdRec) (s : State) : Host.Outcome State Fault Refusal :=
  .next (s.command specFaultReportGet h c (fun s =>
    let a := c.par 0x10 0 64
    if a % 8 ≠ 0 then .done s 0x0003 0
    else match s.reports.find? (fun (r : Report) => r.id == c.par 0x08 0 32) with
      | none => .done s 0x0003 0
      | some r =>
        let d := r.cut (c.par 0x18 0 32)
        match s.hostWrite h a d with
        | some t => .done t 0 d.length
        | none => .done s 0x000E 0))

/-- RESERVED_OPCODE_COMMAND (R370): taken, and it returns ST_BAD_FIELD with no effect. -/
def execReservedOpcodeCommand (h : HostId) (op : BitVec 16) (c : CmdRec) (s : State) : Host.Outcome State Fault Refusal :=
  if opcodes.contains op.toNat then .next s
  else .next (s.command ⟨op.toNat, false, false, false, false, [(0x08, 0, 448)]⟩ h c (fun s => .done s 0x0003 0))

end Sys2Proof.Machine
end

