-- ==== Sys2Proof/Machine/JobCmds.lean ====
section
/-! DEFINITION. The commands that create, map, load and run jobs (01, 03, 13), with the conversion of H2 lists (R374) and
the reading of a replay log (R476). -/
namespace Sys2Proof.Machine

/-- Run the waiting commands of a host that `sel` picks, oldest first, until one stays open again (R366). -/
def State.runWaiting (s : State) (h : HostId) (sel : OpenCmd → Bool) (body : OpenCmd → State → CmdRes) : State :=
  let ws := (s.host h).openCmds.filter (fun o => o.kind == .waiting && sel o)
  (ws.foldl (fun (z : State × Bool) o =>
    if z.2 then z
    else match body o z.1 with
      | .later t k =>
        let p := t.host h
        (t.setHost h { p with openCmds := p.openCmds.map (fun q => if q = o then { q with kind := k } else q) }, true)
      | .done t st r =>
        let p := t.host h
        ((t.setHost h { p with openCmds := p.openCmds.filter (fun q => q != o) }).record h 0 o.hsn o.op o.job st t.stage r, false)
      | .doneAt t st r g =>
        let p := t.host h
        ((t.setHost h { p with openCmds := p.openCmds.filter (fun q => q != o) }).record h 0 o.hsn o.op o.job st g r, false)) (s, false)).1

/-- The Caravaneer as a reader of a job's memory for a command: an uncorrectable line is contained (R406). -/
def State.cmdReader (s : State) (j : Nat) : Reader := ⟨0, b2n s.cvrSide, j, 0xFFFFFFFF, 1⟩

/-- Job memory that a command reads, with the state after its lines are met; none when the access fails (R370). -/
def State.cmdJobRead (s : State) (f : Faults) (j : Nat) (pt : NMap Nat) (va n : Nat) : State × Option (List Byte) :=
  if !s.jobReach pt va n then (s, none)
  else
    let ls := jobLines pt va n
    let t := s.meet (s.cmdReader j) f ls
    if (badLines s f ls).isEmpty then (t, some (jobBytes s pt va n)) else (t, none)

/-- A training-state table that a command reads: an uncorrectable line is job-fatal (R406). -/
def State.tableRead (s : State) (f : Faults) (j : Nat) (pt : NMap Nat) (va n : Nat) : State × Option (List Byte) :=
  if !s.jobReach pt va n then (s, none)
  else
    let ls := jobLines pt va n
    let t := s.fatalMeet (s.cmdReader j) f ls
    if (badLines s f ls).isEmpty then (t, some (jobBytes s pt va n)) else (t, none)

/-- Two ranges overlap. -/
def rangesMeet (a n b m : Nat) : Bool := decide (0 < n ∧ 0 < m ∧ a < b + m ∧ b < a + n)

/-- The job id that JOB_CREATE gives: the lowest free one (log 33). -/
def State.freeJob (s : State) : Option Nat := freshBelow 16 (s.jobs.map (fun p => p.1))

/-- A new job without lists, steps or mappings (R62–R65). -/
def Job.create (owner : HostId) (backhaul : Bool) (home tag hbms seed budget tsBase tsBytes cores : Nat)
    (spill : NMap (List Nat)) : Job where
  owner := owner
  backhaul := backhaul
  home := home
  tag := tag
  hbms := hbms
  seed := seed
  budget := budget
  tsBase := tsBase
  tsBytes := tsBytes
  cores := cores
  pt := []
  ptNext := []
  spill := spill
  ctrs := []
  lists := []
  queue := []
  run := none
  lost := []
  abort := none
  report := 0
  replayLog := none
  windows := []
  peers := []
  kv := none
  train := none
  variants := []
  variantNext := []
  groups := []
  readies := []
  map := none
  reshard := none
  way := none

/-- The row of JobCreate in the command catalogue (R370). -/
def specJobCreate : CmdSpec :=
  ⟨0x0101, false, false, false, false, [(0x08, 0, 3), (0x0C, 0, 32), (0x10, 0, 64), (0x18, 0, 24), (0x1C, 0, 24),
    (0x20, 0, 128), (0x30, 0, 24)]⟩

/-- JOB_CREATE (R62–R64, R289, R371, R478). DESIGN CHOICE (log 60): an absent unit answers ST_ABSENT before the other fields are checked. -/
def execJobCreate (h : HostId) (c : CmdRec) (s : State) : Host.Outcome State Fault Refusal :=
  .next (s.command specJobCreate h c (fun s =>
    let home := c.par 0x08 1 2
    let tag := c.par 0x0C 0 16
    let hbms := c.par 0x0C 16 16
    let budget := c.par 0x18 0 24
    let base := c.par 0x1C 0 24
    let cores := c.par 0x20 0 128
    let n := c.par 0x30 0 24
    let cl := bitList 128 cores
    if s.dbg.replay.isSome then .done s 0x0016 0
    else if !(subMask cores (2 ^ s.part.cores - 1) && subMask hbms (2 ^ s.part.hbms - 1) && decide (home < s.part.serais)) then
      .done s 0x0002 0
    else if h == .b && !(subMask cores s.grantCores && subMask hbms s.grantStacks) then .done s 0x0003 0
    else if cores = 0 ∨ hbms = 0 ∨ 8500000 < budget ∨ base % 64 ≠ 0 ∨ n % 64 ≠ 0 ∨ 12 * 2 ^ 20 < base + n
        ∨ (tag ≠ 0 ∧ s.jobs.any (fun (p : Nat × Job) => p.2.tag == tag)) then .done s 0x0003 0
    else match s.freeJob with
      | none => .done s 0x0001 0
      | some id =>
        if s.jobs.any (fun (p : Nat × Job) => (p.2.cores &&& cores) != 0 && rangesMeet p.2.tsBase p.2.tsBytes base n) then
          .done s 0x0001 0
        else match s.allocJob hbms (2 * cl.length) with
          | none => .done s 0x0004 0
          | some pages =>
            let spill := (List.range cl.length).map (fun k => (nth cl k, (pages.drop (2 * k)).take 2))
            .done (s.setJob id (Job.create h (c.par 0x08 0 1 == 1) home tag hbms (c.par 0x10 0 64) budget base n cores spill))
              0 id))

/-- The row of JobDestroy in the command catalogue (R370). -/
def specJobDestroy : CmdSpec :=
  ⟨0x0102, false, true, true, false, []⟩

/-- JOB_DESTROY (R66, R364, R375): it completes at the tick that releases the job. -/
def execJobDestroy (h : HostId) (c : CmdRec) (s : State) : Host.Outcome State Fault Refusal :=
  .next (s.command specJobDestroy h c (fun s => .later (s.abortJob c.job.toNat) .release))

/-- Put the pages of a mapping into the table that the next tick takes (R28, R29). -/
def Job.mapPages (jb : Job) (vp : Nat) (addrs : List Nat) : Job :=
  { jb with ptNext := (List.range addrs.length).foldl (fun m k => mset m (vp + k) (nth addrs k)) jb.ptNext }

/-- The row of MemMap in the command catalogue (R370). -/
def specMemMap : CmdSpec :=
  ⟨0x0103, false, true, false, false, [(0x08, 0, 44), (0x10, 0, 23), (0x10, 24, 2), (0x18, 0, 16), (0x20, 0, 64)]⟩

/-- MEM_MAP (R28, R29, R403, R483). Page counts of 0 and pages that are mapped already are out of range (log 34). DESIGN CHOICE: a
serai mask of 0 with TARGET 1 means the depots of every serai present (log 34), and an absent unit answers ST_ABSENT before the
other fields are checked (log 60). -/
def execMemMap (h : HostId) (c : CmdRec) (s : State) : Host.Outcome State Fault Refusal :=
  .next (s.command specMemMap h c (fun s =>
    match s.job c.job.toNat with
    | none => .done s 0x0005 0
    | some jb =>
      let va := c.par 0x08 0 44
      let n := c.par 0x10 0 23
      let tgt := c.par 0x10 24 2
      let mask := c.par 0x18 0 16
      let hb := c.par 0x20 0 64
      let put (addrs : List Nat) : CmdRes :=
        .doneAt (s.setJob c.job.toNat (jb.mapPages (va / 2 ^ 21) addrs)) 0 0 s.nextStage
      if tgt = 0 ∧ !subMask mask (2 ^ s.part.hbms - 1) then .done s 0x0002 0
      else if tgt = 1 ∧ !subMask mask (2 ^ s.part.serais - 1) then .done s 0x0002 0
      else if va % 2 ^ 21 ≠ 0 ∨ n = 0 ∨ 2 ^ 44 < va + n * 2 ^ 21 ∨ tgt = 3
          ∨ (List.range n).any (fun k => (mget jb.ptNext (va / 2 ^ 21 + k)).isSome)
          ∨ (tgt = 0 ∧ h = .b ∧ !subMask mask s.grantStacks)
          ∨ (tgt = 2 ∧ (hb % 2 ^ 21 ≠ 0 ∨ 2 ^ 46 < hb + n * 2 ^ 21)) then .done s 0x0003 0
      else if tgt = 2 then put ((List.range n).map (fun k => hostBase h + hb + k * 2 ^ 21))
      else
        let ranges := if tgt = 0 then stackRanges (if mask = 0 then jb.hbms else mask)
          else (bitList 4 (if mask = 0 then 2 ^ s.part.serais - 1 else mask)).map depotPages
        match s.allocPages n ranges with
        | none => .done s 0x0004 0
        | some pages => put (pages.map (· * 2 ^ 21))))

/-- The row of MemUnmap in the command catalogue (R370). -/
def specMemUnmap : CmdSpec :=
  ⟨0x0104, false, true, false, false, [(0x08, 0, 44), (0x10, 0, 23)]⟩

/-- MEM_UNMAP (R29): a range that is not wholly mapped is out of range (log 34). -/
def execMemUnmap (h : HostId) (c : CmdRec) (s : State) : Host.Outcome State Fault Refusal :=
  .next (s.command specMemUnmap h c (fun s =>
    match s.job c.job.toNat with
    | none => .done s 0x0005 0
    | some jb =>
      let va := c.par 0x08 0 44
      let n := c.par 0x10 0 23
      let vp := va / 2 ^ 21
      if va % 2 ^ 21 ≠ 0 ∨ n = 0 ∨ !(List.range n).all (fun k => (mget jb.ptNext (vp + k)).isSome) then .done s 0x0003 0
      else
        let m := jb.ptNext.filter (fun p => !decide (vp ≤ p.1 ∧ p.1 < vp + n))
        .doneAt (s.setJob c.job.toNat { jb with ptNext := m }) 0 0 s.nextStage))

/-- A header fits its job (R26): its core in the set, its body and record mapped. -/
def hdrFits (jb : Job) (t : TaskHdr) : Bool :=
  (t.kind == 0x10 || jb.cores.testBit t.core) && (xlate jb.pt t.body).isSome && (xlate jb.pt t.record).isSome

/-- Task ids are new to the job and differ among themselves (R373). -/
def idsNew (jb : Job) (ids : List Nat) : Bool :=
  let old := jb.lists.flatMap (fun p => p.2.hdrs.map TaskHdr.id)
  (dedup ids).length == ids.length && ids.all (fun i => !old.contains i)

/-- Load checked headers: the lowest free list id (log 33). -/
def State.loadList (s : State) (j : Nat) (jb : Job) (at_ : Option Nat) (hdrs : List TaskHdr) : CmdRes :=
  match freshBelow 64 (jb.lists.map (fun p => p.1)) with
  | none => .done s 0x0001 0
  | some id => .done (s.setJob j { jb with lists := mset jb.lists id ⟨hdrs, at_⟩ }) 0 id

/-- FORMAT 0 of TASKLIST_LOAD (R26, R373). -/
def State.loadNative (s : State) (f : Faults) (j : Nat) (jb : Job) (va n : Nat) : CmdRes :=
  match s.cmdJobRead f j jb.pt va (64 * n) with
  | (t, none) => .done t 0x000E 0
  | (t, some b) =>
    let hdrs := (List.range n).filterMap (fun k => parseHdr (unitOf b k))
    if hdrs.length = n ∧ hdrs.all (hdrFits jb) ∧ idsNew jb (hdrs.map TaskHdr.id) then t.loadList j jb (some va) hdrs
    else .done t 0x0003 0

/-- An H2 list entry (R374): none for a barrier. -/
structure H2Entry where
  array : Nat
  core : Nat
  prec : Nat
  id : Nat
  x : Nat
  w : Nat
  out : Nat
  dims : List Nat
  budget : Nat
  deriving DecidableEq, Repr, Inhabited

/-- PREC of an H2_PREC. -/
def h2Prec : Nat → Option Nat
  | 0 => some 0
  | 1 => some 1
  | 2 => some 2
  | 3 => some 3
  | 4 => some 5
  | _ => none

/-- The named fields of an entry beside H2_OP, in bits and bytes of its words (table "H2 list entry"). -/
def h2Fields (r : List Byte) : List Nat :=
  let w := fld r 0 4
  [bits w 8 2, bits w 12 7, bits w 20 3, fld r 4 4, bits (fld r 8 8) 0 44, bits (fld r 0x10 8) 0 44, bits (fld r 0x18 8) 0 44,
    bits (fld r 0x38 4) 0 24] ++ (List.range 6).map (fun k => fld r (0x20 + 4 * k) 4)

/-- One entry read from its 64 bytes: the outer option is none where its H2_OP or H2_PREC is reserved or it breaks the table (log
60); reserved bits are ignored (R6). -/
def parseH2 (r : List Byte) : Option (Option H2Entry) :=
  let w := fld r 0 4
  if bits w 0 8 = 2 then (if (h2Fields r).all (fun v => v == 0) then some none else none)
  else if bits w 0 8 = 1 ∧ bits (fld r 0x38 4) 0 24 ≤ 8500000 then
    (h2Prec (bits w 20 3)).map (fun p => some ⟨bits w 8 2, bits w 12 7, p, fld r 4 4, bits (fld r 8 8) 0 44,
      bits (fld r 0x10 8) 0 44, bits (fld r 0x18 8) 0 44, (List.range 6).map (fun k => fld r (0x20 + 4 * k) 4),
      bits (fld r 0x38 4) 0 24⟩)
  else none

/-- The array control unit of a converted entry (R106, R374): MODE 2, one array, no ring. -/
def H2Entry.control (e : H2Entry) : List Byte :=
  toLE 4 (2 + e.prec * 2 ^ 4 + 2 ^ e.array * 2 ^ 8 + 1 * 2 ^ 12) ++ e.dims.flatMap (toLE 4)
    ++ toLE 4 (min (nth e.dims 3) 512) ++ zeros 32

/-- Segments between barriers: the MATRIX entries of each with their places in the list. -/
def h2Segments : List (Nat × Option H2Entry) → List (List (Nat × H2Entry)) → List (List (Nat × H2Entry))
  | [], acc => acc
  | (_, none) :: r, acc => h2Segments r (acc ++ [[]])
  | (k, some e) :: r, acc => h2Segments r (acc.dropLast ++ [(acc.getLastD []) ++ [(k, e)]])

/-- Units of the output set at an entry's OUT_SET: its unit and descriptors by BEGIN and FUSE (R114). -/
def outSetUnits (r : List Byte) : Nat :=
  2 + b2n (bits (fld r 0 4) 0 2 != 0) + b2n (bits (fld r 0 4) 2 2 != 0)

/-- The converted body of one entry and its header (R374); the record address is not given by the list, so it is a free
value (log 1). -/
def State.convertH2 (s : State) (f : Faults) (j : Nat) (jb : Job) (area k : Nat) (e : H2Entry)
    (wait : Option (Nat × Nat)) (signal : Option Nat) : State × Nat × Option TaskHdr :=
  let r0 := s.cmdJobRead f j jb.pt e.x 64
  let r1 := r0.1.cmdJobRead f j jb.pt e.w 64
  let r2 := r1.1.cmdJobRead f j jb.pt e.out 64
  match r0.2, r1.2, r2.2 with
  | some x, some w, some o =>
    let n := outSetUnits o
    match r2.1.cmdJobRead f j jb.pt e.out (64 * n) with
    | (t, some os) =>
      let body := e.control ++ x ++ w ++ os
      let at_ := area + 448 * k
      if (parseMatCtl e.control).isNone ∨ !jb.cores.testBit e.core then (t, 0x0003, none)
      else if !t.jobReach jb.pt at_ body.length then (t, 0x000E, none)
      else
        let fr := t.free
        (fr.2.jobPut j at_ body, 0,
          some ⟨e.id, 0x01, 3 + n, e.budget, wait, none, signal, at_, fr.1 % 2 ^ 38 * 64, e.core⟩)
    | (t, none) => (t, 0x000E, none)
  | _, _, _ => (r2.1, 0x000E, none)

/-- Convert entries in order; the first failure's status, or the headers. -/
def State.convertAll (s : State) (f : Faults) (j : Nat) (jb : Job) (area : Nat) :
    List ((Nat × H2Entry) × Option (Nat × Nat) × Option Nat) → State × Nat × List TaskHdr
  | [] => (s, 0, [])
  | (ke, w, g) :: r =>
    match s.convertH2 f j jb area ke.1 ke.2 w g with
    | (t, _, some hd) =>
      let q := t.convertAll f j jb area r
      (q.1, q.2.1, hd :: q.2.2)
    | (t, st, none) => (t, st, [])

/-- FORMAT 1 of TASKLIST_LOAD (R374): a list that is refused leaves job memory as it was. -/
def State.loadH2 (s : State) (f : Faults) (j : Nat) (jb : Job) (va area : Nat) : CmdRes :=
  match s.cmdJobRead f j jb.pt va 64 with
  | (t, none) => .done t 0x000E 0
  | (t, some hd) =>
    let n := bits (fld hd 0 4) 0 17
    if n = 0 ∨ 69631 < n then .done t 0x0003 0
    else match t.cmdJobRead f j jb.pt (va + 64) (64 * n) with
      | (t, none) => .done t 0x000E 0
      | (t, some b) =>
        let es := (List.range n).filterMap (fun k => (parseH2 (unitOf b k)).map (fun e => (k, e)))
        let segs := h2Segments es [[]]
        let cnt (i : Nat) : Nat := (nth segs i).length
        let plan := (List.range segs.length).flatMap (fun i => (nth segs i).map (fun ke =>
          (ke, (if 1 ≤ i ∧ cnt (i - 1) ≠ 0 then some (i - 1, cnt (i - 1)) else none),
            (if cnt (i + 1) ≠ 0 ∧ i + 1 < segs.length then some i else none))))
        if es.length ≠ n ∨ 4096 < segs.length then .done t 0x0003 0
        else if 65536 < plan.length then .done t 0x0001 0
        else if !idsNew jb (plan.map (fun p => p.1.2.id)) then .done t 0x0003 0
        else
          let q := t.convertAll f j jb area plan
          if q.2.1 ≠ 0 then .done { q.1 with mem := t.mem, jobs := t.jobs } q.2.1 0
          else match q.1.job j with
            | some jb2 => q.1.loadList j jb2 none q.2.2
            | none => .done q.1 0x0005 0

/-- The row of TasklistLoad in the command catalogue (R370). -/
def specTasklistLoad : CmdSpec :=
  ⟨0x0105, false, true, false, false, [(0x08, 0, 44), (0x10, 0, 17), (0x10, 24, 1), (0x18, 0, 44)]⟩

/-- TASKLIST_LOAD (R26, R373, R374). -/
def execTasklistLoad (h : HostId) (c : CmdRec) (f : Faults) (s : State) : Host.Outcome State Fault Refusal :=
  .next (s.command specTasklistLoad h c (fun s =>
    match s.job c.job.toNat with
    | none => .done s 0x0005 0
    | some jb =>
      let va := c.par 0x08 0 44
      let n := c.par 0x10 0 17
      let area := c.par 0x18 0 44
      if va % 64 ≠ 0 then .done s 0x0003 0
      else if c.par 0x10 24 1 = 0 then
        (if n = 0 ∨ area ≠ 0 then .done s 0x0003 0
        else if 65536 < n ∨ 64 ≤ jb.lists.length then .done s 0x0001 0
        else s.loadNative f c.job.toNat jb va n)
      else if n ≠ 0 ∨ area % 64 ≠ 0 then .done s 0x0003 0
      else if 64 ≤ jb.lists.length then .done s 0x0001 0
      else s.loadH2 f c.job.toNat jb va area))

/-- The row of TasklistUnload in the command catalogue (R370). -/
def specTasklistUnload : CmdSpec :=
  ⟨0x0106, false, true, false, false, [(0x08, 0, 16)]⟩

/-- TASKLIST_UNLOAD (R373): a list that is not loaded is out of range. -/
def execTasklistUnload (h : HostId) (c : CmdRec) (s : State) : Host.Outcome State Fault Refusal :=
  .next (s.command specTasklistUnload h c (fun s =>
    match s.job c.job.toNat with
    | none => .done s 0x0005 0
    | some jb =>
      let id := c.par 0x08 0 16
      if (mget jb.lists id).isNone then .done s 0x0003 0
      else if jb.queue.any (fun (q : QStep) => q.list == id) || jb.run.any (fun (r : RunStep) => r.q.list == id) then
        .done s 0x0001 0
      else .done (s.setJob c.job.toNat { jb with lists := merase jb.lists id }) 0 0))

/-- Bytes of the step ring of a replay log (R476): the whole area, or its lower half when results are kept. -/
def ringBytes (pages : Nat) (keep : Bool) : Nat := if keep then pages * 2 ^ 20 else pages * 2 ^ 21

/-- Walk the step records of a log from OLDEST on for a step (R476, log 35): the next record follows, or stands at offset
64 where it would cross the end. -/
def findStep (b : Nat → Nat → Nat) (size newest step : Nat) : Nat → Nat → Option Nat
  | 0, _ => none
  | fuel + 1, off =>
    if b off 4 = step then some off
    else if off = newest then none
    else
      let nx := off + max 64 (cdiv (b (off + 0x2C) 4) 64 * 64)
      let fits := decide (nx + 64 ≤ size) && decide (64 ≤ b (nx + 0x2C) 4) && decide (nx + b (nx + 0x2C) 4 ≤ size)
      findStep b size newest step fuel (if fits then nx else 64)

/-- The offset of a step's record in a job's log; none where the log holds none (R478). -/
def State.replayRecord (s : State) (jb : Job) (r : Replay) (step : Nat) : Option Nat :=
  let b (off n : Nat) : Nat := leNat (jobBytes s jb.pt (r.logVa + off) n)
  if !s.jobReach jb.pt r.logVa (r.pages * 2 ^ 21) ∨ b 0 4 ≠ 0x474C5A50 then none
  else findStep b (r.pages * 2 ^ 21) (b 8 4) step 65536 (b 0xC 4)

/-- Replay mode lets the step be submitted (R478). -/
def State.replayAllows (s : State) (j : Nat) (jb : Job) (step : Nat) : Bool :=
  match s.dbg.replay with
  | none => true
  | some r => r.job != j || (match s.replayRecord jb r step with
    | some off => leNat (jobBytes s jb.pt (r.logVa + off + 8) 8) == jb.seed
    | none => false)

/-- The row of StepSubmit in the command catalogue (R370). -/
def specStepSubmit : CmdSpec :=
  ⟨0x0107, false, true, false, false, [(0x08, 0, 17), (0x0C, 0, 32), (0x10, 0, 6), (0x10, 7, 1), (0x11, 0, 6),
    (0x11, 7, 1), (0x12, 0, 6), (0x12, 7, 1), (0x13, 0, 6), (0x13, 7, 1)]⟩

/-- STEP_SUBMIT (R65, R222, R252, R372, R478). -/
def execStepSubmit (h : HostId) (c : CmdRec) (s : State) : Host.Outcome State Fault Refusal :=
  .next (s.command specStepSubmit h c (fun s =>
    match s.job c.job.toNat with
    | none => .done s 0x0005 0
    | some jb =>
      let chs := ((List.range 4).filter (fun k => c.par (0x10 + k) 7 1 == 1)).map (fun k => c.par (0x10 + k) 0 6)
      let q : QStep := ⟨c.par 0x08 0 16, c.par 0x0C 0 32, c.par 0x08 16 1 == 1, chs, h, c.hsn.toNat⟩
      if (mget jb.lists q.list).isNone
          ∨ !chs.all (fun k => (mget s.chans k).any (fun (x : Chan) => x.job == c.job.toNat)) then .done s 0x0003 0
      else if 4 ≤ jb.queue.length then .done s 0x0001 0
      else if !s.replayAllows c.job.toNat jb q.step then .done s 0x0016 0
      else
        let s1 := s.setJob c.job.toNat { jb with queue := jb.queue ++ [q] }
        let p := s1.host h
        .done (s1.setHost h { p with notices := p.notices ++ [(q.hsn, c.job.toNat, q.step)] }) 0 0))

/-- The row of ReplayLogSet in the command catalogue (R370). -/
def specReplayLogSet : CmdSpec :=
  ⟨0x0108, false, true, false, false, [(0x08, 0, 44), (0x10, 0, 17)]⟩

/-- REPLAY_LOG_SET (R476): LOG_PAGES 0 stops recording (log 35); the area must be mapped. -/
def execReplayLogSet (h : HostId) (c : CmdRec) (s : State) : Host.Outcome State Fault Refusal :=
  .next (s.command specReplayLogSet h c (fun s =>
    match s.job c.job.toNat with
    | none => .done s 0x0005 0
    | some jb =>
      let va := c.par 0x08 0 44
      let n := c.par 0x10 0 16
      if n = 0 then .done (s.setJob c.job.toNat { jb with replayLog := none }) 0 0
      else if va % 2 ^ 21 ≠ 0 ∨ !mappedAll jb.pt va (n * 2 ^ 21) then .done s 0x0003 0
      else .done (s.setJob c.job.toNat { jb with replayLog := some ⟨va, n, c.par 0x10 16 1 == 1, 64, []⟩ }) 0 0))

end Sys2Proof.Machine
end

