-- ==== Sys2Proof/Machine/Break.lean ====
section
/-! DEFINITION. Halts and breakpoints as the drovers and engines meet them (R473–R475). -/
namespace Sys2Proof.Machine

/-- A unit that a halt holds and a breakpoint names. -/
inductive HaltUnit where
  | core (c : Nat)
  | cdie (d : Nat)
  | serai (n : Nat)
  | cvr
  | all
  deriving DecidableEq, Repr, Inhabited

/-- Halt a unit (R473): type 7 halts every present drover and the Caravaneer. -/
def State.halt (s : State) (u : HaltUnit) : State :=
  let d := s.dbg
  match u with
  | .core c => { s with dbg := { d with haltCores := d.haltCores ||| BitVec.ofNat 128 (2 ^ c) } }
  | .cdie n => { s with dbg := { d with haltC := d.haltC ||| BitVec.ofNat 8 (2 ^ n) } }
  | .serai n => { s with dbg := { d with haltS := d.haltS ||| BitVec.ofNat 4 (2 ^ n) } }
  | .cvr => { s with dbg := { d with haltCvr := true } }
  | .all => { s with dbg := { d with
      haltC := d.haltC ||| BitVec.ofNat 8 (2 ^ s.part.cdies - 1)
      haltS := d.haltS ||| BitVec.ofNat 4 (2 ^ s.part.serais - 1)
      haltCvr := true } }

/-- A unit is halted. -/
def State.halted (s : State) (u : HaltUnit) : Bool :=
  match u with
  | .core c => s.dbg.haltCores.getLsbD c
  | .cdie n => s.dbg.haltC.getLsbD n
  | .serai n => s.dbg.haltS.getLsbD n
  | .cvr => s.dbg.haltCvr
  | .all => s.dbg.haltC != 0 && s.dbg.haltS != 0 && s.dbg.haltCvr

/-- Type and index of a unit in events, hits and grants. -/
def HaltUnit.code : HaltUnit → Nat × Nat
  | .core c => (1, c)
  | .cdie d => (2, d)
  | .serai n => (3, n)
  | .cvr => (0, 0)
  | .all => (0, 0)

/-- The unit on which a group's legs are held first: its core, or its serai's drover. -/
def GroupId.unit : GroupId → HaltUnit
  | .array c => .core c.toNat
  | .vector c => .core c.toNat
  | .mover c _ => .core c.toNat
  | .coll n => .serai n.toNat

end Sys2Proof.Machine

namespace Sys2Proof

/-- The unit on which a group's legs are held first: its core, or its serai's drover. -/
def GroupId.haltUnit (g : GroupId) : Machine.HaltUnit := Machine.GroupId.unit g

end Sys2Proof

namespace Sys2Proof.Machine

/-- One hit of a slot (R475): counted, its last hit kept, the halt of its ACTION set. -/
def State.bpHit (s : State) (slot : Nat) (u : HaltUnit) (task addr : Nat) (leg : Option (Nat × Nat × Nat × Nat)) : State :=
  match mget s.dbg.bps slot with
  | none => s
  | some b =>
    let b1 : Bp := { b with
      hits := b.hits + 1, hitTime := s.stamp, hitSrc := u.code.2 + u.code.1 * 2 ^ 12, hitTask := task, hitAddr := addr
      hitLeg := leg }
    let s1 := { s with dbg := { s.dbg with bps := mset s.dbg.bps slot b1 } }
    if s1.halted u then s1 else s1.halt (if b.haltAll then .all else u)

/-- Accesses to device lines by a unit for a task (R475): each MEM slot hits once for an access, at its first granule. -/
def State.bpMem (s : State) (u : HaltUnit) (task : Nat) (write : Bool) (ls : List Nat) : State :=
  if s.dbg.bps.isEmpty then s
  else s.dbg.bps.foldl (fun (t : State) (p : Nat × Bp) =>
    let b := p.2
    if b.kind = 4 ∧ (if write then b.writes else b.reads) then
      match ls.find? (fun l => decide (b.value ≤ l ∧ l < b.value + b.len)) with
      | some l => t.bpHit p.1 u task l none
      | none => t
    else t) s

/-- The slots that hold a leg about to start (R475): TASK by job and id, DESC by its header's device address. A leg that
the slot has held already passes. -/
def State.bpLegs (s : State) (j task : Nat) (hdr : Option Nat) (leg : Nat × Nat × Nat × Nat) : List Nat :=
  (s.dbg.bps.filter (fun (p : Nat × Bp) =>
    (p.2.kind == 1 && p.2.job == j && p.2.task == task || p.2.kind == 2 && hdr == some p.2.value)
      && p.2.hitLeg != some leg)).map (fun p => p.1)

/-- STAGE slots at the tick that begins their stage (R475): always halt all. -/
def State.bpStage (s : State) : State :=
  s.dbg.bps.foldl (fun (t : State) (p : Nat × Bp) =>
    if p.2.kind = 3 ∧ p.2.value = s.stage then (t.bpHit p.1 .all 0xFFFFFFFF 0 none).halt .all else t) s

/-- The drover of a core is halted, or the core is (R473): no new leg without a grant. -/
def State.heldUnits (s : State) (u : HaltUnit) : List HaltUnit :=
  (match u with
    | .core c => [HaltUnit.core c, HaltUnit.cdie (c / 16)]
    | v => [v]).filter s.halted

/-- A single-step grant of a unit is open. -/
def State.granted (s : State) (u : HaltUnit) : Bool := s.dbg.grants.contains u.code

/-- Take a unit's grant away. -/
def State.ungrant (s : State) (u : HaltUnit) : State :=
  { s with dbg := { s.dbg with grants := s.dbg.grants.erase u.code } }

end Sys2Proof.Machine
end

