-- ==== Sys2Proof/Machine/Ready.lean ====
section
/-! DEFINITION. Tasks becoming ready, and what a task meets when it reads control data or tensor data (03, 15). -/
namespace Sys2Proof.Machine

/-- The reader that a task is (R406, R413). -/
def taskReader (j : Nat) (t : TaskRun) : Reader := ⟨t.src.1, t.src.2, j, t.hdr.id, 1⟩

/-- The unit whose accesses a breakpoint sees for a task (R475). -/
def TaskRun.unit (t : TaskRun) : HaltUnit := if t.src.1 = 3 then .serai t.src.2 else .core t.src.2

/-- A task reads lines of its tensors (R41, R406): each uncorrectable one posts its event; the values are poisoned by the
caller. -/
def State.dataMeet (s : State) (j : Nat) (t : TaskRun) (f : Faults) (ls : List Nat) : State :=
  (s.meet (taskReader j t) f ls).bpMem t.unit t.hdr.id false ls

/-- A task reads lines of control data (R406): the first uncorrectable one fails it with ST_FAULT, EV_MEM_UNCORR before
EV_TASK_FAIL. -/
def State.ctlMeet (s : State) (j : Nat) (t : TaskRun) (f : Faults) (ls : List Nat) : State :=
  let u (l : Nat) := holderOf s.part l
  (ls.foldl (fun (x : State) l =>
    if badLine s f l then
      let e : EventRec := { x.ev 0x0202 with
        cls := 1, srcType := (u l).1, srcIndex := (u l).2, addr := l, arg0 := t.src.1 * 2 ^ 12 + t.src.2, status := 0x000E }
      (((x.mark l).countUnc l).taskFault j t.hdr.id 0x000E (some e)).wear l 0
    else if f.corr.any (fun a => lineOf a.toNat == l) then x.corrected j t.hdr.id l
    else x) s).bpMem t.unit t.hdr.id false ls

/-- A task becomes ready (R68, R484): its body is read from the mapping in force, or it fails at placement. -/
def State.becomeReady (s : State) (f : Faults) (j : Nat) (t : TaskRun) : State :=
  match s.job j with
  | none => s
  | some jb =>
    let n := 64 * t.hdr.units
    if !s.jobReach jb.pt t.hdr.body n then
      ((s.modTask j t.hdr.id (fun x => { x with st := .ready })).taskFault j t.hdr.id 0x000E
        (some (s.addrFault j t t.hdr.body))).endFailed j t.hdr.id
    else
      let s1 := s.modTask j t.hdr.id (fun x => { x with st := .ready, body := jobBytes s jb.pt t.hdr.body n })
      let s2 := s1.ctlMeet j t f (jobLines jb.pt t.hdr.body n)
      match s2.taskOf j t.hdr.id with
      | some t2 => if t2.fail.isSome then s2.endFailed j t.hdr.id else s2
      | none => s2

/-- The core that holds a ready task's descriptor; none for a collective, which a serai drover places. -/
def TaskRun.queueOf (t : TaskRun) : Option Nat := if t.st = .ready ∧ t.hdr.kind ≠ 0x10 then some t.hdr.core else none

/-- Descriptors queued by core (R85). -/
def State.queueCounts (s : State) : NMap Nat :=
  s.jobs.foldl (fun (m : NMap Nat) (p : Nat × Job) => match p.2.run with
    | none => m
    | some r => r.tasks.foldl (fun (m : NMap Nat) (t : TaskRun) => match t.queueOf with
        | some c => if t.queued then mset m c (mgetD m c 0 + 1) else m
        | none => m) m) []

/-- Ready tasks of a step are queued on their cores while these hold fewer than 256 descriptors (R85). -/
def queueTasks (m : NMap Nat) : List TaskRun → NMap Nat × List TaskRun
  | [] => (m, [])
  | t :: r =>
    let c := t.queueOf.getD 0
    if t.queueOf.isSome && !t.queued && decide (mgetD m c 0 < 256) then
      let q := queueTasks (mset m c (mgetD m c 0 + 1)) r
      (q.1, { t with queued := true } :: q.2)
    else
      let q := queueTasks m r
      (q.1, t :: q.2)

/-- The same for the jobs of a class. -/
def queueJobs (backhaul : Bool) (m : NMap Nat) : NMap Job → NMap Nat × NMap Job
  | [] => (m, [])
  | (j, b) :: r =>
    let z := match b.run with
      | some k => if b.backhaul = backhaul then
          (let q := queueTasks m k.tasks
           (q.1, { b with run := some { k with tasks := q.2 } }))
        else (m, b)
      | none => (m, b)
    let q := queueJobs backhaul z.1 r
    (q.1, (j, z.2) :: q.2)

/-- The drovers queue ready descriptors on the cores, lead before backhaul, and hold further ones back (R85, log 52). -/
def State.fillQueues (s : State) : State :=
  let a := queueJobs false s.queueCounts s.jobs
  { s with jobs := (queueJobs true a.1 a.2).2 }

/-- Every waiting task of a job whose enabled waits are satisfied becomes ready (R68), in list order. -/
def State.wakeTasks (s : State) (f : Faults) (j : Nat) : State :=
  match s.job j with
  | none => s
  | some jb => match jb.run with
    | none => s
    | some r => ((r.tasks.filter (fun (t : TaskRun) => t.st == .waiting && waitMet jb.ctrs t.hdr.waitA && waitMet jb.ctrs t.hdr.waitB)).foldl
        (fun (x : State) (t : TaskRun) => match x.taskOf j t.hdr.id with
          | some t2 => if t2.st = .waiting then x.becomeReady f j t2 else x
          | none => x) s).fillQueues

/-- An outside increment of a dependency counter (R68, R69, R303): the tasks it satisfies become ready. -/
def State.bump (s : State) (f : Faults) (j c : Nat) : State := ((s.incCtr j c).1).wakeTasks f j

/-- No lines in error. -/
def noFaults : Faults := ⟨[], [], []⟩

end Sys2Proof.Machine
end

