-- ==== Sys2Proof/Machine/Engine.lean ====
section
/-! DEFINITION. What every engine shares: the running leg, reading and writing tensor elements, blocks written under one
scale, bound records, failing a task (02, 05, 15). -/
namespace Sys2Proof.Machine

/-- A running task with its job, step number and core. -/
structure EngRun where
  j : Nat
  t : TaskRun
  jb : Job
  step : Nat
  core : Nat
  pt : NMap Nat
  deriving DecidableEq, Repr

/-- The task's id. -/
def EngRun.id (x : EngRun) : Nat := x.t.hdr.id

/-- The reader that the task is. -/
def EngRun.reader (x : EngRun) : Reader := taskReader x.j x.t

/-- The translations of a task (R29): those that its leg started with until its tick, the job's otherwise. -/
def State.ptOf (s : State) (jb : Job) (t : TaskRun) : NMap Nat :=
  match t.leg with
  | some l => if l.startStage = s.stage then l.pt else jb.pt
  | none => jb.pt

/-- A task of a job with what its leg needs. -/
def State.engOf (s : State) (j id : Nat) : Option EngRun :=
  match s.job j, s.taskOf j id with
  | some jb, some t => (jb.run).map (fun r => ⟨j, t, jb, r.q.step, t.hdr.core, s.ptOf jb t⟩)
  | _, _ => none

/-- The job and the task whose leg runs on a group. -/
def State.onGroup (s : State) (g : GroupId) : Option (Nat × TaskRun) :=
  s.jobs.findSome? (fun (p : Nat × Job) => p.2.run.bind (fun (r : RunStep) =>
    ((r.tasks ++ r.upds).find? (fun (t : TaskRun) => t.st == .running && (match t.leg with
      | some l => l.group == g
      | none => false))).map (fun t => (p.1, t))))

/-- The leg of a group that works: the device is live, the task has met no failure and is not finished (R407). -/
def State.engine (s : State) (g : GroupId) : Option EngRun :=
  match s.onGroup g with
  | some (j, t) => if s.live && t.fail.isNone && !t.finished then s.engOf j t.hdr.id else none
  | none => none

/-- Change the running task. -/
def State.modEng (s : State) (x : EngRun) (f : TaskRun → TaskRun) : State := s.modTask x.j x.id f

/-- Put an engine's state back. -/
def State.setEng (s : State) (x : EngRun) (e : Eng) : State := s.modEng x (fun t => { t with eng := e })

/-- The task has met no failure. -/
def State.sound (s : State) (x : EngRun) : Bool := ((s.taskOf x.j x.id).map (fun (t : TaskRun) => t.fail.isNone)).getD false

/-- A body that breaks a condition (R38, R107, R133): ST_BAD_FIELD, contained. -/
def State.badBody (s : State) (x : EngRun) : State := s.taskFault x.j x.id 0x0003 none

/-- A job address that cannot be reached (R17): ST_FAULT with EV_ADDR_FAULT. -/
def State.badAddr (s : State) (x : EngRun) (va : Nat) : State := s.taskFault x.j x.id 0x000E (some (s.addrFault x.j x.t va))

/-- Where a plane address of a descriptor lies: in the core's tile store, or in the job's pages (R37). -/
def Desc.dev (d : Desc) (pt : NMap Nat) (core a : Nat) : Option Nat := if d.ts then some (tileAt core + a) else xlate pt a

/-- An element as a reader gets it: value, scale exponent, poisoned block, stored bits and scale byte. -/
structure Val where
  q : Int
  e : Int
  pois : Bool
  code : Nat
  sb : Nat
  /-- a line of it read uncorrectable -/
  lost : Bool
  deriving DecidableEq, Repr, Inhabited

/-- The stored bits of the element of linear index `l` (R39). -/
def Desc.codeAt (s : State) (pt : NMap Nat) (core : Nat) (d : Desc) (l : Nat) : Nat :=
  match d.dev pt core (d.dataAt l) with
  | none => 0
  | some a => if d.ty = .s4 then (s.byte a).toNat / (if l % 2 = 0 then 1 else 16) % 16 else leNat (s.bytes a (d.ty.width / 8))

/-- The lines that reading an element meets: those of its block's real elements and of its scale byte; of the element
alone in B0 (R41, log 40). -/
def Desc.linesAt (pt : NMap Nat) (core : Nat) (d : Desc) (i : Idx) : List Nat :=
  let data := (if d.blk = 0 then [i] else d.blockElems i).filterMap (fun x => (d.dev pt core (d.dataAt (d.lin x))).map lineOf)
  let scale := if d.ty.scaled then ((d.dev pt core (d.scaleAt i)).map lineOf).toList else []
  dedup (data ++ scale)

/-- Lines of a range of a descriptor's plane. -/
def Desc.planeLines (pt : NMap Nat) (core : Nat) (d : Desc) (a n : Nat) : List Nat :=
  if d.ts then linesOf (tileAt core + a) n else jobLines pt a n

/-- The lines whose loss poisons an element's block (R35, R41): a scaled B0 tensor is one block. -/
def Desc.blockLines (pt : NMap Nat) (core : Nat) (d : Desc) (i : Idx) : List Nat :=
  if d.blk = 0 ∧ d.ty.scaled then d.planeLines pt core d.data d.dataBytes ++ d.planeLines pt core d.scale 1
  else Desc.linesAt pt core d i

/-- Read one element (R39–R41): padding reads as zero and meets no line. -/
def readVal (s : State) (f : Faults) (pt : NMap Nat) (core : Nat) (d : Desc) (i : Idx) : Val :=
  if !d.real i then ⟨0, 0, false, 0, 0, false⟩
  else
    let code := Desc.codeAt s pt core d (d.lin i)
    let sb := if d.ty.scaled then ((d.dev pt core (d.scaleAt i)).map (fun a => (s.byte a).toNat)).getD 0 else 0
    let lost := (Desc.blockLines pt core d i).any (badLine s f)
    ⟨d.ty.value code, sgn 8 sb, d.ty.scaled && sb == 0x80 || lost, code, sb, lost⟩

/-- Bytes that one step writes, by device address. -/
abbrev Writes := NMap Byte

/-- Write the stored bits of one element (R39): an S4 element changes one nibble. -/
def Desc.putCode (s : State) (pt : NMap Nat) (core : Nat) (d : Desc) (w : Writes) (l code : Nat) : Writes :=
  match d.dev pt core (d.dataAt l) with
  | none => w
  | some a =>
    if d.ty = .s4 then
      let o := ((mget w a).getD (s.byte a)).toNat
      mset w a (Byte.of (if l % 2 = 0 then o / 16 * 16 + code % 16 else o % 16 + code % 16 * 16))
    else ((toLE (d.ty.width / 8) code).zipIdx).foldl (fun (m : Writes) p => mset m (a + p.2) p.1) w

/-- Write the scale byte of an element's block. -/
def Desc.putScale (pt : NMap Nat) (core : Nat) (d : Desc) (w : Writes) (i : Idx) (b : Byte) : Writes :=
  match d.dev pt core (d.scaleAt i) with
  | none => w
  | some a => mset w a b

/-- Maximal runs of consecutive bytes. -/
def runsOf : Writes → List (Nat × List Byte)
  | [] => []
  | (a, b) :: r =>
    match runsOf r with
    | (c, ds) :: rest => if a + 1 = c then (a, b :: ds) :: rest else (a, [b]) :: (c, ds) :: rest
    | [] => [(a, [b])]

/-- One step's writes land, each run at once (R395, R398, log 40), and breakpoints see them (R475). -/
def State.engWrite (s : State) (x : EngRun) (f : Faults) (w : Writes) : State :=
  let rs := runsOf w
  ((rs.foldl (fun (t : State) (p : Nat × List Byte) => t.put x.reader f p.1 p.2) s)).bpMem x.t.unit x.id true
    (rs.flatMap (fun p => linesOf p.1 p.2.length))

/-- A job address that maps to a device address; the lowest page where several do. -/
def vaOf (pt : NMap Nat) (a : Nat) : Option Nat :=
  (pt.find? (fun p => p.2 / 2 ^ 21 == a / 2 ^ 21)).map (fun p => p.1 * 2 ^ 21 + a % 2 ^ 21)

/-- A line of host memory becomes lost to a job (R400); the 4,097th entry is job-fatal. -/
def State.addLost (s : State) (j va : Nat) : State :=
  match s.job j with
  | none => s
  | some jb =>
    if jb.lost.contains va then s
    else if 4096 ≤ jb.lost.length then
      s.jobFatal j (some { s.ev 0x020B with cls := 2, job := j, addr := va }) 0x020B
    else s.setJob j { jb with lost := jb.lost ++ [va] }

/-- The bytes of a line among a step's writes. -/
def lineBytes (w : Writes) (l : Nat) : Writes := w.filter (fun p => lineOf p.1 == l)

/-- A transfer's writes land with the lines that carry uncorrectability (R399, R400): a bad line of device memory is
marked; one of host memory is sent as zeros and becomes lost; a good whole line of host memory is lost no more. -/
def State.moveWrite (s : State) (x : EngRun) (f : Faults) (w : Writes) (bad : List Nat) : State :=
  let good := w.filter (fun p => !bad.contains (lineOf p.1))
  let s1 := s.engWrite x f good
  let whole := (dedup (good.map (fun p => lineOf p.1))).filter (fun l =>
    (match regionOf s.part l with
      | .host _ => true
      | _ => false) && (lineBytes good l).length == 64)
  let s2 := whole.foldl (fun (t : State) l => match vaOf x.pt l with
    | some va => t.modJob x.j (fun b => { b with lost := b.lost.filter (fun v => v != va) })
    | none => t) s1
  bad.foldl (fun (t : State) l => match regionOf s.part l with
    | .host _ =>
      let t1 := (runsOf (lineBytes w l)).foldl (fun (t : State) p => t.store p.1 (zeros p.2.length)) t
      (match vaOf x.pt l with
        | some va => t1.addLost x.j va
        | none => t1)
    | _ => t.mark l) s2

/-- Copy whole lines between device addresses, carrying uncorrectability (R399, R400): for a job and a page table that
names the host lines. -/
def State.carry (s : State) (r : Reader) (f : Faults) (j : Nat) (pt : NMap Nat) (src dst n : Nat) : State :=
  (List.range (n / 64)).foldl (fun (t : State) k =>
    let u := src + 64 * k
    let v := dst + 64 * k
    let bad := badLine s f u
    let t1 := t.meet r f [u]
    match regionOf s.part v with
    | .host _ =>
      (match vaOf pt v with
        | some va =>
          if bad then (t1.store v (zeros 64)).addLost j va
          else (t1.store v (s.bytes u 64)).modJob j (fun b => { b with lost := b.lost.filter (fun y => y != va) })
        | none => t1.store v (if bad then zeros 64 else s.bytes u 64))
    | _ => if bad then t1.mark v else t1.store v (s.bytes u 64)) s

/-- One value of a block to be written: a number with its random word, a saturation mark, or a poison mark (R127). -/
inductive Cell where
  | val (v : Int) (u : Nat)
  | hi
  | lo
  | poison
  deriving DecidableEq, Repr, Inhabited

/-- Put the marks back among the requantised values. -/
def fillCells (w : Nat) : List Cell → List Int → List Int
  | [], _ => []
  | .val _ _ :: r, q :: qs => q :: fillCells w r qs
  | .val _ _ :: r, [] => 0 :: fillCells w r []
  | .hi :: r, qs => typeMax w :: fillCells w r qs
  | .lo :: r, qs => typeMin w :: fillCells w r qs
  | .poison :: r, qs => 0 :: fillCells w r qs

/-- The number in a cell. -/
def Cell.num : Cell → Option (Int × Nat)
  | .val v u => some (v, u)
  | _ => none

/-- The cell is a saturation mark. -/
def Cell.mark : Cell → Bool
  | .hi => true
  | .lo => true
  | _ => false

/-- Requantise a block whose marks stay out of the maximum and count as saturated (R48, R49, R127). -/
def quantCells (auto : Bool) (given : Int) (cells : List Cell) (ex : Int) (w mode : Nat) : Block :=
  let b := requant auto given (cells.filterMap Cell.num) ex w mode
  ⟨fillCells w cells b.qs, b.e, b.sat || cells.any Cell.mark⟩

/-- A block has been written: flags, counts and the largest scale (R43, R132). A B0 block counts once. -/
def OutSum.wrote (o : OutSum) (b0 pois sat : Bool) (e : Int) : OutSum :=
  { o with
    sat := o.sat || sat
    poisoned := if pois && !(b0 && o.b0) then o.poisoned + 1 else o.poisoned
    saturated := if sat && !(b0 && o.saturated != 0) then o.saturated + 1 else o.saturated
    b0 := o.b0 || (b0 && pois)
    maxScale := if b0 && (pois || o.b0) then none else if pois then o.maxScale
      else match o.maxScale with
        | none => some e
        | some m => some (max m e) }

/-- Every position of an element's block, padding included (R40). -/
def Desc.blockAll (d : Desc) (i : Idx) : List Idx :=
  let j := d.blockOf i
  (List.range d.blk).map (fun k => match d.axis with
    | 0 => { i with i0 := j.i0 * d.blk + k }
    | 1 => { i with i1 := j.i1 * d.blk + k }
    | 2 => { i with i2 := j.i2 * d.blk + k }
    | _ => { i with i3 := j.i3 * d.blk + k })

/-- How an output's blocks are scaled. -/
structure Quant where
  auto : Bool
  given : Int
  deriving DecidableEq, Repr, Inhabited

/-- One output block (R40, R43, R47–R49): elements, padding as zero, and the scale byte. A poisoned block gets 0x80, and a
B0 scale byte that this task has poisoned stays. `tainted` poisons the block whatever its cells hold. -/
def putBlock (s : State) (pt : NMap Nat) (core : Nat) (d : Desc) (k : Quant) (ex : Int) (tainted : Bool)
    (els : List (Idx × Cell)) (a : Writes × OutSum) : Writes × OutSum :=
  match els with
  | [] => a
  | (i0, _) :: _ =>
    let q := quantCells k.auto k.given (els.map Prod.snd) ex d.ty.width d.round
    let pois := tainted || els.any (fun p => p.2 == .poison) || (q.sat && satPoisons d.cls d.satKeep)
    let w1 := (els.zip q.qs).foldl (fun (w : Writes) p => Desc.putCode s pt core d w (d.lin p.1.1) (unsgn d.ty.width p.2)) a.1
    let w2 := if d.blk = 0 then w1 else (d.blockAll i0).foldl (fun (w : Writes) i =>
      if d.real i then w else Desc.putCode s pt core d w (d.lin i) 0) w1
    let sb := if pois || (d.blk == 0 && a.2.b0) then poisonScale else scaleByte q.e
    (if d.ty.scaled then Desc.putScale pt core d w2 i0 sb else w2, a.2.wrote (d.blk == 0) pois q.sat q.e)

/-- The random word of an element written with RSTO (R45); 0 in the other modes. -/
def EngRun.rand (x : EngRun) (d : Desc) (i : Idx) : Nat := if d.round = 2 then rstoBits x.jb.seed x.step d.tid (d.lin i) else 0

/-- The largest MAX_SCALE of bound records, or the immediate where the count is 0 (R121); the address of the first record that cannot be
reached otherwise. -/
def State.boundOf (s : State) (pt : NMap Nat) (addr count : Nat) (imm : Int) : Except Nat Int :=
  if count = 0 then .ok imm
  else match ((List.range count).map (fun k => addr + 64 * k)).find? (fun a => !s.jobReach pt a 64) with
    | some a => .error a
    | none => .ok ((List.range count).foldl (fun (m : Int) k =>
      let b := (jobByte s pt (addr + 64 * k)).toNat
      if b = 0x80 then m else max m (sgn 8 b)) (-127))

/-- A leg writes bytes at a job address (R29, R400), and breakpoints see it. -/
def State.legPut (s : State) (x : EngRun) (f : Faults) (va : Nat) (d : List Byte) : State :=
  let part := (linesOf va d.length).filter (fun l => !decide (va ≤ l ∧ l + 64 ≤ va + d.length))
  let s1 := s.merge x.reader f (part.filterMap (xlate x.pt))
  (((s1.jobStore x.pt va d).modJob x.j (fun b => { b with lost := dropLost b.lost va d.length }))).bpMem x.t.unit x.id true
    (jobLines x.pt va d.length)

/-- A bound record (R131). -/
def boundBytes (mx step id : Nat) : List Byte := toLE 4 mx ++ toLE 4 step ++ toLE 4 id ++ zeros 52

/-- Write a set's bound record; one that cannot be written fails the task (R131). -/
def State.writeBound (s : State) (x : EngRun) (maxe mx : Nat) : State :=
  if maxe = 0 then s
  else if s.jobReach x.pt maxe 64 then s.legPut x noFaults maxe (boundBytes mx x.step x.id)
  else s.badAddr x maxe

/-- The first address among bound records to be written whose page cannot be reached (R131). -/
def State.badMaxe (s : State) (x : EngRun) (l : List Nat) : Option Nat :=
  l.find? (fun a => a != 0 && !s.jobReach x.pt a 64)

/-- The two planes of a descriptor as ranges of addresses (R39). -/
def Desc.planes (d : Desc) : List (Nat × Nat) := [(d.data, d.dataBytes)] ++ (if d.scaleBytes = 0 then [] else [(d.scale, d.scaleBytes)])

/-- The first address of a job range that cannot be reached (R17). -/
def State.unreachIn (s : State) (pt : NMap Nat) (a n : Nat) : Option Nat :=
  if s.jobReach pt a n then none
  else some (((List.range ((a + n - 1) / 2 ^ 21 - a / 2 ^ 21 + 1)).findSome? (fun k =>
    let va := max a ((a / 2 ^ 21 + k) * 2 ^ 21)
    if s.jobReach pt va 1 then none else some va)).getD a)

/-- The first job address of a descriptor's planes that cannot be reached (R17, R38). -/
def descUnreach (s : State) (x : EngRun) (d : Desc) : Option Nat :=
  if d.ts then none else d.planes.findSome? (fun p => s.unreachIn x.pt p.1 p.2)

/-- Where two lists of ranges overlap. -/
def overlaps (a b : List (Nat × Nat)) : List (Nat × Nat) :=
  a.flatMap (fun p => b.filterMap (fun q =>
    let lo := max p.1 q.1
    let hi := min (p.1 + p.2) (q.1 + q.2)
    if lo < hi then some (lo, hi - lo) else none))

/-- Bytes in the given ranges become free values: the manual leaves overlapping bytes undefined (R129, R148, log 1). -/
def State.freeIn (s : State) (base : Nat) (rs : List (Nat × Nat)) (w : Writes) : State × Writes :=
  if rs.isEmpty then (s, w)
  else w.foldl (fun (p : State × Writes) (b : Nat × Byte) =>
    if rs.any (fun r => decide (base + r.1 ≤ b.1 ∧ b.1 < base + r.1 + r.2)) then
      let v := p.1.free
      (v.2, mset p.2 b.1 (Byte.of v.1))
    else (p.1, mset p.2 b.1 b.2)) (s, [])

/-- Two descriptors name exactly one tensor (R129, R148). -/
def Desc.same (a b : Desc) : Bool :=
  a.data == b.data && a.scale == b.scale && a.ty == b.ty && a.blk == b.blk && a.axis == b.axis && a.ts == b.ts
    && (List.range 4).all (fun k => a.dim k == b.dim k)

/-- Report the lines that elements of a tensor met, once each. -/
def State.readMeet (s : State) (x : EngRun) (f : Faults) (ls : List Nat) : State := s.dataMeet x.j x.t f (dedup ls)

/-- A tick or the job's abort has come since the leg started: it ends at its next tile boundary (R66, R73). -/
def State.legPast (s : State) (jb : Job) (l : Leg) : Bool := decide (l.startStage < s.stage) || jb.abort.isSome

/-- The task is between the tokens of one tile of an append, which is no tile boundary (R193). -/
def TaskRun.midTile (t : TaskRun) : Bool :=
  match t.eng with
  | .att a => a.appended % 32 != 0 && decide (a.appRow < a.rows.length) && t.fail.isNone && !t.finished
  | _ => false

/-- The leg has reached a tile boundary: after a tick or an abort it starts no further tile (R66, R73, R103). -/
def State.boundary (s : State) (j id : Nat) : State :=
  match s.job j with
  | none => s
  | some jb => s.modTask j id (fun t => if t.midTile then t
      else { t with leg := t.leg.map (fun l => if s.legPast jb l then { l with ended := true } else l) })

/-- A tile of the leg of a group: the one under way at the tick or the abort still ends, and no other one starts (R66, R73, R86,
R103). -/
def State.onTile (s : State) (g : GroupId) (f : EngRun → State) : State :=
  match s.engine g with
  | some x => if x.t.leg.any Leg.ended then s else (f x).boundary x.j x.id
  | none => s

/-- An accumulator line that a step reads uncorrectable: its eight entries take the poison mark (R111, R394, R406). -/
def State.accFault (s : State) (x : EngRun) (f : Faults) : State :=
  f.acc.foldl (fun (t : State) l =>
    let c := t.core x.core
    let acc := (List.range 8).foldl (fun (m : NMap Int) k => mset m (8 * l.toNat + k) accPoison) c.acc
    (t.setCore x.core { c with acc := acc }).post { t.ev 0x0202 with
      cls := 1, srcType := 1, srcIndex := x.core, job := x.j, task := x.id, arg0 := 2 ^ 12 + x.core }) s

/-- The step is still part of a running leg: what a row does when its guard holds, else nothing. -/
def State.onEngine (s : State) (g : GroupId) (f : EngRun → State) : State :=
  match s.engine g with
  | some x => f x
  | none => s

end Sys2Proof.Machine
end

