-- ==== Sys2Proof/Machine/Kv.lean ====
section
/-! DEFINITION. The cache pool as shared operations (08): units of the pool and the ferry area, directory entries, bale
lists, opening and stowing saddlebags. -/
namespace Sys2Proof.Machine

/-- Bytes of one unit: bale, list page, sequence record (R183, R185, R186). -/
def KvPool.unitSize (p : KvPool) (k : Nat) : Nat := if k = 0 then 264 * p.d else if k = 1 then 4096 else 192 * p.caches

/-- Units in one page (R185, log 43). -/
def KvPool.perPage (p : KvPool) (k : Nat) : Nat :=
  if k = 0 then (if p.d = 128 then 62 else 124) else if k = 1 then 512 else 2 ^ 21 / (192 * p.caches)

/-- The lowest free unit of a kind in an area of pages: a page holds units of one kind (log 43). -/
def KvPool.freeUnit (p : KvPool) (units : NMap Nat) (base pages k : Nat) : Option Nat :=
  (List.range pages).findSome? (fun q =>
    let lo := base + q * 2 ^ 21
    let here := units.filter (fun u => decide (lo ≤ u.1 ∧ u.1 < lo + 2 ^ 21))
    if here.any (fun u => u.2 != k) then none
    else ((List.range (p.perPage k)).find? (fun i => !here.any (fun u => u.1 == lo + i * p.unitSize k))).map (fun i => lo + i * p.unitSize k))

/-- Take a unit of the pool. -/
def KvPool.take (p : KvPool) (k : Nat) : Option (Nat × KvPool) :=
  (p.freeUnit p.units p.pool p.pages k).map (fun a => (a, { p with units := mset p.units a k }))

/-- Take `n` units of the pool. -/
def KvPool.takeN (p : KvPool) (k : Nat) : Nat → Option (List Nat × KvPool)
  | 0 => some ([], p)
  | n + 1 => match p.take k with
    | none => none
    | some (a, q) => (q.takeN k n).map (fun r => (a :: r.1, r.2))

/-- Take a unit of the ferry area. -/
def KvPool.takeFerry (p : KvPool) (k : Nat) : Option (Nat × KvPool) :=
  (p.freeUnit p.ferryUnits p.ferry p.ferryPages k).map (fun a => (a, { p with ferryUnits := mset p.ferryUnits a k }))

/-- Take `n` units of the ferry area. -/
def KvPool.takeFerryN (p : KvPool) (k : Nat) : Nat → Option (List Nat × KvPool)
  | 0 => some ([], p)
  | n + 1 => match p.takeFerry k with
    | none => none
    | some (a, q) => (q.takeFerryN k n).map (fun r => (a :: r.1, r.2))

/-- Give units back. -/
def KvPool.give (p : KvPool) (l : List Nat) : KvPool :=
  { p with units := p.units.filter (fun u => !l.contains u.1), ferryUnits := p.ferryUnits.filter (fun u => !l.contains u.1) }

/-- An empty cache (R186). -/
def KvDir.init : KvDir := ⟨0, 0, 0, 0, 0, none, none, [], [], 0⟩

/-- A cache of a sequence. -/
def KvSeq.dir (q : KvSeq) (c : Nat) : KvDir := mgetD q.dirs c .init

/-- The 192 bytes of a directory entry (R186). -/
def KvDir.bytes (d : KvDir) : List Byte :=
  let mx (o : Option Int) : Nat := match o with
    | some e => unsgn 8 e
    | none => 0x81
  toLE 4 d.len ++ toLE 4 d.list.length ++ toLE 4 (d.sbFill % 256 + d.sbState % 4 * 2 ^ 8 + d.sbCore % 128 * 2 ^ 10)
    ++ toLE 4 d.sbOff ++ toLE 4 (mx d.kmax + mx d.vmax * 2 ^ 8) ++ zeros 44
    ++ fitBytes 128 (d.pages.flatMap (fun p => toLE 8 p))

/-- A bale-list entry (R184). -/
def baleEntry (e : Nat × Nat) : List Byte := toLE 8 (e.1 + e.2 * 2 ^ 44)

/-- Change a sequence of a pool. -/
def KvPool.setSeq (p : KvPool) (q : KvSeq) : KvPool := { p with seqs := p.seqs.map (fun x => if x.id = q.id then q else x) }

/-- The pool of a job. -/
def State.kvPool (s : State) (j : Nat) : Option KvPool := (s.job j).bind Job.kv

/-- Change the pool of a job. -/
def State.setKv (s : State) (j : Nat) (p : KvPool) : State := s.modJob j (fun b => { b with kv := some p })

/-- Write the directory entry of a cache to its record in job memory. -/
def State.writeDir (s : State) (pt : NMap Nat) (q : KvSeq) (c : Nat) : State :=
  s.jobStore pt (q.seqRec + 192 * c) (q.dir c).bytes

/-- Write the list entries from index `i` on to their list pages. -/
def State.writeList (s : State) (pt : NMap Nat) (d : KvDir) (i : Nat) : State :=
  ((d.list.zipIdx).drop i).foldl (fun (t : State) e =>
    match d.pages[e.2 / 512]? with
    | some p => t.jobStore pt (p + 8 * (e.2 % 512)) (baleEntry e.1)
    | none => t) s

/-- Firmware as a reader of a job's cache. -/
def kvReader (s : State) (j : Nat) : Reader := ⟨0, b2n s.cvrSide, j, 0xFFFFFFFF, 1⟩

/-- Copy a unit between job addresses or tile store; `none` ends are left out. -/
def State.kvCopy (s : State) (f : Faults) (j : Nat) (pt : NMap Nat) (src dst : Option Nat) (n : Nat) : State :=
  match src, dst with
  | some u, some v => s.carry (kvReader s j) f j pt u v n
  | _, _ => s

/-- Saddlebag slots of a core that open caches hold. -/
def KvPool.slotsUsed (p : KvPool) (core : Nat) : List Nat :=
  p.seqs.flatMap (fun q => q.dirs.filterMap (fun d => if d.2.sbState = 1 ∧ d.2.sbCore = core then some d.2.sbOff else none))

/-- The lowest free saddlebag slot of a core. -/
def KvPool.freeSlot (p : KvPool) (core : Nat) : Option Nat :=
  let used := p.slotsUsed core
  ((List.range (p.sbBytes / (264 * p.d))).map (fun i => p.sbOff + i * 264 * p.d)).find? (fun o => !used.contains o)

/-- Stow an open saddlebag into bale `b` (R187): the last list entry, with its fill; an empty one just closes. -/
def State.stow (s : State) (f : Faults) (j : Nat) (pt : NMap Nat) (p : KvPool) (q : KvSeq) (c : Nat) (b : Option Nat) (pg : List Nat) :
    State × KvPool :=
  let d := q.dir c
  match b with
  | none =>
    let q1 := { q with dirs := mset q.dirs c { d with sbState := 0, sbFill := 0, sbCore := 0, sbOff := 0 } }
    (s.writeDir pt q1 c, p.setSeq q1)
  | some a =>
    let s1 := s.kvCopy f j pt (some (tileAt d.sbCore + d.sbOff)) (xlate pt a) (264 * p.d)
    let d1 := { d with
      list := d.list ++ [(a, d.sbFill)]
      pages := d.pages ++ pg
      sbState := 2, sbFill := 0, sbCore := 0, sbOff := 0 }
    let q1 := { q with dirs := mset q.dirs c d1 }
    ((s1.writeList pt d1 d.list.length).writeDir pt q1 c, p.setSeq q1)

/-- List pages that `n` more entries of a cache need. -/
def KvDir.morePages (d : KvDir) (n : Nat) : Nat := cdiv (d.list.length + n) 512 - d.pages.length

/-- Take the units that stowing a cache needs, and stow it; none where the pool lacks them. -/
def State.tryStow (s : State) (f : Faults) (j : Nat) (pt : NMap Nat) (p : KvPool) (q : KvSeq) (c : Nat) : Option (State × KvPool) :=
  let d := q.dir c
  if d.sbFill = 0 then some (s.stow f j pt p q c none [])
  else match p.take 0 with
    | none => none
    | some (b, p1) => (p1.takeN 1 (d.morePages 1)).map (fun r => s.stow f j pt r.2 q c (some b) r.1)

/-- Open saddlebags of a core that may be stowed, least recent append first (R187): those of caches that no placed task
names. -/
def KvPool.stowable (p : KvPool) (core : Nat) (named : List (Nat × Nat)) : List (KvSeq × Nat) :=
  let l := p.seqs.flatMap (fun q => q.dirs.filterMap (fun d =>
    if d.2.sbState = 1 ∧ d.2.sbCore = core ∧ !named.contains (q.seqRec, d.1) then some (q, d.1) else none))
  l.mergeSort (fun a b => decide ((a.1.dir a.2).used ≤ (b.1.dir b.2).used))

/-- A free saddlebag slot on a core, stowing the least recent where the range is full (R187). -/
def State.getSlot (s : State) (f : Faults) (j : Nat) (pt : NMap Nat) (p : KvPool) (core : Nat) (named : List (Nat × Nat)) :
    Option (State × KvPool × Nat) :=
  match p.freeSlot core with
  | some o => some (s, p, o)
  | none =>
    match p.stowable core named with
    | [] => none
    | (q, c) :: _ => match s.tryStow f j pt p q c with
      | none => none
      | some (t, p1) => (p1.freeSlot core).map (fun o => (t, p1, o))

/-- Open a cache's saddlebag on a core (R187, R207): new, moved from another core, or reopened from its stowed bale. -/
def State.openSb (s : State) (f : Faults) (j : Nat) (pt : NMap Nat) (p : KvPool) (seqRec c core : Nat) (named : List (Nat × Nat)) :
    Option (State × KvPool) :=
  match p.seqs.find? (fun q => q.seqRec == seqRec) with
  | none => none
  | some q0 =>
    let d0 := q0.dir c
    if d0.sbState = 1 ∧ d0.sbCore = core then some (s, p)
    else match s.getSlot f j pt p core named with
      | none => none
      | some (s1, p1, o) =>
        match p1.seqs.find? (fun q => q.seqRec == seqRec) with
        | none => none
        | some q =>
          let d := q.dir c
          let n := 264 * p1.d
          if d.sbState = 1 then
            let s2 := s1.kvCopy f j pt (some (tileAt d.sbCore + d.sbOff)) (some (tileAt core + o)) n
            let q1 := { q with dirs := mset q.dirs c { d with sbCore := core, sbOff := o } }
            some (s2.writeDir pt q1 c, p1.setSeq q1)
          else if d.sbState = 2 then
            match d.list.getLast? with
            | none => none
            | some (a, fill) =>
              let s2 := s1.kvCopy f j pt (xlate pt a) (some (tileAt core + o)) n
              let keep := d.list.dropLast
              let np := cdiv keep.length 512
              let d1 := { d with
                list := keep, pages := d.pages.take np, sbState := 1, sbFill := fill, sbCore := core, sbOff := o }
              let q1 := { q with dirs := mset q.dirs c d1 }
              some (s2.writeDir pt q1 c, (p1.setSeq q1).give ([a] ++ d.pages.drop np))
          else
            let q1 := { q with dirs := mset q.dirs c { d with sbState := 1, sbFill := 0, sbCore := core, sbOff := o } }
            some (s1.writeDir pt q1 c, p1.setSeq q1)

/-- Bales of a sequence, with one for each open saddlebag that holds tokens; list pages after stowing. -/
def KvSeq.bales (q : KvSeq) : Nat :=
  (q.dirs.map (fun d => d.2.list.length + b2n (d.2.sbState == 1 && d.2.sbFill != 0))).sum
def KvSeq.listPages (q : KvSeq) : Nat :=
  (q.dirs.map (fun d => cdiv (d.2.list.length + b2n (d.2.sbState == 1 && d.2.sbFill != 0)) 512)).sum

/-- The ferry area has room for a sequence (R215). -/
def KvPool.ferryFits (p : KvPool) (q : KvSeq) : Bool :=
  match p.takeFerryN 0 q.bales with
  | none => false
  | some (_, p1) => (p1.takeFerryN 1 q.listPages).isSome

/-- The pool has room for a ferried sequence (R216). -/
def KvPool.poolFits (p : KvPool) (q : KvSeq) : Bool :=
  match p.takeN 0 q.bales with
  | none => false
  | some (_, p1) => (p1.takeN 1 q.listPages).isSome

/-- The bales of a cache as a move takes them (R215): an open saddlebag that holds tokens goes last, with its fill. -/
def KvDir.units (d : KvDir) (pt : NMap Nat) : List (Option Nat × Nat) :=
  d.list.map (fun e => (xlate pt e.1, e.2))
    ++ (if d.sbState = 1 ∧ d.sbFill ≠ 0 then [(some (tileAt d.sbCore + d.sbOff), d.sbFill)] else [])

/-- `nb` bales and `np` list pages of the pool, or of the ferry area. -/
def KvPool.grab (p : KvPool) (back : Bool) (nb np : Nat) : Option (List Nat × List Nat × KvPool) :=
  if back then (p.takeN 0 nb).bind (fun x => (x.2.takeN 1 np).map (fun y => (x.1, y.1, y.2)))
  else (p.takeFerryN 0 nb).bind (fun x => (x.2.takeFerryN 1 np).map (fun y => (x.1, y.1, y.2)))

/-- Move one cache of a sequence to the ferry area, or `back` to the pool (R215, R216, log 43): every bale and list page is
copied; on the way back the list points at the new bales. -/
def State.moveCache (s : State) (f : Faults) (j : Nat) (pt : NMap Nat) (back : Bool) (p : KvPool) (d : KvDir) :
    Option (State × KvPool × KvDir) :=
  let us := d.units pt
  match p.grab back us.length (cdiv us.length 512) with
  | none => none
  | some (bl, pg, p2) =>
    let s1 := (us.zip bl).foldl (fun (t : State) e => t.kvCopy f j pt e.1.1 (xlate pt e.2) (264 * p.d)) s
    let s2 := (d.pages.zip pg).foldl (fun (t : State) e => t.kvCopy f j pt (xlate pt e.1) (xlate pt e.2) 4096) s1
    let d1 := { d with
      list := (us.zip bl).map (fun e => (e.2, e.1.2))
      pages := pg
      sbState := if d.sbState = 1 then (if d.sbFill = 0 then 0 else 2) else d.sbState
      sbFill := 0, sbCore := 0, sbOff := 0 }
    some (s2.writeList pt d1 (if back then 0 else d.list.length), p2.give (d.list.map Prod.fst ++ d.pages), d1)

/-- Move every cache of a sequence; none where the units cannot be had. -/
def State.moveSeq (s : State) (f : Faults) (j : Nat) (pt : NMap Nat) (back : Bool) (p : KvPool) (q : KvSeq) :
    Option (State × KvPool × KvSeq) :=
  q.dirs.foldl (fun (a : Option (State × KvPool × KvSeq)) (c : Nat × KvDir) =>
    match a with
    | none => none
    | some (t, p1, r) => match t.moveCache f j pt back p1 c.2 with
      | none => none
      | some (t1, p2, d1) =>
        let r1 := { r with dirs := mset r.dirs c.1 d1 }
        some (t1.writeDir pt r1 c.1, p2, r1)) (some (s, p, q))

end Sys2Proof.Machine
end

