-- ==== Sys2Proof/Machine/FabricOps.lean ====
section
/-! DEFINITION. The fabric's shared operations (11): port states, keys, credits, sending, routing and transactions. -/
namespace Sys2Proof.Machine

/-- A port. -/
def State.port (s : State) (k : Nat) : Port := mgetD s.ports k .init
def State.setPort (s : State) (k : Nat) (p : Port) : State := { s with ports := mset s.ports k p }
def State.modPort (s : State) (k : Nat) (f : Port → Port) : State := { s with ports := mmodify s.ports k f }

/-- The port's lasers may be lit (R419): never in OFF or DARK. -/
def Port.emits (p : Port) : Bool := p.st != .off && p.st != .dark

/-- A 32-bit counter that stops at its end (R310). -/
def cap32 (n : Nat) : Nat := min n 0xFFFFFFFF

/-- The width order of R294: the new set from the healthy wavelengths; 0 where none is left. -/
def lambdaPick (ok : BitVec 4) : BitVec 4 :=
  if ok = 0xF then 0xF
  else if ok &&& 0x3 = 0x3 then 0x3
  else if ok &&& 0xC = 0xC then 0xC
  else if ok.getLsbD 0 then 1 else if ok.getLsbD 1 then 2 else if ok.getLsbD 2 then 4 else if ok.getLsbD 3 then 8 else 0

/-- Credits that a frame takes (R280). -/
def frameCredits (f : Frame) : Nat := cdiv (f.payload.length + 32) 64

/-- Class and lane as one key. -/
def laneKey (cls : Nat) (vl : Bool) : Nat := cls * 2 + b2n vl

/-- The key of a frame's class and lane. -/
def frameLane (f : Frame) : Nat := laneKey f.cls.toNat f.vl

/-- The port may send a data frame now: UP, the device neither fatal nor in an activation's pause but for TIME frames. -/
def State.maySend (s : State) (k : Nat) (f : Frame) : Bool :=
  (s.port k).st == .up && s.live && (f.typ == 9 || !s.upd.act.any (fun p => p.1 == ActPhase.paused))

/-- Take a frame's credits: from its reserve first, then the shared pool; none where both together are short (R302). -/
def Port.takeCredits (p : Port) (f : Frame) : Option Port :=
  let n := frameCredits f
  let r := mgetD p.reserve (frameLane f) 0
  if n ≤ r then some { p with reserve := mset p.reserve (frameLane f) (r - n) }
  else if n ≤ r + p.shared then some { p with reserve := mset p.reserve (frameLane f) 0, shared := p.shared - (n - r) }
  else none

/-- CREDIT_STALL of a port up to a cycle (R302, R310). -/
def Port.stalledTo (p : Port) (now : Nat) : Nat := p.creditStall + (p.stallFrom.map (fun t => now - t)).getD 0

/-- Note which frames of a port wait for credits (R299, R302): a frame that may be sent while its class and lane is short of them. -/
def State.noteStall (s : State) (k : Nat) : State :=
  let p := s.port k
  let short (f : Frame) := s.maySend k f && p.waiting.any (fun v => frameLane v.2.2 == frameLane f && (p.takeCredits v.2.2).isNone)
  let w := p.waiting.map (fun v => (if short v.2.2 then some (v.1.getD s.stage) else none, v.2))
  let b := w.any (fun v => v.1.isSome)
  s.setPort k { p with
    waiting := w
    stallFrom := if b then some (p.stallFrom.getD s.now) else none
    creditStall := if b then p.creditStall else p.stalledTo s.now }

/-- Ports whose entry posts EV_FABRIC_PORT (R291). -/
def portNotes : PortSt → Bool
  | .up => true
  | .narrowing => true
  | .refused => true
  | .down => true
  | _ => false

/-- A port of a port event (R413). -/
def State.portEv (s : State) (code k : Nat) : EventRec := { s.ev code with srcType := 5, srcIndex := k }

/-- The device follows a timekeeper other than itself. -/
def State.follower (s : State) : Bool := s.dom.joined && s.dom.timekeeper != s.dom.deviceId

/-- One second in cycles of 850 MHz. -/
def secondCycles : Nat := 850000000

/-- The first listed time port that is UP and whose peer is locked (R305, R309). A port that narrows stays in use; one whose peer has not
sent a TIME frame yet may be chosen (log 50). -/
def State.nextTimePort (s : State) : Option Nat :=
  s.dom.timePorts.find? (fun k =>
    ((s.port k).st == .up || ((s.port k).st == .narrowing && s.dom.inUse == some k)) && (s.port k).peerLocked != some false)

/-- A follower follows the first of its time ports that serves (R305); one whose time port is gone enters holdover where none is left, and
is then locked to none (R309, log 50). -/
def State.chooseTime (s : State) : State :=
  if !s.follower then s
  else match s.nextTimePort with
    | some n => { s with dom := { s.dom with inUse := some n } }
    | none =>
      if s.dom.inUse.isNone then s
      else ({ s with dom := { s.dom with inUse := none, holdover := true, locked := false } } : State).post (s.ev 0x050B)

/-- A time port that is gone (R309). -/
def State.timePortLost (s : State) (k : Nat) : State := if s.dom.inUse == some k then s.chooseTime else s

/-- States in which a session of a link runs (R290). -/
def PortSt.session (p : PortSt) : Bool := p == .up || p == .narrowing

/-- A session that ends keeps its peer and the last sequence accepted (R284); the port is DOWN from then until it is UP again (log 50). -/
def Port.endSession (p : Port) (st : PortSt) (now : Nat) : Port :=
  if st.session then { p with downAt := none }
  else if p.st.session then { p with
    prevPeer := some (p.peerId, p.peerPort)
    lastRx := if p.rxSeq = 0 then none else some (p.rxSeq - 1)
    downAt := some now }
  else if st == .down then { p with downAt := some (p.downAt.getD now) }
  else p

/-- A port enters a state (R290, R291, R310): stamped; EV_FABRIC_PORT where the table of R291 says; a session that ends
keeps what R284 reports; a time port that leaves UP is lost. -/
def State.portTo (s : State) (k : Nat) (st : PortSt) : State :=
  let p := s.port k
  let was := p.st
  let s1 := (s.setPort k { p.endSession st s.now with
    st := st, lastChange := s.stamp, since := s.now
    lambdaUsed := if st.session || st == .training then p.lambdaUsed else 0
    refuse := if st == .refused then p.refuse else 0
    phase := if st == .training then 1 else 0
    phaseAt := s.now }).noteStall k
  let s2 := if portNotes st then s1.post { s1.portEv 0x0501 k with arg0 := was.code, arg1 := st.code } else s1
  if !st.session then s2.timePortLost k else s2

/-- A port begins training (R286, R290, R291): a fresh nonce, all four wavelengths. -/
def State.portTrain (s : State) (k : Nat) : State :=
  let d := s.draw
  let s1 := d.2.portTo k .training
  s1.modPort k (fun p => { p with
    retrains := cap32 (p.retrains + 1)
    nonce := d.1.setWidth 128
    peerNonce := none
    peerOk := false
    peerAck := false
    txMsg := []
    resume := none
    peerLocked := none
    rxOld := []
    rxSeq := 0
    lambdaOk := 0
    lambdaUsed := 0
    uncStage := []
    tagStage := 0 })



/-- The domain key of a generation (R285). -/
def Domain.key (d : Domain) (g : Bool) : Option (BitVec 256) := if g then d.key1 else d.key0

/-- End identity (R286). -/
def endId (id port : Nat) : List Byte := toLE 2 (id % 8192) ++ toLE 1 port

/-- This end is the lower one (R286). -/
def lowerEnd (id port pid pport : Nat) : Bool := decide (id * 64 + port < pid * 64 + pport)

/-- Link key and salt of one direction: direction 0 lower to higher (R286). -/
def linkKey (key : BitVec 256) (dom id port pid pport : Nat) (n pn : BitVec 128) (dir : Nat) : List Byte :=
  let low := lowerEnd id port pid pport
  let a := endId id port
  let b := endId pid pport
  let x := toLE 16 n.toNat
  let y := toLE 16 pn.toNat
  let info := [0x50#8, 0x5A#8, 0x4C#8, 0x4B#8] ++ (if low then a ++ b ++ x ++ y else b ++ a ++ y ++ x) ++ toLE 1 dir
  hkdf512 (toLE 32 key.toNat) (toLE 4 dom) info 36

/-- PROOF of an end (R292): `who` 0 when the lower end proves. -/
def linkProof (key : BitVec 256) (dom id port pid pport : Nat) (n pn : BitVec 128) (who : Nat) : List Byte :=
  let low := lowerEnd id port pid pport
  let a := endId id port
  let b := endId pid pport
  let x := toLE 16 n.toNat
  let y := toLE 16 pn.toNat
  (hmac512 (toLE 32 key.toNat) ([0x50#8, 0x5A#8, 0x49#8, 0x44#8] ++ toLE 4 dom
    ++ (if low then a ++ b ++ x ++ y else b ++ a ++ y ++ x) ++ toLE 1 who)).take 16

/-- Derive both directions' keys of a port from a generation (R286, R288). -/
def State.deriveKeys (s : State) (k : Nat) (g : Bool) : State :=
  match s.dom.key g with
  | none => s
  | some key =>
    let p := s.port k
    let low := lowerEnd s.dom.deviceId k p.peerId p.peerPort
    let dk (dir : Nat) := linkKey key s.dom.domainId s.dom.deviceId k p.peerId p.peerPort p.nonce (p.peerNonce.getD 0) dir
    s.setPort k { p with txKey := dk (if low then 0 else 1), rxKey := dk (if low then 1 else 0) }

/-- LAST_SEQ of this end's training message: its last session ended at most 1 s ago and accepted a frame (R284). -/
def State.lastSeq (s : State) (k : Nat) : Option Nat :=
  let p := s.port k
  if p.downAt.any (fun t => decide (s.now ≤ t + secondCycles)) && p.prevPeer.isSome then p.lastRx else none

/-- PROOF of this end, once it has the peer's nonce and a key (R292, R293). -/
def State.ownProof (s : State) (k : Nat) : Option (List Byte) :=
  let p := s.port k
  match p.peerNonce, s.dom.key s.dom.kgen with
  | some n, some key =>
    let who := if lowerEnd s.dom.deviceId k p.peerId p.peerPort then 0 else 1
    some (linkProof key s.dom.domainId s.dom.deviceId k p.peerId p.peerPort p.nonce n who)
  | _, _ => none

/-- The training message of this end (R293). -/
def State.trainingMsg (s : State) (k : Nat) : List Byte :=
  let p := s.port k
  let proof := s.ownProof k
  let seq := s.lastSeq k
  let b := toLE 4 0x49545A50
    ++ toLE 4 (1 + b2n s.dom.joined * 2 ^ 8 + b2n s.dom.kgen * 2 ^ 9 + b2n proof.isSome * 2 ^ 10 + b2n seq.isSome * 2 ^ 11
      + p.refuse % 256 * 2 ^ 16)
    ++ toLE 4 (if s.dom.joined then s.dom.domainId else 0)
    ++ endId s.dom.deviceId k ++ zeros 1 ++ toLE 16 p.nonce.toNat
    ++ (match p.prevPeer with
      | some (i, n) => endId i n
      | none => zeros 3) ++ zeros 5
    ++ toLE 8 (seq.getD 0) ++ proof.getD (zeros 16) ++ zeros 60
  b ++ toLE 4 (crc32 b)

/-- This end sends its training message (R293). -/
def State.sendTraining (s : State) (k : Nat) : State := s.modPort k (fun p => { p with txMsg := s.trainingMsg k })

/-- A port enters REFUSED (R292, R293): its training message tells the peer the reason, and EV_FABRIC_REFUSED the host. -/
def State.portRefuse (s : State) (k reason : Nat) : State :=
  let s0 := s.modPort k (fun p => { p with refuse := reason })
  let s1 := (if (s.port k).st == .training then s0.sendTraining k else s0).portTo k .refused
  s1.post { s1.portEv 0x0504 k with arg0 := reason }

/-- Credits at training (R302). -/
def Port.initCredits (p : Port) : Port :=
  { p with
    reserve := (List.range 6).map (fun k => (k, 256))
    shared := 6656
    creditIn := []
    creditOut := [] }

/-- A timestamp in 12 bytes (R61). -/
def Stamp.bytes (t : Stamp) : List Byte := toLE 8 (t.stage % 2 ^ 48) ++ toLE 4 (t.offset % 2 ^ 24)

/-- A timestamp read back. -/
def readStamp (b : List Byte) : Stamp := ⟨bits (fld b 0 8) 0 48, bits (fld b 8 4) 0 24⟩

/-- A TIME frame is stamped as it leaves (R306): ROOT_STAGE, and T3 of a RESPONSE; other frames leave as they are. -/
def State.stamped (s : State) (f : Frame) : Frame :=
  if f.typ = 9 then { f with
    payload := f.payload.take 0x14 ++ (if fld f.payload 0 1 = 2 then s.stamp.bytes else (f.payload.drop 0x14).take 12)
      ++ (f.payload.drop 0x20).take 16 ++ toLE 8 (s.stage % 2 ^ 48) ++ f.payload.drop 0x38 }
  else f

/-- Departure stamp of the REQUEST that a port waits for an answer to (R306). -/
def State.departed (s : State) (p : Port) (f : Frame) : Option Stamp :=
  if f.typ = 9 ∧ fld f.payload 0 1 = 1 ∧ fld f.payload 4 4 = p.exchange then some s.stamp else p.t1

/-- A frame as it leaves a port now: stamped, under the current key generation (R288, R306). -/
def State.leaving (s : State) (f : Frame) : Frame := { s.stamped f with kgen := s.dom.kgen }

/-- Credits of a (class, lane) pair go back to the peer of a port (R302). -/
def State.returnCredits (s : State) (k lane n : Nat) : State :=
  s.modPort k (fun q => { q with creditOut := mset q.creditOut lane (mgetD q.creditOut lane 0 + n) })

/-- The buffer of a transit frame on its ingress port is free (R302); `lane` is its lane on arrival. -/
def State.freeIngress (s : State) (lane : Bool) (f : Frame) : State :=
  if f.src.toNat = s.dom.deviceId then s else s.returnCredits f.port.toNat (laneKey f.cls.toNat lane) (frameCredits f)

/-- A frame leaves a port: numbered, kept until acknowledged, counted (R282, R310); a transit frame's buffer on its
ingress port is free (R302). -/
def State.transmit (s : State) (k : Nat) (p : Port) (lane : Bool) (f : Frame) : State :=
  (s.setPort k { p with
    txSeq := p.txSeq + 1, unacked := p.unacked ++ [(p.txSeq, s.leaving f)], txBytes := p.txBytes + f.payload.length
    t1 := s.departed p f }).freeIngress lane f

/-- Send a frame by a port or let it wait there (R297, R302); `lane` is its lane on arrival. -/
def State.sendBy (s : State) (k : Nat) (lane : Bool) (f : Frame) : State :=
  let p := s.port k
  let wait := (s.setPort k { p with waiting := p.waiting ++ [(none, lane, f)] }).noteStall k
  if s.maySend k f && !p.waiting.any (fun w => w.2.2.cls == f.cls && w.2.2.vl == f.vl) then
    match p.takeCredits f with
    | some q => s.transmit k q lane f
    | none => wait
  else wait

/-- The source of a frame at an output (R18, log 61): the port that a transit frame came by, or the serai of a frame of this device. -/
def frameSource (own : Nat) (f : Frame) : Nat := if f.src.toNat = own then 64 + f.txn.toNat / 8192 else f.port.toNat

/-- The source of a list that round robin serves next after `last`. -/
def nextSource (last : Nat) (l : List Nat) : Option Nat :=
  l.foldl (fun (b : Option Nat) k => match b with
    | none => some k
    | some m => if (k + 127 - last) % 128 < (m + 127 - last) % 128 then some k else b) none

/-- The frame that the arbiter of an output serves next among those that compete (R18, R299): service, lead, backhaul; within a class
round robin over sources, each oldest first. While lead or backhaul competes, service waits for what it owes. -/
def Port.arbitrate (p : Port) (own : Nat) (ready : List (Option Nat × Bool × Frame)) : Option (Option Nat × Bool × Frame) :=
  let others := ready.any (fun w => w.2.2.cls != 0)
  (List.range 4).findSome? (fun c =>
    let l := if c = 0 ∧ others ∧ p.svcOwed ≠ 0 then [] else ready.filter (fun w => w.2.2.cls.toNat == c)
    match nextSource (mgetD p.lastSrc c 127) (l.map (fun w => frameSource own w.2.2)) with
    | none => none
    | some k => l.find? (fun w => frameSource own w.2.2 == k))

/-- The arbiter's state once it has served a frame: service takes at most one cycle in eight of an output for which others wait. -/
def Port.served (p : Port) (own : Nat) (others : Bool) (f : Frame) : Port :=
  { p with
    lastSrc := mset p.lastSrc f.cls.toNat (frameSource own f)
    svcOwed := if f.cls = 0 then (if others then p.svcOwed + 7 * frameCredits f else p.svcOwed) else p.svcOwed - frameCredits f }

/-- Send what waits at a port as far as it may go, `fuel` looks at most; a frame short of credits holds back the later ones of its
class and lane. -/
def State.pumpN (k : Nat) : Nat → List Nat → State → State
  | 0, _, s => s
  | n + 1, blocked, s =>
    let p := s.port k
    let ready := p.waiting.filter (fun w => s.maySend k w.2.2 && !blocked.contains (frameLane w.2.2))
    match p.arbitrate s.dom.deviceId ready with
    | none => s
    | some w => match p.takeCredits w.2.2 with
      | none => State.pumpN k n (frameLane w.2.2 :: blocked) s
      | some q =>
        let r := { q.served s.dom.deviceId (ready.any (fun v => v.2.2.cls != 0)) w.2.2 with waiting := p.waiting.erase w }
        State.pumpN k n blocked (s.transmit k r w.2.1 w.2.2)

/-- Every frame that waits at a port is sent as far as it may go. -/
def State.pump (s : State) (k : Nat) : State := (State.pumpN k ((s.port k).waiting.length + 8) [] s).noteStall k

/-- Every port sends what it may. -/
def State.pumpAll (s : State) : State := s.ports.foldl (fun (t : State) (p : Nat × Port) => if p.2.waiting.isEmpty then t else t.pump p.1) s

/-- The routing table of an epoch (R297). -/
def Domain.table (d : Domain) (epoch : Bool) : NMap Nat := if epoch then d.route1 else d.route0

/-- Egress port and VL_SWITCH of a destination; none where it is unreachable (R297, R300). The own entry is ignored. -/
def Domain.route (d : Domain) (epoch : Bool) (dest src flow : Nat) : Option (Nat × Bool) :=
  if dest = d.deviceId then none
  else match mget (d.table epoch) dest with
  | none => none
  | some e =>
    let n := bits e 24 3
    if n = 0 ∨ 4 < n then none else some (bits e (6 * ((src + flow) % n)) 6, bit e 27)

/-- Count a refused or discarded frame at its port (R281, R300, R303). -/
def State.reject (s : State) (k : Nat) : State := s.modPort k (fun p => { p with rejects := cap32 (p.rejects + 1) })

/-- Forward a transit frame by the table of its own epoch (R298–R300); one that has no way on is discarded, and its buffer is free. -/
def State.forward (s : State) (f : Frame) : State :=
  match s.dom.route f.epoch f.dest.toNat f.src.toNat f.flow.toNat with
  | none => (s.reject f.port.toNat).returnCredits f.port.toNat (frameLane f) (frameCredits f)
  | some (k, sw) => s.sendBy k f.vl { f with vl := f.vl || sw }

/-- What issuing a request answers. -/
inductive IssueRes where
  | sent (s : State)
  | unreachable
  | stall
  deriving DecidableEq, Repr

/-- Fields of a request that its issuer gives. -/
structure Req where
  serai : Nat
  dest : Nat
  tag : Nat
  cls : Nat
  typ : Nat
  flow : Nat
  offset : Nat
  window : Nat
  poison : Bool
  payload : List Byte
  use_ : TxnFor
  deriving DecidableEq, Repr

/-- A frame of this device. -/
def State.mkFrame (s : State) (q : Req) (txn : Nat) (vl : Bool) : Frame :=
  ⟨0, BitVec.ofNat 16 q.dest, BitVec.ofNat 16 s.dom.deviceId, BitVec.ofNat 16 q.tag, BitVec.ofNat 2 q.cls, vl, s.dom.epoch,
    s.dom.kgen, BitVec.ofNat 4 q.typ, q.poison, BitVec.ofNat 32 q.offset, BitVec.ofNat 4 q.window, BitVec.ofNat 15 txn,
    BitVec.ofNat 10 q.flow, q.payload⟩

/-- Issue a request (R85, R297, R298, R300–R302): the lowest tag that is free and not in quarantine. -/
def State.issue (s : State) (q : Req) : IssueRes :=
  match s.dom.route s.dom.epoch q.dest s.dom.deviceId q.flow with
  | none => .unreachable
  | some (k, sw) =>
    let mine := s.dom.txns.filter (fun (x : Txn) => x.tag / 8192 == q.serai)
    if s.dom.txns.any (fun (x : Txn) => x.dest == q.dest && x.flow == q.flow && x.epoch != s.dom.epoch) then .stall
    else if 8192 ≤ mine.length ∨ 1024 ≤ (s.dom.txns.filter (fun (x : Txn) => x.port == k)).length then .stall
    else match freshBelow 8192 ((mine.map (fun (x : Txn) => x.tag % 8192)) ++ ((s.dom.quarantine.filter (fun p =>
        p.1 / 8192 == q.serai && decide (s.now < p.2))).map (fun p => p.1 % 8192))) with
      | none => .stall
      | some t =>
        let txn := q.serai * 8192 + t
        let x : Txn := ⟨txn, q.dest, q.flow, s.dom.epoch, k, s.now, q.use_⟩
        .sent (({ s with dom := { s.dom with txns := s.dom.txns ++ [x] } } : State).sendBy k false (s.mkFrame q txn sw))

/-- Send a frame that opens no transaction: answers and collective control (R281). -/
def State.reply (s : State) (f : Frame) (typ offset : Nat) (poison : Bool) (payload : List Byte) : State :=
  match s.dom.route s.dom.epoch f.src.toNat s.dom.deviceId f.flow.toNat with
  | none => s
  | some (k, sw) => s.sendBy k false { f with
      port := 0, dest := f.src, src := BitVec.ofNat 16 s.dom.deviceId, vl := sw, epoch := s.dom.epoch, kgen := s.dom.kgen
      typ := BitVec.ofNat 4 typ, poison := poison, offset := BitVec.ofNat 32 offset, payload := payload }

/-- FLOW of the firmware's frames (table "Frame header"). -/
def serviceFlow : Nat := 576

/-- Firmware sends service traffic to another device (R63, R281, R289, R334, log 62): JOB_TAG 0, class service, up to 512 bytes. What
answers it is the firmware's; a device without a route gets none. -/
def State.sendService (s : State) (typ dest : Nat) (payload : List Byte) : State :=
  if !s.dom.joined || dest == s.dom.deviceId then s
  else match s.dom.route s.dom.epoch dest s.dom.deviceId serviceFlow with
    | none => s
    | some (k, sw) => s.sendBy k false ⟨0, BitVec.ofNat 16 dest, BitVec.ofNat 16 s.dom.deviceId, 0, 0, sw, s.dom.epoch, s.dom.kgen,
        BitVec.ofNat 4 typ, false, 0, 0, 0, BitVec.ofNat 10 serviceFlow, fitBytes (64 * max 1 (cdiv payload.length 64)) payload⟩

/-- Bytes go to another device in service frames of 512 bytes (R279, R289). -/
def State.sendBytes (s : State) (dest : Nat) (d : List Byte) : State :=
  (chunksOf 512 d).foldl (fun (t : State) p => t.sendService 10 dest p) s

/-- One value of a service collective goes to every other member (R334, log 62). -/
def State.shareValue (s : State) (members : List Nat) (v : Nat) : State :=
  members.foldl (fun (t : State) m => t.sendService 8 m (toLE 8 v)) s

/-- End a transaction and answer what it served: a late answer, or one from another device, finds none (R301). -/
def State.endTxn (s : State) (f : Frame) : Option (Txn × State) :=
  match s.dom.txns.find? (fun (x : Txn) => x.tag == f.txn.toNat && x.dest == f.src.toNat) with
  | none => none
  | some x => some (x, { s with dom := { s.dom with txns := s.dom.txns.filter (fun (y : Txn) => y.tag != x.tag) } })

/-- The place of a control frame among those sent last: its CTYPE; a CREDIT by class and lane, a NARROW by REPLY. -/
def ctlKey (ctype cls : Nat) (vl reply : Bool) : Nat :=
  if ctype = 3 then 16 + laneKey cls vl else if ctype = 4 && reply then 8 else ctype

/-- Send a control frame (R283): numbered, kept by its kind. -/
def State.sendCtl (s : State) (k ctype : Nat) (cls : Nat) (vl reply : Bool) (lam : BitVec 4) (value : Nat) : State :=
  s.modPort k (fun p => { p with
    ctlOut := mset p.ctlOut (ctlKey ctype cls vl reply)
      ⟨BitVec.ofNat 6 k, BitVec.ofNat 2 cls, vl, reply, lam, BitVec.ofNat 32 p.ctlTx, BitVec.ofNat 64 value⟩
    ctlTx := p.ctlTx + 1 })

/-- A NAK names the first data sequence that this end lacks (R282). -/
def State.sendNak (s : State) (k : Nat) : State := s.sendCtl k 2 0 false false 0 (s.port k).rxSeq

/-- An ACK names the highest data sequence accepted (R283). Before the first one it carries 2^64 − 1, which acknowledges none (DESIGN
CHOICE, log 50). -/
def State.sendAck (s : State) (k : Nat) : State := s.sendCtl k 1 0 false false 0 (((s.port k).rxSeq + 2 ^ 64 - 1) % 2 ^ 64)

/-- A tag failure at a port (R287). -/
def State.tagFailed (s : State) (k : Nat) : State :=
  s.modPort k (fun p => { p with authFails := cap32 (p.authFails + 1), tagStage := p.tagStage + 1 })

/-- A port holds the key of a frame's generation (R288): the current one, or the old one until its slot is erased. -/
def State.keyHeld (s : State) (k : Nat) (g : Bool) : Bool :=
  if g == s.dom.kgen then (s.dom.key g).isSome else !(s.port k).rxOld.isEmpty

/-- A data frame of one type is received (R281, R282, R287, R299): its port is UP, the key of its generation is held; one
of another generation fails its tag. One for another device is forwarded; one for this device is given to `f`, and its buffer is free. -/
def State.receive (s : State) (fr : Frame) (f : State → State) : State :=
  let k := fr.port.toNat
  let p := s.port k
  if !(s.live && s.dom.joined && p.st == .up) then s
  else if !s.keyHeld k fr.kgen then (s.tagFailed k).sendNak k
  else
    let own := fr.typ == 9 || fr.dest.toNat == s.dom.deviceId
    let q := { p with
      rxSeq := p.rxSeq + 1
      rxBytes := p.rxBytes + fr.payload.length
      ctlOut := merase p.ctlOut 2
      creditOut := if own then mset p.creditOut (frameLane fr) (mgetD p.creditOut (frameLane fr) 0 + frameCredits fr)
        else p.creditOut }
    let s1 := s.setPort k q
    if own then f s1 else s1.forward fr

/-- Refuse a request (R281, R303): TXN_NACK with the reason, counted. -/
def State.nack (s : State) (fr : Frame) (reason : Nat) : State := (s.reject fr.port.toNat).reply fr 6 reason false (zeros 64)

end Sys2Proof.Machine
end

