-- ==== Sys2Proof/Machine/Geometry.lean ====
section
/-! DEFINITION. The geometry that convolutions and tap sweeps share (07, R161–R163, R172, R173). -/
namespace Sys2Proof.Machine

/-- Filter, stride, dilation, padding, the image as the task sees it, and the output range. -/
structure Geo where
  kh : Nat
  kw : Nat
  sh : Nat
  sw : Nat
  dh : Nat
  dw : Nat
  padT : Nat
  padB : Nat
  padL : Nat
  padR : Nat
  w : Nat
  h : Nat
  iyBase : Nat
  oy0 : Nat
  oyLen : Nat
  ox0 : Nat
  oxLen : Nat
  deriving DecidableEq, Repr, Inhabited

/-- Output extent (R163). -/
def Geo.wOut (g : Geo) : Int := ((g.w : Int) + g.padL + g.padR - g.dw * (g.kw - 1 : Int) - 1) / g.sw + 1
def Geo.hOut (g : Geo) : Int := ((g.h : Int) + g.padT + g.padB - g.dh * (g.kh - 1 : Int) - 1) / g.sh + 1

/-- The task is empty (R163). -/
def Geo.empty (g : Geo) : Bool := decide (g.wOut ≤ 0 ∨ g.hOut ≤ 0 ∨ g.oxLen = 0 ∨ g.oyLen = 0)

/-- The output range lies within the extent (R163). -/
def Geo.inRange (g : Geo) : Bool :=
  decide ((g.ox0 : Int) + g.oxLen ≤ g.wOut ∧ (g.oy0 : Int) + g.oyLen ≤ g.hOut)

/-- Input column and row of a tap (R161). -/
def Geo.ix (g : Geo) (ox kw : Nat) : Int := (ox : Int) * g.sw + kw * g.dw - g.padL
def Geo.iy (g : Geo) (oy kh : Nat) : Int := (oy : Int) * g.sh + kh * g.dh - g.padT

/-- The position lies within the image (R162). -/
def Geo.inside (g : Geo) (ix iy : Int) : Bool := decide (0 ≤ ix ∧ ix < g.w ∧ 0 ≤ iy ∧ iy < g.h)

/-- Some tap of some output needs a row above the line buffer (R162). -/
def Geo.rowMissing (g : Geo) : Bool :=
  (List.range g.oyLen).any (fun y => (List.range g.kh).any (fun kh =>
    let iy := g.iy (g.oy0 + y) kh
    decide (0 ≤ iy ∧ iy < g.iyBase) &&
      (List.range g.oxLen).any (fun x => (List.range g.kw).any (fun kw => g.inside (g.ix (g.ox0 + x) kw) iy))))

end Sys2Proof.Machine
end

