-- ==== Sys2Proof/Machine/Conv.lean ====
section
/-! DEFINITION. The body of a convolution task (07, R164–R166, R174), and matrix and convolution tasks seen as one loop of
tiles (R101, R169): rows, bands, chunks. -/
namespace Sys2Proof.Machine

/-- Halo unit (R174). -/
structure HaloU where
  waitTop : Bool
  waitBot : Bool
  pubUp : Bool
  pubDn : Bool
  topRows : Nat
  botRows : Nat
  upRows : Nat
  dnRows : Nat
  topStamp : Nat
  botStamp : Nat
  waitSeq : Nat
  upCore : Nat
  dnCore : Nat
  upData : Nat
  upScale : Nat
  upStamp : Nat
  dnData : Nat
  dnScale : Nat
  dnStamp : Nat
  pubSeq : Nat
  deriving DecidableEq, Repr, Inhabited

/-- A convolution body (R164). -/
structure ConvBody where
  ctl : MatCtl
  fold : Nat
  ci0 : Nat
  ciLen : Nat
  padV : Int
  padE : Int
  pitch : Nat
  geo : Geo
  halo : Option HaloU
  x : Desc
  ws : List Desc
  sets : List OutSet
  deriving DecidableEq, Repr, Inhabited

/-- A halo unit with its reserved bits zero and its fields consistent with its enables (R174). -/
def parseHalo (r : List Byte) : Option HaloU :=
  let e := fld r 0 4
  let b := fld r 4 4
  let c := fld r 0x14 4
  let o (k : Nat) := bits (fld r k 4) 0 24
  let h : HaloU := ⟨bit e 0, bit e 1, bit e 2, bit e 3, bits b 0 8, bits b 8 8, bits b 16 8, bits b 24 8, o 8, o 0x0C,
    fld r 0x10 4, bits c 0 7, bits c 7 7, o 0x18, o 0x1C, o 0x20, o 0x24, o 0x28, o 0x2C, fld r 0x30 4⟩
  if r.length == 64 && bits e 4 28 == 0 && bits c 14 18 == 0
    && [8, 0x0C, 0x18, 0x1C, 0x20, 0x24, 0x28, 0x2C].all (fun k => bits (fld r k 4) 24 8 == 0)
    && zeroBytes r 0x34 0x40
    && (h.waitTop || h.topRows == 0) && (h.waitBot || h.botRows == 0)
    && (h.pubUp || h.upRows == 0) && (h.pubDn || h.dnRows == 0)
    && h.topStamp % 64 == 0 && h.botStamp % 64 == 0
    && (!(h.waitTop || h.waitBot) || h.waitSeq != 0) && (!(h.pubUp || h.pubDn) || h.pubSeq != 0)
  then some h else none

/-- Bytes of one published output row: data and scales (R176). -/
def rowBytes (g : Geo) (o : Desc) : Nat × Nat := (g.wOut.toNat * o.pad 0 * o.ty.width / 8, g.wOut.toNat * o.pad 0 / 32)

/-- The halo unit's cores, stamp records and published rows lie where R174 asks. -/
def haloOk (h : HaloU) (g : Geo) (o : Desc) (cores base len : Nat) : Bool :=
  let inR (a n : Nat) := decide (base ≤ a ∧ a + n ≤ base + len)
  let rb := rowBytes g o
  let pub (core rows data scale stamp : Nat) := cores.testBit core && inR stamp 128 && inR data (rows * rb.1)
    && inR scale (rows * rb.2)
  (!h.waitTop || inR h.topStamp 128) && (!h.waitBot || inR h.botStamp 128)
    && (!h.pubUp || pub h.upCore h.upRows h.upData h.upScale h.upStamp)
    && (!h.pubDn || pub h.dnCore h.dnRows h.dnData h.dnScale h.dnStamp)
    && (!(h.pubUp || h.pubDn) || (g.ox0 == 0 && (g.oxLen : Int) == g.wOut && decide (h.upRows ≤ g.oyLen ∧ h.dnRows ≤ g.oyLen)))

/-- A convolution body that passes the checks of R38, R133, R163, R165 and R174; an empty task's output rows span nothing. -/
def parseConv (b : List Byte) (tsBase tsLen cores : Nat) : Option ConvBody :=
  let r := unitOf b 0
  let q := unitOf b 1
  let w := fld r 0 4
  let mode := bits w 0 2
  let prec := bits w 4 3
  let arrays := bits w 8 4
  let ring := bit w 14
  let fold := bits w 16 4
  let s := fld r 0x18 4
  let ci0 := fld r 4 4
  let ciLen := fld r 8 4
  let w0 := fld q 0 4
  let p := fld q 4 4
  let u0 := if bit w 15 then 3 else 2
  let nw := streamsOf mode arrays
  let iyBase := fld q 0x20 4
  let pitch := fld q 0x24 4
  let halo := if bit w 15 then (parseHalo (unitOf b 2)).map some else some none
  match halo, parseDesc (unitOf b u0), parseDescs b nw (u0 + 1), parseOutSets b nw (u0 + 1 + nw), precTypes prec with
  | some hu, some x, some ws, some (os, u), some (tx, tw) =>
    let g : Geo := ⟨bits w0 0 4 + 1, bits w0 4 4 + 1, bits w0 8 4 + 1, bits w0 12 4 + 1, bits w0 16 4 + 1, bits w0 20 4 + 1,
      bits p 0 8, bits p 8 8, bits p 16 8, bits p 24 8, x.dim1, iyBase + x.dim2, iyBase,
      fld q 0x10 4, fld q 0x14 4, fld q 0x18 4, fld q 0x1C 4⟩
    let span := if g.empty then 0 else (g.oyLen - 1) * pitch + g.oxLen
    let c : MatCtl := ⟨mode, prec, arrays, bits w 12 2 + 1, ring, false, 0, span, fld r 0x0C 4, fld r 0x10 4, 0, 1,
      bits (fld r 0x14 4) 0 11, bits s 0 5, bits s 8 24, 0, 0, 0, 0⟩
    let padV := sgn 32 (fld q 8 4)
    let bpt := cdiv ciLen 32
    let kt := kTile prec
    let inR (d : Desc) := d.inTs tsBase tsLen
    if b.length == 64 * u && decide (mode ≤ 1) && bits w 2 2 == 0 && bit w 7 == false && bits w 20 12 == 0
      && arraysOk mode arrays && [1, 2, 4, 8].contains fold
      && bits (fld r 0x14 4) 11 21 == 0 && bits s 5 3 == 0 && zeroBytes r 0x1C 0x40
      && bits w0 24 8 == 0 && bits (fld q 0x0C 4) 8 24 == 0 && bits (fld q 0x0C 4) 0 8 != 0x80 && zeroBytes q 0x28 0x40
      && ci0 % 32 == 0 && decide (1 ≤ ciLen ∧ ciLen ≤ 2 ^ 31 - 1 ∧ 1 ≤ c.nLen ∧ c.nLen ≤ 2 ^ 31 - 1)
      && decide (1 ≤ c.chunkN ∧ c.chunkN ≤ 256 * c.nb)
      && (fold == 1 || (!ring && decide (fold * bpt ≤ kt / 32)))
      && (if ring then decide (1 ≤ c.slots ∧ c.slots ≤ 16) && c.n0 == 0 else c.slots == 0 && c.stride == 0)
      && !(narrowSat tx.width padV)
      && x.ts && x.rankM1 == 2 && x.blk == 32 && x.axis == 0 && x.ty == tx && inR x && decide (ci0 + ciLen ≤ x.dim0)
      && ws.all (fun d => d.ts && d.blk == 32 && d.axis == 0 && d.ty == tw &&
          (if ring then
            d.rankM1 == 1 && d.dim0 == kt && d.dim1 == c.chunkN && decide (tsBase ≤ d.data ∧ tsBase ≤ d.scale
              ∧ d.data + 64 * (c.slots - 1) * c.stride + d.dataBytes ≤ tsBase + tsLen
              ∧ d.scale + 64 * (c.slots - 1) * c.stride + d.scaleBytes ≤ tsBase + tsLen)
          else inR d && d.rankM1 == 3 && d.dim0 == ciLen && decide (c.n0 + c.nLen ≤ d.dim1) && d.dim2 == g.kw && d.dim3 == g.kh))
      && os.all (fun o => outSetOk c o && o.out.axis == 0 && inR o.out && (o.pre.map inR).getD true && (o.fz.map inR).getD true)
      && (g.empty || (g.inRange && !g.rowMissing))
      && (match hu with
          | none => true
          | some h => haloOk h g (nth os 0).out cores tsBase tsLen && decide (h.topRows ≤ x.dim2 ∧ h.botRows ≤ x.dim2))
    then some ⟨c, fold, ci0, ciLen, padV, sgn 8 (bits (fld q 0x0C 4) 0 8), pitch, g, hu, x, ws, os⟩ else none
  | _, _, _, _, _ => none

/-- A task of the array group's tile loop: matrix work or a convolution. -/
inductive MatJob where
  | mm (b : MatBody)
  | conv (b : ConvBody)
  deriving DecidableEq, Repr

/-- The loop fields of either body. -/
def MatJob.ctl : MatJob → MatCtl
  | .mm b => b.ctl
  | .conv b => b.ctl

/-- The output sets. -/
def MatJob.sets : MatJob → List OutSet
  | .mm b => b.sets
  | .conv b => b.sets

/-- Streams. -/
def MatJob.streams (b : MatJob) : Nat := streamsOf b.ctl.mode b.ctl.arrays

/-- Stationary rows (R101, R166). -/
def MatJob.rows : MatJob → Nat
  | .mm b => b.ctl.mLen
  | .conv b => b.geo.oxLen * b.geo.oyLen

/-- Row groups, chunks, and tiles of a chunk (R101, R169). -/
def MatJob.groups (b : MatJob) : Nat := cdiv b.rows (mEff b.ctl.mode)
def MatJob.chunks (b : MatJob) : Nat := cdiv b.ctl.nLen b.ctl.chunkN
def MatJob.tilesPer : MatJob → Nat
  | .mm b => cdiv b.ctl.kLen (kTile b.ctl.prec)
  | .conv b => cdiv (b.geo.kh * b.geo.kw) b.fold * (if 1 < b.fold then 1 else cdiv (cdiv b.ciLen 32 * 32) (kTile b.ctl.prec))

/-- Tiles of the task. -/
def MatJob.tiles (b : MatJob) : Nat := b.groups * b.chunks * b.tilesPer

/-- One contraction index of a band: stationary element, position in the tile, and weight coordinates. -/
structure Tap where
  xi : Idx
  pos : Nat
  d0 : Nat
  kw : Nat
  kh : Nat
  deriving DecidableEq, Repr, Inhabited

/-- A band of one row that is not gated (R93, R167, R168): a pad value with its exponent, or the stationary elements. -/
structure Band where
  pad : Option (Int × Int)
  els : List Tap
  deriving DecidableEq, Repr, Inhabited

/-- The output pixel of a convolution's row (R166). -/
def ConvBody.pixel (b : ConvBody) (m : Nat) : Nat × Nat := (b.geo.ox0 + m % b.geo.oxLen, b.geo.oy0 + m / b.geo.oxLen)

/-- The tap and channel band that band `k` of tile `t` carries; none where it is gated for every row (R167). -/
def ConvBody.bandAt (b : ConvBody) (t k : Nat) : Option (Nat × Nat) :=
  let bpt := cdiv b.ciLen 32
  let taps := b.geo.kh * b.geo.kw
  let per := kTile b.ctl.prec / 32
  if 1 < b.fold then
    if k < b.fold * bpt ∧ t * b.fold + k / bpt < taps then some (t * b.fold + k / bpt, k % bpt) else none
  else
    let ut := cdiv bpt per
    let cb := t % ut * per + k
    if cb < bpt then some (t / ut, cb) else none

/-- The bands of a row in a tile, gated ones left out (R90, R93, R167, R168). -/
def MatJob.bands (b : MatJob) (t m : Nat) : List Band :=
  match b with
  | .mm q =>
    let c := q.ctl
    let kt := kTile c.prec
    (List.range (kt / 32)).filterMap (fun k =>
      let els := (List.range 32).filterMap (fun e =>
        let pos := 32 * k + e
        let kk := c.k0 + t * kt + pos
        if kk < c.k0 + c.kLen then some ⟨⟨kk, c.m0 + m, 0, 0⟩, pos, kk, 0, 0⟩ else none)
      if els.isEmpty then none else some ⟨none, els⟩)
  | .conv q =>
    let px := q.pixel m
    (List.range (kTile q.ctl.prec / 32)).filterMap (fun k =>
      match q.bandAt t k with
      | none => none
      | some (tap, cb) =>
        let kh := tap / q.geo.kw
        let kw := tap % q.geo.kw
        let ix := q.geo.ix px.1 kw
        let iy := q.geo.iy px.2 kh
        let ins := q.geo.inside ix iy
        if !ins && q.padV == 0 then none
        else
          some ⟨if ins then none else some (q.padV, q.padE),
            (List.range 32).filterMap (fun e =>
              let ci := 32 * cb + e
              if ci < q.ciLen then
                some ⟨⟨q.ci0 + ci, ix.toNat, (iy - q.geo.iyBase).toNat, 0⟩, 32 * k + e, ci, kw, kh⟩
              else none)⟩)

/-- The stationary descriptor of a stream (R98). -/
def MatJob.xDesc (b : MatJob) (k : Nat) : Desc :=
  match b with
  | .mm q => if q.ctl.mode = 2 then nth q.stat k else nth q.stat 0
  | .conv q => q.x

/-- The weight descriptor of a stream for tile `i`: its ring slot, or the resident tensor (R104). -/
def MatJob.wDesc (b : MatJob) (k i : Nat) : Desc :=
  let d := match b with
    | .mm q => nth q.strm k
    | .conv q => nth q.ws k
  let c := b.ctl
  if c.ring then { d with data := d.data + 64 * (i % c.slots) * c.stride, scale := d.scale + 64 * (i % c.slots) * c.stride } else d

/-- Weight element of a contraction index for column `n` of a chunk that begins at column `n0` of the task (R90, R104,
R167). -/
def MatJob.wIdx (b : MatJob) (t : Tap) (n0 n : Nat) : Idx :=
  let c := b.ctl
  if c.ring then ⟨t.pos, n, 0, 0⟩
  else match b with
    | .mm _ => ⟨t.d0, c.n0 + n0 + n, 0, 0⟩
    | .conv _ => ⟨t.d0, c.n0 + n0 + n, t.kw, t.kh⟩

/-- Rows of a row group; of a gather task, the taken ones only (R90, R110). -/
def MatJob.rowsOf (b : MatJob) (taken : List Nat) (g : Nat) : List Nat :=
  let e := mEff b.ctl.mode
  (List.range (min e (b.rows - g * e))).filterMap (fun r =>
    let m := g * e + r
    if b.ctl.gather && !taken.contains m then none else some m)

/-- Columns of a chunk (R102). -/
def MatJob.cols (b : MatJob) (j : Nat) : Nat := min b.ctl.chunkN (b.ctl.nLen - j * b.ctl.chunkN)

/-- Arrays of a stream (R98): its first, and how many rows of 128 it spans. -/
def MatJob.array (b : MatJob) (k : Nat) : Nat :=
  match b.ctl.mode with
  | 0 => 0
  | 1 => 2 * k
  | _ => (bitList 4 b.ctl.arrays).getD k 0

/-- The banks of a chunk (R102). -/
def MatJob.banks (b : MatJob) (j : Nat) : List Nat := (List.range b.ctl.nb).map (fun x => (j * b.ctl.nb + x) % 4)

/-- The accumulator key of a stream's row and chunk column (R98, R102). -/
def MatJob.key (b : MatJob) (k j m n : Nat) : Nat :=
  let r := m % mEff b.ctl.mode
  (((b.array k + r / 128) * 4 + (j * b.ctl.nb + n / 256) % 4) * 128 + r % 128) * 256 + n % 256

/-- The output element of a row and a column of the task (R115, R166). -/
def MatJob.outIdx (b : MatJob) (o : OutSet) (m n : Nat) : Idx :=
  match b with
  | .mm _ => ⟨o.outN0 + n, o.outM0 + m, 0, 0⟩
  | .conv q => ⟨o.outN0 + n, o.outM0 + m / q.geo.oxLen * q.pitch + m % q.geo.oxLen, 0, 0⟩

/-- The array and the cell column of a stream's row (R98). -/
def MatJob.cellAt (b : MatJob) (k m : Nat) : Nat × Nat :=
  let r := m % mEff b.ctl.mode
  (b.array k + r / 128, r % 128)

/-- The body of an array-group task, parsed (R106, R164). -/
def EngRun.matJob (x : EngRun) : Option MatJob :=
  if x.t.hdr.kind = 0x01 then (parseMat x.t.body x.jb.tsBase x.jb.tsBytes).map MatJob.mm
  else if x.t.hdr.kind = 0x06 then (parseConv x.t.body x.jb.tsBase x.jb.tsBytes x.jb.cores).map MatJob.conv
  else none

end Sys2Proof.Machine
end

