-- ==== Sys2Proof/Machine/Tables.lean ====
section
/-! DEFINITION. Lookup tables of the vector engine (R143, R145): the firmware tables, user tables read from tile store, and
the lookup, reciprocal and reciprocal square root. -/
namespace Sys2Proof.Machine

/-- Slot 0, EXP2: round(2^29 × 2^(i/256)). -/
def tabExp2 : List Int :=
  [536870912, 538326517, 539786068, 541249576, 542717053, 544188508, 545663953, 547143398, 548626854, 550114332, 551605844, 553101399, 554601009, 556104685, 557612438, 559124278]
    ++ [560640218, 562160268, 563684439, 565212742, 566745190, 568281792, 569822560, 571367506, 572916640, 574469975, 576027521, 577589290, 579155293, 580725543, 582300049, 583878825]
    ++ [585461881, 587049229, 588640881, 590236848, 591837143, 593441776, 595050760, 596664106, 598281827, 599903933, 601530438, 603161352, 604796689, 606436459, 608080675, 609729349]
    ++ [611382493, 613040119, 614702239, 616368866, 618040012, 619715688, 621395908, 623080683, 624770026, 626463950, 628162466, 629865587, 631573326, 633285695, 635002706, 636724373]
    ++ [638450708, 640181724, 641917433, 643657847, 645402981, 647152846, 648907455, 650666822, 652430958, 654199878, 655973594, 657752119, 659535466, 661323648, 663116678, 664914570]
    ++ [666717336, 668524990, 670337545, 672155015, 673977412, 675804750, 677637043, 679474303, 681316545, 683163781, 685016026, 686873293, 688735596, 690602947, 692475362, 694352853]
    ++ [696235434, 698123120, 700015924, 701913860, 703816941, 705725183, 707638598, 709557200, 711481005, 713410026, 715344277, 717283772, 719228525, 721178552, 723133865, 725094480]
    ++ [727060411, 729031671, 731008277, 732990241, 734977579, 736970306, 738968435, 740971982, 742980960, 744995386, 747015274, 749040637, 751071493, 753107854, 755149737, 757197155]
    ++ [759250125, 761308661, 763372778, 765442492, 767517817, 769598769, 771685363, 773777614, 775875538, 777979150, 780088465, 782203500, 784324269, 786450787, 788583072, 790721137]
    ++ [792865000, 795014675, 797170178, 799331526, 801498734, 803671817, 805850792, 808035676, 810226483, 812423229, 814625932, 816834607, 819049271, 821269938, 823496627, 825729353]
    ++ [827968132, 830212982, 832463917, 834720956, 836984114, 839253408, 841528855, 843810471, 846098274, 848392279, 850692504, 852998965, 855311680, 857630665, 859955938, 862287515]
    ++ [864625413, 866969651, 869320244, 871677210, 874040567, 876410331, 878786521, 881169153, 883558244, 885953814, 888355878, 890764456, 893179563, 895601218, 898029440, 900464244]
    ++ [902905651, 905353676, 907808339, 910269657, 912737649, 915212331, 917693724, 920181844, 922676710, 925178340, 927686753, 930201967, 932724001, 935252872, 937788600, 940331203]
    ++ [942880699, 945437108, 948000448, 950570738, 953147997, 955732243, 958323496, 960921775, 963527098, 966139485, 968758955, 971385527, 974019220, 976660054, 979308048, 981963222]
    ++ [984625594, 987295185, 989972014, 992656100, 995347464, 998046124, 1000752102, 1003465416, 1006186087, 1008914134, 1011649578, 1014392438, 1017142735, 1019900489, 1022665720, 1025438448]
    ++ [1028218693, 1031006477, 1033801819, 1036604740, 1039415261, 1042233401, 1045059183, 1047892626, 1050733751, 1053582579, 1056439131, 1059303428, 1062175491, 1065055341, 1067942999, 1070838486]

/-- Slot 1, LOG2: round(2^30 × log₂(1 + i/256)). -/
def tabLog2 : List Int :=
  [0, 6039314, 12055174, 18047761, 24017256, 29963836, 35887675, 41788947, 47667823, 53524472, 59359063, 65171760, 70962728, 76732128, 82480119, 88206862]
    ++ [93912511, 99597222, 105261148, 110904440, 116527248, 122129721, 127712004, 133274244, 138816582, 144339162, 149842124, 155325606, 160789745, 166234679, 171660541, 177067464]
    ++ [182455581, 187825021, 193175914, 198508388, 203822568, 209118580, 214396548, 219656594, 224898839, 230123404, 235330407, 240519966, 245692198, 250847218, 255985140, 261106077]
    ++ [266210141, 271297442, 276368092, 281422197, 286459867, 291481207, 296486323, 301475319, 306448299, 311405366, 316346620, 321272163, 326182095, 331076513, 335955515, 340819199]
    ++ [345667660, 350500993, 355319292, 360122651, 364911162, 369684916, 374444004, 379188517, 383918542, 388634168, 393335482, 398022572, 402695523, 407354420, 411999347, 416630388]
    ++ [421247625, 425851141, 430441017, 435017334, 439580170, 444129607, 448665721, 453188592, 457698295, 462194908, 466678506, 471149164, 475606957, 480051959, 484484242, 488903880]
    ++ [493310944, 497705506, 502087636, 506457405, 510814882, 515160136, 519493235, 523814248, 528123241, 532420281, 536705435, 540978767, 545240343, 549490228, 553728485, 557955178]
    ++ [562170370, 566374123, 570566499, 574747559, 578917365, 583075977, 587223455, 591359858, 595485245, 599599675, 603703206, 607795895, 611877800, 615948977, 620009483, 624059373]
    ++ [628098702, 632127527, 636145900, 640153876, 644151509, 648138853, 652115959, 656082880, 660039669, 663986377, 667923055, 671849754, 675766525, 679673418, 683570481, 687457766]
    ++ [691335320, 695203192, 699061430, 702910083, 706749198, 710578822, 714399001, 718209783, 722011213, 725803337, 729586201, 733359850, 737124328, 740879680, 744625951, 748363183]
    ++ [752091421, 755810707, 759521085, 763222597, 766915285, 770599192, 774274358, 777940826, 781598637, 785247830, 788888448, 792520529, 796144114, 799759243, 803365955, 806964289]
    ++ [810554283, 814135978, 817709409, 821274617, 824831638, 828380510, 831921271, 835453956, 838978604, 842495250, 846003931, 849504683, 852997541, 856482542, 859959719, 863429109]
    ++ [866890747, 870344666, 873790901, 877229486, 880660455, 884083842, 887499680, 890908003, 894308843, 897702233, 901088206, 904466794, 907838029, 911201944, 914558569, 917907937]
    ++ [921250079, 924585025, 927912807, 931233456, 934547002, 937853475, 941152905, 944445323, 947730758, 951009239, 954280797, 957545460, 960803257, 964054218, 967298370, 970535742]
    ++ [973766362, 976990259, 980207461, 983417995, 986621888, 989819169, 993009864, 996194001, 999371606, 1002542707, 1005707329, 1008865499, 1012017244, 1015162589, 1018301561, 1021434185]
    ++ [1024560487, 1027680492, 1030794226, 1033901713, 1037002979, 1040098049, 1043186948, 1046269699, 1049346328, 1052416858, 1055481314, 1058539720, 1061592099, 1064638476, 1067678873, 1070713315]

/-- Slot 3, RSQRT: round(2^30 / √(1 + i/64)). -/
def tabRsqrt : List Int :=
  [1073741824, 1065450257, 1057347856, 1049427536, 1041682578, 1034106604, 1026693558, 1019437682, 1012333500, 1005375799, 998559613, 991880210, 985333074, 978913898, 972618566, 966443148]
    ++ [960383883, 954437177, 948599586, 942867814, 937238702, 931709222, 926276469, 920937655, 915690104, 910531246, 905458609, 900469818, 895562589, 890734723, 885984104, 881308694]
    ++ [876706528, 872175715, 867714429, 863320910, 858993459, 854730438, 850530263, 846391405, 842312387, 838291779, 834328203, 830420321, 826566842, 822766514, 819018128, 815320510]
    ++ [811672525, 808073073, 804521086, 801015531, 797555404, 794139734, 790767575, 787438013, 784150157, 780903145, 777696137, 774528319, 771398898, 768307107, 765252196, 762233438]
    ++ [759250125, 756301570, 753387102, 750506070, 747657839, 744841792, 742057327, 739303858, 736580814, 733887640, 731223792, 728588743, 725981977, 723402992, 720851298, 718326417]
    ++ [715827883, 713355240, 710908045, 708485864, 706088274, 703714861, 701365222, 699038963, 696735698, 694455052, 692196655, 689960150, 687745184, 685551414, 683378504, 681226125]
    ++ [679093957, 676981684, 674889000, 672815603, 670761200, 668725501, 666708225, 664709095, 662727842, 660764199, 658817909, 656888716, 654976372, 653080633, 651201261, 649338020]
    ++ [647490682, 645659022, 643842818, 642041856, 640255922, 638484810, 636728315, 634986237, 633258380, 631544551, 629844563, 628158229, 626485368, 624825801, 623179354, 621545853]
    ++ [619925131, 618317022, 616721362, 615137993, 613566757, 612007499, 610460069, 608924318, 607400100, 605887270, 604385689, 602895216, 601415717, 599947056, 598489102, 597041726]
    ++ [595604800, 594178200, 592761802, 591355485, 589959130, 588572620, 587195840, 585828677, 584471019, 583122756, 581783781, 580453988, 579133272, 577821530, 576518662, 575224566]
    ++ [573939147, 572662306, 571393950, 570133983, 568882316, 567638856, 566403514, 565176202, 563956835, 562745326, 561541591, 560345548, 559157115, 557976212, 556802759, 555636678]
    ++ [554477894, 553326329, 552181909, 551044561, 549914212, 548790791, 547674226, 546564450, 545461392, 544364986, 543275165, 542191864, 541115017, 540044561, 538980433, 537922570]
    ++ [536870912, 535825398, 534785969, 533752565, 532725129, 531703603, 530687931, 529678058, 528673928, 527675487, 526682682, 525695460, 524713768, 523737556, 522766772, 521801366]
    ++ [520841289, 519886492, 518936927, 517992546, 517053302, 516119149, 515190041, 514265932, 513346779, 512432536, 511523161, 510618610, 509718841, 508823812, 507933480, 507047807]
    ++ [506166750, 505290270, 504418328, 503550884, 502687899, 501829337, 500975159, 500125328, 499279807, 498438560, 497601550, 496768744, 495940105, 495115599, 494295191, 493478848]
    ++ [492666537, 491858224, 491053876, 490253462, 489456949, 488664306, 487875501, 487090503, 486309283, 485531810, 484758053, 483987985, 483221574, 482458793, 481699612, 480944005]

/-- Slot 4, SIGMOID: round(2^30 × σ((i − 128)/16)). -/
def tabSigmoid : List Int :=
  [360079, 383294, 408005, 434309, 462307, 492110, 523833, 557599, 593542, 631799, 672521, 715866, 762003, 811111, 863381, 919016]
    ++ [978234, 1041263, 1108350, 1179754, 1255752, 1336640, 1422732, 1514361, 1611882, 1715674, 1826137, 1943699, 2068816, 2201969, 2343674, 2494477]
    ++ [2654959, 2825738, 3007472, 3200860, 3406642, 3625610, 3858601, 4106508, 4370277, 4650915, 4949490, 5267139, 5605067, 5964555, 6346962, 6753731]
    ++ [7186394, 7646576, 8136001, 8656497, 9210005, 9798579, 10424397, 11089769, 11797140, 12549098, 13348383, 14197897, 15100705, 16060049, 17079358, 18162250]
    ++ [19312546, 20534278, 21831698, 23209287, 24671763, 26224093, 27871500, 29619471, 31473768, 33440433, 35525799, 37736491, 40079440, 42561879, 45191354, 47975719]
    ++ [50923144, 54042105, 57341389, 60830078, 64517549, 68413454, 72527707, 76870465, 81452101, 86283175, 91374404, 96736616, 102380708, 108317596, 114558153, 121113145]
    ++ [127993163, 135208539, 142769266, 150684901, 158964468, 167616357, 176648207, 186066794, 195877915, 206086260, 216695297, 227707145, 239122453, 250940290, 263158029, 275771251]
    ++ [288773652, 302156970, 315910921, 330023158, 344479249, 359262677, 374354864, 389735217, 405381206, 421268464, 437370908, 453660897, 470109403, 486686203, 503360103, 520099155]
    ++ [536870912, 553642669, 570381721, 587055621, 603632421, 620080927, 636370916, 652473360, 668360618, 684006607, 699386960, 714479147, 729262575, 743718666, 757830903, 771584854]
    ++ [784968172, 797970573, 810583795, 822801534, 834619371, 846034679, 857046527, 867655564, 877863909, 887675030, 897093617, 906125467, 914777356, 923056923, 930972558, 938533285]
    ++ [945748661, 952628679, 959183671, 965424228, 971361116, 977005208, 982367420, 987458649, 992289723, 996871359, 1001214117, 1005328370, 1009224275, 1012911746, 1016400435, 1019699719]
    ++ [1022818680, 1025766105, 1028550470, 1031179945, 1033662384, 1036005333, 1038216025, 1040301391, 1042268056, 1044122353, 1045870324, 1047517731, 1049070061, 1050532537, 1051910126, 1053207546]
    ++ [1054429278, 1055579574, 1056662466, 1057681775, 1058641119, 1059543927, 1060393441, 1061192726, 1061944684, 1062652055, 1063317427, 1063943245, 1064531819, 1065085327, 1065605823, 1066095248]
    ++ [1066555430, 1066988093, 1067394862, 1067777269, 1068136757, 1068474685, 1068792334, 1069090909, 1069371547, 1069635316, 1069883223, 1070116214, 1070335182, 1070540964, 1070734352, 1070916086]
    ++ [1071086865, 1071247347, 1071398150, 1071539855, 1071673008, 1071798125, 1071915687, 1072026150, 1072129942, 1072227463, 1072319092, 1072405184, 1072486072, 1072562070, 1072633474, 1072700561]
    ++ [1072763590, 1072822808, 1072878443, 1072930713, 1072979821, 1073025958, 1073069303, 1073110025, 1073148282, 1073184225, 1073217991, 1073249714, 1073279517, 1073307515, 1073333819, 1073358530]

/-- Slot 5, PHI: round(2^30 × Φ((i − 128)/16)). -/
def tabPhi : List Int :=
  [0, 0, 0, 0, 0, 0, 0, 0, 0, 0, 0, 0, 0, 0, 0, 0]
    ++ [0, 0, 0, 0, 0, 0, 0, 0, 0, 0, 0, 0, 0, 0, 0, 1]
    ++ [1, 2, 2, 3, 5, 7, 10, 14, 20, 29, 41, 58, 82, 114, 160, 222]
    ++ [308, 425, 584, 800, 1092, 1485, 2011, 2714, 3648, 4886, 6519, 8666, 11477, 15142, 19904, 26065]
    ++ [34007, 44203, 57244, 73856, 94937, 121584, 155135, 197214, 249784, 315203, 396295, 496424, 619576, 770455, 954584, 1178413]
    ++ [1449442, 1776346, 2169106, 2639151, 3199496, 3864885, 4651931, 5579248, 6667577, 7939899, 9421521, 11140149, 13125928, 15411440, 18031675, 21023950]
    ++ [24427768, 28284643, 32637845, 37532095, 43013192, 49127581, 55921848, 63442168, 71733686, 80839860, 90801753, 101657305, 113440581, 126181016, 139902672, 154623525]
    ++ [170354782, 187100277, 204855931, 223609305, 243339267, 264015774, 285599787, 308043324, 331289660, 355273669, 379922320, 405155305, 430885802, 457021362, 483464900, 510115769]
    ++ [536870912, 563626055, 590276924, 616720462, 642856022, 668586519, 693819504, 718468155, 742452164, 765698500, 788142037, 809726050, 830402557, 850132519, 868885893, 886641547]
    ++ [903387042, 919118299, 933839152, 947560808, 960301243, 972084519, 982940071, 992901964, 1002008138, 1010299656, 1017819976, 1024614243, 1030728632, 1036209729, 1041103979, 1045457181]
    ++ [1049314056, 1052717874, 1055710149, 1058330384, 1060615896, 1062601675, 1064320303, 1065801925, 1067074247, 1068162576, 1069089893, 1069876939, 1070542328, 1071102673, 1071572718, 1071965478]
    ++ [1072292382, 1072563411, 1072787240, 1072971369, 1073122248, 1073245400, 1073345529, 1073426621, 1073492040, 1073544610, 1073586689, 1073620240, 1073646887, 1073667968, 1073684580, 1073697621]
    ++ [1073707817, 1073715759, 1073721920, 1073726682, 1073730347, 1073733158, 1073735305, 1073736938, 1073738176, 1073739110, 1073739813, 1073740339, 1073740732, 1073741024, 1073741240, 1073741399]
    ++ [1073741516, 1073741602, 1073741664, 1073741710, 1073741742, 1073741766, 1073741783, 1073741795, 1073741804, 1073741810, 1073741814, 1073741817, 1073741819, 1073741821, 1073741822, 1073741822]
    ++ [1073741823, 1073741823, 1073741824, 1073741824, 1073741824, 1073741824, 1073741824, 1073741824, 1073741824, 1073741824, 1073741824, 1073741824, 1073741824, 1073741824, 1073741824, 1073741824]
    ++ [1073741824, 1073741824, 1073741824, 1073741824, 1073741824, 1073741824, 1073741824, 1073741824, 1073741824, 1073741824, 1073741824, 1073741824, 1073741824, 1073741824, 1073741824, 1073741824]

/-- Slot 2, RECIP: round(2^30 / (1 + i/256)). -/
def tabRecip : List Int := (List.range 256).map (fun i => ((2 * (2 ^ 38) + (256 + i)) / (2 * (256 + i)) : Nat))

/-- A lookup table (R143). -/
structure Table where
  inOff : Int
  shift : Nat
  endV : Int
  quiet : Bool
  entries : List Int
  deriving DecidableEq, Repr, Inhabited

/-- A value with the flags that forming it raised. -/
structure Flagged where
  v : Int
  sat : Bool
  lut : Bool
  dz : Bool
  deriving DecidableEq, Repr, Inhabited

/-- A firmware table by slot (table "Firmware tables"). -/
def fwTable : Nat → Option Table
  | 0 => some ⟨0, 8, 2 ^ 30, false, tabExp2⟩
  | 1 => some ⟨65536, 8, 2 ^ 30, false, tabLog2⟩
  | 2 => some ⟨65536, 8, 2 ^ 29, false, tabRecip⟩
  | 3 => some ⟨65536, 10, 480191942, false, tabRsqrt⟩
  | 4 => some ⟨-32768, 8, 1073381745, true, tabSigmoid⟩
  | 5 => some ⟨-32768, 8, 2 ^ 30, true, tabPhi⟩
  | _ => none

/-- Bytes of one entry by ENTRY_TYPE, and whether it is signed. -/
def entryKind : Nat → Nat × Bool
  | 0 => (4, true)
  | 1 => (2, true)
  | 2 => (2, false)
  | _ => (1, false)

/-- Bytes of a user table with its header, from the header. -/
def tableBytes (hdr : List Byte) : Nat := 64 + 256 * (entryKind (bits (fld hdr 0 4) 0 2)).1

/-- The value of an entry's bits. -/
def entryVal (k : Nat × Bool) (v : Nat) : Int := if k.2 then sgn (8 * k.1) v else (v : Int)

/-- A user table whose header meets its conditions (R143): reserved bits zero, IN_SHIFT at most 24, END_VALUE within the
entry type. -/
def parseTable (b : List Byte) : Option Table :=
  let w := fld b 0 4
  let k := entryKind (bits w 0 2)
  let e := sgn 32 (fld b 8 4)
  let lo : Int := if k.2 then typeMin (8 * k.1) else 0
  let hi : Int := if k.2 then typeMax (8 * k.1) else pow2 (8 * k.1) - 1
  if bits w 3 5 == 0 && bits w 13 19 == 0 && decide (bits w 8 5 ≤ 24) && decide (lo ≤ e ∧ e ≤ hi)
    && ((b.drop 0x0C).take 52).all (· == 0#8)
  then some ⟨sgn 32 (fld b 4 4), bits w 8 5, e, bit w 2,
    (List.range 256).map (fun i => entryVal k (fld b (64 + i * k.1) k.1))⟩
  else none

/-- sat32 with its flag (R141). -/
def satF (x : Int) : Flagged := ⟨sat32 x, narrowSat 32 x, false, false⟩

/-- lookup of R143. -/
def Table.lookup (t : Table) (x : Int) : Flagged :=
  let u := x - t.inOff
  if u < 0 then ⟨t.entries.getD 0 0, false, !t.quiet, false⟩
  else
    let i := (u / pow2 t.shift).toNat
    let f := u - i * pow2 t.shift
    if 255 < i then ⟨t.endV, false, !t.quiet, false⟩
    else
      let e := t.entries.getD i 0
      let nxt := if i < 255 then t.entries.getD (i + 1) 0 else t.endV
      satF (e + roundShift ((nxt - e) * f) t.shift 0 0)

/-- A lookup in a firmware slot. -/
def fwLookup (slot : Nat) (x : Int) : Flagged := ((fwTable slot).map (fun t => t.lookup x)).getD ⟨0, false, false, false⟩

/-- fit of R145. -/
def fit (t z : Int) : Int := roundShift t (-z) 0 0

/-- ⌊x × 2^n⌋ for any integer n. -/
def floorShift (x n : Int) : Int := if 0 ≤ n then x * pow2 n.toNat else x / pow2 (-n).toNat

/-- rcp of R145: 2^k / a. -/
def rcp (a : Int) (k : Nat) : Flagged :=
  if a = 0 then ⟨pow2 31 - 1, false, false, true⟩
  else
    let n := bitLen a.natAbs
    let y := fit (fwLookup 2 (floorShift a.natAbs (17 - (n : Int)))).v ((k : Int) - n - 29)
    satF (if a < 0 then -y else y)

/-- rsq of R145: 2^k / √a. -/
def rsq (a : Int) (k : Nat) : Flagged :=
  if a = 0 then ⟨pow2 31 - 1, false, false, true⟩
  else if a < 0 then ⟨0, false, true, false⟩
  else
    let j : Int := ((bitLen a.natAbs : Int) - 17) / 2
    satF (fit (fwLookup 3 (floorShift a (-2 * j))).v ((k : Int) - 38 - j))

end Sys2Proof.Machine
end

