-- ==== Sys2Proof/Machine/Vector.lean ====
section
/-! DEFINITION. Element programs and the reduction unit (06, R134–R154). -/
namespace Sys2Proof.Machine

/-- A stream's element as a lane takes it in (R139). -/
structure SVal where
  v : Int
  taint : Bool
  sat : Bool
  bnd : Bool
  deriving DecidableEq, Repr, Inhabited

/-- What one lane holds in one iteration (table "Lane resources"). -/
structure Lane where
  regs : List (Int × Bool)
  preds : List (Bool × Bool)
  la : Int
  sat : Bool
  psn : Bool
  lut : Bool
  dz : Bool
  isat : Bool
  bnd : Bool
  /-- streams that an active instruction has read -/
  used : List Nat
  deriving DecidableEq, Repr, Inhabited

/-- A real lane at the start of an iteration (R134): LA is carried. -/
def Lane.init (la : Int) : Lane :=
  ⟨List.replicate 16 (0, false), [(true, false), (false, false), (false, false), (false, false)], la,
    false, false, false, false, false, false, []⟩

/-- Read a source code in an active lane (R140, R141): a stream raises its flags. -/
def Lane.src (l : Lane) (ss : List SVal) (i0 c : Nat) : (Int × Bool) × Lane :=
  if c < 16 then (nth l.regs c, l)
  else if c = 22 then ((i0, false), l)
  else
    let v := nth ss (c - 16)
    ((v.v, v.taint), { l with
      sat := l.sat || v.sat, psn := l.psn || v.taint, bnd := l.bnd || v.bnd
      used := if l.used.contains (c - 16) then l.used else l.used ++ [c - 16] })

/-- Write a register. -/
def Lane.set (l : Lane) (d : Nat) (v : Int) (t : Bool) : Lane := { l with regs := setNth l.regs d (v, t) }

/-- Write a register from a flagged result. -/
def Lane.setF (l : Lane) (d : Nat) (r : Flagged) (t : Bool) : Lane :=
  { l.set d r.v t with sat := l.sat || r.sat, lut := l.lut || r.lut, dz := l.dz || r.dz }

/-- Write a predicate. -/
def Lane.setP (l : Lane) (d : Nat) (v t : Bool) : Lane := { l with preds := setNth l.preds d (v, t) }

/-- The lane flag word (R134). -/
def Lane.flags (l : Lane) : Int := b2n l.sat + 2 * b2n l.psn + 4 * b2n l.lut + 8 * b2n l.dz + 16 * b2n l.isat

/-- `b` clamped to a range, as a count. -/
def clampN (lo hi : Nat) (b : Int) : Nat := if b < lo then lo else if b > hi then hi else b.toNat

/-- A value outside the 32-bit range wraps to its low 32 bits (MULL, bitwise operations). -/
def wrap32 (x : Int) : Int := sgn 32 (unsgn 32 x)

/-- A bitwise operation on 32 bits. -/
def bitwise32 (f : Nat → Nat → Nat) (a b : Int) : Int := sgn 32 (f (unsgn 32 a) (unsgn 32 b))

/-- The result of an instruction on sources a, b and c (table "Instructions") where it writes a register from them alone:
`n` is SRC_C as a count, `u` the random word. -/
def aluOp (op : Nat) (a b c : Int) (n mode u : Nat) : Flagged :=
  let ok (v : Int) : Flagged := ⟨v, false, false, false⟩
  if op = 0x01 then ok a
  else if op = 0x02 then satF (a + b)
  else if op = 0x03 then satF (a - b)
  else if op = 0x04 then satF (a * b)
  else if op = 0x05 then ok (wrap32 (a * b))
  else if op = 0x06 then ok (a * b / pow2 32)
  else if op = 0x07 then satF (roundShift (a * b) n mode u)
  else if op = 0x08 then satF (a * pow2 (clampN 0 31 b))
  else if op = 0x09 then ok (a / pow2 (clampN 0 31 b))
  else if op = 0x0A then ok (sgn 32 (unsgn 32 a / 2 ^ clampN 0 31 b))
  else if op = 0x0B then ok (roundShift a (clampN 0 32 b) mode u)
  else if op = 0x0C then ok (min a b)
  else if op = 0x0D then ok (max a b)
  else if op = 0x0E then ok (min (max a b) c)
  else if op = 0x0F then satF (if a < 0 then -a else a)
  else if op = 0x10 then satF (-a)
  else if op = 0x11 then ok (bitwise32 (· &&& ·) a b)
  else if op = 0x12 then ok (bitwise32 (· ||| ·) a b)
  else if op = 0x13 then ok (bitwise32 (· ^^^ ·) a b)
  else if op = 0x14 then ok (-a - 1)
  else if op = 0x15 then ok (32 - (bitLen (unsgn 32 a) : Int))
  else if op = 0x16 then
    let w := clampN 1 32 b
    ⟨narrow w a, narrowSat w a, false, false⟩
  else if op = 0x22 then rcp a (clampN 0 62 b)
  else rsq a (clampN 0 62 b)

/-- A compare (0x18–0x1D). -/
def cmpOp (op : Nat) (a b : Int) : Bool :=
  if op = 0x18 then a == b
  else if op = 0x19 then a != b
  else if op = 0x1A then decide (a < b)
  else if op = 0x1B then decide (a ≤ b)
  else if op = 0x1C then decide (b < a)
  else decide (b ≤ a)

/-- What a program needs to know of its lane: streams, dimension-0 index, tables of slots 8 … 15, and the random word of
an instruction index. -/
structure LaneEnv where
  ss : List SVal
  i0 : Nat
  tabs : List (Option Table)
  rnd : Nat → Nat

/-- The table of a slot. -/
def LaneEnv.table (e : LaneEnv) (slot : Nat) : Option Table := if slot < 8 then fwTable slot else (e.tabs[slot - 8]?).join

/-- One instruction in one real lane (R141–R146). -/
def Lane.step (l : Lane) (e : LaneEnv) (x : Nat) (i : EIns) : Lane :=
  let g := nth l.preds i.guard
  if g.1 == i.gneg then l
  else
    let u := if i.rmode = 2 then e.rnd x else 0
    let pa := nth l.preds i.a
    let pb := nth l.preds i.b
    if i.op = 0x00 then l
    else if i.op = 0x1E then l.setP i.dst (pa.1 && pb.1) (pa.2 || pb.2 || g.2)
    else if i.op = 0x1F then l.setP i.dst (pa.1 || pb.1) (pa.2 || pb.2 || g.2)
    else if i.op = 0x20 then l.setP i.dst (!pa.1) (pa.2 || g.2)
    else if i.op = 0x25 then { l with la := 0 }
    else if i.op = 0x27 then l.set i.dst l.flags g.2
    else if i.op = 0x26 then
      let b := if i.immB then ((i.imm, false), l) else l.src e.ss e.i0 i.b
      let l1 := b.2
      let t := b.1.2 || g.2
      if l1.la = accPoison then l1.set i.dst 0 true
      else if l1.la = accPos then { l1.set i.dst (typeMax 32) t with sat := true }
      else if l1.la = accNeg then { l1.set i.dst (typeMin 32) t with sat := true }
      else l1.setF i.dst (satF (roundShift l1.la (clampN 0 47 b.1.1) i.rmode u)) t
    else
      let a := l.src e.ss e.i0 i.a
      if i.op = 0x21 then
        match e.table i.c with
        | some t => a.2.setF i.dst (t.lookup a.1.1) (a.1.2 || g.2)
        | none => a.2
      else
        let one := i.op == 0x01 || i.op == 0x0F || i.op == 0x10 || i.op == 0x14 || i.op == 0x15
        let b := if one then ((0, false), a.2) else if i.immB then ((i.imm, false), a.2) else a.2.src e.ss e.i0 i.b
        let t := a.1.2 || b.1.2 || g.2
        if i.op = 0x17 then
          let p := nth l.preds i.c
          b.2.set i.dst (if p.1 then a.1.1 else b.1.1) (t || p.2)
        else if 0x18 ≤ i.op ∧ i.op ≤ 0x1D then b.2.setP i.dst (cmpOp i.op a.1.1 b.1.1) t
        else if i.op = 0x24 then
          let m := if t then accPoison else accCode (a.1.1 * b.1.1)
          { b.2 with la := accAdd b.2.la m, isat := b.2.isat || accAddIsat b.2.la m }
        else
          let c := if i.op = 0x0E then b.2.src e.ss e.i0 i.c else ((0, false), b.2)
          c.2.setF i.dst (aluOp i.op a.1.1 b.1.1 c.1.1 i.c i.rmode u) (t || c.1.2)

/-- A whole program in one real lane. -/
def Lane.run (l : Lane) (e : LaneEnv) : Nat → List EIns → Lane
  | _, [] => l
  | x, i :: r => (l.step e x i).run e (x + 1) r

/-- Lane groups of an iteration space (R135). -/
def Idx.groups (it : Idx) : Nat := cdiv it.i0 32 * it.i1 * it.i2 * it.i3

/-- Iterations of an element program. -/
def ElemBody.iters (b : ElemBody) : Nat := cdiv b.iter.groups 16

/-- The first iteration index of group `g` (R135). -/
def Idx.groupAt (it : Idx) (g : Nat) : Idx :=
  let n := cdiv it.i0 32
  let r := g / n
  ⟨32 * (g % n), r % it.i1, r / it.i1 % it.i2, r / it.i1 / it.i2⟩

/-- Lane number, group and index of every real lane of iteration `n` (R135). -/
def Idx.lanes (it : Idx) (n : Nat) : List (Nat × Nat × Idx) :=
  (List.range 16).flatMap (fun k =>
    let g := 16 * n + k
    if g < it.groups then
      let i := it.groupAt g
      (List.range 32).filterMap (fun j => if i.i0 + j < it.i0 then some (32 * k + j, g, { i with i0 := i.i0 + j }) else none)
    else [])

/-- Linear index of a lane in the iteration space (R142). -/
def Idx.linIn (it i : Idx) : Nat := i.i0 + it.i0 * (i.i1 + it.i1 * (i.i2 + it.i2 * i.i3))

/-- The element index of a stream at an iteration index. -/
def streamIdx (p : StreamU × Desc) (i : Idx) : Idx := p.2.unlin (p.1.lin i).toNat

/-- A stream's element aligned to its working exponent (R139). -/
def alignStream (p : StreamU × Desc) (work bound : Int) (v : Val) : SVal :=
  if v.pois then ⟨v.q, true, false, false⟩
  else
    let a := align v.q v.e work 0 0
    ⟨sat32 a, false, narrowSat 32 a, p.1.feMode && decide (v.e > bound)⟩

/-- A lane after its program, with its number, group, index and streams. -/
structure LaneRun where
  n : Nat
  g : Nat
  i : Idx
  ss : List SVal
  l : Lane
  deriving DecidableEq, Repr, Inhabited

/-- All real lanes of iteration `n` after the program, from given lane accumulators (R135, R138–R146). -/
def runLanesOn (la : NMap Int) (s : State) (f : Faults) (x : EngRun) (b : ElemBody) (e : ElemSt) (n : Nat) : List LaneRun :=
  let tabs := e.tabs.map parseTable
  (b.iter.lanes n).map (fun (k, g, i) =>
    let ss := (b.ins.zip (e.works.zip e.bounds)).map (fun p =>
      alignStream p.1 p.2.1 p.2.2 (readVal s f x.pt x.core p.1.2 (streamIdx p.1 i)))
    let env : LaneEnv := ⟨ss, i.i0, tabs, fun q => rstoInstr x.jb.seed x.step x.id q (b.iter.linIn i)⟩
    ⟨k, g, i, ss, (Lane.init (mgetD la k 0)).run env 0 b.prog⟩)

/-- The same with the core's lane accumulators. -/
def runLanes (s : State) (f : Faults) (x : EngRun) (b : ElemBody) (e : ElemSt) (n : Nat) : List LaneRun :=
  runLanesOn (s.core x.core).la s f x b e n

/-- The lines that lanes read: streams that an active instruction or a reduction used, and every digest point. -/
def laneLines (x : EngRun) (b : ElemBody) (ls : List LaneRun) : List Nat :=
  let dig := (b.reds.filter (fun p => p.1.mode == 6)).map (fun p => p.1.src - 16)
  ls.flatMap (fun r => (dedup (r.l.used ++ dig)).flatMap (fun k =>
    match b.ins[k]? with
    | some p => let i := streamIdx p r.i; if p.2.real i then Desc.linesAt x.pt x.core p.2 i else []
    | none => []))

/-- The segment of an index (R150). -/
def RedU.seg (r : RedU) (it i : Idx) : Nat := if r.rows then i.i1 + it.i1 * (i.i2 + it.i2 * i.i3) else 0

/-- Segments of a reduction. -/
def RedU.segs (r : RedU) (it : Idx) : Nat := if r.rows then it.i1 * it.i2 * it.i3 else 1

/-- An empty segment (table "Reduction modes"). -/
def RedU.empty (r : RedU) : SegSt :=
  ⟨if r.mode = 2 then typeMin 32 else if r.mode = 3 then typeMax 32 else 0, -1, false, false, false⟩

/-- A segment takes one value (R149, R150). -/
def RedU.takeVal (r : RedU) (sg : SegSt) (v : Int) (taint : Bool) (idx : Int) : SegSt :=
  let s1 := { sg with taint := sg.taint || taint, seen := true }
  match r.mode with
  | 0 => let a := sumClamp (sg.v, sg.clamp) v; { s1 with v := a.1, clamp := a.2 }
  | 1 => let a := sumClamp (sg.v, sg.clamp) (v * v); { s1 with v := a.1, clamp := a.2 }
  | 2 => { s1 with v := max sg.v v }
  | 3 => { s1 with v := min sg.v v }
  | 4 => if !sg.seen || decide (v > sg.v) then { s1 with v := v, i := idx } else s1
  | _ => { s1 with v := max sg.v v.natAbs }

/-- What a finished segment holds. -/
def RedU.result (r : RedU) (sg : SegSt) : Int := if r.mode = 4 then sg.i else sg.v

/-- The exponent of a reduction's result (table "Reduction modes"). -/
def RedU.resExp (r : RedU) (works : List Int) : Int :=
  let e := r.exp + (if r.expMode then works.getD r.expStream 0 else 0)
  if r.mode = 1 then 2 * e else if r.mode = 4 then 0 else e

/-- A reduction's partials after an iteration, the lanes with the flags that reading its source raised, and whether a sum
was clamped anew. -/
def RedU.fold (r : RedU) (it : Idx) (m : NMap SegSt) (ls : List LaneRun) : NMap SegSt × List LaneRun :=
  ls.foldl (fun (a : NMap SegSt × List LaneRun) q =>
    if (nth q.l.preds r.guard).1 then
      let v := q.l.src q.ss q.i.i0 r.src
      let k := r.seg it q.i
      let idx : Int := if r.rows then q.i.i0 else it.linIn q.i
      let sg := mgetD a.1 k r.empty
      let sg2 := r.takeVal sg v.1.1 v.1.2 idx
      (mset a.1 k sg2, a.2 ++ [{ q with l := { v.2 with isat := v.2.isat || (sg2.clamp && !sg.clamp) } }])
    else (a.1, a.2 ++ [q])) (m, [])

/-- The digest terms of an iteration (R151). -/
def digestOf (s : State) (f : Faults) (x : EngRun) (p : StreamU × Desc) (ls : List LaneRun) : Nat :=
  ls.foldl (fun (a : Nat) q =>
    let i := streamIdx p q.i
    if p.2.real i then
      let v := readVal s f x.pt x.core p.2 i
      let own := ((p.2.dev x.pt x.core (p.2.dataAt (p.2.lin i))).map (fun z => badLine s f (lineOf z))).getD false
        || (p.2.ty.scaled && ((p.2.dev x.pt x.core (p.2.scaleAt i)).map (fun z => badLine s f (lineOf z))).getD false)
      (a + digestTerm (p.2.lin i) (if own then 0 else v.code) (if own then 0x80 else v.sb)) % 2 ^ 64
    else a) 0

/-- A digest reads a poisoned block or an uncorrectable line (R42, R154, R406). -/
def digestPois (s : State) (f : Faults) (x : EngRun) (p : StreamU × Desc) (ls : List LaneRun) : Bool :=
  ls.any (fun q => (readVal s f x.pt x.core p.2 (streamIdx p q.i)).pois)

/-- One output's blocks of an iteration (R148). -/
def writeOut (s : State) (x : EngRun) (e : ElemSt) (ls : List LaneRun) (n : Nat) (p : VOut × Desc) (a : Writes × OutSum) :
    Writes × OutSum :=
  let ex := p.1.resExp + (if p.1.resMode then e.works.getD p.1.resStream 0 else 0)
  (List.range 16).foldl (fun (w : Writes × OutSum) k =>
    let g := ls.filter (fun q => q.g == 16 * n + k)
    let cells := g.map (fun q => (q.i, Cell.val (nth q.l.regs p.1.src).1 (x.rand p.2 q.i)))
    putBlock s x.pt x.core p.2 ⟨p.1.auto, p.1.given⟩ ex (g.any (fun q => (nth q.l.regs p.1.src).2)) cells w) a

/-- Every group of a segment lies below `done` groups. -/
def segDone (r : RedU) (it : Idx) (done k : Nat) : Bool :=
  if r.rows then decide ((k + 1) * cdiv it.i0 32 ≤ done) else decide (it.groups ≤ done)

/-- Segment numbers of the result blocks that complete between `before` and `done` groups (R150). -/
def redBlocks (r : RedU) (d : Desc) (it : Idx) (before done : Nat) : List (List Nat) :=
  let segs := r.segs it
  let blks := if d.blk = 0 then [List.range segs] else chunksOf d.blk (List.range segs)
  blks.filter (fun b => b.all (segDone r it done) && !b.all (segDone r it before))

/-- Write a reduction's completed blocks: writes, blocks poisoned, a block saturated. -/
def writeRed (s : State) (x : EngRun) (e : ElemSt) (r : RedU) (d : Desc) (m : NMap SegSt) (bs : List (List Nat))
    (a : Writes × OutSum) : Writes × OutSum :=
  bs.foldl (fun (w : Writes × OutSum) b =>
    let sg (k : Nat) := mgetD m k r.empty
    putBlock s x.pt x.core d ⟨r.auto, r.given⟩ (r.resExp e.works) (b.any (fun k => (sg k).taint))
      (b.map (fun k => (⟨k, 0, 0, 0⟩, Cell.val (r.result (sg k)) (x.rand d ⟨k, 0, 0, 0⟩)))) w) a

/-- An element task's state before its first iteration. -/
def ElemSt.init : ElemSt :=
  ⟨true, 0, [], [], false, false, false, false, false, false, .init, .init, [], [], 0, 0, 0, []⟩

/-- A dense stream over exactly an output's tensor (R148). -/
def inPlace (it : Idx) (p : StreamU × Desc) (o : Desc) : Bool :=
  p.2.same o && p.1.base == 0
    && (it.i0 == 1 || p.1.s0 == 1)
    && (it.i1 == 1 || p.1.s1 == o.pad 0)
    && (it.i2 == 1 || p.1.s2 == o.pad 0 * o.pad 1)
    && (it.i3 == 1 || p.1.s3 == o.pad 0 * o.pad 1 * o.pad 2)

/-- Tile-store ranges of the outputs whose bytes the manual leaves undefined (R148). -/
def ElemBody.undef (b : ElemBody) (tabBytes : List Nat) : List (Nat × Nat) :=
  let outs := b.outs.map Prod.snd
  let tabs := b.tabs.zip tabBytes
  (outs.zipIdx).flatMap (fun (o, k) =>
    b.ins.flatMap (fun p => if inPlace b.iter p o then [] else overlaps o.planes p.2.planes)
      ++ overlaps o.planes tabs
      ++ ((outs.zipIdx).filter (fun q => q.2 != k)).flatMap (fun q => overlaps o.planes q.1.planes))

/-- Working exponents and bounds of the streams (R139); the address of a record that cannot be reached otherwise. -/
def formBounds (s : State) (pt : NMap Nat) : List StreamU → Except Nat (List (Int × Int))
  | [] => .ok []
  | u :: r =>
    if u.feMode then
      match s.boundOf pt u.bAddr u.bCount 0 with
      | .error a => .error a
      | .ok b => (formBounds s pt r).map (fun l => (b + u.fe, b) :: l)
    else (formBounds s pt r).map (fun l => (u.fe, 0) :: l)

/-- Tables in tile store with their lines (R143): 64-byte headers and entries. -/
def rawTables (s : State) (core : Nat) (offs : List Nat) : List (List Byte) :=
  offs.map (fun o => s.bytes (tileAt core + o) (tableBytes (s.bytes (tileAt core + o) 64)))
def tableLines (core : Nat) (offs : List Nat) (raw : List (List Byte)) : List Nat :=
  dedup ((offs.zip raw).flatMap (fun p => linesOf (tileAt core + p.1) p.2.length))

/-- Every header keeps its conditions, and every table lies below the end of the job's range (R143). -/
def tablesOk (lim : Nat) (offs : List Nat) (raw : List (List Byte)) : Bool :=
  raw.all (fun b => (parseTable b).isSome) && (offs.zip raw).all (fun p => decide (p.1 + p.2.length ≤ lim))

/-- Load the user tables (R143): at every leg, before its first iteration; `put` keeps what was loaded. -/
def State.withTables (s : State) (x : EngRun) (f : Faults) (offs : List Nat) (put : List (List Byte) → Eng) : State :=
  let raw := rawTables s x.core offs
  let s1 := s.ctlMeet x.j x.t f (tableLines x.core offs raw)
  if !s1.sound x then s1
  else if !tablesOk (x.jb.tsBase + x.jb.tsBytes) offs raw then s1.badBody x
  else s1.setEng x (put raw)

/-- An element program's tables. -/
def State.loadTables (s : State) (x : EngRun) (f : Faults) (offs : List Nat) (e : ElemSt) : State :=
  s.withTables x f offs (fun raw => .elem { e with tabs := raw })

/-- The lane accumulators of a core become 0 (R134). -/
def State.clearLa (s : State) (core : Nat) : State := s.setCore core { s.core core with la := [] }

/-- Lines of the bound records that streams name. -/
def streamRecs (pt : NMap Nat) (l : List StreamU) : List Nat :=
  l.flatMap (fun u => if u.feMode then jobLines pt u.bAddr (64 * u.bCount) else [])

/-- The first leg of an element program: the checks of R38, R152, R131, the working exponents of R139. -/
def State.elemBegin (s : State) (x : EngRun) (f : Faults) : State :=
  match parseElem x.t.body x.jb.tsBase x.jb.tsBytes with
  | none => s.badBody x
  | some b =>
    match s.badMaxe x (b.outs.map (fun p => p.1.maxe)) with
    | some a => s.badAddr x a
    | none => match formBounds s x.pt (b.ins.map Prod.fst) with
      | .error a => s.badAddr x a
      | .ok wb =>
        let s1 := (s.clearLa x.core).ctlMeet x.j x.t f (streamRecs x.pt (b.ins.map Prod.fst))
        if !s1.sound x then s1
        else s1.loadTables x f b.tabs { ElemSt.init with works := wb.map Prod.fst, bounds := wb.map Prod.snd }

/-- A later leg of an element program loads its tables anew (R143). -/
def State.elemResume (s : State) (x : EngRun) (f : Faults) (e : ElemSt) : State :=
  match parseElem x.t.body x.jb.tsBase x.jb.tsBytes with
  | none => s
  | some b => s.loadTables x f b.tabs e

/-- The flags of an iteration's lanes join the task's (R142). -/
def ElemSt.flagsOf (e : ElemSt) (ls : List LaneRun) : ElemSt :=
  { e with
    sat := e.sat || ls.any (fun q => q.l.sat)
    isat := e.isat || ls.any (fun q => q.l.isat)
    psn := e.psn || ls.any (fun q => q.l.psn)
    bnd := e.bnd || ls.any (fun q => q.l.bnd)
    lut := e.lut || ls.any (fun q => q.l.lut)
    dz := e.dz || ls.any (fun q => q.l.dz) }

/-- The lanes' accumulators after an iteration. -/
def laAfter (la : NMap Int) (ls : List LaneRun) : NMap Int :=
  ls.foldl (fun (m : NMap Int) q => if q.l.la = 0 then merase m q.n else mset m q.n q.l.la) la

/-- One reduction's part of an iteration: state, writes and lanes. -/
def redStep (s : State) (f : Faults) (x : EngRun) (b : ElemBody) (n : Nat) (a : ElemSt × Writes × List LaneRun)
    (k : Nat) (p : RedU × Option Desc) : ElemSt × Writes × List LaneRun :=
  let e := a.1
  if p.1.mode = 6 then
    match b.ins[p.1.src - 16]? with
    | none => a
    | some q =>
      let d := digestOf s f x q a.2.2
      let first := k = 0 || !(b.reds.headD (p.1, none)).1.mode == 6
      let e1 := { e with psn := e.psn || digestPois s f x q a.2.2 }
      (if first then { e1 with dig0 := (e.dig0 + d) % 2 ^ 64 } else { e1 with dig1 := (e.dig1 + d) % 2 ^ 64 }, a.2.1, a.2.2)
  else match p.2 with
    | none => a
    | some d =>
      let m := p.1.fold b.iter (if k = 0 then e.red0 else e.red1) a.2.2
      let bs := redBlocks p.1 d b.iter (16 * n) (16 * (n + 1))
      let w := writeRed s x e p.1 d m.1 bs (a.2.1, .init)
      let left := m.1.filter (fun q => !bs.any (fun l => l.contains q.1))
      let e1 := { e with segPoisoned := e.segPoisoned + w.2.poisoned, sat := e.sat || w.2.sat }
      (if k = 0 then { e1 with red0 := left } else { e1 with red1 := left }, w.1, m.2)

/-- One iteration of an element program (R135–R151, R154, R410); the last one writes the bound records (R131) and ends the
work. -/
def State.elemIterate (s : State) (x : EngRun) (f : Faults) : State :=
  match parseElem x.t.body x.jb.tsBase x.jb.tsBytes, x.t.eng with
  | some b, .elem e =>
    let n := e.iter
    if b.iters ≤ n then s
    else
      let ls := runLanes s f x b e n
      let r0 := ((b.reds.zipIdx).foldl (fun a q => redStep s f x b n a q.2 q.1) (e, ([] : Writes), ls))
      let s1 := s.readMeet x f (laneLines x b r0.2.2)
      let w0 := match b.outs[0]? with
        | some p => writeOut s x e ls n p (r0.2.1, e.o0)
        | none => (r0.2.1, e.o0)
      let w1 := match b.outs[1]? with
        | some p => writeOut s x e ls n p (w0.1, e.o1)
        | none => (w0.1, e.o1)
      let e1 := { r0.1.flagsOf r0.2.2 with
        iter := n + 1, o0 := w0.2, o1 := w1.2
        sat := (r0.1.flagsOf r0.2.2).sat || w0.2.sat || w1.2.sat }
      let fr := s1.freeIn (tileAt x.core) (b.undef (e.tabs.map List.length)) w1.1
      let s2 := fr.1.engWrite x f fr.2
      let s3 := s2.setCore x.core { s2.core x.core with la := laAfter (s2.core x.core).la ls }
      let last := decide (n + 1 = b.iters)
      let s4 := s3.modEng x (fun t => { t with eng := .elem e1, progress := some n, finished := last })
      if last then
        let s5 := match b.outs[0]? with
          | some p => s4.writeBound x p.1.maxe e1.o0.maxByte
          | none => s4
        match b.outs[1]? with
        | some p => s5.writeBound x p.1.maxe e1.o1.maxByte
        | none => s5
      else s4
  | _, _ => s

end Sys2Proof.Machine
end

