-- ==== Sys2Proof/Machine/TapSweep.lean ====
section
/-! DEFINITION. Tap sweeps (06, R155–R157; 07, R161–R163, R172). -/
namespace Sys2Proof.Machine

/-- The geometry of a tap sweep. -/
def TapBody.geo (b : TapBody) : Geo :=
  ⟨b.kh, b.kw, b.sh, b.sw, b.dh, b.dw, b.padT, b.padB, b.padL, b.padR, b.x.dim1, b.iyBase + b.x.dim2, b.iyBase,
    b.oy0, b.oyLen, b.ox0, b.oxLen⟩

/-- Column chunks, channel blocks and iterations (R157). -/
def TapBody.cols (b : TapBody) : Nat := cdiv b.oxLen 16
def TapBody.chans (b : TapBody) : Nat := cdiv b.cLen 32
def TapBody.iters (b : TapBody) : Nat := b.oyLen * b.cols * b.chans

/-- The outputs of iteration `n`: row, columns, channels; channel blocks innermost, then column chunks, then rows. -/
def TapBody.outsAt (b : TapBody) (n : Nat) : List (List Idx) :=
  let c := n % b.chans
  let x := n / b.chans % b.cols
  let y := n / b.chans / b.cols
  (List.range 16).filterMap (fun k =>
    if x * 16 + k < b.oxLen then
      some ((List.range 32).filterMap (fun j =>
        if c * 32 + j < b.cLen then some ⟨b.c0 + c * 32 + j, b.ox0 + x * 16 + k, b.oy0 + y, 0⟩ else none))
    else none)

/-- The taps (kh, kw, ci) of one output: kh outer, ci inner. -/
def TapBody.taps (b : TapBody) : List (Nat × Nat × Nat) :=
  (List.range b.kh).flatMap (fun kh => (List.range b.kw).flatMap (fun kw => (List.range b.cinPg).map (fun ci => (kh, kw, ci))))

/-- The input element of a tap and its weight element; no input element in padding. -/
def TapBody.operands (b : TapBody) (o : Idx) (t : Nat × Nat × Nat) : Option Idx × Idx :=
  let ix := b.geo.ix o.i1 t.2.1
  let iy := b.geo.iy o.i2 t.1
  let cin := o.i0 / b.coutPg * b.cinPg + t.2.2
  (if b.geo.inside ix iy then some ⟨cin, ix.toNat, (iy - b.iyBase).toNat, 0⟩ else none, ⟨o.i0, t.2.2, t.2.1, t.1⟩)

/-- A tap that is not skipped: padding of value 0 is (R172). -/
def TapBody.live (b : TapBody) (p : Option Idx × Idx) : Bool := p.1.isSome || b.padV != 0

/-- LA of one output with its flags: PSN and ISAT (R156). -/
def tapSum (s : State) (f : Faults) (x : EngRun) (b : TapBody) (o : Idx) : Int × Bool × Bool :=
  b.taps.foldl (fun (a : Int × Bool × Bool) t =>
    let p := b.operands o t
    if !b.live p then a
    else
      let xv : Val := match p.1 with
        | some i => readVal s f x.pt x.core b.x i
        | none => ⟨b.padV, b.padE, false, 0, 0, false⟩
      let wv := readVal s f x.pt x.core b.w p.2
      let bad := xv.pois || wv.pois
      let m := if bad then accPoison else accCode (align (xv.q * wv.q) (xv.e + wv.e) b.sTap 0 0)
      (accAdd a.1 m, a.2.1 || bad, a.2.2 || accAddIsat a.1 m)) (0, false, false)

/-- The lines that one output's taps read. -/
def tapLines (x : EngRun) (b : TapBody) (o : Idx) : List Nat :=
  b.taps.flatMap (fun t =>
    let p := b.operands o t
    if !b.live p then []
    else ((p.1.map (Desc.linesAt x.pt x.core b.x)).getD []) ++ Desc.linesAt x.pt x.core b.w p.2)

/-- LA as a cell of the output unit: marks stay marks (R127, R146). -/
def accCell (a : Int) (u : Nat) : Cell :=
  if a = accPoison then .poison else if a = accPos then .hi else if a = accNeg then .lo else .val a u

/-- The first leg of a tap sweep (R38, R155, R156, R163): an empty task writes its bound record and has no iteration. DESIGN CHOICE
(log 68): with C_LEN = 0 and a geometry that is not empty there is no iteration either, and the task ends with ST_OK. -/
def State.tapBegin (s : State) (x : EngRun) : State :=
  match parseTap x.t.body x.jb.tsBase x.jb.tsBytes with
  | none => s.badBody x
  | some b =>
    match s.badMaxe x [b.o.maxe] with
    | some a => s.badAddr x a
    | none =>
      let e := { ElemSt.init with works := [b.sTap] }
      if b.geo.empty then
        (s.modEng x (fun t => { t with eng := .elem e, empty := true, finished := true })).writeBound x b.o.maxe 0x81
      else if !b.geo.inRange || b.geo.rowMissing || decide (b.out.dim1 < b.ox0 + b.oxLen ∨ b.out.dim2 < b.oy0 + b.oyLen
          ∨ b.out.dim0 < b.c0 + b.cLen) then s.badBody x
      else
        let s1 := s.modEng x (fun t => { t with eng := .elem e, finished := decide (b.iters = 0) })
        if b.iters = 0 then s1.writeBound x b.o.maxe 0x81 else s1

/-- One iteration of a tap sweep (R156, R157); the last one writes the bound record. -/
def State.tapIterate (s : State) (x : EngRun) (f : Faults) : State :=
  match parseTap x.t.body x.jb.tsBase x.jb.tsBytes, x.t.eng with
  | some b, .elem e =>
    let n := e.iter
    if b.iters ≤ n then s
    else
      let outs := b.outsAt n
      let s1 := s.readMeet x f (outs.flatten.flatMap (tapLines x b))
      let sums := outs.map (fun l => l.map (fun o => (o, tapSum s f x b o)))
      let w := sums.foldl (fun (a : Writes × OutSum) l =>
        putBlock s x.pt x.core b.out ⟨b.o.auto, b.o.given⟩ b.sTap false
          (l.map (fun p => (p.1, accCell p.2.1 (x.rand b.out p.1)))) a) (([] : Writes), e.o0)
      let e1 := { e with
        iter := n + 1, o0 := w.2
        sat := e.sat || w.2.sat || sums.flatten.any (fun p => p.2.2.2)
        isat := e.isat || sums.flatten.any (fun p => p.2.2.2)
        psn := e.psn || sums.flatten.any (fun p => p.2.2.1) }
      let fr := s1.freeIn (tileAt x.core) (overlaps b.out.planes (b.x.planes ++ b.w.planes)) w.1
      let s2 := fr.1.engWrite x f fr.2
      let last := decide (n + 1 = b.iters)
      let s3 := s2.modEng x (fun t => { t with eng := .elem e1, progress := some n, finished := last })
      if last then s3.writeBound x b.o.maxe e1.o0.maxByte else s3
  | _, _ => s

/-- TAP_SWEEP_ITERATION: one iteration of the tap sweep that runs on a core's vector group. -/
def execTapSweepIteration (core : BitVec 7) (f : Faults) (s : State) : Host.Outcome State Fault Refusal :=
  .next (s.onTile (.vector core) (fun x => if x.t.hdr.kind = 0x03 then s.tapIterate x f else s))

end Sys2Proof.Machine
end

