-- ==== Sys2Proof/Machine/Matrix.lean ====
section
/-! DEFINITION. Matrix and convolution tasks: the first leg's checks and S_acc, tiles, the output stage, halo stamps (04,
05, 07). -/
namespace Sys2Proof.Machine

/-- The candidate S_acc of a set, and its bounds where the rule chose it (R120–R122, R170); the address of the first record that cannot be
reached otherwise. -/
def setSacc (s : State) (pt : NMap Nat) (b : MatJob) (o : OutSet) : Except Nat (Int × Option (Int × Int × Int)) :=
  if o.explicit then .ok (o.sacc, none)
  else match s.boundOf pt o.bx o.bxN o.expX with
    | .error a => .error a
    | .ok ex0 => match s.boundOf pt o.bw o.bwN o.expW with
      | .error a => .error a
      | .ok ew => match s.boundOf pt o.bp o.bpN o.expP with
        | .error a => .error a
        | .ok ep =>
          let ex := match b with
            | .mm _ => ex0
            | .conv q => if q.padV = 0 then ex0 else max ex0 q.padE
          let r := ex + ew + bandBound b.ctl.prec - 30
          .ok (if o.begin_ = 0 then r else max r (ep - 15), some (ex, ew, ep))

/-- Every set's candidate. -/
def setSaccs (s : State) (pt : NMap Nat) (b : MatJob) : List OutSet → Except Nat (List (Int × Option (Int × Int × Int)))
  | [] => .ok []
  | o :: r => match setSacc s pt b o with
    | .error a => .error a
    | .ok v => (setSaccs s pt b r).map (fun l => v :: l)

/-- Lines of the bound records that a set names. -/
def OutSet.recLines (o : OutSet) (pt : NMap Nat) : List Nat :=
  jobLines pt o.bx (64 * o.bxN) ++ jobLines pt o.bw (64 * o.bwN) ++ jobLines pt o.bp (64 * o.bpN)

/-- Every operand range of the task in tile store: stationary, streamed, every ring slot. -/
def MatJob.inPlanes (b : MatJob) : List (Nat × Nat) :=
  (List.range b.streams).flatMap (fun k => (b.xDesc k).planes
    ++ (List.range (if b.ctl.ring then b.ctl.slots else 1)).flatMap (fun i => (b.wDesc k i).planes))

/-- The fuse tensor or the residual tile of a set is its output's own tensor (R129). -/
def OutSet.inPlace (o : OutSet) : Bool :=
  (o.begin_ == 2 && (o.pre.map (fun d => d.same o.out)).getD false) || (o.fz.map (fun d => d.same o.out)).getD false

/-- The bytes of a tensor of the output's index space that a set takes up, row by row: data with the padding of its blocks, and scale
bytes. -/
def MatJob.region (b : MatJob) (o : OutSet) (d : Desc) : List (Nat × Nat) :=
  let n := if d.blk = 32 ∧ d.axis = 0 then cdiv (o.outN0 + b.ctl.nLen) 32 * 32 - o.outN0 else b.ctl.nLen
  let rows := dedup ((List.range b.rows).map (fun m => (b.outIdx o m 0).i1))
  let pads := if d.blk = 32 ∧ d.axis = 1 then dedup (rows.flatMap (fun r => (List.range 32).map (fun k => r / 32 * 32 + k))) else rows
  pads.map (fun r => (d.dataAt (d.lin ⟨o.outN0, r, 0, 0⟩), n * d.ty.width / 8))
    ++ (if d.blk = 0 then [(d.scale, 1)]
        else rows.map (fun r => (d.scaleAt ⟨o.outN0, r, 0, 0⟩, if d.axis = 0 then cdiv n 32 else n)))

/-- Bytes that a set writes (R125). -/
def MatJob.written (b : MatJob) (o : OutSet) : List (Nat × Nat) := b.region o o.out

/-- Bytes of a set's preload and of its fuse tensor that it reads, but for those of a tensor that is its output's own. -/
def MatJob.extras (b : MatJob) (o : OutSet) (own : Bool) : List (Nat × Nat) :=
  (match o.pre with
    | none => []
    | some d => if own && o.begin_ == 2 && d.same o.out then []
      else if o.begin_ = 1 then d.planes else b.region o d)
  ++ (match o.fz with
    | none => []
    | some d => if own && d.same o.out then [] else b.region o d)

/-- Written bytes that the manual leaves undefined (R129, log 1): those that a set writes and that another set writes too, or that belong to
an operand, a ring slot, a preload or a fuse tensor, but for an output in place of its own fuse tensor or residual tile. -/
def MatJob.undef (b : MatJob) : List (Nat × Nat) :=
  (b.sets.zipIdx).flatMap (fun (o, k) =>
    overlaps (b.written o) b.inPlanes
      ++ ((b.sets.zipIdx).flatMap (fun (q, i) =>
        (if i = k then [] else overlaps (b.written o) (b.written q)) ++ overlaps (b.written o) (b.extras q (i == k)))))

/-- A matrix task's state before its first tile. -/
def MatSt.init : MatSt := ⟨0, 0, [], 0, [], [], [], true, [], [], [], [], [], 0, 0, 0⟩

/-- Rows that a gather task takes (R108, R110): tags of the current step that are not taken. -/
def gatherRows (s : State) (x : EngRun) (c : MatCtl) : List Nat :=
  (List.range c.mLen).filter (fun k =>
    let t := s.bytes (tileAt x.core + c.tagOff + 64 * k) 16
    fld t 0 4 == x.step && !bit (fld t 4 4) 0)

/-- The gather task reads every tag and marks those it takes (R110). -/
def State.gatherTags (s : State) (x : EngRun) (f : Faults) (c : MatCtl) : State :=
  if !c.gather then s
  else
    let s1 := s.ctlMeet x.j x.t f (linesOf (tileAt x.core + c.tagOff) (64 * c.mLen))
    if !s1.sound x then s1
    else
      let taken := gatherRows s x c
      let w := taken.foldl (fun (m : Writes) k =>
        let a := tileAt x.core + c.tagOff + 64 * k
        let v := leNat (s.bytes (a + 4) 4)
        ((toLE 4 (v / 2 * 2 + 1) ++ toLE 4 x.id).zipIdx).foldl (fun (q : Writes) p => mset q (a + 4 + p.2) p.1) m) []
      let s2 := s1.engWrite x f w
      s2.modEng x (fun t => match t.eng with
        | .mat m => { t with eng := .mat { m with taken := taken } }
        | _ => t)

/-- The first leg of an array-group task (R107, R120, R131, R133, R163, R165): checks, S_acc, a gather's tags; an empty convolution writes
its bound records and has no tile. DESIGN CHOICE (log 65): the body is checked before MAXE_ADDR and both before the bound records; a leg
that fails on one has run; S_acc is the largest of the sets' candidates where they give explicit values too. -/
def State.matBegin (s : State) (x : EngRun) (f : Faults) : State :=
  match x.matJob with
  | none => s.badBody x
  | some b =>
    match s.badMaxe x (b.sets.map OutSet.maxe) with
    | some a => s.badAddr x a
    | none =>
      let empty := match b with
        | .mm _ => false
        | .conv q => q.geo.empty
      if empty then
        (b.sets.foldl (fun (t : State) o => t.writeBound x o.maxe 0x81)
          (s.modEng x (fun t => { t with
            eng := .mat { MatSt.init with sums := b.sets.map (fun _ => OutSum.init) }, empty := true, finished := true })))
      else match setSaccs s x.pt b b.sets with
        | .error a => s.badAddr x a
        | .ok l =>
          let s1 := s.ctlMeet x.j x.t f (dedup (b.sets.flatMap (fun o => o.recLines x.pt)))
          if !s1.sound x then s1
          else
            let m := { MatSt.init with
              sacc := l.foldl (fun a p => max a p.1) (-512)
              filled := List.replicate b.streams 0
              freed := List.replicate b.streams 0
              sums := b.sets.map (fun _ => OutSum.init)
              bnds := l.map Prod.snd
              undef := b.undef
              lastAt := s.now }
            (s1.setEng x (.mat m)).gatherTags x f b.ctl

/-- A resumed leg: its boundary clock starts again. -/
def State.matResume (s : State) (x : EngRun) (m : MatSt) : State := s.setEng x (.mat { m with lastAt := s.now })

/-- Row group, chunk and tile in the chunk of tile `i` (R101). -/
def MatJob.loop (b : MatJob) (i : Nat) : Nat × Nat × Nat :=
  (i / b.tilesPer / b.chunks, i / b.tilesPer % b.chunks, i % b.tilesPer)

/-- Every band of every enabled row of the tile is gated (R168). -/
def MatJob.skipped (b : MatJob) (taken : List Nat) (i : Nat) : Bool :=
  match b with
  | .mm _ => false
  | .conv _ =>
    let p := b.loop i
    (b.rowsOf taken p.1).all (fun m => (b.bands p.2.2 m).isEmpty)

/-- The tile reads a row of the top or the bottom halo slot (R175): 0 top, 1 bottom. -/
def MatJob.needsHalo (b : MatJob) (i side : Nat) : Bool :=
  match b with
  | .mm _ => false
  | .conv q => match q.halo with
    | none => false
    | some h =>
      let p := b.loop i
      (if side = 0 then h.waitTop else h.waitBot) &&
        (b.rowsOf [] p.1).any (fun m => (b.bands p.2.2 m).any (fun d => d.pad.isNone && d.els.any (fun t =>
          if side = 0 then decide (t.xi.i2 < h.topRows) else decide (q.x.dim2 ≤ t.xi.i2 + h.botRows))))

/-- FILLED − FREED and the like: the counts of a ring have 32 bits (R105, log 66). -/
def ringAhead (a b : Nat) : Nat := (a + 2 ^ 32 - b % 2 ^ 32) % 2 ^ 32

/-- Neither a drain nor a ring holds tile `tile` back (R101, R105). -/
def MatJob.unheld (b : MatJob) (m : MatSt) : Bool :=
  let p := b.loop m.tile
  decide (m.tile < b.tiles)
    && (p.2.2 != 0 || !m.drain.any (fun d => (b.banks d.2).any (fun k => (b.banks p.2.1).contains k)))
    && (!b.ctl.ring || m.filled.all (fun n => ringAhead n m.tile != 0))

/-- The halo stamps that tile `tile` needs have been seen (R175). -/
def MatJob.haloDone (b : MatJob) (m : MatSt) : Bool :=
  b.skipped m.taken m.tile || [0, 1].all (fun side => !b.needsHalo m.tile side || m.haloIn.contains side)

/-- Tile `tile` may start (R101, R105, R169, R175): its chunk's banks have drained where it begins one, every ring holds
its slot, its halo stamps have been seen. -/
def MatJob.mayStart (b : MatJob) (m : MatSt) : Bool := b.unheld m && b.haloDone m

/-- What a tile's arithmetic raised for one set. -/
structure TileFlags where
  isat : Bool
  psn : Bool
  bnd : Bool
  deriving DecidableEq, Repr, Inhabited

/-- Join the flags to a summary. -/
def OutSum.flag (o : OutSum) (t : TileFlags) : OutSum :=
  { o with sat := o.sat || t.isat, isat := o.isat || t.isat, psn := o.psn || t.psn, bnd := o.bnd || t.bnd }

/-- A preloaded entry at S_acc, with its flags (R115). -/
def preloadEntry (v : Val) (sacc : Int) (bnd : Option (Int × Int × Int)) : Int × TileFlags :=
  if v.pois then (accPoison, ⟨false, true, false⟩)
  else
    let a := accCode (align v.q v.e sacc 0 0)
    (a, ⟨accIsSat a, false, (bnd.map (fun p => decide (v.e > p.2.2))).getD false⟩)

/-- Entries of a chunk as BEGIN sets them (R115): the accumulators, the flags, the lines read. -/
def MatJob.beginChunk (b : MatJob) (s : State) (f : Faults) (x : EngRun) (m : MatSt) (k g j : Nat) (acc : NMap Int) :
    NMap Int × TileFlags × List Nat :=
  let o := nth b.sets k
  let n0 := j * b.ctl.chunkN
  let rows := b.rowsOf m.taken g
  let cols := List.range (b.cols j)
  -- every entry of the chunk's banks clears
  let spans := (List.range 4).filter (fun a => b.ctl.arrays.testBit a && (b.ctl.mode != 1 || a / 2 == k) &&
    (b.ctl.mode != 2 || a == b.array k))
  let keys := spans.flatMap (fun a => (b.banks j).map (fun z => (a * 4 + z) * 32768))
  let clear := acc.filter (fun p => !keys.any (fun q => decide (q ≤ p.1 ∧ p.1 < q + 32768)))
  match o.pre with
  | none => (clear, ⟨false, false, false⟩, [])
  | some d =>
    rows.foldl (fun (z : NMap Int × TileFlags × List Nat) r => cols.foldl (fun (z : NMap Int × TileFlags × List Nat) n =>
      let oi := b.outIdx o r (n0 + n)
      let i : Idx := if o.begin_ = 1 then ⟨oi.i0, 0, 0, 0⟩ else oi
      let e := preloadEntry (readVal s f x.pt x.core d i) m.sacc (nth m.bnds k)
      let key := b.key k j r n
      (if e.1 = 0 then merase z.1 key else mset z.1 key e.1,
        ⟨z.2.1.isat || e.2.isat, z.2.1.psn || e.2.psn, z.2.1.bnd || e.2.bnd⟩,
        dedup (z.2.2 ++ Desc.linesAt x.pt x.core d i))) z) (clear, ⟨false, false, false⟩, [])

/-! ### The register sets -/

/-- Where a cell's element and a cell column's band scale stand in a register set. -/
def cellKey (array pos col : Nat) : Nat := (array * 256 + pos) * 128 + col
def bandKey (array band col : Nat) : Nat := (array * 8 + band) * 128 + col

/-- The band of the tile that a band of a row is. -/
def Band.no (d : Band) : Nat := (nth d.els 0).pos / 32

/-- The tile-load path writes one band of one cell column (R87, R93, R94, R168): its elements or the padding value, and its scale, the
poison scale for a poisoned block or one that was read from an uncorrectable line. -/
def MatJob.loadBand (b : MatJob) (s : State) (f : Faults) (x : EngRun) (k m : Nat) (st : StatSet) (d : Band) : StatSet :=
  let c := b.cellAt k m
  let vs : List (Tap × Val) := d.els.map (fun t => (t, match d.pad with
    | some p => ⟨p.1, p.2, false, 0, 0, false⟩
    | none => readVal s f x.pt x.core (b.xDesc k) t.xi))
  { x := vs.foldl (fun (w : NMap Int) p => mset w (cellKey c.1 p.1.pos c.2) p.2.q) st.x
    e := mset st.e (bandKey c.1 d.no c.2) (if vs.any (fun p => p.2.pois) then 0x80 else unsgn 8 (nth vs 0).2.e) }

/-- The shadow set that the tile-load path writes for tile `i` (R95, R98): the rows of its row group in every stream's arrays. -/
def MatJob.loadTile (b : MatJob) (s : State) (f : Faults) (x : EngRun) (taken : List Nat) (i : Nat) : StatSet :=
  let p := b.loop i
  (List.range b.streams).foldl (fun (z : StatSet) k => (b.rowsOf taken p.1).foldl (fun (z : StatSet) r =>
    (b.bands p.2.2 r).foldl (fun (z : StatSet) d => b.loadBand s f x k r z d) z) z) ⟨[], []⟩

/-- The lines that the tile-load path reads for tile `i`. -/
def MatJob.loadLines (b : MatJob) (x : EngRun) (taken : List Nat) (i : Nat) : List Nat :=
  let p := b.loop i
  dedup ((List.range b.streams).flatMap (fun k => (b.rowsOf taken p.1).flatMap (fun r => (b.bands p.2.2 r).flatMap (fun d =>
    if d.pad.isSome then [] else d.els.flatMap (fun t => Desc.linesAt x.pt x.core (b.xDesc k) t.xi)))))

/-- The shadow set is loaded and a swap exchanges the two sets (R95); a skipped tile neither loads nor swaps (R168). -/
def CoreSt.swapIn (c : CoreSt) (loaded : StatSet) : CoreSt := { c with active := loaded, shadow := c.active }

/-! ### Streaming a tile -/

/-- One band's aligned sum, or the poison mark (R93, R94), with BND: the cells of the active set against a streamed column. -/
def bandSum (s : State) (f : Faults) (x : EngRun) (b : MatJob) (act : StatSet) (sacc : Int) (bnd : Option (Int × Int × Int))
    (k i m n0 n : Nat) (d : Band) : Option Int × Bool :=
  let c := b.cellAt k m
  let ws := d.els.map (fun t => readVal s f x.pt x.core (b.wDesc k i) (b.wIdx t n0 n))
  let xs := d.els.map (fun t => mgetD act.x (cellKey c.1 t.pos c.2) 0)
  let sx := mgetD act.e (bandKey c.1 d.no c.2) 0
  let ex := sgn 8 sx
  let ew := (nth ws 0).e
  let wp := ws.any (fun v => v.pois)
  let overs := (bnd.map (fun p => decide ((sx ≠ 0x80 ∧ ex > p.1) ∨ (!wp ∧ ew > p.2.1)))).getD false
  (if sx == 0x80 || wp then none else some (align (((xs.zip ws).map (fun p => p.1 * p.2.q)).sum) (ex + ew) sacc 0 0), overs)

/-- The addend of one entry in a tile (R118): the exact sum of its bands, a mark, and its flags; none where every band is
gated. -/
def entryAddend (s : State) (f : Faults) (x : EngRun) (b : MatJob) (act : StatSet) (sacc : Int) (bnd : Option (Int × Int × Int))
    (k i m n0 n : Nat) (ds : List Band) : Option (Int × TileFlags) :=
  if ds.isEmpty then none
  else
    let bs := ds.map (bandSum s f x b act sacc bnd k i m n0 n)
    let overs := bs.any (fun p => p.2)
    if bs.any (fun p => p.1.isNone) then some (accPoison, ⟨false, true, overs⟩)
    else
      let a := accCode ((bs.map (fun p => p.1.getD 0)).sum)
      some (a, ⟨accIsSat a, false, overs⟩)

/-- The lines of the streamed column that a band reads. -/
def bandLines (x : EngRun) (b : MatJob) (k i n0 n : Nat) (d : Band) : List Nat :=
  d.els.flatMap (fun t => Desc.linesAt x.pt x.core (b.wDesc k i) (b.wIdx t n0 n))

/-- One stream's part of a tile: accumulators, flags, lines (R87–R94, R112, R118). -/
def MatJob.stream (b : MatJob) (s : State) (f : Faults) (x : EngRun) (act : StatSet) (m : MatSt) (k : Nat) (acc : NMap Int) :
    NMap Int × TileFlags × List Nat :=
  let p := b.loop m.tile
  let n0 := p.2.1 * b.ctl.chunkN
  let z0 := if p.2.2 = 0 then b.beginChunk s f x m k p.1 p.2.1 acc else (acc, ⟨false, false, false⟩, [])
  (b.rowsOf m.taken p.1).foldl (fun (z : NMap Int × TileFlags × List Nat) r =>
    let ds := b.bands p.2.2 r
    (List.range (b.cols p.2.1)).foldl (fun (z : NMap Int × TileFlags × List Nat) n =>
      match entryAddend s f x b act m.sacc (nth m.bnds k) k m.tile r n0 n ds with
      | none => z
      | some (a, fl) =>
        let key := b.key k p.2.1 r n
        let old := mgetD z.1 key 0
        let v := accAdd old a
        (if v = 0 then merase z.1 key else mset z.1 key v,
          ⟨z.2.1.isat || fl.isat || accAddIsat old a, z.2.1.psn || fl.psn, z.2.1.bnd || fl.bnd⟩,
          dedup (z.2.2 ++ ds.flatMap (bandLines x b k m.tile n0 n)))) z) z0

/-- The progress mark (R410): tiles done, held back by the oldest chunk that has not drained. -/
def MatJob.progress (b : MatJob) (m : MatSt) : Option Nat :=
  let done := match m.drain with
    | [] => m.tile
    | (g, j) :: _ => min m.tile ((g * b.chunks + j + 1) * b.tilesPer - 1)
  if done = 0 then none else some (done - 1)

/-! ### Halo waits -/

/-- One publication of a halo unit: consumer core, rows, first row of the task's output, and the offsets (R176). -/
structure Pub where
  side : Nat
  core : Nat
  rows : Nat
  first : Nat
  data : Nat
  scale : Nat
  stamp : Nat
  deriving DecidableEq, Repr

/-- The publications of a convolution, upward first. -/
def ConvBody.pubs (q : ConvBody) : List Pub :=
  match q.halo with
  | none => []
  | some h => (if h.pubUp then [⟨0, h.upCore, h.upRows, 0, h.upData, h.upScale, h.upStamp⟩] else [])
      ++ (if h.pubDn then [⟨1, h.dnCore, h.dnRows, q.geo.oyLen - h.dnRows, h.dnData, h.dnScale, h.dnStamp⟩] else [])

/-- Every row of a publication has been written by the output stage. -/
def Pub.ready (p : Pub) (q : ConvBody) (m : MatSt) : Bool :=
  let b := MatJob.conv q
  decide (p.rows = 0 ∨ (((p.first + p.rows) * q.geo.oxLen - 1) / mEff q.ctl.mode + 1) * b.chunks ≤ m.drained)

/-- The task waits for a stamp, or for an acknowledgement before a publication (R175, R176). -/
def MatJob.waits (b : MatJob) (m : MatSt) : Bool :=
  match b with
  | .mm _ => false
  | .conv q => (b.unheld m && !b.haloDone m) || (match q.halo with
      | none => false
      | some h => h.pubSeq != 1 && q.pubs.any (fun p => !m.haloOut.contains p.side && p.ready q m))

/-- The cycles since the last event count in HALO_WAIT where the leg waited (R171, R175). -/
def MatJob.clock (b : MatJob) (now : Nat) (m : MatSt) : MatSt :=
  { m with haloWait := if b.waits m then (m.haloWait + (now - m.lastAt)) % 2 ^ 32 else m.haloWait, lastAt := now }

/-- A leg of a matrix or convolution task ends or meets an event: its halo clock runs to now. -/
def State.matClock (s : State) (x : EngRun) : State :=
  match x.matJob, x.t.eng with
  | some b, .mat m => s.setEng x (.mat (b.clock s.now m))
  | _, _ => s

/-- One tile of an array-group task (R95, R101, R115, R118, R168, R169): the stationary operand is loaded and swapped in, the columns stream
past it. -/
def State.matTile (s : State) (x : EngRun) (f : Faults) : State :=
  match x.matJob, x.t.eng with
  | some b, .mat m =>
    if !b.mayStart m then s
    else
      let p := b.loop m.tile
      let skip := b.skipped m.taken m.tile
      let k0 := s.core x.core
      let k1 := if skip then k0 else k0.swapIn (b.loadTile s f x m.taken m.tile)
      let r := (List.range b.streams).foldl (fun (z : NMap Int × List OutSum × List Nat) k =>
        let q := b.stream s f x k1.active m k z.1
        (q.1, setNth z.2.1 k ((nth z.2.1 k).flag q.2.1), dedup (z.2.2 ++ q.2.2))) (k0.acc, m.sums, b.loadLines x m.taken m.tile)
      let m1 := { b.clock s.now m with
        tile := m.tile + 1
        sums := r.2.1
        freed := if b.ctl.ring then m.freed.map (fun _ => (m.tile + 1) % 2 ^ 32) else m.freed
        skipped := if skip then m.skipped + 1 else m.skipped
        drain := if p.2.2 + 1 = b.tilesPer then m.drain ++ [(p.1, p.2.1)] else m.drain }
      let s1 := s.readMeet x f r.2.2
      let s2 := s1.setCore x.core { k1 with acc := r.1 }
      s2.modEng x (fun t => { t with eng := .mat m1, progress := b.progress m1 })
  | _, _ => s

/-- MATRIX_TILE: the array group of a core finishes its next tile. -/
def execMatrixTile (core : BitVec 7) (f : Faults) (s : State) : Host.Outcome State Fault Refusal :=
  .next (s.onTile (.array core) (fun x => if x.t.hdr.kind = 0x01 || x.t.hdr.kind = 0x06 then (s.accFault x f).matTile x f else s))

/-- An output value: the number and its exponent, or a mark (R126, R127). -/
inductive OutVal where
  | num (v : Int) (e : Int)
  | hi
  | lo
  | poison
  deriving DecidableEq, Repr, Inhabited

/-- FUSE of R126 on one entry with its fuse element. -/
def fuseVal (mode : Nat) (a sacc : Int) (z : Val) : OutVal :=
  if a = accPoison ∨ (mode ≠ 0 ∧ z.pois) then .poison
  else if a = accPos then .hi
  else if a = accNeg then .lo
  else if mode = 0 then .num a sacc
  else if mode = 2 then .num (a * z.q) (sacc + z.e)
  else
    let e := max (min sacc z.e) (max sacc z.e - 48)
    .num (align a sacc e 0 0 + align z.q z.e e 0 0) e

/-- The exponent of an output value that has one. -/
def OutVal.exp : OutVal → Option Int
  | .num _ e => some e
  | _ => none

/-- A block's values at their lowest exponent, exactly (R126). -/
def OutVal.cell (low : Int) (u : Nat) : OutVal → Cell
  | .num v e => .val (v * pow2 (e - low).toNat) u
  | .hi => .hi
  | .lo => .lo
  | .poison => .poison

/-- The lowest exponent of a block's values. -/
def lowExp (dflt : Int) (l : List OutVal) : Int :=
  match l.filterMap OutVal.exp with
  | [] => dflt
  | e :: r => r.foldl min e

/-- Elements of a chunk by output block, blocks along axis 0 or 1, or all in one block for B0. -/
def MatJob.blocks (b : MatJob) (o : OutSet) (taken : List Nat) (g j : Nat) : List (List (Nat × Nat)) :=
  let rows := b.rowsOf taken g
  let cols := List.range (b.cols j)
  if o.out.blk = 0 then [rows.flatMap (fun r => cols.map (fun n => (r, n)))]
  else if o.out.axis = 0 then rows.flatMap (fun r => (chunksOf o.out.blk cols).map (fun l => l.map (fun n => (r, n))))
  else cols.flatMap (fun n => (chunksOf o.out.blk rows).map (fun l => l.map (fun r => (r, n))))

/-- One set's part of a chunk's output (R125–R132): writes, summary, lines read. -/
def MatJob.drainSet (b : MatJob) (s : State) (f : Faults) (x : EngRun) (m : MatSt) (k g j : Nat) (w0 : Writes) :
    Writes × OutSum × List Nat :=
  let o := nth b.sets k
  let acc := (s.core x.core).acc
  let n0 := j * b.ctl.chunkN
  (b.blocks o m.taken g j).foldl (fun (z : Writes × OutSum × List Nat) l =>
    let vals := l.map (fun p =>
      let i := b.outIdx o p.1 (n0 + p.2)
      let fz := (o.fz.map (fun d => readVal s f x.pt x.core d i)).getD ⟨0, 0, false, 0, 0, false⟩
      (i, fuseVal o.fuse (mgetD acc (b.key k j p.1 p.2) 0) m.sacc fz))
    let low := lowExp m.sacc (vals.map Prod.snd)
    let q := putBlock s x.pt x.core o.out ⟨o.auto, o.given⟩ low false
      (vals.map (fun v => (v.1, v.2.cell low (x.rand o.out v.1)))) (z.1, z.2.1)
    (q.1, { q.2 with psn := q.2.psn || vals.any (fun v => v.2 == .poison) },
      dedup (z.2.2 ++ (match o.fz with
        | some d => vals.flatMap (fun v => Desc.linesAt x.pt x.core d v.1)
        | none => [])))) (w0, nth m.sums k, [])

/-- A B0 output that shares its tensor with its fuse tensor or residual tile keeps that tensor's scale byte until its last chunk (R129). -/
def MatJob.holdScale (b : MatJob) (x : EngRun) (last : Bool) (w : Writes) : Writes :=
  if last then w
  else b.sets.foldl (fun (w : Writes) o =>
    if o.out.blk = 0 ∧ o.inPlace then merase w (tileAt x.core + o.out.scale) else w) w

/-- Every publication that the task owes has been made (R176). -/
def MatJob.published (b : MatJob) (m : MatSt) : Bool :=
  match b with
  | .mm _ => true
  | .conv q => match q.halo with
    | none => true
    | some h => (!h.pubUp || m.haloOut.contains 0) && (!h.pubDn || m.haloOut.contains 1)

/-- All tiles are done, drained and published. -/
def MatJob.complete (b : MatJob) (m : MatSt) : Bool := m.tile == b.tiles && m.drain.isEmpty && b.published m

/-- The output stage writes the oldest finished chunk (R125–R132); after the last, the bound records (R131). -/
def State.matDrain (s : State) (x : EngRun) (f : Faults) : State :=
  match x.matJob, x.t.eng with
  | some b, .mat m =>
    match m.drain with
    | [] => s
    | (g, j) :: rest =>
      let last := decide (m.drained + 1 = b.groups * b.chunks)
      let r := (List.range b.streams).foldl (fun (z : Writes × List OutSum × List Nat) k =>
        let q := b.drainSet s f x m k g j z.1
        (q.1, setNth z.2.1 k q.2.1, dedup (z.2.2 ++ q.2.2))) (([] : Writes), m.sums, [])
      let m1 := { b.clock s.now m with drain := rest, drained := m.drained + 1, sums := r.2.1 }
      let fr := (s.readMeet x f r.2.2).freeIn (tileAt x.core) m.undef (b.holdScale x last r.1)
      let s1 := (fr.1.engWrite x f fr.2).modEng x (fun t => { t with
        eng := .mat m1, progress := b.progress m1, finished := b.complete m1 })
      if last then
        (b.sets.zip r.2.1).foldl (fun (t : State) p => t.writeBound x p.1.maxe p.2.maxByte) s1
      else s1
  | _, _ => s

/-- OUTPUT_DRAIN: the output stage of a core's array group writes its oldest finished chunk. -/
def execOutputDrain (core : BitVec 7) (f : Faults) (s : State) : Host.Outcome State Fault Refusal :=
  .next (s.onEngine (.array core) (fun x => if x.t.hdr.kind = 0x01 || x.t.hdr.kind = 0x06 then (s.accFault x f).matDrain x f else s))

/-- A stamp record's step and sequence at an offset of it (R174); a record of another step counts as 0 (R177). -/
def stampSeq (s : State) (a step : Nat) : Nat := if leNat (s.bytes a 4) = step then leNat (s.bytes (a + 4) 4) else 0

/-- The sides whose stamps the next tile waits for and that now hold WAIT_SEQ (R175). -/
def haloSeen (s : State) (x : EngRun) (b : MatJob) (m : MatSt) : List Nat :=
  match b with
  | .mm _ => []
  | .conv q => match q.halo with
    | none => []
    | some h => [0, 1].filter (fun side =>
        decide (m.tile < b.tiles) && b.needsHalo m.tile side && !m.haloIn.contains side && !b.skipped m.taken m.tile
          && decide (h.waitSeq ≤ stampSeq s (tileAt x.core + (if side = 0 then h.topStamp else h.botStamp)) x.step))

/-- HALO_STAMP_SEEN: the tile-load path sees the stamps it waits for (R175). -/
def State.haloStamp (s : State) (x : EngRun) (f : Faults) : State :=
  match x.matJob, x.t.eng with
  | some b, .mat m =>
    let l := haloSeen s x b m
    if l.isEmpty then s
    else
      let at_ (side : Nat) : Nat := match b with
        | .mm _ => 0
        | .conv q => (q.halo.map (fun h => if side = 0 then h.topStamp else h.botStamp)).getD 0
      let s1 := s.ctlMeet x.j x.t f (l.map (fun side => tileAt x.core + at_ side))
      if s1.sound x then
        s1.setEng x (.mat { b.clock s.now m with haloIn := m.haloIn ++ l })
      else s1
  | _, _ => s

/-- HALO_STAMP_SEEN. -/
def execHaloStampSeen (core : BitVec 7) (f : Faults) (s : State) : Host.Outcome State Fault Refusal :=
  .next (s.onEngine (.array core) (fun x => if x.t.hdr.kind = 0x06 then s.haloStamp x f else s))

/-- The published bytes: the task's own output rows in the layout of R173 (log 41). -/
def Pub.writes (s : State) (x : EngRun) (q : ConvBody) (p : Pub) : Writes :=
  let o := nth q.sets 0
  let d := o.out
  let rb := rowBytes q.geo d
  let wid := d.pad 0 * d.ty.width / 8
  (List.range p.rows).foldl (fun (w : Writes) r =>
    (List.range q.geo.wOut.toNat).foldl (fun (w : Writes) c =>
      let i1 := o.outM0 + (p.first + r) * q.pitch + c
      let src := s.bytes (tileAt x.core + d.dataAt (d.lin ⟨0, i1, 0, 0⟩)) wid
      let w1 := (src.zipIdx).foldl (fun (w : Writes) v => mset w (tileAt p.core + p.data + r * rb.1 + c * wid + v.2) v.1) w
      (List.range (d.pad 0 / 32)).foldl (fun (w : Writes) k =>
        mset w (tileAt p.core + p.scale + r * rb.2 + c * (d.pad 0 / 32) + k) (s.byte (tileAt x.core + d.scaleAt ⟨32 * k, i1, 0, 0⟩))) w1) w) []

/-- The output stage publishes rows and then their stamp (R176): the first publication owed whose rows are written and
whose consumer has acknowledged the one before. -/
def State.haloPub (s : State) (x : EngRun) (f : Faults) : State :=
  match x.matJob, x.t.eng with
  | some (.conv q), .mat m =>
    match q.halo with
    | none => s
    | some h =>
      match q.pubs.find? (fun p => !m.haloOut.contains p.side && p.ready q m
          && (h.pubSeq == 1 || decide (h.pubSeq ≤ stampSeq s (tileAt p.core + p.stamp + 0x40) x.step + 1))) with
      | none => s
      | some p =>
        let s0 := if h.pubSeq = 1 then s else s.ctlMeet x.j x.t f [tileAt p.core + p.stamp + 64]
        if !s0.sound x then s0
        else
          let s1 := s0.engWrite x f (p.writes s x q)
          let s2 := s1.engWrite x f (((toLE 4 x.step ++ toLE 4 h.pubSeq ++ zeros 56).zipIdx).foldl
            (fun (w : Writes) v => mset w (tileAt p.core + p.stamp + v.2) v.1) [])
          let m1 := { (MatJob.conv q).clock s.now m with haloOut := m.haloOut ++ [p.side] }
          s2.modEng x (fun t => { t with eng := .mat m1, finished := (MatJob.conv q).complete m1 })
  | _, _ => s

/-- HALO_PUBLISH. -/
def execHaloPublish (core : BitVec 7) (f : Faults) (s : State) : Host.Outcome State Fault Refusal :=
  .next (s.onEngine (.array core) (fun x => if x.t.hdr.kind = 0x06 then s.haloPub x f else s))

/-- A convolution that waited on stamps acknowledges them when it completes (R177). -/
def State.haloAck (s : State) (x : EngRun) (f : Faults) : State :=
  match x.matJob, x.t.eng with
  | some (.conv q), .mat m =>
    match q.halo with
    | none => s
    | some h => m.haloIn.foldl (fun (t : State) side =>
        t.engWrite x f (((toLE 4 x.step ++ toLE 4 h.waitSeq ++ zeros 56).zipIdx).foldl
          (fun (w : Writes) v => mset w (tileAt x.core + (if side = 0 then h.topStamp else h.botStamp) + 64 + v.2) v.1) [])) s
  | _, _ => s

end Sys2Proof.Machine
end

