-- ==== Sys2Proof/Machine/Mover.lean ====
section
/-! DEFINITION. Mover transfers: byte copies, boxes with block and MXINT8 conversion, ring fills, fabric transfers (02
R51–R56; 06 R158–R160, R486; 11 R303, R304; 15 R399). -/
namespace Sys2Proof.Machine

/-- A mover task's state before its first piece. -/
def MovSt.init : MovSt := ⟨true, 0, 0, false, false, false, 0, 0, 0, false⟩

/-- A descriptor that a box may name: in range where it lies in tile store (R38). -/
def boxDescOk (d : Desc) (base len : Nat) : Bool := d.inTs base len

/-- Types and blocks of a box fit together (R51, R54, R159). -/
def boxTypesOk (a b : Desc) : Bool :=
  let mx := (a.ty == .mx && b.ty == .s8) || (a.ty == .s8 && b.ty == .mx)
  (a.ty == b.ty || mx)
    && (!mx || (a.blk == 32 && b.blk == 32 && a.axis == 0 && b.axis == 0))
    && (a.blk == b.blk || b.blk != 0)
    && (a.blk == 0 || b.blk == 0 || a.axis == b.axis)

/-- Origins and extents along the block axis, and the box within both tensors (R159). -/
def boxFits (so dO ext : Idx) (a b : Desc) : Bool :=
  let big := max a.blk b.blk
  let ax := if b.blk = 0 then a.axis else b.axis
  (List.range 4).all (fun k => decide (so.at k + ext.at k ≤ a.dim k ∧ dO.at k + ext.at k ≤ b.dim k))
    && (big == 0 || (so.at ax % big == 0 && dO.at ax % big == 0
        && (ext.at ax % big == 0 || (so.at ax + ext.at ax == a.dim ax && dO.at ax + ext.at ax == b.dim ax))))

/-- Lengths of a box in destination blocks: the block axis is counted in blocks. -/
def boxUnits (ext : Idx) (b : Desc) : Idx :=
  let c (k : Nat) := if b.blk ≠ 0 ∧ k = b.axis then cdiv (ext.at k) b.blk else ext.at k
  ⟨c 0, c 1, c 2, c 3⟩

/-- Number of blocks, or elements where the destination has none. -/
def Idx.size (i : Idx) : Nat := i.i0 * i.i1 * i.i2 * i.i3

/-- Bits that one block of the destination takes, its scale byte counted (log 42). -/
def unitBits (b : Desc) : Nat := if b.blk = 0 then b.ty.width else b.blk * b.ty.width + 8

/-- Pieces of a box (R158, log 42): 4 KiB of written bytes each, in block order; a block belongs to the piece that holds
its last bit. -/
def pieceOf (b : Desc) (n : Nat) : Nat := ((n + 1) * unitBits b - 1) / 32768
def boxPieces (ext : Idx) (b : Desc) : Nat := pieceOf b ((boxUnits ext b).size - 1) + 1

/-- Units of piece `p`. -/
def unitsOf (ext : Idx) (b : Desc) (p : Nat) : List Nat :=
  (List.range ((boxUnits ext b).size)).filter (fun n => pieceOf b n == p)

/-- Offsets within the box of the elements of unit `n`. -/
def unitElems (ext : Idx) (b : Desc) (n : Nat) : List Idx :=
  let u := boxUnits ext b
  let j : Idx := ⟨n % u.i0, n / u.i0 % u.i1, n / u.i0 / u.i1 % u.i2, n / u.i0 / u.i1 / u.i2⟩
  if b.blk = 0 then [j]
  else
    let a := b.axis
    (List.range b.blk).filterMap (fun k =>
      let i : Idx := match a with
        | 0 => { j with i0 := j.i0 * b.blk + k }
        | 1 => { j with i1 := j.i1 * b.blk + k }
        | 2 => { j with i2 := j.i2 * b.blk + k }
        | _ => { j with i3 := j.i3 * b.blk + k }
      if i.at a < ext.at a then some i else none)

/-- Sum of two indices. -/
def Idx.plus (a b : Idx) : Idx := ⟨a.i0 + b.i0, a.i1 + b.i1, a.i2 + b.i2, a.i3 + b.i3⟩

/-- A block after conversion. -/
structure ConvRes where
  qs : List Int
  sb : Nat
  sat : Bool
  nan : Bool
  /-- a poisoned block or an uncorrectable line was read by a conversion -/
  psn : Bool
  pois : Bool
  deriving DecidableEq, Repr, Inhabited

/-- Convert one destination block (R51, R55, R56, R399): source values, with their random words. -/
def convBlock (a b : Desc) (vs : List (Val × Nat)) : ConvRes :=
  let qs := vs.map (fun p => p.1.q)
  let sb := (nth vs 0).1.sb
  let bad := if b.ty = .mx then 0xFF else 0x80
  if vs.any (fun p => p.1.lost) then ⟨vs.map (fun _ => 0), bad, false, false, true, true⟩
  else if a.ty = .mx ∧ b.ty = .s8 then
    if sb = 0xFF then ⟨qs, 0x80, false, true, true, true⟩
    else if sb ≤ 5 then ⟨qs.map (fun q => roundShift q (6 - (sb : Int)) 0 0), 0x81, false, false, false, false⟩
    else ⟨qs, (sb + 123) % 256, false, false, false, false⟩
  else if a.ty = .s8 ∧ b.ty = .mx then
    if sb = 0x80 then ⟨qs, 0xFF, false, false, true, true⟩
    else
      let e := sgn 8 sb
      if e ≤ 121 then ⟨qs, (sb + 133) % 256, false, false, false, false⟩
      else
        let xs := qs.map (fun q => q * pow2 (e - 121).toNat)
        let sat := xs.any (narrowSat 8)
        let pois := sat && satPoisons b.cls b.satKeep
        ⟨xs.map (narrow 8), if pois then 0xFF else 0xFE, sat, false, false, pois⟩
  else if a.blk = 0 ∨ b.blk ≤ a.blk then ⟨qs, sb, false, false, sb == 0x80, sb == 0x80⟩
  else if vs.any (fun p => p.1.sb == 0x80) then ⟨qs, 0x80, false, false, true, true⟩
  else
    let e := vs.foldl (fun (m : Int) p => max m (sgn 8 p.1.sb)) (-127)
    ⟨vs.map (fun p => roundShift p.1.q (e - sgn 8 p.1.sb) b.round p.2), unsgn 8 e, false, false, false, false⟩

/-- What one piece of a box does. -/
structure BoxRes where
  w : Writes
  /-- destination lines that carry uncorrectability -/
  bad : List Nat
  lines : List Nat
  sat : Bool
  nan : Bool
  psn : Bool
  poisoned : Nat
  saturated : Nat
  deriving DecidableEq, Repr, Inhabited

/-- One block of a box (R40, R42, R51, R159, R399): source and destination indices of its elements. -/
def boxUnit (s : State) (f : Faults) (x : EngRun) (a b : Desc) (els : List (Idx × Idx)) (r : BoxRes) : BoxRes :=
  match els with
  | [] => r
  | (_, d0) :: _ =>
    let rd (d : Desc) (i : Idx) := readVal s f x.pt x.core d i
    let lines := dedup (r.lines ++ els.flatMap (fun p => Desc.linesAt x.pt x.core a p.1))
    let pad (w : Writes) := if b.blk = 0 then w else (b.blockAll d0).foldl (fun (w : Writes) i =>
      if els.any (fun p => p.2 == i) then w else Desc.putCode s x.pt x.core b w (b.lin i) 0) w
    if a.ty = b.ty ∧ a.blk = b.blk then
      let w := els.foldl (fun (w : Writes) p => Desc.putCode s x.pt x.core b w (b.lin p.2) (rd a p.1).code) r.w
      let w2 := if b.ty.scaled && b.blk != 0 then Desc.putScale x.pt x.core b (pad w) d0 (Byte.of (rd a (nth els 0).1).sb) else w
      let dBad (p : Idx × Idx) := ((a.dev x.pt x.core (a.dataAt (a.lin p.1))).map (fun z => badLine s f (lineOf z))).getD false
      let sBad := b.ty.scaled && b.blk != 0 &&
        ((a.dev x.pt x.core (a.scaleAt (nth els 0).1)).map (fun z => badLine s f (lineOf z))).getD false
      let bl := els.filterMap (fun p => if dBad p then (b.dev x.pt x.core (b.dataAt (b.lin p.2))).map lineOf else none)
        ++ (if sBad then ((b.dev x.pt x.core (b.scaleAt d0)).map lineOf).toList else [])
      { r with w := w2, bad := dedup (r.bad ++ bl), lines := lines, psn := r.psn || !bl.isEmpty }
    else
      let c := convBlock a b (els.map (fun p => (rd a p.1, x.rand b p.2)))
      let w := (els.zip c.qs).foldl (fun (w : Writes) p => Desc.putCode s x.pt x.core b w (b.lin p.1.2) (unsgn b.ty.width p.2)) r.w
      { r with
        w := Desc.putScale x.pt x.core b (pad w) d0 (Byte.of c.sb)
        lines := lines
        sat := r.sat || c.sat
        nan := r.nan || c.nan
        psn := r.psn || c.psn
        poisoned := r.poisoned + b2n c.pois
        saturated := r.saturated + b2n c.sat }

/-- Nothing done yet. -/
def BoxRes.init : BoxRes := ⟨[], [], [], false, false, false, 0, 0⟩

/-- Where a box starts in its two tensors, and its extents: the source origin along dimensions 0 and 1 may lie outside (R160). -/
structure BoxAt where
  so0 : Int
  so1 : Int
  so : Idx
  dO : Idx
  ext : Idx
  deriving DecidableEq, Repr, Inhabited

/-- Source and destination indices of the elements of unit `n`; source elements outside the tensor are clipped (R160). -/
def BoxAt.pairs (q : BoxAt) (a b : Desc) (n : Nat) : List (Idx × Idx) :=
  (unitElems q.ext b n).filterMap (fun o =>
    let a0 := q.so0 + o.i0
    let a1 := q.so1 + o.i1
    if a0 < 0 ∨ a1 < 0 then none
    else
      let i : Idx := ⟨a0.toNat, a1.toNat, q.so.i2 + o.i2, q.so.i3 + o.i3⟩
      if a.real i then some (i, q.dO.plus o) else none)

/-- A piece of a box. -/
def boxPiece (s : State) (f : Faults) (x : EngRun) (a b : Desc) (q : BoxAt) (p : Nat) : BoxRes :=
  (unitsOf q.ext b p).foldl (fun (r : BoxRes) n => boxUnit s f x a b (q.pairs a b n) r) .init

/-- A B0 tensor's scale byte is copied with the last piece of a box between B0 tensors (R51). -/
def b0Scale (s : State) (f : Faults) (x : EngRun) (a b : Desc) (r : BoxRes) : BoxRes :=
  if a.blk = 0 ∧ b.blk = 0 ∧ b.ty.scaled then
    match a.dev x.pt x.core a.scale, b.dev x.pt x.core b.scale with
    | some u, some v =>
      let bad := badLine s f (lineOf u)
      { r with
        w := mset r.w v (s.byte u)
        lines := dedup (r.lines ++ [lineOf u])
        bad := if bad then dedup (r.bad ++ [lineOf v]) else r.bad
        psn := r.psn || bad }
    | _, _ => r
  else r

/-- The first job address of an element and its block's scale byte that cannot be reached (R17, R38). -/
def elemUnreach (s : State) (x : EngRun) (d : Desc) (i : Idx) : Option Nat :=
  let at_ := d.dataAt (d.lin i)
  if d.ts then none
  else if !s.jobReach x.pt at_ (max 1 (d.ty.width / 8)) then some at_
  else if d.ty.scaled && !s.jobReach x.pt (d.scaleAt i) 1 then some (d.scaleAt i)
  else none

/-- The first job address that units of a box access and that cannot be reached (R17, R38): what they read, and what they write with the
padding of their blocks. -/
def boxUnreach (s : State) (x : EngRun) (a b : Desc) (q : BoxAt) (units : List Nat) : Option Nat :=
  units.findSome? (fun n => (q.pairs a b n).findSome? (fun p =>
    (elemUnreach s x a p.1).or ((if b.blk = 0 then [p.2] else b.blockAll p.2).findSome? (elemUnreach s x b))))

/-- Every unit of a box. -/
def BoxAt.units (q : BoxAt) (b : Desc) : List Nat := List.range (boxUnits q.ext b).size

/-- The device addresses that a byte endpoint names; none for the fabric, or where a page is missing. -/
def End.dev (e : End) (pt : NMap Nat) (off : Nat) : Option Nat :=
  match e with
  | .job a => xlate pt (a + off)
  | .ts c o => some (tileAt c + o + off)
  | .fabric _ _ => none

/-- An endpoint meets R159 and R303; `other` is the opposite one. -/
def endOk (x : EngRun) (len : Nat) (e other : End) : Bool :=
  match e with
  | .job _ => true
  | .ts c o => x.jb.cores.testBit c && (len == 0 || decide (x.jb.tsBase ≤ o ∧ o + len ≤ x.jb.tsBase + x.jb.tsBytes))
  | .fabric _ _ => (match other with
      | .ts c _ => c == x.core
      | _ => false)

/-- The endpoint is the issuing core's own tile store. -/
def End.own (e : End) (core : Nat) : Bool := match e with
  | .ts c _ => c == core
  | _ => false

/-- The first leg of a mover task (R38, R158, R159, R17): every check before the first piece. -/
def State.movBegin (s : State) (x : EngRun) : State :=
  let base := x.jb.tsBase
  let len := x.jb.tsBytes
  let start := s.setEng x (.mov .init)
  match parseMover x.t.body with
  | none => s.badBody x
  | some (.copy _ n a b) =>
    if !(endOk x n a b && endOk x n b a && (a.own x.core || b.own x.core)) then s.badBody x
    else if n = 0 then s.modEng x (fun t => { t with eng := .mov .init, empty := true, finished := true })
    else
      let bad (e : End) : Option Nat := match e with
        | .job v => if s.jobReach x.pt v n then none else some v
        | .ts _ _ => none
        | .fabric p o => if (mget x.jb.peers p).isSome then none else some (p * 2 ^ 32 + o)
      (match bad a, bad b with
        | some v, _ => s.badAddr x v
        | none, some v => s.badAddr x v
        | none, none => start)
  | some (.box _ so dO ext a b) =>
    if !(boxDescOk a base len && boxDescOk b base len && (a.ts || b.ts) && boxTypesOk a b && boxFits so dO ext a b) then s.badBody x
    else
      let q : BoxAt := ⟨so.i0, so.i1, so, dO, ext⟩
      (match boxUnreach s x a b q (q.units b) with
        | some v => s.badAddr x v
        | none => start)
  | some (.ring _ _ ext a _ _ _ _ _ _ _ _) => if !(boxDescOk a base len && ext.i2 == 1 && ext.i3 == 1) then s.badBody x else start

/-- A byte-copy piece: lines with their source and destination device addresses. -/
def copyLines (x : EngRun) (n : Nat) (a b : End) (p : Nat) : List (Nat × Nat) :=
  (List.range (min 4096 (n - 4096 * p) / 64)).filterMap (fun k =>
    match a.dev x.pt (4096 * p + 64 * k), b.dev x.pt (4096 * p + 64 * k) with
    | some u, some v => some (u, v)
    | _, _ => none)

/-- A piece is done: progress, and the end of the work. -/
def State.pieceDone (s : State) (x : EngRun) (m : MovSt) (p : Nat) (last : Bool) : State :=
  s.modEng x (fun t => { t with
    eng := .mov { m with piece := p + 1, issued := last }, progress := some p, finished := last, nan := t.nan || m.nan })

/-- Runs of lines of a fabric piece: up to 512 bytes, uncorrectable lines by themselves (R279, R399, log 38). -/
def frameRuns (bad : Nat → Bool) : List Nat → List (List Nat × Bool)
  | [] => []
  | a :: r =>
    match frameRuns bad r with
    | (l, false) :: rest => if bad a || 8 ≤ l.length then ([a], bad a) :: (l, false) :: rest else (a :: l, false) :: rest
    | q => ([a], bad a) :: q

/-- CLASS of a job's frames (R281). -/
def Job.fabClass (jb : Job) : Nat := if jb.backhaul then 2 else 1

/-- The serai whose tags a core's movers use. -/
def coreSerai (core : Nat) : Nat := core / 32

/-- Issue requests one after another: all of them, or the first that cannot go (R85, R300). -/
def State.issueAll (s : State) : List Req → IssueRes
  | [] => .sent s
  | q :: r => match s.issue q with
    | .sent t => t.issueAll r
    | e => e

/-- The requests of a fabric piece: `wr` for writes of own tile store, else reads into it (R303, R304). -/
def fabricReqs (s : State) (f : Faults) (x : EngRun) (mover : Nat) (wr : Bool) (own peer off n p : Nat) : List Req :=
  match mget x.jb.peers peer with
  | none => []
  | some (dest, win) =>
    let lines := (List.range (min 4096 (n - 4096 * p) / 64)).map (fun k => 4096 * p + 64 * k)
    let runs := frameRuns (fun o => wr && badLine s f (own + o)) lines
    runs.map (fun q =>
      let o := nth q.1 0
      let len := 64 * q.1.length
      { serai := coreSerai x.core, dest := dest, tag := x.jb.tag, cls := x.jb.fabClass, typ := if wr then 0 else 2
        flow := 4 * x.core + mover, offset := off + o, window := win, poison := q.2
        payload := if wr then (if q.2 then zeros len else s.bytes (own + o) len) else toLE 2 q.1.length ++ zeros 62
        use_ := if wr then TxnFor.write x.j x.id else TxnFor.read x.j x.id (own + o) len })

/-- Outstanding DMA transfers of the cores that `sel` picks (R13, R85, log 63): requests of their movers that wait for an answer. -/
def State.dmaOpen (s : State) (sel : Nat → Bool) : Nat :=
  (s.dom.txns.filter (fun (t : Txn) =>
    let on (j id : Nat) : Bool := match s.taskOf j id with
      | some k => sel k.hdr.core
      | none => false
    match t.use_ with
      | .write j id => on j id
      | .read j id _ _ => on j id
      | _ => false)).length

/-- `n` more transfers fit under the bounds of a core and of its C-die (R13, R85). -/
def State.dmaRoom (s : State) (core n : Nat) : Bool :=
  decide (s.dmaOpen (fun c => c == core) + n ≤ 64 ∧ s.dmaOpen (fun c => c / 16 == core / 16) + n ≤ 2048)

/-- A fabric piece: its requests go out together, or the mover stalls (R13, R85, R86); a destination without a route fails the transfer
(R300), and so does a peer entry that is unset by now (R17, R303). -/
def State.fabricPiece (s : State) (x : EngRun) (f : Faults) (m : MovSt) (mover : Nat) (wr : Bool) (own peer off n p : Nat) (last : Bool) :
    State :=
  let reqs := fabricReqs s f x mover wr own peer off n p
  let ls := if wr then linesOf (own + 4096 * p) (min 4096 (n - 4096 * p)) else []
  if (mget x.jb.peers peer).isNone then s.badAddr x (peer * 2 ^ 32 + off + 4096 * p)
  else if !s.dmaRoom x.core reqs.length then s
  else match s.issueAll reqs with
  | .stall => s
  | .unreachable =>
    s.taskFault x.j x.id 0x000E (some { s.ev 0x0507 with
      cls := 1, srcType := x.t.src.1, srcIndex := x.t.src.2, arg0 := ((mget x.jb.peers peer).map Prod.fst).getD 0, status := 0x000E })
  | .sent s1 =>
    let s2 := s1.readMeet x f ls
    s2.modEng x (fun t => { t with eng := .mov { m with
      piece := p + 1, owed := m.owed + reqs.length, issued := last
      psn := m.psn || ls.any (badLine s f) } })

/-- The ring that a fill names: its task, its body and its state (R160); none where it is absent. -/
def ringOf (s : State) (x : EngRun) (id strm : Nat) : Option (TaskRun × MatJob × Option MatSt) :=
  match s.taskOf x.j id with
  | none => none
  | some t =>
    let y : EngRun := { x with t := t }
    if t.st = .done ∨ t.st = .failed ∨ t.st = .notRun ∨ t.st = .aborted ∨ t.fail.isSome ∨ t.hdr.core ≠ x.core
        ∨ (t.hdr.kind ≠ 0x01 ∧ t.hdr.kind ≠ 0x06) then none
    else match t.eng with
      | .mat m => (y.matJob).bind (fun b => if b.ctl.ring && decide (strm < b.streams) then some (t, b, some m) else none)
      | _ =>
        if t.st = .waiting then some (t, .mm ⟨default, [], [], []⟩, none)
        else (y.matJob).bind (fun b => if b.ctl.ring && decide (strm < b.streams) then some (t, b, none) else none)

/-- Another fill task of the job has begun on the same ring and has not ended (R160). -/
def ringTaken (s : State) (x : EngRun) (id strm : Nat) : Bool :=
  ((s.runOf x.j).map (fun r => r.tasks.any (fun (t : TaskRun) =>
    t.hdr.id != x.id && t.hdr.kind == 0x04 && (t.st == .running || t.st == .suspended) && (match t.eng with
      | .mov m => decide (0 < m.piece)
      | _ => false) && (match parseMover t.body with
      | some (.ring _ _ _ _ i k _ _ _ _ _ _) => i == id && k == strm
      | _ => false)))).getD false

/-- The steps of a ring-fill task (R160). -/
structure RingSteps where
  fills : Nat
  wrap : Nat
  a0 : Int
  a1 : Int
  b0 : Int
  b1 : Int
  deriving DecidableEq, Repr, Inhabited

/-- The box of fill `k` (R160). -/
def RingSteps.box (r : RingSteps) (so ext : Idx) (k : Nat) : BoxAt :=
  let u := k % r.wrap
  let v := k / r.wrap
  ⟨so.i0 + u * r.a0 + v * r.b0, so.i1 + u * r.a1 + v * r.b1, so, ⟨0, 0, 0, 0⟩, ext⟩

/-- The conditions of R159 on every fill of a ring: types, the panel, origins and extents along the block axis. -/
def RingSteps.fits (r : RingSteps) (so ext : Idx) (a d : Desc) : Bool :=
  let big := max a.blk d.blk
  boxTypesOk a d && decide (ext.i0 ≤ d.dim0 ∧ ext.i1 ≤ d.dim1) && (a.blk == 0 || a.axis == 0)
    && (big == 0 || (List.range r.fills).all (fun k =>
      let o := (r.box so ext k).so0
      o % (big : Int) == 0 && (ext.i0 % big == 0 || decide ((a.dim0 : Int) ≤ o + ext.i0))))

/-- The first job address that the fills of a ring would access and that cannot be reached (R17, R38). -/
def RingSteps.unreach (r : RingSteps) (s : State) (x : EngRun) (so ext : Idx) (a d : Desc) : Option Nat :=
  (List.range r.fills).findSome? (fun k => let q := r.box so ext k; boxUnreach s x a d q (q.units d))

/-- One piece of a ring fill (R105, R160): the conditions and the addresses of all fills are checked before the first. -/
def State.ringPiece (s : State) (x : EngRun) (f : Faults) (m : MovSt) (so ext : Idx) (a : Desc) (id strm : Nat) (st : RingSteps) : State :=
  match ringOf s x id strm with
  | none => s.taskFault x.j x.id 0x000D none
  | some (_, _, none) => s
  | some (rt, b, some rm) =>
    let filled := nth rm.filled strm
    let freed := nth rm.freed strm
    let d := b.wDesc strm filled
    let n := boxPieces ext d
    let k := m.piece % n
    let q := st.box so ext m.fill
    if rt.spilled.isSome || (m.piece == 0 && ringTaken s x id strm) then s
    else if m.piece = 0 ∧ !st.fits so ext a d then s.badBody x
    else
      match (if m.piece = 0 then st.unreach s x so ext a d else boxUnreach s x a d q (unitsOf ext d k)) with
      | some va => s.badAddr x va
      | none =>
        if k = 0 ∧ b.ctl.slots ≤ ringAhead filled freed then s else
        let r := boxPiece s f x a d q k
        let s1 := (s.readMeet x f r.lines).moveWrite x f r.w r.bad
        let endFill := decide (k + 1 = n)
        let m1 := { m with
          fill := if endFill then m.fill + 1 else m.fill
          sat := m.sat || r.sat
          psn := m.psn || r.psn
          nan := m.nan || r.nan
          poisoned := m.poisoned + r.poisoned
          saturated := m.saturated + r.saturated }
        let s2 := if endFill then s1.modTask x.j id (fun t => match t.eng with
            | .mat q =>
              let q1 := if t.st = .running then b.clock s.now q else q
              { t with eng := .mat { q1 with filled := setNth q.filled strm ((filled + 1) % 2 ^ 32) } }
            | _ => t)
          else s1
        s2.pieceDone x m1 m.piece (endFill && decide (m1.fill = st.fills))

/-- The next piece of a mover task (R158–R160, R399, R486). -/
def State.movPiece (s : State) (x : EngRun) (f : Faults) : State :=
  match parseMover x.t.body, x.t.eng with
  | some b, .mov m =>
    if m.issued then s
    else match b with
      | .copy mv n a c =>
        let last := decide (n ≤ 4096 * (m.piece + 1))
        (match a, c with
          | .ts _ o, .fabric p off => s.fabricPiece x f m mv true (tileAt x.core + o) p off n m.piece last
          | .fabric p off, .ts _ o => s.fabricPiece x f m mv false (tileAt x.core + o) p off n m.piece last
          | _, _ =>
            let here := min 4096 (n - 4096 * m.piece)
            let miss (e : End) : Option Nat := match e with
              | .job v => if s.jobReach x.pt (v + 4096 * m.piece) here then none else some (v + 4096 * m.piece)
              | _ => none
            (match miss a, miss c with
              | some v, _ => s.badAddr x v
              | none, some v => s.badAddr x v
              | none, none =>
                let ls := copyLines x n a c m.piece
                let bad := ls.filter (fun q => badLine s f q.1)
                let w := ls.foldl (fun (w : Writes) q =>
                  ((s.bytes q.1 64).zipIdx).foldl (fun (w : Writes) v => mset w (q.2 + v.2) v.1) w) []
                let s1 := (s.readMeet x f (ls.map Prod.fst)).moveWrite x f w (bad.map Prod.snd)
                s1.pieceDone x { m with psn := m.psn || !bad.isEmpty } m.piece last))
      | .box _ so dO ext a d =>
        let last := decide (m.piece + 1 = boxPieces ext d)
        let q : BoxAt := ⟨so.i0, so.i1, so, dO, ext⟩
        (match boxUnreach s x a d q (unitsOf ext d m.piece) with
          | some v => s.badAddr x v
          | none =>
            let r0 := boxPiece s f x a d q m.piece
            let r := if last then b0Scale s f x a d r0 else r0
            let s1 := (s.readMeet x f r.lines).moveWrite x f r.w r.bad
            s1.pieceDone x { m with
              sat := m.sat || r.sat
              psn := m.psn || r.psn
              nan := m.nan || r.nan
              poisoned := m.poisoned + r.poisoned
              saturated := m.saturated + r.saturated } m.piece last)
      | .ring _ so ext a id strm fills wrap a0 a1 b0 b1 => s.ringPiece x f m so ext a id strm ⟨fills, wrap, a0, a1, b0, b1⟩
  | _, _ => s

/-- MOVER_PIECE: a mover of a core carries out its next 4 KiB piece. -/
def execMoverPiece (core : BitVec 7) (mv : BitVec 2) (f : Faults) (s : State) : Host.Outcome State Fault Refusal :=
  .next (s.onTile (.mover core mv) (fun x => if x.t.hdr.kind = 0x04 then s.movPiece x f else s))

/-- A fabric frame of a mover task has been answered (R304): the transfer is complete when all are. -/
def State.movAnswered (s : State) (j task : Nat) : State :=
  s.modTask j task (fun t => match t.eng with
    | .mov m =>
      let owed := m.owed - 1
      { t with
        eng := .mov { m with owed := owed }
        progress := if owed = 0 ∧ 0 < m.piece then some (m.piece - 1) else t.progress
        finished := t.finished || (owed == 0 && m.issued) }
    | _ => t)

end Sys2Proof.Machine
end

