-- ==== Sys2Proof/Machine/Attention.lean ====
section
/-! DEFINITION. Attention tasks (08): the body and its checks, opening saddlebags and reserving bales, pairs of tiles forward
and backward, the integer softmax, the finish, appending tokens. -/
namespace Sys2Proof.Machine

/-- Attention control unit (R210). -/
structure AttCtl where
  phase : Nat
  append : Bool
  causal : Bool
  wide : Bool
  g : Nat
  qb : Nat
  row0 : Nat
  rows : Nat
  blk0 : Nat
  blkLast : Nat
  cache : Nat
  lt : Nat
  smMul : Nat
  dsMul : Nat
  work : Nat
  stage : Nat
  slots : Nat
  dq : Nat
  deriving DecidableEq, Repr, Inhabited

/-- A score or dO bound unit (R210). -/
structure BoundU where
  exp : Int
  addr : Nat
  n : Nat
  deriving DecidableEq, Repr, Inhabited

/-- An attention body (R210); parts that a phase does not have are absent. -/
structure AttBody where
  c : AttCtl
  q : Option (Desc × BoundU)
  newK : Option Desc
  newV : Option Desc
  dOut : Option Desc
  lseIn : Option Desc
  delta : Option Desc
  dOB : Option BoundU
  outs : List (VOut × Desc)
  lse : Option Desc
  deriving DecidableEq, Repr, Inhabited

/-- The control unit with its reserved bits zero (R210). -/
def parseAttCtl (r : List Byte) : Option AttCtl :=
  let w := fld r 0 4
  let st := fld r 0x2C 4
  let c : AttCtl := ⟨bits w 0 2, bit w 2, bit w 3, bit w 4, bits w 8 8, bits w 16 8, fld r 4 4, fld r 8 4, fld r 0x0C 4,
    fld r 0x10 4, bits (fld r 0x14 4) 0 12, bits (fld r 0x18 8) 0 44, fld r 0x20 4, fld r 0x24 4, bits (fld r 0x28 4) 0 24,
    bits st 0 24, bits st 24 8, bits (fld r 0x30 4) 0 24⟩
  let ap := c.phase == 2 || c.append
  if c.phase != 3 && (!c.append || c.phase == 0) && bits w 5 3 == 0 && bits w 24 8 == 0
    && decide (1 ≤ c.g ∧ 1 ≤ c.qb ∧ c.qb * c.g ≤ 256 ∧ 1 ≤ c.rows ∧ c.rows ≤ 65536)
    && bits (fld r 0x14 4) 12 20 == 0 && bits (fld r 0x18 8) 44 20 == 0 && c.lt % 64 == 0
    && decide (1 ≤ c.smMul ∧ c.smMul < 2 ^ 31) && (c.phase == 1 || c.dsMul == 0)
    && bits (fld r 0x28 4) 24 8 == 0 && c.work % 64 == 0 && c.stage % 64 == 0 && decide (8 ≤ c.slots)
    && bits (fld r 0x30 4) 24 8 == 0 && (c.phase == 1 || c.dq == 0) && zeroBytes r 0x34 0x40
    && (!ap || (c.blk0 == 0 && c.blkLast == 0xFFFFFFFF))
  then some c else none

/-- A bound unit (R210). -/
def parseBoundU (r : List Byte) : Option BoundU :=
  let v := fld r 0x10 8
  if r.length == 64 && zeroBytes r 1 0x10 && zeroBytes r 0x18 0x40 && bits (fld r 0 4) 0 8 != 0x80 && boundField v
  then some ⟨sgn 8 (fld r 0 1), bits v 0 44, bits v 44 7⟩ else none

/-- An output unit of an attention task: SRC, RES_EXP, RES_MODE and RES_STREAM zero (R210). -/
def parseAttOut (b : List Byte) (u : Nat) : Option (VOut × Desc) :=
  match parseVOut (unitOf b u) 0 true, parseDesc (unitOf b (u + 1)) with
  | some v, some d => some (v, d)
  | _, _ => none

/-- A body that passes the checks of R210 that its bytes alone decide. -/
def parseAtt (b : List Byte) : Option AttBody :=
  let dsc (u : Nat) : Option Desc := parseDesc (unitOf b u)
  match parseAttCtl (unitOf b 0) with
  | none => none
  | some c =>
    if c.phase = 2 then
      match dsc 1, dsc 2 with
      | some k, some v => if b.length == 192 then some ⟨c, none, some k, some v, none, none, none, none, [], none⟩ else none
      | _, _ => none
    else match dsc 1, parseBoundU (unitOf b 2) with
      | some q, some qb =>
        if c.phase = 1 then
          match dsc 3, dsc 4, dsc 5, parseBoundU (unitOf b 6), parseAttOut b 7, parseAttOut b 9, parseAttOut b 11 with
          | some dO, some l, some dl, some ob, some o1, some o2, some o3 =>
            if b.length == 832 then
              some ⟨c, some (q, qb), none, none, some dO, some l, some dl, some ob, [o1, o2, o3], none⟩
            else none
          | _, _, _, _, _, _, _ => none
        else
          let u := if c.append then 5 else 3
          match parseAttOut b u, dsc (u + 2) with
          | some o, some l =>
            if b.length != 64 * (u + 3) then none
            else if c.append then
              match dsc 3, dsc 4 with
              | some k, some v => some ⟨c, some (q, qb), some k, some v, none, none, none, none, [o], some l⟩
              | _, _ => none
            else some ⟨c, some (q, qb), none, none, none, none, none, none, [o], some l⟩
          | _, _ => none
      | _, _ => none

/-- The task extends its caches (R206). -/
def AttBody.appends (b : AttBody) : Bool := b.c.phase == 2 || b.c.append

/-- A length-table row with its reserved bits zero and its fields in range (R188): SEQ_ID and the rest. -/
def parseAttRow (r : List Byte) : Option (Nat × AttRow) :=
  let q := fld r 4 4
  let k := fld r 8 4
  let v := fld r 0x0C 4
  let a := fld r 0x10 8
  if bits q 21 11 == 0 && bits k 21 11 == 0 && decide (q ≤ 2 ^ 20 ∧ k ≤ 2 ^ 20)
    && (v == 0xFFFF || decide (v < 1024)) && bits a 44 20 == 0 && a % 64 == 0 && zeroBytes r 0x18 0x20
  then some (fld r 0 4, ⟨bits a 0 44, q, k⟩) else none

/-- The rows of the work range as memory holds them. -/
def AttBody.rowsIn (b : AttBody) (s : State) (pt : NMap Nat) : Option (List (Nat × AttRow)) :=
  (List.range b.c.rows).foldr (fun k (a : Option (List (Nat × AttRow))) =>
    match a, parseAttRow (jobBytes s pt (b.c.lt + 32 * (b.c.row0 + k)) 32) with
    | some l, some r => some (r :: l)
    | _, _ => none) (some [])

/-- The sequence of a record address. -/
def KvPool.seqAt (p : KvPool) (rec_ : Nat) : Option KvSeq := p.seqs.find? (fun q => q.seqRec == rec_)

/-- One row passes R189. -/
def rowOk (b : AttBody) (p : KvPool) (r : Nat × AttRow) : Bool :=
  match p.seqAt r.2.seqRec with
  | none => false
  | some q =>
    let d := q.dir b.c.cache
    q.id == r.1 && (if b.appends then d.len + r.2.q == r.2.kv else d.len == r.2.kv)

/-- First and one-past-last query block of row `k` in the range (R190, R210). -/
def AttBody.blocks (b : AttBody) (rows : List AttRow) (k : Nat) : Nat × Nat :=
  let n := cdiv (nth rows k).q b.c.qb
  let lo := if k = 0 then b.c.blk0 else 0
  let hi := if k + 1 = b.c.rows then min n (b.c.blkLast + 1) else n
  (lo, max lo hi)

/-- First and one-past-last token of row `k` in the range. -/
def AttBody.tokens (b : AttBody) (rows : List AttRow) (k : Nat) : Nat × Nat :=
  let r := b.blocks rows k
  let q := (nth rows k).q
  (min q (r.1 * b.c.qb), min q (r.2 * b.c.qb))

/-- Query columns of row `k`. -/
def AttBody.rowCols (b : AttBody) (rows : List AttRow) (k : Nat) : Nat :=
  let t := b.tokens rows k
  (t.2 - t.1) * b.c.g

/-- First column of row `k`; of all rows together where `k` is their number. -/
def AttBody.colBase (b : AttBody) (rows : List AttRow) (k : Nat) : Nat := ((List.range k).map (b.rowCols rows)).sum

/-- First new token of row `k` in NEW_K and NEW_V. -/
def newBase (rows : List AttRow) (k : Nat) : Nat := ((rows.take k).map (fun r => r.q)).sum

/-- Bale positions 0 … last read of row `k` (R205), as a count. -/
def AttBody.lastRead (b : AttBody) (rows : List AttRow) (k : Nat) : Nat :=
  let r := nth rows k
  let t := b.tokens rows k
  if t.2 ≤ t.1 then 0
  else if b.c.causal then (if r.kv + t.2 ≤ r.q then 0 else cdiv (min r.kv (r.kv + t.2 - r.q)) 128)
  else cdiv r.kv 128

/-- First bale position of row `k` in dK and dV. -/
def AttBody.posBase (b : AttBody) (rows : List AttRow) (k : Nat) : Nat := ((List.range k).map (b.lastRead rows)).sum

/-- Elements of a tensor, padding left out, and the index of real element `n`. -/
def Desc.reals (d : Desc) : Nat := d.dim 0 * d.dim 1 * d.dim 2 * d.dim 3
def Desc.realIdx (d : Desc) (n : Nat) : Idx :=
  ⟨n % d.dim 0, n / d.dim 0 % d.dim 1, n / d.dim 0 / d.dim 1 % d.dim 2, n / d.dim 0 / d.dim 1 / d.dim 2⟩

/-- A tensor's columns: as many as the work range gives; where it gives none no tensor can hold that, and the count is not
checked (R37, R211, log 44). -/
def colsOk (n cols : Nat) : Bool := cols == 0 || n == cols

/-- A descriptor with head width along axis 0 and blocks of 32. -/
def headShape (d : Desc) (w cols : Nat) : Bool :=
  d.blk == 32 && d.dim 0 == w && colsOk (d.dim 1) cols && d.dim 2 == 1 && d.dim 3 == 1

/-- Such a descriptor with its blocks along axis 0. -/
def headDesc (d : Desc) (w cols : Nat) : Bool := headShape d w cols && d.axis == 0

/-- Every descriptor of a body. -/
def AttBody.descs (b : AttBody) : List Desc :=
  (b.q.map Prod.fst).toList ++ b.newK.toList ++ b.newV.toList ++ b.dOut.toList ++ b.lseIn.toList ++ b.delta.toList
    ++ b.outs.map Prod.snd ++ b.lse.toList

/-- Descriptor formats of R36, R205, R206, R210 and R211 for `cols` query columns, `toks` new tokens and `pos` bale positions. -/
def AttBody.descsOk (b : AttBody) (w cols toks pos : Nat) : Bool :=
  let all (o : Option Desc) (f : Desc → Bool) : Bool := (o.map f).getD true
  let lseOk (d : Desc) : Bool := d.ty == .s32 && d.blk == 0 && colsOk d.reals cols
  all (b.q.map Prod.fst) (fun d => d.ty == .s8 && headDesc d w cols)
    && all b.newK (fun d => d.ty == .s8 && headDesc d w toks)
    && all b.newV (fun d => d.ty == .s8 && headDesc d w toks)
    && all b.dOut (fun d => (d.ty == .s8 || d.ty == .s16) && headShape d w cols)
    && all b.lseIn lseOk && all b.lse lseOk
    && all b.delta (fun d => (d.ty == .s4 || wideTy d.ty) && (d.blk == 32 || d.blk == 0) && colsOk d.reals cols)
    && (b.outs.zipIdx).all (fun (o, k) =>
        if b.c.phase = 1 then o.2.ty == .s32 && o.1.auto && o.2.cls == 1 && headDesc o.2 w (if k = 0 then cols else 128 * pos)
        else (o.2.ty == .s4 || wideTy o.2.ty) && headDesc o.2 w cols)

/-- Tile-store areas of a body (R210): the work area, the staging slots, the dQ buffer. -/
def AttBody.areas (b : AttBody) (w cols : Nat) : List (Nat × Nat) :=
  [(b.c.work, 136 * 1024), (b.c.stage, b.c.slots * 264 * w)] ++ (if b.c.phase = 1 then [(b.c.dq, 6 * w * cols)] else [])

/-- What the first leg's checks give. -/
inductive AttChk where
  | bad
  | unreach (va : Nat)
  | empty (b : AttBody)
  | ok (b : AttBody) (p : KvPool) (rows : List AttRow)
  deriving DecidableEq, Repr

/-- The checks of R38, R189, R205, R210 and R211, in that order; none writes. -/
def attCheck (s : State) (x : EngRun) : AttChk :=
  match parseAtt x.t.body with
  | none => .bad
  | some b =>
    let at_ := b.c.lt + 32 * b.c.row0
    match s.unreachIn x.pt at_ (32 * b.c.rows) with
    | some a => .unreach a
    | none => match b.rowsIn s x.pt, x.jb.kv with
      | some rs, some p =>
        let rows := rs.map Prod.snd
        let recs := rows.map (fun r => r.seqRec)
        if !(decide (b.c.cache < p.caches) && rs.all (rowOk b p) && (!b.appends || recs.length == (dedup recs).length)) then .bad
        else match recs.findSome? (fun a => s.unreachIn x.pt (a + 192 * b.c.cache) 192) with
          | some a => .unreach a
          | none =>
            let cols := b.colBase rows b.c.rows
            let lim := x.jb.tsBase + x.jb.tsBytes
            if !((b.areas p.d cols).all (fun r => decide (x.jb.tsBase ≤ r.1 ∧ r.1 + r.2 ≤ lim))
                && b.descs.all (fun d => d.inTs x.jb.tsBase x.jb.tsBytes)) then .bad
            else if !b.descsOk p.d cols (newBase rows b.c.rows) (b.posBase rows b.c.rows) then .bad
            else if cols = 0 then .empty b
            else match b.descs.findSome? (descUnreach s x) with
              | some a => .unreach a
              | none => .ok b p rows
      | _, _ => .bad

/-- Sequences and caches that a task's rows name; none where its body or its rows cannot be read. -/
def attNames (s : State) (pt : NMap Nat) (body : List Byte) : List (Nat × Nat) :=
  match parseAtt body with
  | none => []
  | some b => match b.rowsIn s pt with
    | none => []
    | some rs => rs.map (fun r => (r.2.seqRec, b.c.cache))

/-- The task is placed and has not ended: a leg of it has started (R208, R214). -/
def TaskRun.placed (t : TaskRun) : Bool := t.legs != 0 && (t.st == .running || t.st == .suspended)

/-- Attention tasks of a job that are placed, with whether they extend their caches and the caches they name. -/
def State.attPlaced (s : State) (j : Nat) : List (Nat × Bool × List (Nat × Nat)) :=
  match s.job j with
  | none => []
  | some jb => match jb.run with
    | none => []
    | some r => (r.tasks.filter (fun (t : TaskRun) => t.hdr.kind == 0x05 && t.placed)).map (fun (t : TaskRun) =>
        (t.hdr.id, ((parseAtt t.body).map AttBody.appends).getD false,
          match t.eng, parseAtt t.body with
          | .att a, some b => if a.begun then a.rows.map (fun w => (w.seqRec, b.c.cache)) else attNames s jb.pt t.body
          | _, _ => attNames s jb.pt t.body))

/-- Caches that placed tasks of a job name. -/
def State.namedCaches (s : State) (j : Nat) : List (Nat × Nat) := (s.attPlaced j).flatMap (fun p => p.2.2)

/-- An attention task's state before its first leg. -/
def AttSt.init : AttSt :=
  { begun := false, saccS := 0, saccV := 0, saccQ := 0, saccDv := 0, saccDk := 0, bounds := [], rows := [], row := 0, blk := 0
    grp := 0, opened := false, cols := [], fin := [], tiles := 0, run := 0, skip := 0, empty := 0, pois := 0, sat := false
    isat := false, psn := false, bnd := false, outs := [], appRow := 0, appTok := 0, appended := 0, flushed := 0, bales := []
    listPages := [], slots := [] }

/-- Open every row's saddlebag, then reserve the bales and list pages of every row (R207); none where one of them cannot be had. -/
def attReserve (s : State) (f : Faults) (x : EngRun) (b : AttBody) (p : KvPool) (rows : List AttRow) (named : List (Nat × Nat)) :
    Option (State × KvPool × List Nat × List Nat) :=
  let mine := rows.map (fun r => (r.seqRec, b.c.cache))
  let opened := rows.foldl (fun (a : Option (State × KvPool)) r => match a with
    | none => none
    | some (t, q) => t.openSb f x.j x.pt q r.seqRec b.c.cache x.core (named ++ mine)) (some (s, p))
  match opened with
  | none => none
  | some (t, q) =>
    rows.foldl (fun (a : Option (State × KvPool × List Nat × List Nat)) r => match a with
      | none => none
      | some (t, q, bl, lp) => match q.seqAt r.seqRec with
        | none => none
        | some sq =>
          let d := sq.dir b.c.cache
          let n := (d.sbFill + r.q) / 128
          match q.takeN 0 n with
          | none => none
          | some (l, q1) => (q1.takeN 1 (d.morePages n)).map (fun y => (t, y.2, bl ++ l, lp ++ y.1))) (some (t, q, [], []))

/-- Sequences of a job in use (R214): those that placed tasks name, and those of the task that waits (log 43). -/
def State.inUse (s : State) (j : Nat) (mine : List Nat) : List Nat := (s.namedCaches j).map Prod.fst ++ mine

/-- `q` may be pre-empted so that `r` returns (R214): lower priority, or equal and admitted later. -/
def KvSeq.yields (r q : KvSeq) : Bool := decide (r.prio < q.prio ∨ (r.prio = q.prio ∧ r.order < q.order))

/-- A sequence that may be pre-empted (R214): live, resident, not in use, not pinned, with room in the ferry area. -/
def KvPool.candidate (p : KvPool) (inUse : List Nat) (q : KvSeq) : Bool :=
  !q.ferried && !q.pinned && !inUse.contains q.seqRec && p.ferryFits q

/-- The candidate to pre-empt first: the lowest priority present, then the most recently admitted. -/
def KvPool.victim (p : KvPool) (inUse : List Nat) (only : KvSeq → Bool) : Option KvSeq :=
  (p.seqs.filter (fun q => p.candidate inUse q && only q)).foldl (fun (a : Option KvSeq) q => match a with
    | none => some q
    | some b => if b.prio < q.prio ∨ (b.prio = q.prio ∧ b.order < q.order) then some q else a) none

/-- Whether the drover may place the first leg of an attention task now, and what placing it changes (R207, R208, R216). -/
inductive AttGo where
  | go (s : State)
  | hold (s : State)
  deriving DecidableEq, Repr

/-- Post EV_KV_WAIT once for a task that no candidate can free room for (R214). -/
def State.kvWait (s : State) (x : EngRun) : State :=
  if x.t.waitNoted then s
  else (s.post { s.ev 0x0301 with job := x.j, task := x.id }).modEng x (fun t => { t with waitNoted := true })

/-- A placed task excludes this one (R208): they name one cache and one of them extends it. -/
def State.excluded (s : State) (x : EngRun) : Bool :=
  let mine := attNames s x.pt x.t.body
  let appends := ((parseAtt x.t.body).map AttBody.appends).getD false
  ((s.attPlaced x.j).filter (fun q => q.1 != x.id)).any (fun q => (q.2.1 || appends) && q.2.2.any (fun c => mine.contains c))

/-- The drover's part of placing an attention task (R207, R208, R216). -/
def State.attPlace (s : State) (f : Faults) (x : EngRun) : AttGo :=
  if s.excluded x then .hold s
  else match attCheck s x with
  | .ok b p rows =>
    let recs := rows.map (fun r => r.seqRec)
    if recs.any (fun a => ((p.seqAt a).map (fun q => q.ferried)).getD false) then
      match (recs.filterMap p.seqAt).find? (fun q => q.ferried) with
      | none => .hold s
      | some q =>
        if p.poolFits q || (p.victim (s.inUse x.j recs) (q.yields)).isSome
        then .hold s else .hold (s.kvWait x)
    else if !b.appends then .go s
    else match attReserve s f x b p rows (s.namedCaches x.j) with
      | some (t, q, bl, lp) => .go ((t.setKv x.j q).setEng x (.att { AttSt.init with bales := bl, listPages := lp }))
      | none => match p.victim (s.inUse x.j recs) (fun _ => true) with
        | some _ => .hold s
        | none => .hold (s.kvWait x)
  | _ => .go s

/-- An area becomes free values, which the manual leaves open (R210, log 44). -/
def State.scramble (s : State) (a n : Nat) : State :=
  { s.store a ((List.range n).map (fun k => Byte.of (Config.freeNat (s.freeCtr + k)))) with freeCtr := s.freeCtr + n }

/-- The accumulation scale of a backward task's dQ, dV or dK tile, which the manual does not state: a free function of the
task's body and bounds, so that the same task gives the same bits (R52, R203, log 1). -/
def backSacc (tile : Nat) (body : List Byte) (bounds : List Int) : Int :=
  (Config.backScale tile (body.map BitVec.toNat) bounds % 1024 : Nat) - 512

/-- The first row at or after `k` with a query block in the range; the number of rows where there is none. -/
def AttBody.seek (b : AttBody) (rows : List AttRow) (k : Nat) : Nat :=
  ((List.range b.c.rows).find? (fun i => decide (k ≤ i) && (let r := b.blocks rows i; decide (r.1 < r.2)))).getD b.c.rows

/-- The first row at or after `k` that appends a token. -/
def seekApp (rows : List AttRow) (k : Nat) : Nat :=
  ((List.range rows.length).find? (fun i => decide (k ≤ i) && (nth rows i).q != 0)).getD rows.length

/-- Largest bound over the rows' caches (R198); 0x81 where nothing was appended. -/
def cacheMax (p : KvPool) (c : Nat) (rows : List AttRow) (v : Bool) : Int :=
  rows.foldl (fun (m : Int) r => match p.seqAt r.seqRec with
    | none => m
    | some q => max m (((if v then (q.dir c).vmax else (q.dir c).kmax)).getD (-127))) (-127)



/-- The bounds of both passes and their accumulation scales (R122, R198); the address of a bound record that cannot be
reached otherwise. -/
def attBounds (s : State) (x : EngRun) (b : AttBody) (p : KvPool) (rows : List AttRow) : Except Nat (List Int × Int × Int) :=
  match b.q with
  | none => .ok ([], 0, 0)
  | some (_, u) => match s.boundOf x.pt u.addr u.n u.exp with
    | .error a => .error a
    | .ok eq =>
      let ek := cacheMax p b.c.cache rows false
      let ev := cacheMax p b.c.cache rows true
      match b.dOB with
      | none =>
        let ep : Int := if b.c.wide then -14 else -6
        .ok ([ek, eq, ev, ep], ek + eq + bandBound 0 - 30, ev + ep + bandBound (if b.c.wide then 4 else 0) - 30)
      | some o => match s.boundOf x.pt o.addr o.n o.exp with
        | .error a => .error a
        | .ok eo =>
          let w := (b.dOut.map (fun d => d.ty == .s16)).getD false
          .ok ([ek, eq, ev, eo], ek + eq + bandBound 0 - 30, ev + eo + bandBound (if w then 4 else 0) - 30)

/-- The first leg of an attention task (R189, R198, R211). -/
def State.attBegin (s : State) (x : EngRun) (f : Faults) : State :=
  match attCheck s x with
  | .bad => s.badBody x
  | .unreach a => s.badAddr x a
  | .empty b => s.modEng x (fun t => { t with
      eng := .att { AttSt.init with begun := true, outs := b.outs.map (fun _ => OutSum.init) }, empty := true, finished := true })
  | .ok b p rows =>
    let lines := jobLines x.pt (b.c.lt + 32 * b.c.row0) (32 * b.c.rows)
      ++ ((b.q.map (fun q => jobLines x.pt q.2.addr (64 * q.2.n))).getD [])
      ++ ((b.dOB.map (fun u => jobLines x.pt u.addr (64 * u.n))).getD [])
    match s.badMaxe x (b.outs.map (fun o => o.1.maxe)), attBounds s x b p rows with
    | some a, _ => s.badAddr x a
    | none, .error a => s.badAddr x a
    | none, .ok (bs, ss, sv) =>
      let recs := dedup (rows.flatMap (fun r => jobLines x.pt (r.seqRec + 192 * b.c.cache) 192))
      let s0 := s.fatalMeet x.reader f recs
      let s1 := s0.ctlMeet x.j x.t f (dedup lines)
      if !s1.sound x || !(badLines s f recs).isEmpty then s1
      else
        let a0 := match x.t.eng with
          | .att a => a
          | _ => AttSt.init
        let r0 := b.seek rows 0
        let back (k : Nat) : Int := if b.c.phase = 1 then backSacc k x.t.body bs else 0
        let a1 : AttSt := { a0 with
          begun := true, saccS := ss, saccV := sv, saccQ := back 0, saccDv := back 1, saccDk := back 2, bounds := bs, rows := rows
          row := r0, blk := (b.blocks rows r0).1, outs := b.outs.map (fun _ => OutSum.init), appRow := seekApp rows 0 }
        let s3 := if b.c.phase = 2 then s1 else s1.scramble (tileAt x.core + b.c.work) (136 * 1024)
        let s4 := if b.c.phase = 1 then
            s3.store (tileAt x.core + b.c.dq) (zeros (6 * p.d * b.colBase rows b.c.rows))
          else s3
        s4.setEng x (.att a1)

/-! ### Pairs -/

/-- A cache half of a bale in tile store (R183). -/
def baleDesc (off w : Nat) (v : Bool) : Desc :=
  { data := off + (if v then 132 * w else 0), ts := true, scale := off + (if v then 260 * w else 128 * w), ty := .s8, blk := 32
    axis := 0, rankM1 := 1, round := 0, cls := 0, satKeep := true, tid := 0, dim0 := w, dim1 := 128, dim2 := 0, dim3 := 0 }

/-- Where a bale position lies: its device address, and its tile-store offset where it is an open saddlebag of this core. -/
def KvDir.source (d : KvDir) (pt : NMap Nat) (core pos : Nat) : Option Nat × Option Nat :=
  match d.list[pos]? with
  | some e => (xlate pt e.1, none)
  | none =>
    if d.sbState = 1 ∧ pos = d.list.length then
      (some (tileAt d.sbCore + d.sbOff), if d.sbCore = core then some d.sbOff else none)
    else (none, none)

/-- Bale positions of a cache (R192). -/
def KvDir.positions (d : KvDir) : Nat := d.list.length + b2n (d.sbState == 1)

/-- What a pair works on. -/
structure Pair where
  b : AttBody
  w : Nat
  row : AttRow
  /-- first column of the row, first token of the row in the range -/
  base : Nat
  tok0 : Nat
  /-- tokens of the block: first and number -/
  t0 : Nat
  n : Nat
  /-- bale group and the arrays not gated, with their cache tile's offset in tile store -/
  grp : Nat
  arrays : List (Nat × Nat)
  deriving DecidableEq, Repr

/-- Columns of the block. -/
def Pair.cols (p : Pair) : Nat := p.n * p.b.c.g

/-- Query token of in-block column `n`. -/
def Pair.token (p : Pair) (n : Nat) : Nat := p.t0 + n / p.b.c.g

/-- Column of Q of in-block column `n` (R190). -/
def Pair.qCol (p : Pair) (n : Nat) : Nat := p.base + n % p.b.c.g + p.b.c.g * (p.token n - p.tok0)

/-- KV position `t` is valid for query token `i` (R191). -/
def posValid (c : AttCtl) (r : AttRow) (i t : Nat) : Bool := decide (t < r.kv) && (!c.causal || decide (t + r.q ≤ r.kv + i))

/-- Position `t` of the group is valid for column `n`. -/
def Pair.valid (p : Pair) (n t : Nat) : Bool := posValid p.b.c p.row (p.token n) (512 * p.grp + t)

/-- Array `a` holds a valid position for a column of the block (R192). -/
def arrayLive (c : AttCtl) (r : AttRow) (t0 n pos : Nat) : Bool :=
  (List.range n).any (fun k => posValid c r (t0 + k) (128 * pos))

/-- The position is real and in a tile that is not gated. -/
def Pair.here (p : Pair) (t : Nat) : Bool := decide (512 * p.grp + t < p.row.kv) && p.arrays.any (fun a => a.1 == t / 128)

/-- A cache element: token `t` of the group, element `d` of K or V. -/
def Pair.kv (p : Pair) (s : State) (f : Faults) (x : EngRun) (v : Bool) (d t : Nat) : Val :=
  match p.arrays.find? (fun a => a.1 == t / 128) with
  | none => ⟨0, 0, false, 0, 0, false⟩
  | some a => readVal s f x.pt x.core (baleDesc a.2 p.w v) ⟨d, t % 128, 0, 0⟩

/-- Re-blocking of a band whose elements carry several scales (R195). -/
def reblock (vs : List Val) : List Val :=
  match (vs.filter (fun v => !v.pois)).map (fun v => v.e) with
  | [] => vs
  | e :: r =>
    let m := r.foldl max e
    vs.map (fun v => if v.pois then { v with q := 0, e := m } else { v with q := align v.q v.e m 0 0, e := m })

/-- One band's aligned sum; none where it is poisoned (R93, R94). -/
def bandDot (sacc : Int) (xs ws : List Val) : Option Int :=
  if xs.any (fun v => v.pois) || ws.any (fun v => v.pois) then none
  else some (align (((xs.zip ws).map (fun p => p.1.q * p.2.q)).sum) ((nth xs 0).e + (nth ws 0).e) sacc 0 0)

/-- The exact sum of bands as an accumulator code, or the poison mark (R112, R118). -/
def bandsCode (bs : List (Option Int)) : Int :=
  if bs.any (fun b => b.isNone) then accPoison else accCode ((bs.map (fun b => b.getD 0)).sum)

/-- Poison of an operand counts only at valid positions (R191). -/
def Val.maskBy (v : Val) (valid : Bool) : Val := if v.pois && !valid then { v with q := 0, pois := false } else v

/-- An element passes its pass's bound (R123). -/
def Val.overs (v : Val) (b : Int) : Bool := !v.pois && decide (b < v.e)

/-- Flags that a pair raises. -/
structure AttFl where
  sat : Bool
  isat : Bool
  psn : Bool
  bnd : Bool
  deriving DecidableEq, Repr, Inhabited

/-- Join two sets of flags. -/
def AttFl.or (a b : AttFl) : AttFl := ⟨a.sat || b.sat, a.isat || b.isat, a.psn || b.psn, a.bnd || b.bnd⟩

/-- Add flags to a task. -/
def AttSt.flag (a : AttSt) (l : AttFl) : AttSt :=
  { a with sat := a.sat || l.sat || l.isat, isat := a.isat || l.isat, psn := a.psn || l.psn, bnd := a.bnd || l.bnd }

/-- Elements of a column of a head tensor. -/
def headCol (s : State) (f : Faults) (x : EngRun) (d : Desc) (w col : Nat) : List Val :=
  (List.range w).map (fun k => readVal s f x.pt x.core d ⟨k, col, 0, 0⟩)

/-- A contraction over the head width: one score or one dP (R194, R204); a streamed column whose blocks lie along the other
axis is re-blocked (R195), which leaves one of a single scale as it is. -/
def headDot (sacc : Int) (xs ws : List Val) : Int :=
  bandsCode (((chunksOf 32 xs).zip (chunksOf 32 ws)).map (fun p => bandDot sacc p.1 (reblock p.2)))

/-- One column's contraction with the group's tokens: codes by position, absent ones none; flags. -/
def Pair.column (p : Pair) (s : State) (f : Faults) (x : EngRun) (v : Bool) (sacc bx bw : Int) (n : Nat) (col : List Val) :
    List (Option Int) × AttFl :=
  (List.range 512).foldr (fun t (z : List (Option Int) × AttFl) =>
    if !p.here t then (none :: z.1, z.2)
    else
      let ks := (List.range p.w).map (fun d => p.kv s f x v d t)
      let c := headDot sacc ks col
      let ok := p.valid n t
      (some c :: z.1, z.2.or ⟨false, accIsSat c, ok && (ks.any (fun k => k.pois) || col.any (fun k => k.pois)),
        ks.any (fun k => k.overs bx) || col.any (fun k => k.overs bw)⟩)) ([], ⟨false, false, false, false⟩)

/-- exp2neg of R199. -/
def exp2neg (d : Int) : Int :=
  if d < 0 then Config.exp2negBelow d
  else
    let a := d / 65536
    let fr := d % 65536
    let t : Int := if fr = 0 then pow2 29 else (fwLookup 0 (65536 - fr)).v
    let a1 := if fr = 0 then a else a + 1
    if a1 > 31 then 0 else roundShift t a1 0 0

/-- The logit of a score (R199); a saturation mark clamps (log 44). -/
def logit (c : AttCtl) (sacc code : Int) : Int × Bool :=
  let v := align (code * c.smMul) (sacc - 30) (-16) 0 0
  if code = accPos then (typeMax 32, true) else if code = accNeg then (typeMin 32, true) else (narrow 32 v, narrowSat 32 v)

/-- A probability or dS column as the value stage streams it: blocks of 32 positions requantised (R49). -/
def quantCol (xs : List (Cell)) (ex : Int) (w : Nat) (grad : Bool) : List Val × Bool :=
  (chunksOf 32 xs).foldr (fun l (z : List Val × Bool) =>
    let b := quantCells true 0 l ex w 0
    let p := l.any (fun c => c == .poison) || (grad && b.sat)
    (b.qs.map (fun q => (⟨q, b.e, p, 0, 0, false⟩ : Val)) ++ z.1, z.2 || b.sat)) ([], false)

/-- What the score stage makes of a column (R199, R202): the column's state, its probabilities, its rescale factor. -/
structure ScoreRes where
  col : AttCol
  ps : List Val
  r : Int
  fl : AttFl
  deriving DecidableEq, Repr, Inhabited

/-- score_column of R199: every position of the group that has a score raises SAT where its logit clamps, valid or not. -/
def scoreColumn (c : AttCtl) (sacc : Int) (col : AttCol) (codes : List (Option Int)) (valid : Nat → Bool) : ScoreRes :=
  let w := if c.wide then 16 else 8
  let none_ : List Cell := List.replicate 512 (.val 0 0)
  let vs := (codes.zipIdx).filter (fun p => p.1.isSome && valid p.2)
  let pois := col.pois || vs.any (fun p => p.1 == some accPoison)
  let sat := codes.any (fun p => match p with
    | none => false
    | some v => v != accPoison && (logit c sacc v).2)
  if pois then ⟨{ col with pois := true }, (quantCol none_ (-29) w false).1, pow2 29, ⟨sat, false, true, false⟩⟩
  else match vs.map (fun p => logit c sacc (p.1.getD 0)) with
    | [] => ⟨col, (quantCol none_ (-29) w false).1, pow2 29, ⟨sat, false, false, false⟩⟩
    | z :: zs =>
      let top := zs.foldl (fun (m : Int) q => max m q.1) z.1
      let mnew := match col.m with
        | none => top
        | some m => max m top
      let r := match col.m with
        | none => pow2 29
        | some m => exp2neg (mnew - m)
      let cells := (codes.zipIdx).map (fun p => if p.1.isSome && valid p.2 then
        Cell.val (exp2neg (mnew - (logit c sacc (p.1.getD 0)).1)) 0 else Cell.val 0 0)
      let q := (quantCol cells (-29) w false).1
      let l := roundShift (col.l * r) 29 0 0 + ((q.map (fun v => align v.q v.e (-29) 0 0)).sum)
      ⟨{ col with m := some mnew, l := l.toNat }, q, r, ⟨sat, false, false, false⟩⟩

/-- One (d, n) of a value-like tile: positions contracted in bands of 32, the cache operand re-blocked (R195, R196). -/
def Pair.overTokens (p : Pair) (s : State) (f : Faults) (x : EngRun) (v : Bool) (sacc bx bw : Int) (n d : Nat) (ps : List Val) :
    Option Int × AttFl :=
  let bands := (List.range 16).filter (fun k => p.here (32 * k))
  let r := bands.map (fun k =>
    let ts := ((List.range 32).map (fun i => 32 * k + i)).filter p.here
    let raw := ts.map (fun t => p.kv s f x v d t)
    let ws := ((reblock raw).zip ts).map (fun q => q.1.maskBy (p.valid n q.2))
    let xs := ts.map (fun t => (nth ps t).maskBy (p.valid n t))
    (bandDot sacc xs ws,
      (⟨false, false, ws.any (fun w => w.pois) || xs.any (fun w => w.pois), raw.any (fun w => w.overs bx) || xs.any (fun w => w.overs bw)⟩ : AttFl)))
  if bands.isEmpty then (none, ⟨false, false, false, false⟩)
  else (some (bandsCode (r.map Prod.fst)), (r.map Prod.snd).foldl AttFl.or ⟨false, false, false, false⟩)

/-- Key of an accumulator entry (R111). -/
def accIdx (array bank row col : Nat) : Nat := (array * 4 + bank) * 32768 + row * 256 + col

/-- Write an entry. -/
def accSet (acc : NMap Int) (k : Nat) (v : Int) : NMap Int := if v = 0 then merase acc k else mset acc k v

/-- Clear a bank of an array. -/
def accClear (acc : NMap Int) (array bank : Nat) : NMap Int :=
  let lo := accIdx array bank 0 0
  acc.filter (fun p => !decide (lo ≤ p.1 ∧ p.1 < lo + 32768))

/-- Put a column of codes into bank `bank` of the arrays that computed it. -/
def putCodes (acc : NMap Int) (bank n : Nat) (codes : List (Option Int)) : NMap Int :=
  (codes.zipIdx).foldl (fun (m : NMap Int) p => match p.1 with
    | none => m
    | some c => accSet m (accIdx (p.2 / 128) bank (p.2 % 128) n) c) acc

/-- Rescale an O entry (R196); a mark stays. -/
def rescale (v r : Int) : Int := if v = accPoison ∨ accIsSat v then v else roundShift (v * r) 29 0 0

/-- Accumulators, columns and flags as a pair goes on. -/
structure PairAcc where
  acc : NMap Int
  cols : List AttCol
  fl : AttFl
  deriving DecidableEq, Repr

/-- The two tiles of a forward pair (R193–R199). -/
def Pair.forward (p : Pair) (s : State) (f : Faults) (x : EngRun) (a : AttSt) (q : Desc) (obank : Nat) (acc : NMap Int) : PairAcc :=
  let bk (k : Nat) : Int := nth a.bounds k
  (List.range p.cols).foldl (fun (z : PairAcc) n =>
    let col := headCol s f x q p.w (p.qCol n)
    let sc := p.column s f x false a.saccS (bk 0) (bk 1) n col
    let r := scoreColumn p.b.c a.saccS (nth z.cols n) sc.1 (p.valid n)
    let acc1 := putCodes z.acc 0 n sc.1
    let v := (List.range p.w).foldl (fun (y : NMap Int × AttFl) d =>
      let k := accIdx 0 obank d n
      let old := rescale (mgetD y.1 k 0) r.r
      match p.overTokens s f x true a.saccV (bk 2) (bk 3) n d r.ps with
      | (none, _) => (accSet y.1 k old, y.2)
      | (some c, fl) => (accSet y.1 k (accAdd old c), y.2.or { fl with isat := accAddIsat old c || accIsSat c })) (acc1, sc.2.or r.fl)
    ⟨v.1, setNth z.cols n r.col, z.fl.or v.2⟩) ⟨acc, a.cols, ⟨false, false, false, false⟩⟩

/-- LSE codes (R200). -/
def lseEmpty : Int := -pow2 31
def lsePoisoned : Int := -pow2 31 + 1

/-- The LSE of a column of a backward task at exponent −16: empty, poisoned, or its value. -/
inductive LseIn where
  | empty
  | poisoned
  | val (v : Int)
  deriving DecidableEq, Repr, Inhabited

/-- Read an LSE element. -/
def lseOf (v : Val) : LseIn :=
  if v.pois then .poisoned else if v.q = lseEmpty then .empty else if v.q = lsePoisoned then .poisoned
  else .val (align v.q v.e (-16) 0 0)

/-- One backward column's probabilities and dS (R204): cells by position. -/
def backCells (c : AttCtl) (saccS saccP : Int) (lse : LseIn) (dl : Val) (sc dp : List (Option Int)) (valid : Nat → Bool) :
    List Cell × List OutVal × Bool :=
  ((sc.zip dp).zipIdx).foldr (fun q (z : List Cell × List OutVal × Bool) =>
    match q.1.1, q.1.2 with
    | some sv, some pv =>
      if !valid q.2 then (.val 0 0 :: z.1, .num 0 saccP :: z.2.1, z.2.2)
      else match lse with
        | .empty => (.val 0 0 :: z.1, .num 0 saccP :: z.2.1, z.2.2)
        | .poisoned => (.poison :: z.1, .poison :: z.2.1, z.2.2)
        | .val l =>
          if sv = accPoison then (.poison :: z.1, .poison :: z.2.1, z.2.2)
          else
            let lg := logit c saccS sv
            let p := exp2neg (l - lg.1)
            let d : OutVal := match fuseVal 1 pv saccP { dl with q := -dl.q } with
              | .num v e => .num (p * v * c.dsMul) (e - 59)
              | o => o
            (.val p 0 :: z.1, d :: z.2.1, z.2.2 || lg.2)
    | _, _ => (.val 0 0 :: z.1, .num 0 saccP :: z.2.1, z.2.2)) ([], [], false)

/-- A dS column requantised as a gradient, each block at its values' lowest exponent (R47, R126, R204). -/
def quantGrad (xs : List OutVal) (sacc : Int) (w : Nat) : List Val × Bool :=
  (chunksOf 32 xs).foldr (fun l (z : List Val × Bool) =>
    let low := lowExp (sacc - 59) l
    let q := quantCol (l.map (fun o => o.cell low 0)) low w true
    (q.1 ++ z.1, z.2 || q.2)) ([], false)

/-- One entry of a tile that contracts over the block's columns, both operands re-blocked along them (R195, R204): `st` the
stationary column values of one token, `sm` the streamed ones. -/
def overCols (sacc : Int) (st sm : List Val) (valid : Nat → Bool) : Int × Bool :=
  let bs := ((chunksOf 32 ((st.zip sm).zipIdx))).map (fun l =>
    let ok := l.map (fun q => valid q.2)
    let a := ((reblock (l.map (fun q => q.1.1))).zip ok).map (fun q => q.1.maskBy q.2)
    let b := ((reblock (l.map (fun q => q.1.2))).zip ok).map (fun q => q.1.maskBy q.2)
    (bandDot sacc a b, a.any (fun v => v.pois) || b.any (fun v => v.pois)))
  (bandsCode (bs.map Prod.fst), bs.any (fun b => b.2))

/-- A 48-bit entry of the dQ buffer (R204). -/
def dqAt (core : Nat) (p : Pair) (d col : Nat) : Nat := tileAt core + p.b.c.dq + 6 * (d + p.w * col)
def dqRead (s : State) (f : Faults) (w : Writes) (a : Nat) : Int :=
  if (linesOf a 6).any (badLine s f) then accPoison
  else sgn 48 (leNat ((List.range 6).map (fun k => (mget w (a + k)).getD (s.byte (a + k)))))

/-- The five tiles of a backward pair (R204): accumulators, dQ writes, flags. -/
def Pair.backward (p : Pair) (s : State) (f : Faults) (x : EngRun) (a : AttSt) (q dO lse dl : Desc) (acc : NMap Int) :
    NMap Int × Writes × AttFl :=
  let bk (k : Nat) : Int := nth a.bounds k
  let w := if p.b.c.wide then 16 else 8
  let zero : AttFl := ⟨false, false, false, false⟩
  -- S and dP tiles, column by column
  let cols := (List.range p.cols).map (fun n =>
    let qc := headCol s f x q p.w (p.qCol n)
    let oc := headCol s f x dO p.w (p.qCol n)
    let sc := p.column s f x false a.saccS (bk 0) (bk 1) n qc
    let dp := p.column s f x true a.saccV (bk 2) (bk 3) n oc
    let l := readVal s f x.pt x.core lse (lse.realIdx (p.qCol n))
    let dv := readVal s f x.pt x.core dl (dl.realIdx (p.qCol n))
    let c := backCells p.b.c a.saccS a.saccV (lseOf l) dv sc.1 dp.1 (p.valid n)
    let pq := quantCol c.1 (-29) w false
    let dq := quantGrad c.2.1 a.saccV w
    let psn := c.1.any (fun y => y == .poison) || c.2.1.any (fun y => y == .poison)
    (qc, oc, sc.1, dp.1, pq.1, dq.1, (sc.2.or dp.2).or ⟨c.2.2 || dq.2, false, psn, false⟩))
  let acc0 := (cols.zipIdx).foldl (fun (m : NMap Int) c =>
    putCodes (putCodes m 0 c.2 c.1.2.2.1) 2 c.2 c.1.2.2.2.1) acc
  let fl0 := cols.foldl (fun (l : AttFl) c => l.or c.2.2.2.2.2.2) zero
  -- dQ tile, then its sum into the buffer
  let acc1 := accClear acc0 0 1
  let dq := (cols.zipIdx).foldl (fun (z : NMap Int × Writes × AttFl) c =>
    (List.range p.w).foldl (fun (z : NMap Int × Writes × AttFl) d =>
      match p.overTokens s f x false a.saccQ 128 128 c.2 d c.1.2.2.2.2.2.1 with
      | (none, _) => z
      | (some v, fl) =>
        let at_ := dqAt x.core p d (p.qCol c.2)
        let old := dqRead s f z.2.1 at_
        let new := accAdd old v
        (accSet z.1 (accIdx 0 1 d c.2) v,
          ((toLE 6 (unsgn 48 new)).zipIdx).foldl (fun (m : Writes) b => mset m (at_ + b.2) b.1) z.2.1,
          z.2.2.or { fl with isat := accIsSat v || accAddIsat old v })) z) (acc1, ([] : Writes), fl0)
  -- dV and dK tiles
  let toks := (List.range 512).filter p.here
  let fin := toks.foldl (fun (z : NMap Int × AttFl) t => (List.range p.w).foldl (fun (z : NMap Int × AttFl) d =>
    let vn (n : Nat) : Bool := p.valid n t
    let ps := cols.map (fun c => nth c.2.2.2.2.1 t)
    let ds := cols.map (fun c => nth c.2.2.2.2.2.1 t)
    let v := overCols a.saccDv ps (cols.map (fun c => nth c.2.1 d)) vn
    let k := overCols a.saccDk ds (cols.map (fun c => nth c.1 d)) vn
    let kv := accIdx (t / 128) 3 (t % 128) d
    let kk := accIdx (t / 128) 3 (t % 128) (128 + d)
    let ov := mgetD z.1 kv 0
    let ok := mgetD z.1 kk 0
    (accSet (accSet z.1 kv (accAdd ov v.1)) kk (accAdd ok k.1),
      z.2.or ⟨false, accIsSat v.1 || accIsSat k.1 || accAddIsat ov v.1 || accAddIsat ok k.1, v.2 || k.2, false⟩)) z) (dq.1, dq.2.2)
  (fin.1, dq.2.1, fin.2)

/-- The cache of the current row. -/
def attDir (p : KvPool) (b : AttBody) (r : AttRow) : KvDir := ((p.seqAt r.seqRec).map (fun q => q.dir b.c.cache)).getD .init

/-- Bale groups of the current row (R193). -/
def attGroups (p : KvPool) (b : AttBody) (r : AttRow) : Nat := cdiv (attDir p b r).positions 4

/-- Fetch a position into its staging slot (R209), unless the slot holds it or the position is read in place: the state, the
slots held, the tile-store offset; the address of a page that is gone otherwise. -/
def State.stageBale (s : State) (f : Faults) (x : EngRun) (b : AttBody) (p : KvPool) (d : KvDir) (row pos : Nat) (slots : NMap (Nat × Nat)) :
    Except Nat (State × NMap (Nat × Nat) × Nat) :=
  match d.source x.pt x.core pos with
  | (_, some off) => .ok (s, slots, off)
  | (none, none) => .error ((d.list[pos]?).map Prod.fst |>.getD 0)
  | (some src, none) =>
    let k := pos % b.c.slots
    let off := b.c.stage + k * 264 * p.d
    if mget slots k = some (row, pos) then .ok (s, slots, off)
    else .ok (s.carry x.reader f x.j x.pt src (tileAt x.core + off) (264 * p.d), mset slots k (row, pos), off)

/-- Stage positions of a bale group (R209): every one that is present, gated or not. -/
def State.stageAll (s : State) (f : Faults) (x : EngRun) (b : AttBody) (p : KvPool) (d : KvDir) (row grp : Nat) (slots : NMap (Nat × Nat)) :
    List Nat → Except Nat (State × NMap (Nat × Nat) × List (Nat × Nat))
  | [] => .ok (s, slots, [])
  | a :: r => match s.stageBale f x b p d row (4 * grp + a) slots with
    | .error e => .error e
    | .ok (t, sl, off) => match t.stageAll f x b p d row grp sl r with
      | .error e => .error e
      | .ok (u, sl2, l) => .ok (u, sl2, (a, off) :: l)

/-- Lines of the tile operands of a pair: the real tokens of its bales, and the columns of the streamed tensors. -/
def Pair.lines (p : Pair) (x : EngRun) (v : Bool) (ds : List Desc) (cols : List Desc) : List Nat :=
  let toks := (List.range 512).filter p.here
  let kv := toks.flatMap (fun t => match p.arrays.find? (fun a => a.1 == t / 128) with
    | none => []
    | some a => (List.range (p.w / 32)).flatMap (fun k =>
        Desc.linesAt x.pt x.core (baleDesc a.2 p.w false) ⟨32 * k, t % 128, 0, 0⟩
          ++ (if v then Desc.linesAt x.pt x.core (baleDesc a.2 p.w true) ⟨32 * k, t % 128, 0, 0⟩ else [])))
  let st := (List.range p.cols).flatMap (fun n => ds.flatMap (fun d =>
      ((List.range p.w).filter (fun k => k % 32 == 0 || d.axis != 0)).flatMap (fun k =>
        Desc.linesAt x.pt x.core d ⟨k, p.qCol n, 0, 0⟩))
    ++ cols.flatMap (fun d => Desc.linesAt x.pt x.core d (d.realIdx (p.qCol n))))
  dedup (kv ++ st)

/-- Tiles done, held back by the oldest finish that is owed (R410); none before the first. -/
def AttSt.mark (a : AttSt) : Option Nat :=
  let done := match a.fin with
    | [] => a.tiles
    | e :: _ => min a.tiles (e.tile - 1)
  if done = 0 then none else some (done - 1)

/-- Every row's tokens have been appended. -/
def AttBody.appDone (b : AttBody) (a : AttSt) : Bool := !b.appends || decide (a.rows.length ≤ a.appRow)

/-- The work of the task is done. -/
def AttBody.complete (b : AttBody) (a : AttSt) : Bool :=
  b.appDone a && (b.c.phase == 2 || (decide (b.c.rows ≤ a.row) && a.fin.isEmpty))

/-- The cursor after a pair of block `blk` and group `grp` (R193, R204): a block or group that ends waits for its finish. -/
def AttBody.advance (b : AttBody) (a : AttSt) (groups : Nat) : AttSt :=
  let r := b.blocks a.rows a.row
  let nextRow : AttSt :=
    let k := b.seek a.rows (a.row + 1)
    { a with row := k, blk := (b.blocks a.rows k).1, grp := 0, opened := false, cols := [] }
  if b.c.phase = 1 then
    if a.blk + 1 < r.2 ∧ a.grp < groups then { a with blk := a.blk + 1 }
    else
      let fin := a.fin ++ [⟨a.row, a.grp, [], a.tiles⟩]
      if a.grp + 1 < groups then { a with blk := r.1, grp := a.grp + 1, opened := false, fin := fin }
      else { nextRow with fin := fin }
  else if a.grp + 1 < groups then { a with grp := a.grp + 1 }
  else
    let fin := a.fin ++ [⟨a.row, a.blk, a.cols, a.tiles⟩]
    if a.blk + 1 < r.2 then { a with blk := a.blk + 1, grp := 0, opened := false, cols := [], fin := fin }
    else { nextRow with fin := fin }

/-- The banks that the next pair uses are free (R197): the O bank of the block's parity, or bank 3 before a new group. -/
def AttBody.mayPair (b : AttBody) (a : AttSt) : Bool :=
  if b.c.phase = 1 then a.opened || a.fin.isEmpty else a.opened || a.fin.all (fun e => e.blk % 2 != a.blk % 2)

/-- The accumulators as a block or a bale group opens. -/
def AttBody.openBanks (b : AttBody) (a : AttSt) (acc : NMap Int) : NMap Int :=
  if a.opened then acc
  else if b.c.phase = 1 then (List.range 4).foldl (fun (m : NMap Int) k => accClear m k 3) acc
  else accClear acc 0 (if a.blk % 2 = 0 then 1 else 3)

/-- One pair of an attention task, run or skipped (R192, R193, R204). -/
def State.attPair (s : State) (x : EngRun) (f : Faults) : State :=
  match parseAtt x.t.body, x.t.eng, x.jb.kv with
  | some b, .att a0, some p =>
    if !(a0.begun && b.appDone a0 && b.c.phase != 2 && decide (a0.row < b.c.rows) && b.mayPair a0) then s
    else
      let row := nth a0.rows a0.row
      let d := attDir p b row
      let groups := attGroups p b row
      let tk := b.tokens a0.rows a0.row
      let t0 := a0.blk * b.c.qb
      let n := min row.q (t0 + b.c.qb) - t0
      let acc := b.openBanks a0 (s.core x.core).acc
      let a := if a0.opened then a0 else { a0 with opened := true, cols := List.replicate (n * b.c.g) ⟨none, 0, false⟩ }
      let step := if b.c.phase = 1 then 5 else 2
      let done (t : State) (a1 : AttSt) : State := t.modEng x (fun t => { t with eng := .att a1, progress := a1.mark })
      let present := (List.range 4).filter (fun k => decide (4 * a.grp + k < d.positions))
      let live := present.filter (fun k => arrayLive b.c row t0 n (4 * a.grp + k))
      let put (t : State) (m : NMap Int) : State := t.setCore x.core { t.core x.core with acc := m }
      if groups = 0 then done (put s acc) (b.advance a groups)
      else if live.isEmpty then
        done (put s acc) (b.advance { a with tiles := a.tiles + step, skip := a.skip + 1 } groups)
      else match s.stageAll f x b p d a.row a.grp a.slots present with
        | .error va => s.badAddr x va
        | .ok (s1, slots, staged) =>
          let arrays := staged.filter (fun q => live.contains q.1)
          let pr : Pair := ⟨b, p.d, row, b.colBase a.rows a.row, tk.1, t0, n, a.grp, arrays⟩
          let a1 := { a with tiles := a.tiles + step, run := a.run + 1, slots := slots }
          match b.q with
          | none => s
          | some (q, _) =>
            match b.dOut, b.lseIn, b.delta with
            | some dO, some lse, some dl =>
              let r := pr.backward s1 f x a1 q dO lse dl acc
              let s2 := (s1.readMeet x f (pr.lines x true [q, dO] [lse, dl])).engWrite x f r.2.1
              done (put s2 r.1) (b.advance (a1.flag r.2.2) groups)
            | _, _, _ =>
              let r := pr.forward s1 f x a1 q (if a1.blk % 2 = 0 then 1 else 3) acc
              let s2 := s1.readMeet x f (pr.lines x true [q] [])
              done (put s2 r.acc) (b.advance ({ a1 with cols := r.cols }.flag r.fl) groups)
  | _, _, _ => s

/-- ATTENTION_PAIR. -/
def execAttentionPair (core : BitVec 7) (f : Faults) (s : State) : Host.Outcome State Fault Refusal :=
  .next (s.onTile (.array core) (fun x => if x.t.hdr.kind = 0x05 then (s.accFault x f).attPair x f else s))

/-! ### Finish -/

/-- An accumulator code at its scale as an output value (R127). -/
def codeVal (v e : Int) : OutVal :=
  if v = accPoison then .poison else if v = accPos then .hi else if v = accNeg then .lo else .num v e

/-- Write one column of a head tensor from values, block by block (R200, R205). -/
def headWrite (s : State) (x : EngRun) (o : VOut × Desc) (w col : Nat) (pois : Bool) (ex : Int) (vs : List OutVal)
    (a : Writes × OutSum) : Writes × OutSum :=
  (List.range (w / 32)).foldl (fun (z : Writes × OutSum) k =>
    let ids := (List.range 32).map (fun i => (⟨32 * k + i, col, 0, 0⟩ : Idx))
    let cells := (ids.zip ((vs.drop (32 * k)).take 32)).map (fun q => (q.1, q.2.cell ex (x.rand o.2 q.1)))
    putBlock s x.pt x.core o.2 ⟨o.1.auto, o.1.given⟩ ex pois cells z) a

/-- finish(n) of R200: the column's elements with their exponent, whether it is poisoned, its LSE. -/
def finishCol (c : AttCol) (saccV : Int) (os : List Int) : Int × Bool × List OutVal × Int × Bool :=
  if c.pois then (saccV, true, os.map (fun _ => OutVal.num 0 saccV), lsePoisoned, false)
  else match c.m with
    | none => (saccV, false, os.map (fun _ => OutVal.num 0 saccV), lseEmpty, false)
    | some m =>
      let nl := bitLen c.l
      let mant : Int := if nl ≤ 17 then (c.l * 2 ^ (17 - nl) : Nat) else (c.l / 2 ^ (nl - 17) : Nat)
      let t := (fwLookup 2 mant).v
      let e := saccV - nl
      let l := max (-pow2 31 + 2) (m + ((nl : Int) - 30) * 65536 + roundShift (fwLookup 1 mant).v 14 0 0)
      (e, false, os.map (fun v => match codeVal v e with
        | .num y k => .num (y * t) k
        | o => o), narrow 32 l, narrowSat 32 l)

/-- Write an LSE element and its scale byte 0xF0 (R200). -/
def lseWrite (s : State) (x : EngRun) (d : Desc) (n : Nat) (v : Int) (w : Writes) : Writes :=
  let i := d.realIdx n
  Desc.putScale x.pt x.core d (Desc.putCode s x.pt x.core d w (d.lin i) (unsgn 32 v)) i 0xF0#8

/-- The finish of a forward query block (R200–R202). -/
def attFinFwd (s : State) (x : EngRun) (b : AttBody) (p : KvPool) (a : AttSt) (e : AttFin) (o : VOut × Desc) (l : Desc) :
    Writes × AttSt :=
  let acc := (s.core x.core).acc
  let bank := if e.blk % 2 = 0 then 1 else 3
  let tk := b.tokens a.rows e.row
  let base := b.colBase a.rows e.row + b.c.g * (e.blk * b.c.qb - tk.1)
  let r := (e.cols.zipIdx).foldl (fun (z : Writes × OutSum × AttSt) c =>
    let os := (List.range p.d).map (fun d => mgetD acc (accIdx 0 bank d c.2) 0)
    let v := finishCol c.1 a.saccV os
    let w := headWrite s x o p.d (base + c.2) v.2.1 v.1 v.2.2.1 (z.1, z.2.1)
    let st := z.2.2
    (lseWrite s x l (base + c.2) v.2.2.2.1 w.1, w.2,
      { st with
        empty := if v.2.2.2.1 = lseEmpty then st.empty + 1 else st.empty
        pois := if v.2.2.2.1 = lsePoisoned then st.pois + 1 else st.pois
        sat := st.sat || v.2.2.2.2 })) (([] : Writes), nth a.outs 0, a)
  (r.1, { r.2.2 with outs := [r.2.1], sat := r.2.2.sat || r.2.1.sat })

/-- The finish of a backward bale group (R205): its dK and dV, and the row's dQ after its last group. -/
def attFinBwd (s : State) (x : EngRun) (b : AttBody) (p : KvPool) (a : AttSt) (e : AttFin) (f : Faults) : Writes × AttSt :=
  let acc := (s.core x.core).acc
  let row := nth a.rows e.row
  let groups := attGroups p b row
  let npos := b.lastRead a.rows e.row
  let here := ((List.range 4).map (fun k => 4 * e.blk + k)).filter (fun q => decide (q < npos))
  let kvCols := here.flatMap (fun q => (List.range 128).map (fun t => (q, t)))
  let oQ := nth b.outs 0
  let oK := nth b.outs 1
  let oV := nth b.outs 2
  let base := 128 * b.posBase a.rows e.row
  let kv (o : VOut × Desc) (off : Nat) (sc : Int) (z : Writes × OutSum) : Writes × OutSum :=
    kvCols.foldl (fun (z : Writes × OutSum) c =>
      let vs := (List.range p.d).map (fun d => codeVal (mgetD acc (accIdx (c.1 % 4) 3 c.2 (off + d)) 0) sc)
      headWrite s x o p.d (base + 128 * c.1 + c.2) false sc vs z) z
  let last := decide (groups ≤ e.blk + 1)
  let z0 : Writes × OutSum := ([], nth a.outs 0)
  let zq := if !last then z0
    else (List.range (b.rowCols a.rows e.row)).foldl (fun (z : Writes × OutSum) n =>
      let col := b.colBase a.rows e.row + n
      let pr : Pair := ⟨b, p.d, row, 0, 0, 0, 0, 0, []⟩
      let vs := (List.range p.d).map (fun d => codeVal (dqRead s f [] (dqAt x.core pr d col)) a.saccQ)
      headWrite s x oQ p.d col false a.saccQ vs z) z0
  let zk := kv oK 128 a.saccDk (zq.1, nth a.outs 1)
  let zv := kv oV 0 a.saccDv (zk.1, nth a.outs 2)
  (zv.1, { a with
    outs := [zq.2, zk.2, zv.2]
    sat := a.sat || zq.2.sat || zk.2.sat || zv.2.sat
    psn := a.psn || (zq.2.poisoned + zk.2.poisoned + zv.2.poisoned != 0) })

/-- The oldest finish that is owed (R200, R205); after the last, the bound records (R131). -/
def State.attFinish (s : State) (x : EngRun) : State :=
  match parseAtt x.t.body, x.t.eng, x.jb.kv with
  | some b, .att a, some p =>
    match a.fin with
    | [] => s
    | e :: rest =>
      let r := match b.lse with
        | some l => attFinFwd s x b p { a with fin := rest } e (nth b.outs 0) l
        | none => attFinBwd s x b p { a with fin := rest } e noFaults
      let a1 := r.2
      let fin := b.complete a1
      let s1 := (s.moveWrite x noFaults r.1 []).modEng x (fun t => { t with eng := .att a1, progress := a1.mark, finished := fin })
      if fin then (b.outs.zip a1.outs).foldl (fun (t : State) q => t.writeBound x q.1.1.maxe q.2.maxByte) s1 else s1
  | _, _, _ => s

/-- ATTENTION_FINISH. -/
def execAttentionFinish (core : BitVec 7) (s : State) : Host.Outcome State Fault Refusal :=
  .next (s.onEngine (.array core) (fun x => if x.t.hdr.kind = 0x05 then s.attFinish x else s))

/-! ### Append -/

/-- Writes that copy one token of a new tensor into a bale half (R206): bytes unchanged; blocks read uncorrectable are
poisoned (R41). -/
def tokenWrites (s : State) (f : Faults) (x : EngRun) (d : Desc) (off w core tok slot : Nat) (v : Bool) (m : Writes) : Writes :=
  let t := baleDesc off w v
  (List.range w).foldl (fun (m : Writes) k =>
    let z := readVal s f x.pt x.core d ⟨k, tok, 0, 0⟩
    let m1 := mset m (tileAt core + t.dataAt (t.lin ⟨k, slot, 0, 0⟩)) (Byte.of z.code)
    if k % 32 = 0 then mset m1 (tileAt core + t.scaleAt ⟨k, slot, 0, 0⟩) (if z.lost then poisonScale else Byte.of z.sb) else m1) m

/-- Largest scale of a token's blocks that are not poisoned, joined to a maximum (R186). -/
def tokenMax (s : State) (f : Faults) (x : EngRun) (d : Desc) (w tok : Nat) (m : Option Int) : Option Int :=
  (List.range (w / 32)).foldl (fun (m : Option Int) k =>
    let z := readVal s f x.pt x.core d ⟨32 * k, tok, 0, 0⟩
    if z.pois then m else some ((m.map (fun e => max e z.e)).getD z.e)) m

/-- The row under the append cursor is done: its directory entry is written and the cursor moves on (R206). -/
def State.appRowDone (s : State) (x : EngRun) (b : AttBody) (p : KvPool) (a : AttSt) : State × AttSt :=
  let row := nth a.rows a.appRow
  match p.seqAt row.seqRec with
  | none => (s, a)
  | some q =>
    if a.appTok = row.q ∧ (q.dir b.c.cache).sbFill < 128 then
      (s.writeDir x.pt q b.c.cache, { a with appRow := seekApp a.rows (a.appRow + 1), appTok := 0 })
    else (s, a)

/-- Tokens of the task. -/
def AttSt.newTotal (a : AttSt) : Nat := newBase a.rows a.rows.length

/-- Put an append's progress back (R193): one tile for each 32 tokens. -/
def State.appPut (s : State) (x : EngRun) (b : AttBody) (p : KvPool) (a : AttSt) : State :=
  let tiles := if b.c.phase = 2 then (if b.appDone a then cdiv a.appended 32 else a.appended / 32) else a.tiles
  let a1 := { a with tiles := tiles }
  (s.setKv x.j p).modEng x (fun t => { t with eng := .att a1, progress := a1.mark, finished := b.complete a1 })

/-- A block of a new tensor's token was read uncorrectable (R41, R42). -/
def tokenLost (s : State) (f : Faults) (x : EngRun) (d : Desc) (w tok : Nat) : Bool :=
  (List.range (w / 32)).any (fun k => (readVal s f x.pt x.core d ⟨32 * k, tok, 0, 0⟩).lost)

/-- Copy the next tokens of the current row into its saddlebag, up to the end of the tile of 32 (R193, R206). -/
def State.attAppend (s : State) (x : EngRun) (f : Faults) : State :=
  match parseAtt x.t.body, x.t.eng, x.jb.kv with
  | some b, .att a, some p =>
    match b.newK, b.newV with
    | some dk, some dv =>
      if !(a.begun && !b.appDone a) then s
      else
        let row := nth a.rows a.appRow
        match p.seqAt row.seqRec with
        | none => s
        | some q =>
          let d := q.dir b.c.cache
          let n := min (min (32 - a.appended % 32) (row.q - a.appTok)) (128 - d.sbFill)
          if n = 0 then s
          else
            let base := newBase a.rows a.appRow + a.appTok
            let ids := List.range n
            let w := ids.foldl (fun (m : Writes) i =>
              tokenWrites s f x dv d.sbOff p.d d.sbCore (base + i) (d.sbFill + i) true
                (tokenWrites s f x dk d.sbOff p.d d.sbCore (base + i) (d.sbFill + i) false m)) []
            let ls := ids.flatMap (fun i => (List.range (p.d / 32)).flatMap (fun k =>
              Desc.linesAt x.pt x.core dk ⟨32 * k, base + i, 0, 0⟩ ++ Desc.linesAt x.pt x.core dv ⟨32 * k, base + i, 0, 0⟩))
            let d1 := { d with
              len := d.len + n
              sbFill := d.sbFill + n
              kmax := ids.foldl (fun m i => tokenMax s f x dk p.d (base + i) m) d.kmax
              vmax := ids.foldl (fun m i => tokenMax s f x dv p.d (base + i) m) d.vmax
              used := p.nextOrder }
            let p1 := { p.setSeq { q with dirs := mset q.dirs b.c.cache d1 } with nextOrder := p.nextOrder + 1 }
            let lost := ids.any (fun i => tokenLost s f x dk p.d (base + i) || tokenLost s f x dv p.d (base + i))
            let a1 := { a with appTok := a.appTok + n, appended := a.appended + n, psn := a.psn || lost }
            let s1 := (s.readMeet x f ls).engWrite x f w
            let r := s1.appRowDone x b p1 a1
            r.1.appPut x b p1 r.2
    | _, _ => s
  | _, _, _ => s

/-- APPEND_TOKENS. -/
def execAppendTokens (core : BitVec 7) (f : Faults) (s : State) : Host.Outcome State Fault Refusal :=
  .next (s.onTile (.array core) (fun x => if x.t.hdr.kind = 0x05 then s.attAppend x f else s))

/-- Flush a full saddlebag to the next reserved bale (R206): the list gains a full entry. -/
def State.attFlush (s : State) (x : EngRun) (f : Faults) : State :=
  match parseAtt x.t.body, x.t.eng, x.jb.kv with
  | some b, .att a, some p =>
    if !(a.begun && !b.appDone a) then s
    else
      let row := nth a.rows a.appRow
      match p.seqAt row.seqRec, a.bales with
      | some q, bale :: rest =>
        let d := q.dir b.c.cache
        if d.sbFill ≠ 128 then s
        else match xlate x.pt bale with
          | none => s.badAddr x bale
          | some dst =>
            let more := d.morePages 1
            let d1 := { d with list := d.list ++ [(bale, 128)], pages := d.pages ++ a.listPages.take more, sbFill := 0 }
            let q1 := { q with dirs := mset q.dirs b.c.cache d1 }
            let p1 := p.setSeq q1
            let s1 := (s.carry x.reader f x.j x.pt (tileAt d.sbCore + d.sbOff) dst (264 * p.d)).writeList x.pt d1 d.list.length
            let a1 := { a with bales := rest, listPages := a.listPages.drop more, flushed := a.flushed + 1 }
            let r := s1.appRowDone x b p1 a1
            r.1.appPut x b p1 r.2
      | _, _ => s
  | _, _, _ => s

/-- SADDLEBAG_FLUSH. -/
def execSaddlebagFlush (core : BitVec 7) (f : Faults) (s : State) : Host.Outcome State Fault Refusal :=
  .next (s.onEngine (.array core) (fun x => if x.t.hdr.kind = 0x05 then s.attFlush x f else s))

end Sys2Proof.Machine
end

