-- ==== Sys2Proof/Machine/Replay.lean ====
section
/-! DEFINITION. The replay log (18, R476, R477) and what replay mode takes from it (R478–R480). -/
namespace Sys2Proof.Machine

/-- Bytes padded to whole 64-byte lines. -/
def padLines (b : List Byte) : List Byte := fitBytes (cdiv b.length 64 * 64) b

/-- Bytes of pages from an offset on. -/
def State.pagesRead (s : State) (pages : List Nat) (off n : Nat) : List Byte :=
  (List.range n).map (fun k => s.byte (nth pages ((off + k) / 2 ^ 21) * 2 ^ 21 + (off + k) % 2 ^ 21))

/-- Bytes that a manifest holds: header, positions, trailing drops (R239). -/
def maniLen (head : List Byte) : Nat := 64 + 32 * (fld head 8 2 + fld head 0x0A 1)

/-- A manifest entry of the log (R477). -/
def logManifest (chan batch salt : Nat) (m : List Byte) : List Byte :=
  padLines (toLE 4 1 ++ toLE 4 (32 + m.length) ++ toLE 8 (chan % 64) ++ toLE 8 batch ++ toLE 8 salt ++ m)

/-- A collective entry of the log (R477). -/
def logCollective (task group inD outD seq off : Nat) : List Byte :=
  toLE 4 2 ++ toLE 4 64 ++ toLE 4 task ++ toLE 4 (group % 256) ++ toLE 8 inD ++ toLE 8 outD
    ++ toLE 4 seq ++ toLE 4 off ++ zeros 24

/-- Entries of a record, first to last. -/
def logSplit : Nat → List Byte → List (List Byte)
  | 0, _ => []
  | fuel + 1, b =>
    if b.length < 64 then []
    else
      let n := max 64 (cdiv (fld b 4 4) 64 * 64)
      b.take n :: logSplit fuel (b.drop n)

/-- Bytes of one result slot: half of the upper half (R476). -/
def ReplayLog.slotBytes (l : ReplayLog) : Nat := l.pages * 2 ^ 19

/-- Job address of the result slot of a step in an area. -/
def resultSlot (va pages step : Nat) : Nat := va + pages * 2 ^ 20 + step % 2 * (pages * 2 ^ 19)

/-- The step record of a running step, its entries after it (R476, R477). -/
def stepRecord (jb : Job) (r : RunStep) (entries : List (List Byte)) : List Byte :=
  let body := entries.flatMap padLines
  toLE 4 r.q.step ++ toLE 4 (r.q.list % 2 ^ 16 + b2n r.q.update * 2 ^ 16 + b2n r.resultsLost * 2 ^ 17) ++ toLE 8 jb.seed
    ++ toLE 8 (r.headroom % 256 + b2n r.skip * 2 ^ 8) ++ toLE 8 r.devTally ++ toLE 8 r.totTally ++ toLE 4 entries.length
    ++ toLE 4 (64 + body.length) ++ zeros 16 ++ body

/-- The log header (R476). -/
def logHeader (newest oldest : Nat) : List Byte := toLE 8 0x474C5A50 ++ toLE 4 newest ++ toLE 4 oldest ++ zeros 48

/-- Place a record of `n` bytes: it starts at 64 where it would cross the end, and overwrites older ones (R476). -/
def ReplayLog.place (l : ReplayLog) (n : Nat) : Nat × ReplayLog :=
  let size := ringBytes l.pages l.keep
  let at_ := if l.next + n ≤ size then l.next else 64
  let kept := l.recs.filter (fun p => decide (p.1 + p.2 ≤ at_ ∨ at_ + n ≤ p.1))
  (at_, { l with next := at_ + n, recs := kept ++ [(at_, n)] })

/-- The entries of a step's batches, channel by channel (R477). -/
def State.manifestEntries (s : State) (chs : List Nat) (base : Chan → Nat → Nat) : List (List Byte) :=
  chs.flatMap (fun n => match mget s.chans n with
    | none => []
    | some c =>
      let u := c.consumed - 1
      let pages := nth c.sets (u % c.buffers)
      (List.range (min c.stepBatches (c.batches - u * c.stepBatches))).map (fun i =>
        let off := base c i
        logManifest n (u * c.stepBatches + i) c.salt (s.pagesRead pages off (maniLen (s.pagesRead pages off 64)))))

/-- The close of a step writes its record and then the header (R476). A record larger than the ring is not written, nor one
whose area cannot be reached (log 35). -/
def State.logStep (s : State) (j : Nat) (base : Chan → Nat → Nat) : State :=
  match s.job j with
  | none => s
  | some jb => match jb.replayLog, jb.run with
    | some l, some r =>
      let d := stepRecord jb r (s.manifestEntries r.q.chans base ++ r.logEntries)
      if !s.jobReach jb.pt l.va (l.pages * 2 ^ 21) || decide (ringBytes l.pages l.keep < 64 + d.length) then s
      else
        let p := l.place d.length
        let oldest := ((p.2.recs.head?).map Prod.fst).getD p.1
        ((s.jobPut j (l.va + p.1) d).jobPut j l.va (logHeader p.1 oldest)).modJob j (fun (b : Job) => { b with replayLog := some p.2 })
    | _, _ => s

/-- Log a completed collective (R477): with results kept, the output's planes go into the step's slot while they fit. -/
def State.logColl (s : State) (j task group seq inD outD : Nat) (planes : List Byte) : State :=
  match s.job j with
  | none => s
  | some jb => match jb.replayLog, jb.run with
    | some l, some r =>
      let fits := l.keep && decide (r.resultUsed + planes.length ≤ l.slotBytes)
        && s.jobReach jb.pt l.va (l.pages * 2 ^ 21)
      let off := if fits then r.resultUsed else 0xFFFFFFFF
      let s1 := if fits then s.jobPut j (resultSlot l.va l.pages r.q.step + off) planes else s
      s1.modRun j (fun (r : RunStep) => { r with
        logEntries := r.logEntries ++ [logCollective task group inD outD seq off]
        resultUsed := if fits then r.resultUsed + cdiv planes.length 64 * 64 else r.resultUsed
        resultsLost := r.resultsLost || (l.keep && !fits) })
    | _, _ => s

/-! ### Replay -/

/-- Replay mode is on for this job (R478). -/
def State.replayOf (s : State) (j : Nat) : Option Replay := s.dbg.replay.filter (fun (r : Replay) => r.job == j)

/-- The log's record of the step that runs or comes next, and its entries. -/
def State.replayRec (s : State) (j : Nat) : Option (List Byte × List (List Byte)) :=
  match s.replayOf j, s.job j with
  | some r, some jb =>
    let step : Option Nat := (jb.run.map (fun (q : RunStep) => q.q.step)).or ((jb.queue.head?).map (fun (q : QStep) => q.step))
    (step.bind (s.replayRecord jb r)).map (fun off =>
      let n := fld (jobBytes s jb.pt (r.logVa + off) 64) 0x2C 4
      let b := jobBytes s jb.pt (r.logVa + off) n
      (b.take 64, logSplit (fld b 0x28 4) (b.drop 64)))
  | _, _ => none

/-- Change the replay state. -/
def State.modReplay (s : State) (f : Replay → Replay) : State := { s with dbg := { s.dbg with replay := s.dbg.replay.map f } }

/-- The logged manifest of the `i`-th batch of a channel in the step (R479). -/
def State.loggedBatch (s : State) (j chan i : Nat) : Option (List Byte) :=
  (s.replayRec j).bind (fun p => ((p.2.filter (fun e => fld e 0 1 == 1 && bits (fld e 8 1) 0 6 == chan))[i]?).map (fun e => e.drop 32))

/-- The logged entry of a collective task (R479). -/
def State.loggedColl (s : State) (j task : Nat) : Option (List Byte) :=
  (s.replayRec j).bind (fun p => p.2.find? (fun e => fld e 0 1 == 2 && fld e 8 4 == task))

/-- A replayed step begins (R479): the record's headroom is used, and a difference from the device's own is noted. -/
def State.replayBegin (s : State) (j step : Nat) : State :=
  match s.replayOf j with
  | none => s
  | some _ =>
    let s1 := s.modReplay (fun (r : Replay) => { r with
      step := step, running := true, divColl := [], divDigest := [], divBatch := [], divTally := false, divHead := false
      stopped := 0xFFFFFFFF })
    match s1.replayRec j, (s.job j).bind Job.train with
    | some p, some t =>
      let h := sgn 8 (fld p.1 0x10 1)
      let s2 := if t.h = h then s1 else s1.modReplay (fun (r : Replay) => { r with divHead := true })
      s2.modJob j (fun (b : Job) => { b with train := b.train.map (fun (t : Train) => { t with h := h }) })
    | _, _ => s1

/-- The first divergent collective in list order, with its digest. -/
def Replay.firstColl (r : Replay) (order : List Nat) : Option (Nat × Nat) :=
  order.findSome? (fun id => (r.divColl.zip r.divDigest).find? (fun p => p.1 == id))

/-- The lower of two media divergences: by channel, then batch. -/
def lowerBatch (a b : Nat × Nat) : Nat × Nat := if b.1 < a.1 ∨ (b.1 = a.1 ∧ b.2 < a.2) then b else a

/-- The end of a replayed step (R480): one EV_REPLAY_DIVERGE if anything diverged. -/
def State.replayEnd (s : State) (j : Nat) : State :=
  match s.replayOf j, s.runOf j with
  | some r, some run =>
    let s1 := s.modReplay (fun (r : Replay) => { r with running := false })
    let e : EventRec := { s1.ev 0x0607 with job := j, arg0 := run.q.step }
    match r.firstColl (run.tasks.map (fun (t : TaskRun) => t.hdr.id)) with
    | some p => s1.post { e with task := p.1, arg1 := p.2 }
    | none =>
      if r.divBatch.isEmpty && !r.divTally && !r.divHead then s1
      else match r.divBatch with
        | [] => s1.post e
        | b :: l => let m := l.foldl lowerBatch b
                    s1.post { e with addr := m.1 % 64 + m.2 % 2 ^ 56 * 2 ^ 8 }
  | _, _ => s

end Sys2Proof.Machine
end

