-- ==== Sys2Proof/Machine/Optim.lean ====
section
/-! DEFINITION. Shards, banks and the optimiser forms (10): exact block arithmetic, parameter records, user programs. -/
namespace Sys2Proof.Machine

/-- First block and number of blocks of a rank's shard (R248). -/
def TGroup.blocks (g : TGroup) : Nat := cdiv g.elements 32
def TGroup.shard (g : TGroup) (dp rank : Nat) : Nat × Nat :=
  if g.replicated then (0, g.blocks)
  else
    let a := rank * g.blocks / dp
    (a, (rank + 1) * g.blocks / dp - a)

/-- Elements of a shard: the last block may be partial. -/
def TGroup.shardElems (g : TGroup) (dp rank : Nat) : Nat :=
  let r := g.shard dp rank
  min g.elements (32 * (r.1 + r.2)) - min g.elements (32 * r.1)

/-- Planes of a bank: element type and offsets of data and scale (R250). -/
def TGroup.planesOf (g : TGroup) (work : Bool) (masters : Bool) (elems : Nat) : List (ElTy × Nat × Nat) × Nat :=
  let sp := cdiv elems 32 * 32
  let tys := (if masters then [ElTy.s32, ElTy.s32] ++ (if g.form = 1 then [ElTy.s32] else []) else [])
    ++ (if work then [if g.workWide then ElTy.s16 else ElTy.s8] else [])
  tys.foldl (fun (z : List (ElTy × Nat × Nat) × Nat) t =>
    let sc := cdiv (z.2 + sp * (t.width / 8)) 64 * 64
    (z.1 ++ [(t, z.2, sc)], cdiv (sc + sp / 32) 64 * 64)) ([], 0)

/-- Planes of a bank (R250): a tier-2 bank holds the working copy alone. -/
def TGroup.bank (g : TGroup) (elems : Nat) : List (ElTy × Nat × Nat) × Nat := g.planesOf true (g.tier != 2) elems

/-- Master and moment planes at HOST_ADDR (R250). -/
def TGroup.hostPlanes (g : TGroup) (elems : Nat) : List (ElTy × Nat × Nat) × Nat := g.planesOf false true elems

/-- Gradient type (R246). -/
def TGroup.gradTy (g : TGroup) : ElTy := if g.gradType = 0 then .s8 else if g.gradType = 1 then .s16 else .s32

/-- Bytes of a gradient shard, and the offset of its scale plane. -/
def TGroup.gradScale (g : TGroup) (elems : Nat) : Nat := cdiv (cdiv elems 32 * 32 * (g.gradTy.width / 8)) 64 * 64
def TGroup.gradBytes (g : TGroup) (elems : Nat) : Nat := g.gradScale elems + cdiv elems 32

/-- A one-dimensional plane tensor with B32 (R250). -/
def planeDesc (ts : Bool) (base : Nat) (p : ElTy × Nat × Nat) (elems : Nat) : Desc :=
  { data := base + p.2.1, ts := ts, scale := base + p.2.2, ty := p.1, blk := 32, axis := 0, rankM1 := 0, round := 0, cls := 2
    satKeep := false, tid := 0, dim0 := elems, dim1 := 0, dim2 := 0, dim3 := 0 }

/-- A plane where there is one. -/
def planeAt (ts : Bool) (base : Nat) (l : List (ElTy × Nat × Nat)) (k elems : Nat) : Desc :=
  planeDesc ts base (l.getD k (.s32, 0, 0)) elems

/-- An exact number v × 2^e. -/
structure Dy where
  v : Int
  e : Int
  deriving DecidableEq, Repr, Inhabited

/-- Exact arithmetic. -/
def Dy.mul (a b : Dy) : Dy := ⟨a.v * b.v, a.e + b.e⟩
def Dy.add (a b : Dy) : Dy :=
  let e := min a.e b.e
  ⟨a.v * pow2 (a.e - e).toNat + b.v * pow2 (b.e - e).toNat, e⟩
def Dy.neg (a : Dy) : Dy := ⟨-a.v, a.e⟩
def Dy.sign (a : Dy) : Dy := ⟨if a.v > 0 then 1 else if a.v < 0 then -1 else 0, 0⟩

/-- A fraction in units of 2^−32 (R267). -/
def frac32 (n : Nat) : Dy := ⟨n, -32⟩

/-- A block of up to 32 elements with one scale: mantissas, exponent, poisoned. -/
structure OBlk where
  qs : List Int
  e : Int
  pois : Bool
  deriving DecidableEq, Repr, Inhabited

/-- Element `k` of a block as an exact number. -/
def OBlk.at (b : OBlk) (k : Nat) : Dy := ⟨nth b.qs k, b.e⟩

/-- Requantise exact values once to a signed type under R49; a saturated block is poisoned (R268). -/
def rqBlk (w mode : Nat) (pois : Bool) (xs : List (Dy × Nat)) : OBlk :=
  match xs with
  | [] => ⟨[], 0, pois⟩
  | x :: r =>
    let low := r.foldl (fun (m : Int) p => min m p.1.e) x.1.e
    let b := requantAuto (xs.map (fun p => (p.1.v * pow2 (p.1.e - low).toNat, p.2))) low w mode
    ⟨b.qs, b.e, pois || b.sat⟩

/-- An optimiser parameter record (R267). -/
structure OptRec where
  lr : Dy
  eps : Int
  beta1 : Nat
  beta2 : Nat
  decay : Nat
  deriving DecidableEq, Repr, Inhabited

/-- A parameter record that keeps its table for a form (R267). -/
def parseOpt (form : Nat) (r : List Byte) : Option OptRec :=
  let w := fld r 4 4
  let eps := sgn 8 (bits w 8 8)
  if fld r 0 4 != 0 && bits w 0 8 != 0x80 && bits w 16 16 == 0 && zeroBytes r 0x14 0x40 && r.length == 64
    && (form != 1 || decide (-63 ≤ eps ∧ eps ≤ 0)) && (form != 0 || fld r 0x0C 4 == 0)
  then some ⟨⟨(fld r 0 4 : Nat), sgn 8 (bits w 0 8)⟩, eps, fld r 8 4, fld r 0x0C 4, fld r 0x10 4⟩ else none

/-- What one update makes of a block: master, moments, working copy. -/
structure OptOut where
  w : OBlk
  m : OBlk
  v : Option OBlk
  deriving DecidableEq, Repr, Inhabited

/-- The reciprocal square root of v + ε² on v's block of exponent `e` (R145, R268): the argument at an even exponent 2h, ε² aligned by RNE,
and 2^k / √a, which stands at exponent −k − h. -/
def adamRsq (q : Int) (e eps : Int) : Dy :=
  let h := if e % 2 = 0 ∨ !Config.adamOdd e then e / 2 else e / 2 + 1
  let k := min 62 (Config.adamK e)
  let a := sat32 (align q e (2 * h) 0 0 + align 1 (2 * eps) (2 * h) 0 0)
  ⟨(rsq a k).v, -(k : Int) - h⟩

/-- One update of a block under a built-in form (R268): `h` the headroom, `us` the random words of the master's elements. -/
def optBlock (form : Nat) (p : OptRec) (h : Int) (g w m : OBlk) (v : Option OBlk) (us : List Nat) : OptOut :=
  let n := w.qs.length
  let ids := List.range n
  let gd (k : Nat) : Dy := ⟨nth g.qs k, g.e - h⟩
  let b1 := frac32 p.beta1
  let b2 := frac32 p.beta2
  let c1 := frac32 (2 ^ 32 - p.beta1)
  let c2 := frac32 (2 ^ 32 - p.beta2)
  let la := frac32 p.decay
  let rq (pois : Bool) (f : Nat → Dy) : OBlk := rqBlk 32 0 pois (ids.map (fun k => (f k, 0)))
  let rqs (pois : Bool) (f : Nat → Dy) : OBlk := rqBlk 32 2 pois (ids.map (fun k => (f k, nth us k)))
  let step (k : Nat) (d : Dy) : Dy := ((w.at k).add d.neg).add ((la.mul (w.at k)).neg)
  match form with
  | 0 =>
    let m1 := rq (m.pois || g.pois) (fun k => (b1.mul (m.at k)).add (gd k))
    ⟨rqs (w.pois || m1.pois) (fun k => step k (p.lr.mul (m1.at k))), m1, none⟩
  | 1 =>
    let v0 := v.getD ⟨ids.map (fun _ => 0), 0, false⟩
    let m1 := rq (m.pois || g.pois) (fun k => (b1.mul (m.at k)).add (c1.mul (gd k)))
    let v1 := rq (v0.pois || g.pois) (fun k => (b2.mul (v0.at k)).add (c2.mul ((gd k).mul (gd k))))
    let r := rq v1.pois (fun k => adamRsq (nth v1.qs k) v1.e p.eps)
    ⟨rqs (w.pois || m1.pois || r.pois) (fun k => step k ((p.lr.mul (m1.at k)).mul (r.at k))), m1, some v1⟩
  | _ =>
    let c (k : Nat) : Dy := (b1.mul (m.at k)).add (c1.mul (gd k))
    let w1 := rqs (w.pois || m.pois || g.pois) (fun k => step k (p.lr.mul (c k).sign))
    ⟨w1, rq (m.pois || g.pois) (fun k => (b2.mul (m.at k)).add (c2.mul (gd k))), none⟩

/-- The working copy of a master block (R268). -/
def workBlock (wide : Bool) (w : OBlk) : OBlk :=
  rqBlk (if wide then 16 else 8) 0 w.pois ((List.range w.qs.length).map (fun k => (w.at k, 0)))

/-- Block `k` of a plane as the update leg reads it (R41, R42). -/
def readBlk (s : State) (f : Faults) (pt : NMap Nat) (core : Nat) (d : Desc) (k : Nat) : OBlk :=
  let els := (List.range (min 32 (d.dim0 - 32 * k))).map (fun i => readVal s f pt core d ⟨32 * k + i, 0, 0, 0⟩)
  ⟨els.map (fun v => v.q), (nth els 0).e, els.any (fun v => v.pois)⟩

/-- Write block `k` of a plane; padding is zero. -/
def writeBlk (s : State) (pt : NMap Nat) (core : Nat) (d : Desc) (k : Nat) (b : OBlk) (w : Writes) : Writes :=
  let w1 := (List.range 32).foldl (fun (m : Writes) i =>
    Desc.putCode s pt core d m (32 * k + i) (unsgn d.ty.width (nth b.qs i))) w
  Desc.putScale pt core d w1 ⟨32 * k, 0, 0, 0⟩ (if b.pois then poisonScale else scaleByte b.e)

/-- Lines of block `k` of a plane. -/
def blkLines (pt : NMap Nat) (core : Nat) (d : Desc) (k : Nat) : List Nat := Desc.linesAt pt core d ⟨32 * k, 0, 0, 0⟩

/-- A user program (R269): instructions, tables, stream and output units, ROUND and TENSOR_ID of the outputs. -/
structure UserProg where
  prog : List EIns
  tabs : List Nat
  ins : List StreamU
  outs : List (VOut × Nat × Nat)
  deriving DecidableEq, Repr, Inhabited

/-- A descriptor whose fields but ROUND and TENSOR_ID are zero (R269). -/
def blankDesc (r : List Byte) : Option (Nat × Nat) :=
  let w := fld r 0x10 4
  if zeroBytes r 0 0x10 && bits w 0 12 == 0 && bits w 14 18 == 0 && bits w 12 2 != 3 && zeroBytes r 0x18 0x40 && r.length == 64
  then some (bits w 12 2, fld r 0x14 4) else none

/-- The stream unit as the drover fills it: dense over the shard (log 47). -/
def fillStream (u : StreamU) : StreamU := { u with base := 0, s0 := 1, s1 := 0, s2 := 0, s3 := 0 }

/-- A user program's body: N_IN = 3, N_OUT = 2, no reduction (R269, log 47). ITER0 is the drover's to fill in; the other lengths are those of
unused dimensions (R152). -/
def parseUser (b : List Byte) (tsBase tsLen : Nat) : Option UserProg :=
  let r := unitOf b 0
  let w := fld r 0 4
  let nI := bits w 0 7
  let nTab := bits w 16 4
  let up := 1 + cdiv nI 8
  let tabs := (List.range nTab).map (fun t => fld r (0x20 + 4 * t) 4)
  let prog := (List.range nI).map (fun k => decodeIns (fld b (64 + 8 * k) 8))
  let inU := (List.range 3).map (fun k => (parseStream (unitOf b (up + 2 * k)), blankDesc (unitOf b (up + 2 * k + 1))))
  let outU := (List.range 2).map (fun k => (parseVOut (unitOf b (up + 6 + 2 * k)) 3 false, blankDesc (unitOf b (up + 7 + 2 * k))))
  if b.length == 64 * (up + 10) && decide (1 ≤ nI ∧ nI ≤ 64 ∧ nTab ≤ 8) && bits w 8 3 == 3 && bits w 11 2 == 2 && bits w 13 2 == 0
    && bit w 7 == false && bit w 15 == false && bits w 20 12 == 0 && [8, 0x0C, 0x10].all (fun o => fld r o 4 == 1)
    && zeroBytes r 0x14 0x20 && zeroBytes r (0x20 + 4 * nTab) 0x40
    && zeroBytes b (64 + 8 * nI) (64 * up)
    && tabs.all (fun t => t % 64 == 0 && decide (t < 2 ^ 24 ∧ tsBase ≤ t ∧ t + 64 + 256 ≤ tsBase + tsLen))
    && prog.all (insOk 3 nTab false) && inU.all (fun p => p.1.isSome && p.2.isSome) && outU.all (fun p => p.1.isSome && p.2.isSome)
  then some ⟨prog, tabs, inU.map (fun p => fillStream (p.1.getD default)), outU.map (fun p => (p.1.getD default, p.2.getD default))⟩
  else none

/-- Units of a user program from its control unit. -/
def userUnits (r : List Byte) : Nat := 1 + cdiv (bits (fld r 0 4) 0 7) 8 + 10

end Sys2Proof.Machine
end

