-- ==== Sys2Proof/Machine/Training.lean ====
section
/-! DEFINITION. Training state (10): the table, variant slots, settling, update legs, the slow tier, what a tick does for an
update step. -/
namespace Sys2Proof.Machine

/-- A group record that keeps its table (R246). -/
def parseGroup (r : List Byte) : Option TGroup :=
  let w := fld r 0 4
  let a (o : Nat) : Nat := fld r o 8
  let j (o : Nat) : Nat := bits (fld r o 8) 0 44
  let c := fld r 8 4
  let l := fld r 0x0C 4
  let k := fld r 0x10 4
  let p := fld r 0x40 4
  let g : TGroup := ⟨bits w 0 16, bits w 16 2, bits w 18 3, bits w 21 3, bit w 24, bit w 25, bit w 26, bit w 27, bits w 28 2,
    fld r 4 4, bits c 0 12, bits c 16 16, bits l 0 12, bits l 16 16, bits k 0 8, bits k 8 8, bits k 16 7, bits (fld r 0x14 4) 0 24,
    j 0x18, j 0x20, j 0x28, j 0x30, j 0x38, bits p 0 16, bits p 16 10, j 0x48⟩
  if g.tier != 3 && decide (g.form ≤ 3) && g.gradType != 3 && bits w 30 2 == 0
    && (if g.tier = 2 then decide (1 ≤ g.delay ∧ g.delay ≤ 4) else g.delay == 0)
    && decide (1 ≤ g.elements ∧ g.elements < 2 ^ 31) && bits c 12 4 == 0 && g.settleVal != 0 && bits l 12 4 == 0
    && (if g.keepEn then g.relVal != 0 else g.relVal == 0 && g.relCtr == 0 && g.gather == 0)
    && bits k 23 9 == 0 && (g.tier == 0 || g.homeCore == 0) && bits (fld r 0x14 4) 24 8 == 0 && g.tsOff % 64 == 0
    && [0x18, 0x20, 0x28, 0x30, 0x38, 0x48].all (fun o => bits (a o) 44 20 == 0)
    && g.bank0 % 64 == 0 && (g.tier != 0 || g.bank1 == 0) && (g.tier == 2 || g.hostAddr == 0) && g.gather % 2 ^ 21 == 0
    && bits p 26 6 == 0 && zeroBytes r 0x44 0x48 && (g.variantEn || g.variant == 0) && (g.form == 3 || g.prog == 0)
    && zeroBytes r 0x50 0x80 && r.length == 128
  then some g else none

/-- The header with its reserved bits zero and its fields in range (R246): GROUPS, KEEP_PAGES and the empty training state. -/
def parseTrainHdr (r : List Byte) : Option (Nat × Nat × Train) :=
  let d := fld r 4 4
  let h := fld r 8 4
  let j (o : Nat) : Nat := bits (fld r o 8) 0 44
  let hi := sgn 8 (bits h 0 8)
  let mn := sgn 8 (bits h 8 8)
  let mx := sgn 8 (bits h 16 8)
  let n := fld r 0 2
  let sz := bits d 0 14
  let rk := bits d 16 13
  if n != 0 && fld r 2 2 == 0 && decide (1 ≤ sz ∧ sz ≤ 8192 ∧ rk < sz) && bits d 14 2 == 0 && bits d 29 3 == 0
    && decide (mn ≤ hi ∧ hi ≤ mx ∧ -32 ≤ mn ∧ mx ≤ 32) && bits h 24 8 == 0 && fld r 0x0C 2 != 0
    && [0x10, 0x18, 0x20, 0x30].all (fun o => bits (fld r o 8) 44 20 == 0) && j 0x10 % 64 == 0
    && zeroBytes r 0x2A 0x30 && zeroBytes r 0x38 0x40 && r.length == 64
  then some (n, fld r 0x28 2, { table := [], dpSize := sz, dpRank := rk, hrInit := hi, hrMin := mn, hrMax := mx
                                cleanRun := fld r 0x0C 2, tallyT := fld r 0x0E 2, hrAddr := j 0x10, paramAddr := j 0x18
                                statusAddr := j 0x20, vltAddr := j 0x30, groups := [], pool := [], ordinal := 0, h := hi
                                clean := 0, skips := 0, lastSkip := 0, repairs := 0, rollbacks := 0, params := [], extra := 0
                                rollback := false, bisect := [], tallied := [], digs := [], stagePages := [] })
  else none

/-- A group's running state at TRAIN_STATE_SET (R251, R260). -/
def TrainGrp.init (g : TGroup) (slots : List (List Nat)) : TrainGrp :=
  { g := g, cur := false, partBank := 0, updates := 0, lastStep := 0, inStep := false, settled := false, settleAt := 0, gradPoison := 0
    wrote := false, ledger := slots.map (fun p => ⟨p, 0, 0, 0, 0⟩), applied := none, staged := [], owed := none, keep := 0
    keepPages := [], relStage := 0, cleanSeen := [] }

/-- Elements of this device's shard. -/
def Train.elems (t : Train) (g : TGroup) : Nat := g.shardElems t.dpSize t.dpRank

/-- Pages that a ledger slot takes, at the window's offset in its first page (R260). -/
def TGroup.slotPages (g : TGroup) (elems : Nat) : Nat := cdiv (g.grad % 2 ^ 21 + g.gradBytes elems) (2 ^ 21)

/-- First block and number of blocks of part `p` of a tier-2 shard (R260). -/
def TGroup.part (g : TGroup) (elems p : Nat) : Nat × Nat :=
  let n := cdiv elems 32
  let a := p * n / g.delay
  (a, (p + 1) * n / g.delay - a)

/-- Bytes of master and moments of `n` blocks. -/
def TGroup.stageBytes (g : TGroup) (n : Nat) : Nat := n * 129 * (if g.form = 1 then 3 else 2)

/-- Bytes of the gathered working copy (R247). -/
def TGroup.gatherBytes (g : TGroup) : Nat :=
  cdiv (g.blocks * 32 * (if g.workWide then 2 else 1)) 64 * 64 + g.blocks

/-- Every byte of a job range is mapped to host memory (R27, R246). -/
def mappedHost (pt : NMap Nat) (va n : Nat) : Bool :=
  (List.range (cdiv (va % 2 ^ 21 + n) (2 ^ 21))).all (fun k => match mget pt (va / 2 ^ 21 + k) with
    | some a => decide (0x800000000000 ≤ a)
    | none => false)

/-- A group passes R247 against its job: mapped addresses, tier-0 banks in range; the ledger window and the gathered copy are
mapped by firmware (log 47). -/
def groupFits (jb : Job) (t : Train) (g : TGroup) : Bool :=
  let n := t.elems g
  let bank := (g.bank n).2
  mappedAll jb.pt g.bank0 bank
    && (g.tier == 0 || mappedAll jb.pt g.bank1 bank)
    && (g.tier == 2 || mappedAll jb.pt g.grad (g.gradBytes n))
    && (g.tier != 2 || mappedHost jb.pt g.hostAddr (g.hostPlanes n).2)
    && (g.form != 3 || mappedAll jb.pt g.prog 64)
    && (g.tier != 0 || (jb.cores.testBit g.homeCore && decide (jb.tsBase ≤ g.tsOff ∧ g.tsOff + 2 * bank ≤ jb.tsBase + jb.tsBytes)))
    && (!g.keepEn || decide (g.gatherBytes ≤ g.gatherPages * 2 ^ 21))

/-- Ledger slots with gradients that a part has still to apply (R246, R262). -/
def Train.unapplied (t : Train) : Nat :=
  (t.groups.map (fun g => (g.ledger.filter (fun l => l.mark == 1 && decide (t.ordinal ≤ l.ordinal + g.g.delay))).length)).sum

/-- The current tier-0 banks are copied from BANK0_ADDR (R251, R275): bank 0 after TRAIN_STATE_SET. -/
def State.loadTier0 (s : State) (f : Faults) (j : Nat) (pt : NMap Nat) (t : Train) : State :=
  (t.groups.filter (fun g => g.g.tier == 0)).foldl (fun (x : State) g =>
    let n := (g.g.bank (t.elems g.g)).2
    (List.range (n / 64)).foldl (fun (x : State) k => match xlate pt (g.g.bank0 + 64 * k) with
      | some a => x.carry (x.cmdReader j) f j pt a (tileAt g.g.homeCore + g.g.tsOff + (if g.cur then n else 0) + 64 * k) 64
      | none => x) x) s

/-- A table passes R247 against its job. -/
def tableFits (jb : Job) (t : Train) (gs : List TGroup) (keepPages : Nat) : Bool :=
  let ids := gs.map (fun g => g.id)
  ids.length == (dedup ids).length && gs.all (groupFits jb t)
    && decide ((gs.map (fun g => if g.keepEn then g.gatherPages else 0)).foldl max 0 ≤ keepPages)
    && mappedAll jb.pt t.hrAddr 64 && mappedAll jb.pt t.paramAddr 16384 && mappedAll jb.pt t.statusAddr (64 * (gs.length + 1))
    && (t.vltAddr == 0 || mappedAll jb.pt t.vltAddr 64)

/-- A table read and checked (R246, R247): the empty state, its groups and KEEP_PAGES; a status where it cannot stand. -/
def State.trainTable (s : State) (f : Faults) (j : Nat) (jb : Job) (va : Nat) : State × Except Nat (Train × List TGroup × Nat) :=
  if va % 64 ≠ 0 then (s, .error 0x0003)
  else match s.tableRead f j jb.pt va 64 with
    | (s1, none) => (s1, .error 0x000E)
    | (s1, some r) => match parseTrainHdr r with
      | none => (s1, .error 0x0003)
      | some (n, keepPages, t0) => match s1.tableRead f j jb.pt (va + 64) (128 * n) with
        | (s2, none) => (s2, .error 0x000E)
        | (s2, some b) => match (chunksOf 128 b).mapM parseGroup with
          | none => (s2, .error 0x0003)
          | some gs =>
            if tableFits jb t0 gs keepPages then (s2, .ok ({ t0 with table := r ++ b }, gs, keepPages)) else (s2, .error 0x0003)

/-- Pages of the staging buffers, and of ledger, staging and keep pool together (R247). -/
def Train.stageNeed (t : Train) (gs : List TGroup) : Nat :=
  cdiv (((gs.filter (fun g => g.tier == 2)).map (fun g => g.stageBytes (cdiv (cdiv (t.elems g) 32) g.delay))).sum) (2 ^ 21)
def Train.need (t : Train) (gs : List TGroup) (keepPages : Nat) : Nat :=
  ((gs.filter (fun g => g.tier == 2)).map (fun g => (g.delay + 1) * g.slotPages (t.elems g))).sum + t.stageNeed gs + keepPages

/-- The state of a table on its pages: ledger slots first, then staging, then the keep pool (R247, R251). -/
def Train.place (t : Train) (gs : List TGroup) (pages : List Nat) : Train :=
  let cut := gs.foldl (fun (z : List TrainGrp × List Nat) g =>
    if g.tier = 2 then
      let per := g.slotPages (t.elems g)
      let k := (g.delay + 1) * per
      (z.1 ++ [TrainGrp.init g (chunksOf per (z.2.take k))], z.2.drop k)
    else (z.1 ++ [TrainGrp.init g []], z.2)) ([], pages)
  { t with groups := cut.1, stagePages := cut.2.take (t.stageNeed gs), pool := cut.2.drop (t.stageNeed gs) }

/-- A checked table takes its pages, with those of the table before it free again, and loads tier 0; none where the pages
lack (R246, R247). -/
def State.placeTrain (s : State) (f : Faults) (j : Nat) (jb : Job) (t0 : Train) (gs : List TGroup) (keepPages : Nat) : Option State :=
  let bare := s.setJob j { jb with train := none }
  (bare.allocJob jb.hbms (t0.need gs keepPages)).map (fun pages =>
    (bare.setJob j { jb with train := some (t0.place gs pages) }).loadTier0 f j jb.pt (t0.place gs pages))

/-- The row of TrainStateSet in the command catalogue (R370). -/
def specTrainStateSet : CmdSpec :=
  ⟨0x0401, false, true, false, false, [(0x08, 0, 44)]⟩

/-- The answer of TRAIN_STATE_SET where the pages lack, and where the table has been placed (R251). -/
def trainPlaced (jb : Job) (s : State) : Option State → CmdRes
  | none => .done s 0x0004 0
  | some u => .done u 0 ((jb.train.map Train.unapplied).getD 0)

/-- The answer of TRAIN_STATE_SET to the table that it has read (R246, R247). -/
def trainRead (f : Faults) (j : Nat) (jb : Job) : State × Except Nat (Train × List TGroup × Nat) → CmdRes
  | (s1, .error e) => .done s1 e 0
  | (s1, .ok (t0, gs, keepPages)) => trainPlaced jb s1 (s1.placeTrain f j jb t0 gs keepPages)

/-- TRAIN_STATE_SET (R246, R247, R251). -/
def execTrainStateSet (h : HostId) (c : CmdRec) (f : Faults) (s : State) : Host.Outcome State Fault Refusal :=
  .next (s.command specTrainStateSet h c (fun s =>
    match s.job c.job.toNat with
    | none => .done s 0x0005 0
    | some jb =>
      if jb.run.isSome ∨ !jb.queue.isEmpty then .done s 0x0001 0
      else trainRead f c.job.toNat jb (s.trainTable f c.job.toNat jb (c.par 0x08 0 44))))

/-- The row of VariantLoad in the command catalogue (R370). -/
def specVariantLoad : CmdSpec :=
  ⟨0x0402, false, true, false, false, [(0x08, 0, 11), (0x08, 16, 9)]⟩

/-- VARIANT_LOAD (R270): the slot changes at the tick that begins the next step. -/
def execVariantLoad (h : HostId) (c : CmdRec) (s : State) : Host.Outcome State Fault Refusal :=
  .next (s.command specVariantLoad h c (fun s =>
    let rank := c.par 0x08 16 9
    if rank = 0 ∨ 256 < rank then .done s 0x0003 0
    else .done (s.modJob c.job.toNat (fun (b : Job) => { b with
      variantNext := mset b.variantNext (c.par 0x08 0 10) (1 + c.par 0x08 10 1, rank) })) 0 0))

/-- The row of VariantUnload in the command catalogue (R370). -/
def specVariantUnload : CmdSpec :=
  ⟨0x0403, false, true, false, false, [(0x08, 0, 10)]⟩

/-- VARIANT_UNLOAD (R270). -/
def execVariantUnload (h : HostId) (c : CmdRec) (s : State) : Host.Outcome State Fault Refusal :=
  .next (s.command specVariantUnload h c (fun s =>
    .done (s.modJob c.job.toNat (fun (b : Job) => { b with variantNext := mset b.variantNext (c.par 0x08 0 10) (0, 0) })) 0 0))

/-! ### The first tick of a step -/

/-- Variant slots take their new states (R270). -/
def Job.takeVariants (b : Job) : Job :=
  { b with
    variants := b.variantNext.foldl (fun (m : NMap (Nat × Nat)) p => if p.2.1 = 0 then merase m p.1 else mset m p.1 p.2) b.variants
    variantNext := [] }

/-- Tokens of each variant in the length tables of the pointer record (R271); none where it cannot be read, or a count passes its
range (log 60). Reserved bits are ignored (R6). -/
def variantTokens (s : State) (f : Faults) (pt : NMap Nat) (vlt : Nat) : Option (List Nat) :=
  if !s.jobReach pt vlt 64 || !(badLines s f (jobLines pt vlt 64)).isEmpty then none
  else
    let pair (k : Nat) : List Byte := jobBytes s pt (vlt + 16 * k) 16
    let ps := ((List.range 4).map pair).takeWhile (fun p => fld p 8 4 != 0)
    if ps.any (fun p => decide (65536 < fld p 8 4)) then none
    else ps.foldl (fun (z : Option (List Nat)) p => match z with
      | none => none
      | some l =>
        let a := bits (fld p 0 8) 0 44
        let n := fld p 8 4
        if !s.jobReach pt a (32 * n) || !(badLines s f (jobLines pt a (32 * n))).isEmpty then none
        else some (l ++ (List.range n).filterMap (fun k =>
          let r := jobBytes s pt (a + 32 * k) 16
          let v := bits (fld r 0x0C 4) 0 16
          if bits (fld r 4 4) 0 21 = 0 ∨ v = 0xFFFF then none else some v))) (some [])

/-- The group takes part in an update step (R270, R271). -/
def TGroup.takesPart (g : TGroup) (vars : NMap (Nat × Nat)) (tokens : Option (List Nat)) : Bool :=
  !g.variantEn || ((match mget vars g.variant with
    | some (st, _) => st == 2
    | none => false) && (match tokens with
      | none => true
      | some l => l.contains g.variant))

/-- Ledger slot of an ordinal, mapped at GRAD_ADDR (R260). -/
def TrainGrp.window (g : TrainGrp) (n : Nat) (m : NMap Nat) : NMap Nat :=
  match g.ledger[n % (g.g.delay + 1)]? with
  | none => m
  | some l => (l.pages.zipIdx).foldl (fun (m : NMap Nat) p => mset m (g.g.grad / 2 ^ 21 + p.2) (p.1 * 2 ^ 21)) m

/-- The status area (R256). -/
def Train.status (t : Train) : List Byte :=
  toLE 4 (unsgn 8 t.h + t.clean % 2 ^ 16 * 2 ^ 16) ++ toLE 4 t.ordinal ++ toLE 4 t.skips ++ toLE 4 t.lastSkip ++ toLE 4 t.repairs
    ++ toLE 4 t.rollbacks ++ zeros 40
    ++ t.groups.flatMap (fun g => toLE 4 (b2n g.cur + g.partBank.toNat * 2 ^ 4) ++ toLE 4 g.updates ++ toLE 4 g.lastStep ++ zeros 52)

/-- The keep windows are unmapped (R264). -/
def Train.unmapKeep (t : Train) (m : NMap Nat) : NMap Nat :=
  t.groups.foldl (fun (m : NMap Nat) g =>
    if g.keep = 0 then m else (List.range g.g.gatherPages).foldl (fun (m : NMap Nat) k => merase m (g.g.gather / 2 ^ 21 + k)) m) m

/-- Headroom record of a step (R259). -/
def State.headroomRec (s : State) (j : Nat) (t : Train) (step : Nat) : State :=
  s.jobPut j t.hrAddr (boundBytes (unsgn 8 t.h) step 0xFFFFFFFF)

/-- What the first tick of a step does to the job's training state (R259, R260, R267, R271). -/
def State.trainBegin (s : State) (j step : Nat) (update : Bool) : State :=
  match s.job j with
  | none => s
  | some jb => match jb.train with
    | none => s
    | some t =>
      let s0 := s.headroomRec j t step
      if !update then s0
      else
        let tok : Option (List Nat) := if t.vltAddr = 0 then some [] else variantTokens s0 noFaults jb.pt t.vltAddr
        let s1 := if t.vltAddr = 0 then s0
          else s0.meet (s0.cmdReader j) noFaults (jobLines jb.pt t.vltAddr 64)
        let s2 := if tok.isNone then s1.post { s1.ev 0x0401 with job := j } else s1
        let gs := t.groups.map (fun (g : TrainGrp) => { g with
          inStep := g.g.takesPart jb.variants tok
          settled := false, gradPoison := 0, wrote := false, applied := none, staged := [] })
        let win (m : NMap Nat) : NMap Nat := (t.groups.filter (fun g => g.g.tier == 2)).foldl (fun m g => g.window t.ordinal m) m
        s2.modJob j (fun (b : Job) => { b with
          pt := win b.pt, ptNext := win b.ptNext
          train := some { t with
            groups := gs, params := jobBytes s jb.pt t.paramAddr 16384, extra := b2n tok.isNone, bisect := [], tallied := [], digs := [] } })

/-- Keep entries that a tick releases (R264), and evicted ones whose pages become usable (R265). -/
def State.keepTick (s : State) (j : Nat) : State :=
  match s.job j with
  | none => s
  | some jb => s.modTrain j (fun (t : Train) => { t with
      pool := t.pool ++ (t.groups.filter (fun g => g.keep == 4)).flatMap (fun g => g.keepPages)
      groups := t.groups.map (fun (g : TrainGrp) =>
        if g.keep = 4 then { g with keep := 0, keepPages := [], relStage := 0 }
        else if g.keep = 1 ∧ g.g.relVal ≤ mgetD jb.ctrs g.g.relCtr 0 then { g with keep := 2, relStage := s.stage } else g) })

/-! ### Settling and update legs -/

/-- A group's running state. -/
def Train.group (t : Train) (id : Nat) : Option TrainGrp := t.groups.find? (fun g => g.g.id == id)

/-- Change a group. -/
def Train.setGroup (t : Train) (g : TrainGrp) : Train := { t with groups := t.groups.map (fun x => if x.g.id = g.g.id then g else x) }
def State.setGroup (s : State) (j : Nat) (g : TrainGrp) : State := s.modTrain j (fun t => t.setGroup g)

/-- TASK_ID of an update leg (R253, R268). -/
def updId (group : Nat) : Nat := 0x40000000 + group

/-- A header for a leg that firmware places: no body, no waits, no signal, no record (R25). -/
def fwHdr (id core : Nat) : TaskHdr := { (default : TaskHdr) with id := id, kind := updKind, core := core, waitA := none, waitB := none, signal := none }

/-- A task that has not started. -/
def TaskRun.init (h : TaskHdr) (st : TState) : TaskRun :=
  { hdr := h, st := st, queued := false, body := [], legs := 0, progress := none, empty := false, ctrOver := false, nan := false, fail := none
    finished := false, leg := none, overruns := 0, heldUntil := none, spilled := none, waitNoted := false
    fillHit := false, status := 0, ended := ⟨0, 0⟩, eng := .idle }

/-- Poisoned blocks of a gradient shard by its scale plane (R41, R253). -/
def gradPoisoned (s : State) (f : Faults) (pt : NMap Nat) (g : TGroup) (elems : Nat) : Nat :=
  let base := g.grad + g.gradScale elems
  ((List.range (cdiv elems 32)).filter (fun k => match xlate pt (base + k) with
    | none => true
    | some a => s.byte a == poisonScale || badLine s f (lineOf a))).length

/-- An update leg whose group settled in the same cycle ranks after a group of a lower GROUP_ID (R253). -/
def Train.settledAfter (t : Train) (now id : Nat) (u : TaskRun) : Bool :=
  match t.group (u.hdr.id - 0x40000000) with
  | some h => h.settleAt == now && decide (id < h.g.id)
  | none => false

/-- GROUP_SETTLE (R253): the drover sees the counter, counts the poisoned blocks, and places the update leg; legs rank by settlement, then
by GROUP_ID. -/
def execGroupSettle (job : BitVec 4) (group : BitVec 16) (f : Faults) (s : State) : Host.Outcome State Fault Refusal :=
  let j := job.toNat
  match s.job j with
  | none => .next s
  | some jb => match jb.run, jb.train with
    | some r, some t => (match t.group group.toNat with
        | none => .next s
        | some g =>
          if !(s.live && r.q.update && r.close == 0 && jb.abort.isNone && g.inStep && !g.settled
              && decide (g.g.settleVal ≤ mgetD jb.ctrs g.g.settleCtr 0)) then .next s
          else
            let n := t.elems g.g
            let bad := gradPoisoned s f jb.pt g.g n
            let s1 := s.meet (s.cmdReader j) f (jobLines jb.pt (g.g.grad + g.g.gradScale n) (cdiv n 32))
            let s2 := s1.setGroup j { g with settled := true, settleAt := s.now, gradPoison := bad }
            if n = 0 ∨ g.g.tier = 2 then .next s2
            else
              let after := t.settledAfter s.now g.g.id
              .next (s2.modRun j (fun (q : RunStep) => { q with
                upds := q.upds.filter (fun u => !after u) ++ [TaskRun.init (fwHdr (updId g.g.id) g.g.homeCore) .ready]
                  ++ q.upds.filter after })))
    | _, _ => .next s

/-- One update of blocks: the group, the tensors read and written, headroom and step of the gradient, element base. -/
structure UpdJob where
  g : TGroup
  grad : Desc
  w : Desc
  m : Desc
  v : Desc
  w1 : Desc
  m1 : Desc
  v1 : Desc
  work : Desc
  h : Int
  step : Nat
  base : Nat
  deriving DecidableEq, Repr

/-- Blocks of a tensor from block `k` on. -/
def Desc.sub (d : Desc) (k elems : Nat) : Desc := { d with data := d.data + 32 * k * (d.ty.width / 8), scale := d.scale + k, dim0 := elems }

/-- The optimiser's program for a group: a parameter record, or a user program; none where it breaks its table (R267, R269). -/
inductive OptProg where
  | rec_ (p : OptRec)
  | user (u : UserProg)
  deriving DecidableEq, Repr

/-- The program that a group's update runs in this step. -/
def State.optProg (s : State) (jb : Job) (t : Train) (pt : NMap Nat) (g : TGroup) : Option OptProg :=
  if g.form = 3 then
    if !s.jobReach pt g.prog 64 then none
    else
      let n := userUnits (jobBytes s pt g.prog 64)
      if !s.jobReach pt g.prog (64 * n) || !(badLines s noFaults (jobLines pt g.prog (64 * n))).isEmpty then none
      else (parseUser (jobBytes s pt g.prog (64 * n)) jb.tsBase jb.tsBytes).map OptProg.user
  else (parseOpt g.form ((t.params.drop (64 * g.paramSlot)).take 64)).map OptProg.rec_

/-- Writes, blocks written poisoned, lines read; of a user program also its task state and the lane accumulators (R134, R269). -/
structure UpdRes where
  w : Writes
  pois : Nat
  lines : List Nat
  run : ElemSt
  la : NMap Int
  deriving DecidableEq, Repr

/-- Nothing done yet, from a task state and lane accumulators. -/
def UpdRes.init (run : ElemSt) (la : NMap Int) : UpdRes := ⟨[], 0, [], run, la⟩

/-- One block under a built-in form (R268). -/
def updBuiltin (s : State) (f : Faults) (x : EngRun) (u : UpdJob) (p : OptRec) (k : Nat) (z : UpdRes) : UpdRes :=
  let rd (d : Desc) : OBlk := readBlk s f x.pt x.core d k
  let us := (List.range 32).map (fun i => rstoBits x.jb.seed u.step (updId u.g.id) (u.base + 32 * k + i))
  let adam := u.g.form == 1
  let o := optBlock u.g.form p u.h (rd u.grad) (rd u.w) (rd u.m) (if adam then some (rd u.v) else none) us
  let wk := workBlock u.g.workWide o.w
  let w1 := writeBlk s x.pt x.core u.m1 k o.m (writeBlk s x.pt x.core u.w1 k o.w z.w)
  let w2 := match o.v with
    | some v => writeBlk s x.pt x.core u.v1 k v w1
    | none => w1
  { z with
    w := writeBlk s x.pt x.core u.work k wk w2
    pois := z.pois + b2n o.w.pois + b2n o.m.pois + ((o.v.map (fun b => b2n b.pois)).getD 0) + b2n wk.pois
    lines := dedup (z.lines ++ ([u.grad, u.w, u.m] ++ (if adam then [u.v] else [])).flatMap (fun d => blkLines x.pt x.core d k)) }

/-- The element program that a user form runs (R269). -/
def userBody (u : UpdJob) (p : UserProg) : ElemBody :=
  let outs := (p.outs.zip [u.w1, u.m1]).map (fun q => (q.1.1, { q.2 with round := q.1.2.1, tid := q.1.2.2 }))
  ⟨⟨u.grad.dim0, 1, 1, 1⟩, p.tabs, p.prog, p.ins.zip [u.grad, u.w, u.m], outs, []⟩

/-- Sixteen blocks under a user program (R269): the headroom enters as the exponent of S0. Bounds and tables are those that the task's
first leg and its leg have formed (R139, R143); LA goes on from iteration to iteration (R134). -/
def updUser (s : State) (f : Faults) (x : EngRun) (u : UpdJob) (p : UserProg) (n : Nat) (z0 : UpdRes) : UpdRes :=
  let b := userBody u p
  let y := { x with step := u.step }
  let e := z0.run
  let shift (l : List Int) : List Int := match l with
    | a :: r => (a + u.h) :: r
    | [] => []
  let ls := runLanesOn z0.la s f y b { e with works := shift e.works, bounds := shift e.bounds } n
  let z := { z0 with la := laAfter z0.la ls }
  let out (d : VOut × Desc) (g : Nat) : OBlk :=
    let l := ls.filter (fun q => q.g == g)
    let ex := d.1.resExp + (if d.1.resMode then e.works.getD d.1.resStream 0 else 0)
    let q := quantCells d.1.auto d.1.given (l.map (fun q => Cell.val (nth q.l.regs d.1.src).1 (y.rand d.2 q.i))) ex 32 d.2.round
    ⟨q.qs, q.e, q.sat || l.any (fun q => (nth q.l.regs d.1.src).2)⟩
  let gs := (List.range 16).map (fun i => 16 * n + i)
  (gs.filter (fun g => decide (32 * g < u.grad.dim0))).foldl (fun (z : UpdRes) g =>
    let ow := out (nth b.outs 0) g
    let om := out (nth b.outs 1) g
    let wk := workBlock u.g.workWide ow
    let e := z.run
    { z with
      w := writeBlk s x.pt x.core u.work g wk (writeBlk s x.pt x.core u.m1 g om (writeBlk s x.pt x.core u.w1 g ow z.w))
      pois := z.pois + b2n ow.pois + b2n om.pois + b2n wk.pois
      lines := dedup (z.lines ++ [u.grad, u.w, u.m].flatMap (fun d => blkLines x.pt x.core d g))
      run := { e with o0 := e.o0.wrote false ow.pois false ow.e, o1 := e.o1.wrote false om.pois false om.e } }) z

/-- The task state that a user program starts with (R139, R143, R269) where it needs no leg's checks of its own: bounds and tables; none
where a bound record cannot be reached, or a table breaks its header or is lost. -/
def userStart (s : State) (f : Faults) (x : EngRun) : OptProg → Option ElemSt
  | .rec_ _ => some .init
  | .user p => match formBounds s x.pt p.ins with
    | .error _ => none
    | .ok wb =>
      let raw := rawTables s x.core p.tabs
      if !tablesOk (x.jb.tsBase + x.jb.tsBytes) p.tabs raw
          || !(badLines s f (streamRecs x.pt p.ins ++ tableLines x.core p.tabs raw)).isEmpty then none
      else some { ElemSt.init with works := wb.map Prod.fst, bounds := wb.map Prod.snd, tabs := raw }

/-- Bound records of a user program's outputs (R131, R148, R269). -/
def OptProg.maxes : OptProg → List Nat
  | .rec_ _ => []
  | .user p => p.outs.map (fun o => o.1.maxe)

/-- The bound records are written after the last block. -/
def State.updBounds (s : State) (x : EngRun) (p : OptProg) (e : ElemSt) : State :=
  (p.maxes.zip [e.o0, e.o1]).foldl (fun (t : State) q => t.writeBound x q.1 q.2.maxByte) s

/-- Iteration `n` of an update: blocks 16n … 16n + 15. -/
def updIter (s : State) (f : Faults) (x : EngRun) (u : UpdJob) (p : OptProg) (n : Nat) (z : UpdRes) : UpdRes :=
  match p with
  | .user q => updUser s f x u q n z
  | .rec_ q => (((List.range 16).map (fun i => 16 * n + i)).filter (fun k => decide (32 * k < u.grad.dim0))).foldl
      (fun (z : UpdRes) k => updBuiltin s f x u q k z) z

/-- The tensors of a tier-0 or tier-1 update (R249, R254): the current bank is read, the other one written. -/
def updJobOf (t : Train) (g : TrainGrp) (step : Nat) : UpdJob :=
  let n := t.elems g.g
  let bk := g.g.bank n
  let ts := g.g.tier == 0
  let base (b : Bool) : Nat := if ts then g.g.tsOff + (if b then bk.2 else 0) else if b then g.g.bank1 else g.g.bank0
  let src (k : Nat) : Desc := planeAt ts (base g.cur) bk.1 k n
  let dst (k : Nat) : Desc := planeAt ts (base (!g.cur)) bk.1 k n
  let k := bk.1.length - 1
  ⟨g.g, planeDesc false g.g.grad (g.g.gradTy, 0, g.g.gradScale n) n, src 0, src 1, src 2, dst 0, dst 1, dst 2, dst k, t.h, step,
    32 * (g.g.shard t.dpSize t.dpRank).1⟩

/-- The group that an update leg works on. -/
def EngRun.group (x : EngRun) : Option (Train × TrainGrp) :=
  x.jb.train.bind (fun t => (t.group (x.id - 0x40000000)).map (fun g => (t, g)))

/-- A leg of an update loads a user program's tables anew (R143, R269). -/
def State.updTables (s : State) (x : EngRun) (f : Faults) (p : OptProg) (u : UpdSt) : State :=
  match p with
  | .rec_ _ => s.setEng x (.upd u)
  | .user q => s.withTables x f q.tabs (fun raw => .upd { u with run := { u.run with tabs := raw } })

/-- The first leg of an update (R134, R139, R253, R267, R269): its record or program, its tensors and its records are checked; LA is 0. -/
def State.updBegin (s : State) (x : EngRun) (f : Faults) : State :=
  match x.group with
  | none => s.badBody x
  | some (t, g) => match s.optProg x.jb t x.pt g.g with
    | none => s.badBody x
    | some p =>
      let u := updJobOf t g x.step
      match [u.grad, u.w, u.m, u.w1, u.m1].findSome? (fun d => if d.ts then none else d.planes.findSome? (fun p =>
          if s.jobReach x.pt p.1 p.2 then none else some p.1)), s.badMaxe x p.maxes with
      | some a, _ => s.badAddr x a
      | none, some a => s.badAddr x a
      | none, none =>
        let ins := match p with
          | .rec_ _ => []
          | .user q => q.ins
        (match formBounds s x.pt ins with
          | .error a => s.badAddr x a
          | .ok wb =>
            let s1 := (s.clearLa x.core).ctlMeet x.j x.t f (streamRecs x.pt ins)
            if !s1.sound x then s1
            else s1.updTables x f p ⟨true, 0, 0, { ElemSt.init with works := wb.map Prod.fst, bounds := wb.map Prod.snd }⟩)

/-- A later leg of an update. -/
def State.updResume (s : State) (x : EngRun) (f : Faults) (u : UpdSt) : State :=
  match x.group with
  | none => s
  | some (t, g) => match s.optProg x.jb t x.pt g.g with
    | none => s.badBody x
    | some p => s.updTables x f p u

/-- One iteration of an update leg. -/
def State.updIterate (s : State) (x : EngRun) (f : Faults) : State :=
  match x.t.eng, x.group with
  | .upd u, some (t, g) => (match s.optProg x.jb t x.pt g.g with
      | none => s.badBody x
      | some p =>
        let j := updJobOf t g x.step
        let iters := cdiv (cdiv (t.elems g.g) 32) 16
        if iters ≤ u.iter then s
        else
          let r := updIter s f x j p u.iter (.init u.run (s.core x.core).la)
          let s1 := (s.readMeet x f r.lines).engWrite x f r.w
          let s2 := (s1.setCore x.core { s1.core x.core with la := r.la }).modEng x (fun y => { y with
            eng := .upd ⟨true, u.iter + 1, u.poisoned + r.pois, r.run⟩, progress := some u.iter, finished := decide (u.iter + 1 = iters) })
          if u.iter + 1 = iters then s2.updBounds x p r.run else s2)
  | _, _ => s

/-! ### Service digest legs -/

/-- Device address of byte `k` of a group's current bank (R249, R272); none where its page is not mapped. -/
def Train.bankAddr (t : Train) (pt : NMap Nat) (g : TrainGrp) (k : Nat) : Option Nat :=
  if g.g.tier = 0 then some (tileAt g.g.homeCore + g.g.tsOff + (if g.cur then (g.g.bank (t.elems g.g)).2 else 0) + k)
  else xlate pt ((if g.cur then g.g.bank1 else g.g.bank0) + k)

/-- Pages of a group's bank. -/
def Train.bankPages (t : Train) (g : TrainGrp) : Nat := cdiv (g.g.bank (t.elems g.g)).2 (2 ^ 21)

/-- First word of a page of a group's bank, and the word after its last (R272). -/
def Train.pageWords (t : Train) (g : TrainGrp) (p : Nat) : Nat × Nat :=
  (p * 2 ^ 19, min ((p + 1) * 2 ^ 19) ((g.g.bank (t.elems g.g)).2 / 4))

/-- The term of word `l` of a bank (R151, R272): one read from an uncorrectable line enters as code 0 with the poison scale. -/
def wordTerm (s : State) (f : Faults) (pt : NMap Nat) (t : Train) (g : TrainGrp) (l : Nat) : Nat :=
  match t.bankAddr pt g (4 * l) with
  | none => digestTerm l 0 0x80
  | some a => if badLine s f (lineOf a) then digestTerm l 0 0x80 else digestTerm l (leNat (s.bytes a 4)) 0

/-- Words of one iteration of a digest leg: one for each lane. -/
def digLanes : Nat := 512

/-- The digest of a page waits to be taken, afresh. -/
def Train.digPage (t : Train) (g : TrainGrp) (p : Nat) : DigPage := ⟨g.g.id, p, (t.pageWords g p).1, 0, 0⟩

/-- Every page digest that a replica tally of these groups takes (R272). -/
def Train.digPages (t : Train) (gs : List TrainGrp) : List DigPage :=
  gs.flatMap (fun g => (List.range (t.bankPages g)).map (t.digPage g))

/-- Change the digest of a page. -/
def Train.modDig (t : Train) (group page : Nat) (f : DigPage → DigPage) : Train :=
  { t with digs := t.digs.map (fun d => if d.group = group ∧ d.page = page then f d else d) }

/-- The digest leg on a core ends: a configuration that waited for its boundary is applied (R80). -/
def State.svcOver (s : State) (core : Nat) : State :=
  let s1 := { s with svc := merase s.svc core }
  if legOnBlk s1 core then s1 else s1.boundaryApply core

/-- One iteration of a service digest leg (R63, R272): 512 words of its page join the sum; the leg of a job that has gone ends. -/
def State.digIterate (s : State) (f : Faults) (core : Nat) (v : SvcLeg) : State :=
  match s.job v.job with
  | none => s.svcOver core
  | some jb => match jb.train.bind (fun t => (t.group v.group).bind (fun g =>
      (t.digs.find? (fun d => d.group == v.group && d.page == v.page && d.st == 1)).map (fun d => (t, g, d)))) with
    | none => s.svcOver core
    | some (t, g, d) =>
      let hi := min (d.next + digLanes) (t.pageWords g d.page).2
      let ws := (List.range (hi - d.next)).map (fun i => d.next + i)
      let sum := ws.foldl (fun a l => (a + wordTerm s f jb.pt t g l) % 2 ^ 64) d.sum
      let ls := dedup (ws.filterMap (fun l => (t.bankAddr jb.pt g (4 * l)).map lineOf))
      let ends := decide ((t.pageWords g d.page).2 ≤ hi) || jb.abort.isSome
      let s1 := (s.meet ⟨1, core, v.job, 0xFFFFFFFF, 1⟩ f ls).modTrain v.job (fun t => t.modDig v.group v.page (fun d =>
        { d with next := hi, sum := sum, st := if ends then 2 else 1 }))
      if ends then s1.svcOver core else s1

/-- Digest legs end at a tick like every leg (R73): each keeps its sum and waits for its next leg. -/
def State.svcTick (s : State) : State :=
  s.svc.foldl (fun (t : State) (p : Nat × SvcLeg) =>
    (t.modTrain p.2.job (fun r => r.modDig p.2.group p.2.page (fun d => { d with st := if d.st = 1 then 0 else d.st }))).svcOver p.1) s

/-- ELEMENT_ITERATION: the vector group of a core finishes the next iteration of an element program, of an update leg or of a service
digest leg. -/
def execElementIteration (core : BitVec 7) (f : Faults) (s : State) : Host.Outcome State Fault Refusal :=
  match mget s.svc core.toNat with
  | some v => .next (if s.live then s.digIterate f core.toNat v else s)
  | none => .next (s.onTile (.vector core) (fun x =>
      if x.t.hdr.kind = 0x02 then s.elemIterate x f else if x.t.hdr.kind = updKind then s.updIterate x f else s))

/-- An update leg ends: its group has written its other bank. -/
def State.updDone (s : State) (j id : Nat) : State :=
  (s.modTask j id (fun t => t.idle .done s.stamp)).modTrain j (fun t => { t with
    groups := t.groups.map (fun (g : TrainGrp) => if updId g.g.id = id then { g with wrote := true } else g) })

/-! ### The slow tier -/

/-- The page table under which a ledger slot stands at GRAD_ADDR. -/
def TrainGrp.slotPt (g : TrainGrp) (l : LedSlot) (pt : NMap Nat) : NMap Nat :=
  (l.pages.zipIdx).foldl (fun (m : NMap Nat) p => mset m (g.g.grad / 2 ^ 21 + p.2) (p.1 * 2 ^ 21)) pt

/-- Valid slots of steps n − d … n − 1, in order (R261). -/
def TrainGrp.dueSlots (g : TrainGrp) (n : Nat) : List LedSlot :=
  (List.range g.g.delay).filterMap (fun i =>
    if n + i < g.g.delay then none
    else
      let u := n + i - g.g.delay
      (g.ledger[u % (g.g.delay + 1)]?).bind (fun l => if l.mark = 1 ∧ l.ordinal = u then some l else none))

/-- A pseudo run of firmware for a group's slow-tier work: the group's id names the task (R413). -/
def slowRun (j : Nat) (jb : Job) (g : TrainGrp) (step : Nat) (pt : NMap Nat) : EngRun :=
  ⟨j, TaskRun.init (fwHdr (updId g.g.id) g.g.homeCore) .running, jb, step, 0, pt⟩

/-- What applying slots to a part has come to: the scratch state, blocks written poisoned, lines read, the last update's task state (R269),
and whether a user program could not start. -/
structure SlotRes where
  st : State
  pois : Nat
  lines : List Nat
  run : ElemSt
  broken : Bool

/-- Nothing applied yet. -/
def SlotRes.init (s : State) : SlotRes := ⟨s, 0, [], .init, false⟩

/-- One slot applied to a part on a scratch state (R261): results go to HOST_ADDR's planes and the other working bank there. -/
def applySlot (f : Faults) (x : EngRun) (t : Train) (g : TrainGrp) (p : Nat) (prog : OptProg) (z : SlotRes) (l : LedSlot) : SlotRes :=
  let n := t.elems g.g
  let r := g.g.part n p
  let len := min n (32 * (r.1 + r.2)) - 32 * r.1
  let hp := g.g.hostPlanes n
  let bk := g.g.bank n
  let hd (k : Nat) : Desc := (planeAt false g.g.hostAddr hp.1 k n).sub r.1 len
  let wk := (planeAt false (if g.partBank.getLsbD p then g.g.bank0 else g.g.bank1) bk.1 0 n).sub r.1 len
  let gd := (planeDesc false g.g.grad (g.g.gradTy, 0, g.g.gradScale n) n).sub r.1 len
  let y := { x with pt := g.slotPt l x.pt }
  let u : UpdJob := ⟨g.g, gd, hd 0, hd 1, hd 2, hd 0, hd 1, hd 2, wk, l.h, l.step, 32 * ((g.g.shard t.dpSize t.dpRank).1 + r.1)⟩
  match userStart z.st f x prog with
  | none => { z with broken := true }
  | some e =>
    let o := (List.range (cdiv (cdiv len 32) 16)).foldl (fun (q : UpdRes) i => updIter z.st f y u prog i q) (.init e [])
    ⟨{ z.st with mem := o.w.foldl (fun (m : NMap Byte) b => memPut m b.1 b.2) z.st.mem }, z.pois + o.pois, dedup (z.lines ++ o.lines), o.run,
      z.broken⟩

/-- The master and moment bytes of a part in plane order: data, then scales (R261). -/
def partBytesOf (s : State) (pt : NMap Nat) (g : TGroup) (elems p : Nat) : List (Nat × Byte) :=
  let r := g.part elems p
  let hp := g.hostPlanes elems
  hp.1.flatMap (fun q =>
    let d := g.hostAddr + q.2.1 + 128 * r.1
    let sc := g.hostAddr + q.2.2 + r.1
    ((List.range (128 * r.2)).map (fun i => d + i) ++ (List.range r.2).map (fun i => sc + i)).map (fun a => (a, jobByte s pt a)))

/-- The working copy of a part as it stands after no update: copied from the current bank's master (R261). -/
def workOnly (s : State) (f : Faults) (x : EngRun) (t : Train) (g : TrainGrp) (p : Nat) : Writes × Nat × List Nat :=
  let n := t.elems g.g
  let r := g.g.part n p
  let len := min n (32 * (r.1 + r.2)) - 32 * r.1
  let m := (planeAt false g.g.hostAddr (g.g.hostPlanes n).1 0 n).sub r.1 len
  let wk := (planeAt false (if g.partBank.getLsbD p then g.g.bank0 else g.g.bank1) (g.g.bank n).1 0 n).sub r.1 len
  (List.range (cdiv len 32)).foldl (fun (z : Writes × Nat × List Nat) k =>
    let b := workBlock g.g.workWide (readBlk s f x.pt x.core m k)
    (writeBlk s x.pt x.core wk k b z.1, z.2.1 + b2n b.pois, dedup (z.2.2 ++ blkLines x.pt x.core m k))) ([], 0, [])

/-- SLOW_TIER_FETCH_DONE (R261–R263): the part's state is here; its due slots are applied in order. An application that writes
poison is discarded and asks for a rollback; a record or program that breaks its table counts as R256 says. -/
def execSlowTierFetchDone (job : BitVec 4) (group : BitVec 16) (part : BitVec 32) (f : Faults) (s : State) : Host.Outcome State Fault Refusal :=
  let j := job.toNat
  let p := part.toNat
  match s.job j with
  | none => .next s
  | some jb => match jb.run, jb.train with
    | some r, some t => (match t.group group.toNat with
        | none => .next s
        | some g =>
          let n := t.elems g.g
          if !(s.live && r.q.update && r.close == 0 && jb.abort.isNone && g.inStep && g.g.tier == 2 && g.applied.isNone
              && p == t.ordinal % g.g.delay && decide (p < g.g.delay) && (g.g.part n p).2 != 0
              && ((g.owed.map (fun o => o.1 != p)).getD true)
              && s.jobReach jb.pt g.g.hostAddr (g.g.hostPlanes n).2
              && s.jobReach jb.pt (if g.partBank.getLsbD p then g.g.bank0 else g.g.bank1) (g.g.bank n).2) then .next s
          else
            let x := slowRun j jb g r.q.step jb.pt
            match s.optProg jb t jb.pt g.g with
            | none => .next ((s.setGroup j { g with applied := some p }).modTrain j (fun (t : Train) => { t with extra := t.extra + 1 }))
            | some prog =>
              let slots := g.dueSlots t.ordinal
              let z0 := workOnly s f x t g p
              let z : SlotRes := if slots.isEmpty then
                  ⟨{ s with mem := z0.1.foldl (fun (m : NMap Byte) b => memPut m b.1 b.2) s.mem }, z0.2.1, z0.2.2, .init, false⟩
                else slots.foldl (applySlot f x t g p prog) (.init s)
              let s1 := s.meet (s.cmdReader j) f z.lines
              if z.broken then
                .next ((s1.setGroup j { g with applied := some p }).modTrain j (fun (t : Train) => { t with extra := t.extra + 1 }))
              else if z.pois ≠ 0 then
                .next (((s1.setGroup j { g with applied := some p }).post { s1.ev 0x0404 with job := j, arg0 := g.g.id, arg1 := p }).modTrain
                  j (fun (t : Train) => { t with rollback := true, rollbacks := t.rollbacks }))
              else
                let wbase := if g.partBank.getLsbD p then g.g.bank0 else g.g.bank1
                let pr := g.g.part n p
                let wk := (planeAt false wbase (g.g.bank n).1 0 n)
                let el := wk.ty.width / 8
                let put (t : State) (va len : Nat) : State := t.jobPut j va (jobBytes z.st jb.pt va len)
                let s2 := put (put s1 (wk.data + 32 * pr.1 * el) (32 * pr.2 * el)) (wk.scale + pr.1) pr.2
                let s3 := if slots.isEmpty then s2 else s2.updBounds x prog z.run
                .next (s3.setGroup j { g with applied := some p, staged := (partBytesOf z.st jb.pt g.g n p).map Prod.snd }))
    | _, _ => .next s

/-- Offset of a tier-2 group's staging buffer among the job's staging pages (R247). -/
def Train.stageOff (t : Train) (id : Nat) : Nat :=
  ((t.groups.takeWhile (fun g => g.g.id != id)).filter (fun g => g.g.tier == 2)).foldl (fun a g =>
    a + g.g.stageBytes (cdiv (cdiv (t.elems g.g) 32) g.g.delay)) 0

/-- A part's new master and moments go back to host memory (R261, R400): a staging line that reads uncorrectable makes its
host lines lost. -/
def State.slowBack (s : State) (f : Faults) (j : Nat) (jb : Job) (t : Train) (g : TrainGrp) (p : Nat) (bytes : List Byte) : State :=
  let at_ := (partBytesOf s jb.pt g.g (t.elems g.g) p).map Prod.fst
  let off := t.stageOff g.g.id
  let stg (i : Nat) : Nat := nth t.stagePages ((off + i) / 2 ^ 21) * 2 ^ 21 + (off + i) % 2 ^ 21
  let w : Writes := (at_.zip bytes).foldl (fun (m : Writes) q => match xlate jb.pt q.1 with
    | some a => mset m a q.2
    | none => m) []
  let bad := dedup ((at_.zipIdx).filterMap (fun q =>
    if badLine s f (lineOf (stg q.2)) then (xlate jb.pt q.1).map lineOf else none))
  let s1 := s.meet (s.cmdReader j) f (dedup ((List.range bytes.length).map (fun i => lineOf (stg i))))
  (s1.moveWrite (slowRun j jb g 0 jb.pt) f w bad).setGroup j { g with owed := none }

/-- SLOW_TIER_WRITEBACK (R261). -/
def execSlowTierWriteback (job : BitVec 4) (group : BitVec 16) (part : BitVec 32) (f : Faults) (s : State) : Host.Outcome State Fault Refusal :=
  let j := job.toNat
  match s.job j with
  | none => .next s
  | some jb => match jb.train with
    | none => .next s
    | some t => match t.group group.toNat with
      | none => .next s
      | some g => match g.owed with
        | none => .next s
        | some (p, bytes) =>
          if !(s.live && p == part.toNat && jb.abort.isNone && s.jobReach jb.pt g.g.hostAddr (g.g.hostPlanes (t.elems g.g)).2) then .next s
          else .next (s.slowBack f j jb t g p bytes)

end Sys2Proof.Machine
end

