-- ==== Sys2Proof/Machine/Collective.lean ====
section
/-! DEFINITION. Collectives (12, R312–R334): the body, the ring and exchange schedules, chunk-steps, the collective frames,
failures. -/
namespace Sys2Proof.Machine

/-- The body of a collective task (R315). -/
structure CollBody where
  op : Nat
  accum : Bool
  wide : Bool
  keep : Bool
  serai : Nat
  group : Nat
  trainGroup : Nat
  seq : Nat
  table : Nat
  entries : Nat
  maxe : Nat
  inp : Desc
  out : Desc
  /-- SIG_TYPE and SIG_BLOCK codes of the input -/
  sigTy : Nat
  sigBlk : Nat
  deriving DecidableEq, Repr, Inhabited

/-- A descriptor of a collective (R316): TS 0, one dimension, blocks along it, not MX. -/
def collDesc (d : Desc) : Bool := !d.ts && d.rankM1 == 0 && d.axis == 0 && d.ty != .mx

/-- A body that keeps its table (R315, R316). -/
def parseColl (b : List Byte) : Option CollBody :=
  let u := unitOf b 0
  let w := fld u 0 4
  let t := fld u 8 8
  let m := fld u 0x18 8
  let op := bits w 0 3
  let k := fld (unitOf b 1) 0x10 4
  match parseDesc (unitOf b 1), parseDesc (unitOf b 2) with
  | some i, some o =>
    if decide (op ≤ 4) && (decide (op ≤ 1) || !(bit w 3 || bit w 4)) && (op == 2 || !bit w 5) && (bit w 5 || bits w 16 16 == 0)
      && bits t 44 20 == 0 && bits t 0 6 == 0 && bits m 44 20 == 0 && (decide (op ≤ 1) || m == 0)
      && (if 3 ≤ op then fld u 0x10 2 != 0 else t == 0 && fld u 0x10 2 == 0)
      && fld u 0x12 6 == 0 && zeroBytes u 0x20 0x40 && b.length == 192 && collDesc i && collDesc o
    then some ⟨op, bit w 3, bit w 4, bit w 5, bits w 6 2, bits w 8 8, bits w 16 16, fld u 4 4, bits t 0 44, fld u 0x10 2,
      bits m 0 44, i, o, bits k 0 4, bits k 4 3⟩
    else none
  | _, _ => none

/-- The serai that a collective body names, read for the drover that places it. -/
def collSerai (b : List Byte) : Nat := bits (fld (unitOf b 0) 0 4) 6 2

/-- Elements of the whole tensor (R316). -/
def CollBody.elems (b : CollBody) : Nat := if b.op = 2 then b.out.dim0 else b.inp.dim0

/-- First element and elements of rank `r`'s segment (R317). -/
def cutOf (elems p r : Nat) : Nat × Nat :=
  let n := cdiv elems 32
  let a := min elems (32 * (r * n / p))
  (a, min elems (32 * ((r + 1) * n / p)) - a)

/-- A segment of a ring operation. A reduction of a B0 tensor has one block, which rank 0 owns (log 48). -/
def CollBody.seg (b : CollBody) (p r : Nat) : Nat × Nat :=
  if b.op ≤ 1 ∧ b.inp.blk = 0 then (if r = 0 then (0, b.elems) else (b.elems, 0)) else cutOf b.elems p r

/-- The signed types of a reduction. -/
def redType (t : ElTy) : Bool := t == .s8 || t == .s16 || t == .s32

/-- The operand conditions of R316 and R317. -/
def CollBody.fits (b : CollBody) (p r : Nat) : Bool :=
  let n := (cutOf b.elems p r).2
  match b.op with
  | 0 => redType b.inp.ty && redType b.out.ty && (b.inp.blk == 32 || b.inp.blk == 0) && b.out.blk == b.inp.blk
      && b.out.dim0 == b.inp.dim0
  | 1 => redType b.inp.ty && redType b.out.ty && b.inp.blk == 32 && b.out.blk == 32 && b.out.dim0 == max 1 n
  | 2 => b.out.ty == b.inp.ty && b.out.blk == b.inp.blk && b.inp.dim0 == max 1 n
  | _ => b.out.ty == b.inp.ty && b.out.blk == b.inp.blk

/-- A segment table that keeps R318 for tensors of so many elements, of which one in a single block moves whole: none where an entry
breaks it. With `single` each rank has one send and one receive entry. -/
def segTable (p r : Nat) (single : Bool) (inp out : Nat × Bool) (t : List Byte) : Option (List CollSeg) :=
  let one (e : List Byte) : Option CollSeg :=
    let w := fld e 0 4
    let g : CollSeg := ⟨bits w 0 13, bit w 16, fld e 4 4, fld e 8 4⟩
    let d := if g.recv then out else inp
    if bits w 13 3 == 0 && bits w 17 15 == 0 && fld e 12 4 == 0 && decide (g.len < 2 ^ 31 ∧ g.peer < p ∧ g.off + g.len ≤ d.1)
        && g.off % 32 == 0 && (g.len % 32 == 0 || g.off + g.len == d.1)
        && (!d.2 || (g.off == 0 && g.len == d.1)) then some g else none
  match (chunksOf 16 t).mapM one with
  | none => none
  | some l =>
    let recvs := l.filter (fun g => g.recv && g.len != 0)
    let sends := l.filter (fun g => !g.recv)
    let apart := recvs.zipIdx.all (fun x => recvs.zipIdx.all (fun y =>
      x.2 == y.2 || decide (x.1.off + x.1.len ≤ y.1.off ∨ y.1.off + y.1.len ≤ x.1.off)))
    let ls := (sends.filter (fun g => g.peer == r)).map CollSeg.len
    let lr := (l.filter (fun g => g.recv && g.peer == r)).map CollSeg.len
    let once := (List.range p).all (fun k =>
      (sends.filter (fun g => g.peer == k)).length == 1 && (l.filter (fun g => g.recv && g.peer == k)).length == 1)
    if apart && ls == lr && (!single || once) then some l else none

/-- The segment table of an exchange (R318). -/
def parseSegs (b : CollBody) (p r : Nat) (t : List Byte) : Option (List CollSeg) :=
  let size (d : Desc) : Nat × Bool := (d.dim0, d.blk == 0 && d.ty.scaled)
  segTable p r (b.op == 3) (size b.inp) (size b.out) t

/-- A chunk-step: pass (0 and 1 scale bytes reduced and gathered, 2 partial sums, 3 gather, 4 exchange send, 5 exchange
receive, 6 local copy), ring step or entry, and chunk; whether it is its segment's last chunk. -/
structure CStep where
  pass : Nat
  k : Nat
  chunk : Nat
  last : Bool
  deriving DecidableEq, Repr, Inhabited

/-- What a collective task works with. -/
structure CollCtx where
  x : EngRun
  b : CollBody
  p : Nat
  r : Nat
  timeout : Nat
  members : List Nat
  segs : List CollSeg
  deriving DecidableEq, Repr

/-- A task's collective body with its group; none where the body breaks its table or the group is not set. -/
def EngRun.coll (x : EngRun) : Option CollCtx :=
  (parseColl x.t.body).bind (fun b => (mget x.jb.groups b.group).map (fun g =>
    ⟨x, b, g.size, g.rank, if g.timeout = 0 then 5000 else g.timeout, g.members, match x.t.eng with
      | .coll c => c.segs
      | _ => []⟩))

/-- Bytes of a chunk (R326). -/
def chunkBytes : Nat := 65536

/-- Blocks under one scale byte that a segment holds, and the first. -/
def CollCtx.blocks (c : CollCtx) (g : Nat) : Nat × Nat :=
  let s := c.b.seg c.p g
  if c.b.inp.blk = 0 then (0, if s.2 = 0 then 0 else 1) else (s.1 / 32, cdiv s.2 32)

/-- Bytes of one aligned word on the wire (R315). -/
def CollCtx.word (c : CollCtx) : Nat := if c.b.wide then 4 else 2

/-- Elements under one scale byte of the wire: a block, or 32 elements of a longer block (log 48). -/
def Desc.granule (d : Desc) : Nat := if d.blk = 0 then max 1 d.dim0 else min d.blk 32

/-- Bytes of `len` elements of data, and with their scale bytes. -/
def Desc.wireData (d : Desc) (len : Nat) : Nat := cdiv (len * d.ty.width) 8
def Desc.wireLen (d : Desc) (len : Nat) : Nat := d.wireData len + (if d.ty.scaled then cdiv len d.granule else 0)

/-- The segment that a chunk-step of a ring pass handles (R325). -/
def CollCtx.segAt (c : CollCtx) (pass k : Nat) : Nat :=
  if pass = 0 ∨ pass = 2 then (if k + 1 = c.p then c.r else (c.r + 2 * c.p - k - 1) % c.p) else (c.r + c.p - k) % c.p

/-- Bytes on the wire of what a pass handles at `k`. -/
def CollCtx.bytesAt (c : CollCtx) (pass k : Nat) : Nat :=
  if pass ≤ 1 then (c.blocks (c.segAt pass k)).2
  else if pass = 2 then c.word * (c.b.seg c.p (c.segAt 2 k)).2
  else if pass = 3 then c.b.out.wireLen (c.b.seg c.p (c.segAt 3 k)).2
  else match c.segs[k]? with
    | some g => (if g.recv then c.b.out else c.b.inp).wireLen g.len
    | none => 0

/-- Chunks of a pass at `k`: an exchange sends at least one (R318). -/
def CollCtx.chunks (c : CollCtx) (pass k : Nat) : Nat :=
  let n := cdiv (c.bytesAt pass k) chunkBytes
  if pass = 4 ∨ pass = 5 then max 1 n else n

/-- The chunk-steps of one pass at `k`. -/
def CollCtx.stepsAt (c : CollCtx) (pass k : Nat) : List CStep :=
  let n := c.chunks pass k
  (List.range n).map (fun i => ⟨pass, k, i, i + 1 == n⟩)

/-- The chunk-steps of the task in order (R325, R326). -/
def CollCtx.steps (c : CollCtx) : List CStep :=
  let ring (pass : Nat) : List CStep := (List.range c.p).flatMap (fun k => c.stepsAt pass k)
  match c.b.op with
  | 0 => ring 0 ++ (if c.p = 1 then [] else ring 1) ++ ring 2 ++ (if c.p = 1 then [] else ring 3)
  | 1 => ring 0 ++ (if c.p = 1 then [] else ring 1) ++ ring 2
  | 2 => ring 3
  | _ => c.segs.zipIdx.flatMap (fun g =>
      if g.1.peer = c.r then (if g.1.recv then [] else [⟨6, g.2, 0, true⟩]) else c.stepsAt (if g.1.recv then 5 else 4) g.2)

/-- Index of an entry among those that name its peer in its direction (R318). -/
def CollCtx.pair (c : CollCtx) (k : Nat) : Nat :=
  match c.segs[k]? with
  | some g => ((c.segs.take k).filter (fun y => y.peer == g.peer && y.recv == g.recv)).length
  | none => 0

/-- A message of a collective: the peer's rank, PHASE, RING_STEP (log 48) and chunk. -/
structure CMsg where
  peer : Nat
  phase : Nat
  ring : Nat
  chunk : Nat
  deriving DecidableEq, Repr, Inhabited

/-- What a chunk-step takes in, if anything. -/
def CollCtx.takes (c : CollCtx) (t : CStep) : Option CMsg :=
  if t.pass ≤ 3 then
    if t.k = 0 then none
    else some ⟨(c.r + c.p - 1) % c.p, if t.pass ≤ 1 then 1 else t.pass, (if t.pass = 1 then c.p - 1 else 0) + t.k - 1, t.chunk⟩
  else if t.pass = 5 then (c.segs[t.k]?).map (fun g => ⟨g.peer, 4, c.pair t.k, t.chunk⟩)
  else none

/-- What a chunk-step sends, if anything. -/
def CollCtx.gives (c : CollCtx) (t : CStep) : Option CMsg :=
  if t.pass ≤ 3 then
    if c.p ≤ t.k + 1 then none
    else some ⟨(c.r + 1) % c.p, if t.pass ≤ 1 then 1 else t.pass, (if t.pass = 1 then c.p - 1 else 0) + t.k, t.chunk⟩
  else if t.pass = 4 then (c.segs[t.k]?).map (fun g => ⟨g.peer, 4, c.pair t.k, t.chunk⟩)
  else none

/-- LEN that a message carries (R327). -/
def CollCtx.lenOf (c : CollCtx) (t : CStep) : Nat :=
  if t.pass ≤ 3 then c.b.elems else ((c.segs[t.k]?).map CollSeg.len).getD 0

/-- The signature word at 0x14 (R327). -/
def CollCtx.sig (c : CollCtx) : Nat :=
  c.b.op + c.b.sigTy * 2 ^ 3 + c.b.sigBlk * 2 ^ 7 + b2n c.b.wide * 2 ^ 10 + (c.p - 1) * 2 ^ 11 + b2n c.b.accum * 2 ^ 24

/-- A collective header (R327). -/
def CollCtx.header (c : CollCtx) (sub : Nat) (m : CMsg) (len reason : Nat) : List Byte :=
  toLE 4 (c.b.group + sub * 2 ^ 8 + m.phase * 2 ^ 10 + c.r * 2 ^ 13) ++ toLE 4 c.b.seq ++ toLE 4 c.x.step ++ toLE 4 m.ring
    ++ toLE 4 m.chunk ++ toLE 4 c.sig ++ toLE 4 len ++ toLE 1 reason ++ zeros 35

/-- FLOW of a chunk (R328). -/
def CollCtx.flow (c : CollCtx) (chunk : Nat) : Nat := 512 + 4 * (c.b.seq % 16) + chunk % 4

/-- A request frame of the collective to a rank. -/
def CollCtx.req (c : CollCtx) (rank flow off : Nat) (d : List Byte) : Req :=
  { serai := c.b.serai, dest := nth c.members rank, tag := c.x.jb.tag, cls := c.x.jb.fabClass, typ := 8, flow := flow
    offset := off, window := 0, poison := false, payload := d, use_ := TxnFor.coll c.x.j c.x.id }

/-- Send a header that opens no transaction; none where the peer is unreachable (R300). -/
def State.collPlain (s : State) (c : CollCtx) (rank flow : Nat) (d : List Byte) : Option State :=
  let q := c.req rank flow 0 d
  match s.dom.route s.dom.epoch q.dest s.dom.deviceId q.flow with
  | none => none
  | some (k, sw) => some (s.sendBy k false (s.mkFrame q 0 sw))

/-- Change a collective's state. -/
def State.modColl (s : State) (x : EngRun) (f : CollSt → CollSt) : State :=
  s.modEng x (fun t => match t.eng with
    | .coll c => { t with eng := .coll (f c) }
    | _ => t)

/-- The collective's state. -/
def State.collOf (s : State) (x : EngRun) : Option CollSt :=
  (s.taskOf x.j x.id).bind (fun t => match t.eng with
    | .coll c => some c
    | _ => none)

/-- A collective fails (R330): ABORT to every member, EV_COLL_FAIL, the job aborts. -/
def State.collFail (s : State) (c : CollCtx) (peer reason detail : Nat) : State :=
  let s1 := ((List.range c.p).filter (fun k => k != c.r)).foldl (fun (t : State) k =>
    (t.collPlain c k (c.flow 0) (c.header 3 ⟨k, 0, 0, 0⟩ c.b.elems reason)).getD t) s
  s1.jobFatal c.x.j (some { s1.ev 0x0409 with
    cls := 2, srcType := 3, srcIndex := c.b.serai, job := c.x.j, task := c.x.id, arg0 := c.b.group + c.b.seq * 2 ^ 32
    arg1 := peer + reason * 2 ^ 16 + detail * 2 ^ 24 }) 0x0409

/-- A transfer of a collective fails as a contained error (R300, R301, R303): its event names the task. -/
def State.collContained (s : State) (c : CollCtx) (e : EventRec) : State :=
  s.post { e with cls := 1, job := c.x.j, task := c.x.id, status := 0x000E, srcType := 3, srcIndex := c.b.serai }

/-- A transaction of a collective has failed (R301, R303, R330). -/
def State.collTxnFail (s : State) (j task dest : Nat) (e : EventRec) : State :=
  match (s.engOf j task).bind EngRun.coll with
  | none => s
  | some c => (s.collContained c e).collFail c ((c.members.findIdx? (fun d => d == dest)).getD 0) 0x02 0

/-- Staging buffers of a serai that are granted and not used up (R326). -/
def State.stagingUsed (s : State) (n : Nat) : Nat :=
  (s.jobs.map (fun (p : Nat × Job) => ((p.2.run.map (fun (r : RunStep) => (r.tasks.map (fun (t : TaskRun) => match t.eng with
    | .coll c => if collSerai t.body = n ∧ t.st ≠ .done ∧ t.st ≠ .aborted then
        (c.granted.filter (fun i => (mget c.staged i).isSome || !c.done.contains i)).length else 0
    | _ => 0)).sum)).getD 0))).sum

/-- READY for each incoming chunk in the order of the schedule while a staging buffer is free (R326). -/
def State.collGrant (s : State) (c : CollCtx) : State :=
  match s.collOf c.x with
  | none => s
  | some q =>
    let due := (c.steps.zipIdx).filter (fun t => (c.takes t.1).isSome && !q.granted.contains t.2)
    (due.take (1024 - s.stagingUsed c.b.serai)).foldl (fun (z : State) t =>
      match c.takes t.1 with
      | none => z
      | some m =>
        if (((z.job c.x.j).map (fun (b : Job) => b.abort.isSome)).getD true) then z
        else match z.collPlain c m.peer (c.flow m.chunk) (c.header 1 m (c.lenOf t.1) 0) with
          | none => z.collFail c m.peer 0x02 0
          | some z1 => z1.modColl c.x (fun (q : CollSt) => { q with granted := q.granted ++ [t.2] })) s

/-- A READY for a message has come. -/
def CollCtx.readyFor (c : CollCtx) (m : CMsg) : Bool :=
  c.x.jb.readies.any (fun (y : ReadyRec) => y.group == c.b.group && y.step == c.x.step && y.seq == c.b.seq && y.src == m.peer
    && y.phase == m.phase && y.ring == m.ring && y.chunk == m.chunk)

/-- Bytes of a chunk-step's chunk. -/
def CollCtx.chunkLen (c : CollCtx) (t : CStep) : Nat := min chunkBytes (c.bytesAt t.pass t.k - chunkBytes * t.chunk)

/-- The received pieces of a chunk joined; none while some are missing. -/
def CollSt.got (q : CollSt) (i n : Nat) : Option (List Byte) :=
  (mget q.staged i).bind (fun m =>
    let d := m.flatMap (fun p => p.2)
    if n ≤ d.length then some (d.take n) else none)

/-- Scale blocks that a chunk-step of pass 0, 1 or 2 needs or makes. -/
def CollCtx.blocksOf (c : CollCtx) (t : CStep) : List Nat :=
  let bl := c.blocks (c.segAt t.pass t.k)
  if t.pass ≤ 1 then (List.range (c.chunkLen t)).map (fun i => bl.1 + chunkBytes * t.chunk + i)
  else if c.b.inp.blk = 0 then [0]
  else
    let per := chunkBytes / c.word / 32
    (List.range (min per (bl.2 - per * t.chunk))).map (fun i => bl.1 + per * t.chunk + i)

/-- A chunk-step may run: its predecessor of the segment is done, its chunk is here, its receiver is ready, and what it
depends on is done (R325, R326). -/
def CollCtx.enabled (c : CollCtx) (q : CollSt) (i : Nat) (t : CStep) : Bool :=
  !q.done.contains i
    && (t.chunk == 0 || q.done.contains (i - 1))
    && ((c.takes t).isNone || (q.got i (c.chunkLen t)).isSome)
    && ((c.gives t).map c.readyFor).getD true
    && (if t.pass = 1 ∧ t.k = 0 ∨ t.pass = 2 then (c.blocksOf t).all (fun j => (mget q.xs j).isSome) else true)
    && (if t.pass = 3 ∧ t.k = 0 ∧ c.b.op = 0 then
        (c.steps.zipIdx).all (fun y => !(y.1.pass == 2 && y.1.k + 1 == c.p) || q.done.contains y.2) else true)

/-- The first chunk-step that may run. -/
def CollCtx.next (c : CollCtx) (q : CollSt) : Option (Nat × CStep) :=
  ((c.steps.zipIdx).find? (fun t => c.enabled q t.2 t.1)).map (fun t => (t.2, t.1))

/-! ### Data -/

/-- A block of a descriptor has a line that reads uncorrectable. -/
def Desc.lost (s : State) (f : Faults) (pt : NMap Nat) (d : Desc) (l : Nat) : Bool :=
  (Desc.blockLines pt 0 d ⟨l, 0, 0, 0⟩).any (badLine s f)

/-- Bytes `p0 … p0 + n − 1` of the wire of `len` elements from `off` (R324, log 48), the lines read, and a lost block met. -/
def Desc.wire (s : State) (f : Faults) (pt : NMap Nat) (d : Desc) (off len p0 n : Nat) : List Byte × List Nat × Bool :=
  let nd := d.wireData len
  let el (p : Nat) : Nat := if p < nd then off + p * 8 / d.ty.width else off + (p - nd) * d.granule
  let ps := (List.range n).map (fun i => p0 + i)
  let byte (p : Nat) : Byte :=
    if d.lost s f pt (el p) then (if p < nd then 0#8 else poisonScale)
    else if p < nd then jobByte s pt (d.data + off * d.ty.width / 8 + p)
    else jobByte s pt (d.scaleAt ⟨el p, 0, 0, 0⟩)
  let els := dedup (ps.map el)
  (ps.map byte, dedup (els.flatMap (fun l => Desc.linesAt pt 0 d ⟨l, 0, 0, 0⟩)), els.any (fun l => d.lost s f pt l))



/-- What a chunk of a segment's wire holds: first data byte and number, first granule of scale bytes and number. -/
structure WireCut where
  at_ : Nat
  data : Nat
  gran : Nat
  scales : Nat
  deriving DecidableEq, Repr

/-- Wire bytes `p0 … p0 + n − 1` of `len` elements (R326). -/
def Desc.wireCut (d : Desc) (len p0 n : Nat) : WireCut :=
  let nd := d.wireData len
  let k := min n (nd - p0)
  ⟨p0, k, p0 + k - nd, n - k⟩

/-- Block of a destination that granule `g` of a segment belongs to. -/
def Desc.granBlock (d : Desc) (off g : Nat) : Nat := if d.blk = 0 then 0 else (off + g * d.granule) / d.blk

/-- A granule's block lies wholly in its segment. -/
def Desc.granWhole (d : Desc) (off len g : Nat) : Bool :=
  if d.blk = 0 then off == 0 && len == d.dim0
  else
    let a := d.granBlock off g * d.blk
    decide (off ≤ a ∧ min d.dim0 (a + d.blk) ≤ off + len)

/-- The granule is its block's first of the segment; its last. -/
def Desc.granFirst (d : Desc) (off g : Nat) : Bool := g == 0 || d.granBlock off (g - 1) != d.granBlock off g
def Desc.granLast (d : Desc) (off len g : Nat) : Bool :=
  decide (len ≤ (g + 1) * d.granule) || d.granBlock off (g + 1) != d.granBlock off g

/-- Job addresses of a chunk of a segment's wire in a tensor: data bytes and scale bytes. -/
def Desc.wireRanges (d : Desc) (off len p0 n : Nat) : List (Nat × Nat) :=
  let c := d.wireCut len p0 n
  let a := d.granBlock off c.gran
  (if c.data = 0 then [] else [(d.data + off * d.ty.width / 8 + c.at_, c.data)])
    ++ (if c.scales = 0 then [] else [(d.scale + a, d.granBlock off (c.gran + c.scales - 1) - a + 1)])

/-- Device ranges of job ranges, page by page. -/
def devRanges (pt : NMap Nat) (rs : List (Nat × Nat)) : List (Nat × Nat) :=
  rs.flatMap (fun r => (List.range ((r.1 + r.2 - 1) / 2 ^ 21 - r.1 / 2 ^ 21 + 1)).filterMap (fun k =>
    let lo := max r.1 ((r.1 / 2 ^ 21 + k) * 2 ^ 21)
    let hi := min (r.1 + r.2) ((r.1 / 2 ^ 21 + k + 1) * 2 ^ 21)
    (xlate pt lo).map (fun a => (a, hi - lo))))

/-- Output bytes that an overlap with the input or the segment table leaves undefined (R331): all of it, but for an ALL_REDUCE in
place. -/
def CollBody.undef (b : CollBody) : List (Nat × Nat) :=
  overlaps b.out.planes ((if b.op = 0 ∧ b.inp.same b.out then [] else b.inp.planes)
    ++ (if 3 ≤ b.op then [(b.table, 16 * b.entries)] else []))

/-- A collective's writes land; those that an overlap leaves undefined become free values (R331, log 1). -/
def State.collWrite (s : State) (c : CollCtx) (f : Faults) (w : Writes) : State :=
  let r := s.freeIn 0 (devRanges c.x.pt c.b.undef) w
  r.1.engWrite c.x f r.2

/-- A chunk of a segment's wire lands in a destination (R42, R43, R324, R326): data, zero padding, scale bytes unchanged. A block that
other segments share, or whose granules differ, gets a free scale byte (log 48). -/
def State.collPut (s : State) (c : CollCtx) (f : Faults) (d : Desc) (off len p0 : Nat) (wire : List Byte) : State :=
  let x := c.x
  let cut := d.wireCut len p0 wire.length
  let put (w : Writes) (va : Nat) (b : Byte) : Writes := match xlate x.pt va with
    | some a => mset w a b
    | none => w
  let now (w : Writes) (va : Nat) : Byte := match xlate x.pt va with
    | some a => (mget w a).getD (s.byte a)
    | none => 0
  let w0 := ((wire.take cut.data).zipIdx).foldl (fun (w : Writes) p => put w (d.data + off * d.ty.width / 8 + p0 + p.2) p.1) []
  let w1 := if d.blk ≠ 0 ∧ cut.data ≠ 0 ∧ p0 + cut.data = d.wireData len ∧ off + len = d.dim0 then
      (List.range (d.pad 0 - d.dim0)).foldl (fun (w : Writes) i => Desc.putCode s x.pt 0 d w (d.dim0 + i) 0) w0
    else w0
  let z := ((wire.drop cut.data).zipIdx).foldl (fun (z : Writes × Nat × List Byte) p =>
    let g := cut.gran + p.2
    let va := d.scale + d.granBlock off g
    let v := if d.granWhole off len g && (d.granFirst off g || now z.1 va == p.1) then (p.1, z.2.1)
      else (Byte.of (Config.freeNat z.2.1), z.2.1 + 1)
    (put z.1 va v.1, v.2, if d.granLast off len g then z.2.2 ++ [v.1] else z.2.2)) (w1, s.freeCtr, [])
  let s1 := ({ s with freeCtr := z.2.1 } : State).collWrite c f z.1
  let bad := (z.2.2.filter (fun b => b == poisonScale)).length
  let top := (z.2.2.filter (fun b => b != poisonScale)).foldl (fun (m : Option Int) b => match m with
    | none => some (scaleExp b)
    | some v => some (max v (scaleExp b))) none
  s1.modColl x (fun (q : CollSt) => { q with
    poisoned := q.poisoned + bad
    maxScale := match q.maxScale, top with
      | some a, some b => some (max a b)
      | none, b => b
      | a, none => a })

/-- Bits of an element that an alignment reckons with (R321). -/
def CollCtx.width (c : CollCtx) : Nat := if c.b.accum then max c.b.inp.ty.width c.b.out.ty.width else c.b.inp.ty.width

/-- Contributors. -/
def CollCtx.parts (c : CollCtx) : Nat := c.p + b2n c.b.accum

/-- ⌈log2 n⌉. -/
def clog2 (n : Nat) : Nat := if n ≤ 1 then 0 else Nat.log2 (n - 1) + 1

/-- Target exponent of a block from its combined scale byte (R321). -/
def CollCtx.target (c : CollCtx) (xj : Nat) : Int :=
  sgn 8 xj + ((c.width : Int) - 1) - (8 * c.word - 1 : Nat) + clog2 c.parts

/-- comb of R320 on bytes. -/
def combByte (a b : Nat) : Nat := if a = 0x80 ∨ b = 0x80 then 0x80 else unsgn 8 (max (sgn 8 a) (sgn 8 b))

/-- Elements of a block of the input. -/
def CollCtx.elemsOf (c : CollCtx) (j : Nat) : List Nat :=
  if c.b.inp.blk = 0 then List.range c.b.inp.dim0 else (List.range (min 32 (c.b.inp.dim0 - 32 * j))).map (fun i => 32 * j + i)

/-- The index in the output of an element of this rank's own segment. -/
def CollCtx.outIdx (c : CollCtx) (l : Nat) : Nat := if c.b.op = 1 then l - (c.b.seg c.p c.r).1 else l

/-- This rank's own scale byte of a block in phase 1, with its ACCUM block where it owns the segment (R320, R321). -/
def CollCtx.ownByte (c : CollCtx) (s : State) (f : Faults) (own : Bool) (j : Nat) : Nat :=
  let l := if c.b.inp.blk = 0 then 0 else 32 * j
  let v := readVal s f c.x.pt 0 c.b.inp ⟨l, 0, 0, 0⟩
  let a := if v.sb = 0x80 ∨ c.b.inp.lost s f c.x.pt l then 0x80 else v.sb
  if own && c.b.accum then
    let o := c.outIdx l
    let y := readVal s f c.x.pt 0 c.b.out ⟨o, 0, 0, 0⟩
    combByte a (if y.sb = 0x80 ∨ c.b.out.lost s f c.x.pt o then 0x80 else y.sb)
  else a

/-- One element of a tensor aligned to a block's target (R321); a line first met uncorrectable now leaves it open (log 48). -/
def CollCtx.aligned (c : CollCtx) (s : State) (f : Faults) (d : Desc) (l i : Nat) (xj : Nat) : Int :=
  if xj = 0x80 then 0
  else
    let v := readVal s f c.x.pt 0 d ⟨l, 0, 0, 0⟩
    if v.lost || v.sb == 0x80 then sgn (8 * c.word) (Config.freeNat (s.freeCtr + i)) else align v.q v.e (c.target xj) 0 0

/-- Words of partial sums. -/
def CollCtx.words (c : CollCtx) (d : List Byte) : List Int := (chunksOf c.word d).map (fun w => sgn (8 * c.word) (leNat w))
def CollCtx.unwords (c : CollCtx) (l : List Int) : List Byte := l.flatMap (fun v => toLE c.word (unsgn (8 * c.word) v))

/-- Block of an input element. -/
def CollCtx.blockOf (c : CollCtx) (l : Nat) : Nat := if c.b.inp.blk = 0 then 0 else l / 32

/-- Own aligned words of `n` elements from `l`. -/
def CollCtx.ownWords (c : CollCtx) (s : State) (f : Faults) (q : CollSt) (l n : Nat) : List Int :=
  (List.range n).map (fun i => c.aligned s f c.b.inp (l + i) i (mgetD q.xs (c.blockOf (l + i)) 0x80))

/-- The owner requantises blocks of its segment (R321, R322): the sums of the elements from `a` on. A poisoned input raises PSN, a
saturation alone does not. -/
def State.collOwn (s : State) (c : CollCtx) (f : Faults) (q : CollSt) (a : Nat) (sums : List Int) : State :=
  let n := sums.length
  let tot := (List.range n).map (fun i =>
    let l := a + i
    nth sums i + (if c.b.accum then c.aligned s f c.b.out (c.outIdx l) i (mgetD q.xs (c.blockOf l) 0x80) else 0))
  let per := if c.b.inp.blk = 0 then max 1 n else 32
  let o0 : OutSum := ⟨q.sat, false, q.psn, false, q.maxScale, q.poisoned, q.saturated, q.b0⟩
  let z := ((chunksOf per tot).zipIdx).foldl (fun (z : Writes × OutSum) g =>
    let xj := mgetD q.xs (c.blockOf (a + per * g.2)) 0x80
    let els : List (Idx × Cell) := (g.1.zipIdx).map (fun v =>
      let i : Idx := ⟨c.outIdx (a + per * g.2 + v.2), 0, 0, 0⟩
      (i, if xj = 0x80 then Cell.poison else Cell.val v.1 (c.x.rand c.b.out i)))
    let z1 := putBlock s c.x.pt 0 c.b.out ⟨true, 0⟩ (c.target xj) (xj == 0x80) els z
    (z1.1, { z1.2 with psn := z1.2.psn || xj == 0x80 })) ([], o0)
  let s1 := ({ s with freeCtr := s.freeCtr + n } : State).collWrite c f z.1
  s1.modColl c.x (fun (q : CollSt) => { q with
    sat := z.2.sat, psn := z.2.psn, poisoned := z.2.poisoned, saturated := z.2.saturated
    maxScale := z.2.maxScale, b0 := z.2.b0, sums := [] })

/-- Send a chunk in frames of up to 448 data bytes (R279, R327): one header-only frame where it is empty. -/
def CollCtx.frames (c : CollCtx) (t : CStep) (m : CMsg) (d : List Byte) : List Req :=
  let h := c.header 0 m (c.lenOf t) 0
  let ps := if d.isEmpty then [[]] else chunksOf 448 d
  (ps.zipIdx).map (fun p => c.req m.peer (c.flow m.chunk) (448 * p.2) (h ++ fitBytes (cdiv p.1.length 64 * 64) p.1))

/-- Digest of a tensor's real elements as the memory holds them (R151, R477). -/
def tensorDigest (s : State) (pt : NMap Nat) (d : Desc) : Nat :=
  (List.range d.dim0).foldl (fun a l =>
    let v := readVal s noFaults pt 0 d ⟨l, 0, 0, 0⟩
    (a + digestTerm l (if v.lost then 0 else v.code) (if v.lost then 0x80 else v.sb)) % 2 ^ 64) 0

/-- A chunk-step is done: its chunk leaves staging, further READYs go out; after the last one the bound record is written,
and the task has finished when every frame is answered (R131, R326). -/
def State.collDone (s : State) (c : CollCtx) (i : Nat) (sent frames : Nat) : State :=
  let all := c.steps
  let s1 := s.modEng c.x (fun y => match y.eng with
    | .coll q =>
      let done := q.done ++ [i]
      let q1 : CollSt := { q with
        done := done, sent := q.sent + sent, owed := q.owed + frames, lastStage := s.stage, lastAt := s.now
        staged := merase q.staged i }
      { y with eng := .coll q1, progress := some (done.length - 1)
               finished := decide (done.length = all.length) && q1.owed == 0 }
    | _ => y)
  match s1.collOf c.x with
  | none => s1
  | some q =>
    if q.done.length = all.length then
      s1.writeBound c.x c.b.maxe (match q.maxScale with
        | some e => unsgn 8 e
        | none => 0x81)
    else s1.collGrant c

/-- First element and number of a chunk of pass 2. -/
def CollCtx.elemsAt (c : CollCtx) (t : CStep) : Nat × Nat :=
  ((c.b.seg c.p (c.segAt 2 t.k)).1 + chunkBytes / c.word * t.chunk, c.chunkLen t / c.word)

/-- The receive entry that a local copy's send entry pairs with (R318). -/
def CollCtx.mate (c : CollCtx) (k : Nat) : Option CollSeg := (c.segs.filter (fun y => y.recv && y.peer == c.r))[c.pair k]?

/-- Job addresses of `n` elements of a tensor from `a` on. -/
def Desc.elemRanges (d : Desc) (a n : Nat) : List (Nat × Nat) :=
  if n = 0 then []
  else [(d.data + a * d.ty.width / 8, d.wireData n)] ++ (if !d.ty.scaled then [] else if d.blk = 0 then [(d.scale, 1)]
    else [(d.scale + a / d.blk, (a + n - 1) / d.blk - a / d.blk + 1)])

/-- The job addresses that a chunk-step accesses (R38, R325). -/
def CollCtx.touches (c : CollCtx) (t : CStep) : List (Nat × Nat) :=
  let own := t.k + 1 == c.p
  let p0 := chunkBytes * t.chunk
  let n := c.chunkLen t
  let sg := c.b.seg c.p (c.segAt 3 t.k)
  match t.pass with
  | 0 => (c.blocksOf t).flatMap (fun j =>
      let l := if c.b.inp.blk = 0 then 0 else 32 * j
      [(c.b.inp.scaleAt ⟨l, 0, 0, 0⟩, 1)] ++ (if own && c.b.accum then [(c.b.out.scaleAt ⟨c.outIdx l, 0, 0, 0⟩, 1)] else []))
  | 1 => []
  | 2 =>
    let e := c.elemsAt t
    c.b.inp.elemRanges e.1 e.2
      ++ (if !own then [] else if c.b.inp.blk = 0 ∧ t.last then c.b.out.elemRanges 0 c.b.elems
        else if c.b.inp.blk = 0 then [] else c.b.out.elemRanges (c.outIdx e.1) e.2)
  | 3 =>
    (if t.k ≠ 0 then [] else if c.b.op = 2 then c.b.inp.wireRanges 0 sg.2 p0 n else c.b.out.wireRanges sg.1 sg.2 p0 n)
      ++ (if t.k ≠ 0 ∨ c.b.op = 2 then c.b.out.wireRanges sg.1 sg.2 p0 n else [])
  | 4 => ((c.segs[t.k]?).map (fun g => c.b.inp.wireRanges g.off g.len p0 n)).getD []
  | 5 => ((c.segs[t.k]?).map (fun g => c.b.out.wireRanges g.off g.len p0 n)).getD []
  | _ => ((c.segs[t.k]?).map (fun g => c.b.inp.wireRanges g.off g.len 0 (c.b.inp.wireLen g.len))).getD []
      ++ ((c.mate t.k).map (fun g => c.b.out.wireRanges g.off g.len 0 (c.b.out.wireLen g.len))).getD []

/-- What a chunk-step makes: the state after its writes, and the bytes it sends. -/
def State.collWork (s : State) (c : CollCtx) (f : Faults) (q : CollSt) (i : Nat) (t : CStep) : State × List Byte :=
  let inn := (q.got i (c.chunkLen t)).getD []
  let x := c.x
  if t.pass ≤ 1 then
    let js := c.blocksOf t
    let own := t.k + 1 == c.p
    let v := if t.pass = 1 then (if t.k = 0 then js.map (fun j => mgetD q.xs j 0x80) else inn.map BitVec.toNat)
      else (js.zipIdx).map (fun j =>
        let a := c.ownByte s f own j.1
        if t.k = 0 then a else combByte (nth inn j.2).toNat a)
    let at_ (j : Nat) : Nat := if c.b.inp.blk = 0 then 0 else 32 * j
    let psn := js.any (fun j => c.ownByte s f own j == 0x80)
    let s1 := if t.pass = 1 then s else (s.readMeet x f (js.flatMap (fun j => Desc.linesAt x.pt 0 c.b.inp ⟨at_ j, 0, 0, 0⟩
        ++ (if own && c.b.accum then Desc.linesAt x.pt 0 c.b.out ⟨c.outIdx (at_ j), 0, 0, 0⟩ else [])))).modColl x
      (fun (q : CollSt) => { q with psn := q.psn || psn })
    let s2 := if t.pass = 0 ∧ !own then s1
      else s1.modColl x (fun (q : CollSt) => { q with xs := (js.zip v).foldl (fun (m : NMap Nat) p => mset m p.1 p.2) q.xs })
    (s2, v.map Byte.of)
  else if t.pass = 2 then
    let e := c.elemsAt t
    let ls := dedup ((List.range e.2).flatMap (fun i => Desc.linesAt x.pt 0 c.b.inp ⟨e.1 + i, 0, 0, 0⟩))
    let w := c.ownWords s f q e.1 e.2
    let r := if t.k = 0 then w else (w.zip (c.words inn)).map (fun p => p.1 + p.2)
    let s1 := ({ s with freeCtr := s.freeCtr + e.2 } : State).readMeet x f ls
    if t.k + 1 < c.p then (s1, c.unwords r)
    else if c.b.inp.blk ≠ 0 then (s1.collOwn c f q e.1 r, [])
    else if t.last then (s1.collOwn c f q 0 (q.sums ++ r), [])
    else (s1.modColl x (fun (q : CollSt) => { q with sums := q.sums ++ r }), [])
  else
    let p0 := chunkBytes * t.chunk
    let mark (s : State) (r : List Byte × List Nat × Bool) : State :=
      (s.readMeet x f r.2.1).modColl x (fun (q : CollSt) => { q with psn := q.psn || r.2.2 })
    if t.pass = 3 then
      let sg := c.b.seg c.p (c.segAt 3 t.k)
      if t.k = 0 then
        let src := if c.b.op = 2 then (c.b.inp, 0) else (c.b.out, sg.1)
        let r := Desc.wire s f x.pt src.1 src.2 sg.2 p0 (c.chunkLen t)
        let s1 := mark s r
        (if c.b.op = 2 then s1.collPut c f c.b.out sg.1 sg.2 p0 r.1 else s1, r.1)
      else (s.collPut c f c.b.out sg.1 sg.2 p0 inn, inn)
    else match c.segs[t.k]? with
      | none => (s, [])
      | some g =>
        if t.pass = 4 then
          let r := Desc.wire s f x.pt c.b.inp g.off g.len p0 (c.chunkLen t)
          (mark s r, r.1)
        else if t.pass = 5 then (s.collPut c f c.b.out g.off g.len p0 inn, [])
        else
          let r := Desc.wire s f x.pt c.b.inp g.off g.len 0 (c.b.inp.wireLen g.len)
          match c.mate t.k with
          | some y => ((mark s r).collPut c f c.b.out y.off y.len 0 r.1, [])
          | none => (mark s r, [])

/-- Run a chunk-step: its frames go out together with its work, or it waits (R85, R326); a page that it accesses and that cannot be
reached fails the task (R17, R38). -/
def State.collRun (s : State) (c : CollCtx) (f : Faults) (q : CollSt) (i : Nat) (t : CStep) : State :=
  match (c.touches t).findSome? (fun p => s.unreachIn c.x.pt p.1 p.2) with
  | some a => s.badAddr c.x a
  | none =>
    let r := s.collWork c f q i t
    match c.gives t with
    | none => r.1.collDone c i 0 0
    | some m =>
      let fs := c.frames t m r.2
      match r.1.issueAll fs with
      | .stall => s
      | .unreachable => (s.collContained c { s.ev 0x0507 with arg0 := nth c.members m.peer }).collFail c m.peer 0x02 0
      | .sent s1 => s1.collDone c i r.2.length fs.length

/-- The leg on a collective engine that a step names. -/
def State.collLeg (s : State) (l : LegId) : Option (EngRun × CollCtx × CollSt) :=
  match s.engOf l.job.toNat l.task.toNat with
  | none => none
  | some x =>
    if !(s.live && x.t.st == .running && x.t.fail.isNone && !x.t.finished && x.t.hdr.kind == 0x10 && x.jb.abort.isNone) then none
    else match x.coll, x.t.eng with
      | some c, .coll q => some (x, c, q)
      | _, _ => none

/-- COLLECTIVE_CHUNK_STEP (R325, R326): a chunk-step is a tile, and none follows the one under way at a tick (R73). -/
def execCollectiveChunkStep (serai : BitVec 2) (l : LegId) (f : Faults) (s : State) : Host.Outcome State Fault Refusal :=
  match s.collLeg l with
  | none => .next s
  | some (x, c, q) =>
    if c.b.serai ≠ serai.toNat ∨ x.t.leg.any Leg.ended then .next s
    else match c.next q with
      | none => .next s
      | some (i, t) => .next ((s.collRun c f q i t).boundary x.j x.id)

/-- Ranks that the leg waits for: senders of chunks that it lacks and receivers that have sent no READY. -/
def CollCtx.awaits (c : CollCtx) (q : CollSt) : List Nat :=
  (c.steps.zipIdx).flatMap (fun t =>
    if q.done.contains t.2 then []
    else (match c.takes t.1 with
        | some m => if (q.got t.2 (c.chunkLen t.1)).isNone then [m.peer] else []
        | none => []) ++ (match c.gives t.1 with
        | some m => if c.readyFor m then [] else [m.peer]
        | none => []))

/-- Stage at which a peer's READY or data last came, or the first leg began; the stages of a suspension do not count (R330). -/
def CollSt.heardAt (q : CollSt) (peer : Nat) : Nat := (mget q.heard peer).getD q.began

/-- COLLECTIVE_PEER_TIMEOUT (R330): TIMEOUT stages without READY or data from that peer while the leg waits for it. -/
def execCollectivePeerTimeout (l : LegId) (peer : BitVec 13) (s : State) : Host.Outcome State Fault Refusal :=
  match s.collLeg l with
  | none => .next s
  | some (_, c, q) =>
    if (c.next q).isNone && decide (q.lastStage + c.timeout ≤ s.stage ∧ q.heardAt peer.toNat + c.timeout ≤ s.stage)
        && (c.awaits q).contains peer.toNat then
      .next (s.collFail c peer.toNat 0x01 0)
    else .next s

/-! ### The first leg -/

/-- The state of a collective that has begun. -/
def CollSt.init (stage now : Nat) (segs : List CollSeg) : CollSt :=
  { begun := true, done := [], granted := [], staged := [], xs := [], owed := 0, sat := false, psn := false, poisoned := 0
    saturated := 0, maxScale := none, b0 := false, sums := [], sent := 0, received := 0, peerWait := 0, lastStage := stage
    lastAt := now, began := stage, heard := [], susp := stage, hit := false, segs := segs, inDigest := 0 }

/-- Another collective of the step has the same identity and has begun (R314). -/
def EngRun.twin (x : EngRun) (b : CollBody) : Bool :=
  (x.jb.run.map (fun (r : RunStep) => r.tasks.any (fun (t : TaskRun) =>
    t.hdr.id != x.id && t.hdr.kind == 0x10 && (match t.eng with
      | .coll _ => (parseColl t.body).any (fun y => y.group == b.group && y.seq == b.seq)
      | _ => false)))).getD false

/-- The keep gather's group, where the body names one with its window as output (R333). -/
def EngRun.keepGroup (x : EngRun) (b : CollBody) : Option TrainGrp :=
  (x.jb.train.bind (fun t => t.group b.trainGroup)).bind (fun g =>
    if g.g.keepEn && b.out.data == g.g.gather then some g else none)

/-- A READY that came before the leg and disagrees with the task (R330). -/
def CollCtx.badReady (c : CollCtx) : Option ReadyRec :=
  c.x.jb.readies.find? (fun (y : ReadyRec) => y.group == c.b.group && y.step == c.x.step && y.seq == c.b.seq
    && (y.sig != c.sig || (c.steps.any (fun t => match c.gives t with
      | some m => m.peer == y.src && m.phase == y.phase && m.ring == y.ring && m.chunk == y.chunk && c.lenOf t != y.len
      | none => false))))

/-- The first leg of a collective (R314, R316–R319): checks, the segment table, the first READYs. -/
def State.collBegin (s : State) (x : EngRun) (f : Faults) : State :=
  match x.coll with
  | none => s.badBody x
  | some c =>
    let b := c.b
    if !(decide (b.serai < s.part.serais) && b.fits c.p c.r && x.t.body.length == 192 && !x.twin b
        && (!b.keep || (x.keepGroup b).isSome)) then s.badBody x
    else match s.badMaxe x [b.maxe] with
      | some a => s.badAddr x a
      | none =>
        let go (s : State) (segs : List CollSeg) : State :=
          let c := { c with segs := segs }
          let q := { CollSt.init s.stage s.now segs with inDigest := tensorDigest s x.pt b.inp }
          let s1 := s.modEng x (fun t => { t with eng := .coll q, finished := c.steps.isEmpty })
          match c.badReady with
          | some y => s1.collFail c y.src 0x03 0
          | none => if c.steps.isEmpty then s1.writeBound x b.maxe 0x81 else s1.collGrant c
        if b.op ≤ 2 then go s []
        else match s.unreachIn x.pt b.table (16 * b.entries) with
        | some a => s.badAddr x a
        | none =>
          let s1 := s.ctlMeet x.j x.t f (jobLines x.pt b.table (16 * b.entries))
          if !s1.sound x then s1
          else match parseSegs b c.p c.r (jobBytes s x.pt b.table (16 * b.entries)) with
            | none => s1.badBody x
            | some l => go s1 l

/-- Stages pass that do not count towards a peer's TIMEOUT. -/
def CollSt.shift (q : CollSt) (n : Nat) : CollSt :=
  { q with lastStage := q.lastStage + n, began := q.began + n, susp := q.susp + n, heard := q.heard.map (fun p => (p.1, p.2 + n)) }

/-- A later leg: READYs go out again (R326), and the clocks of R330 and R332 go on where the suspension stopped them. -/
def State.collResume (s : State) (x : EngRun) : State :=
  match x.coll with
  | none => s
  | some c => (s.modColl x (fun (q : CollSt) => { q.shift (s.stage - q.susp) with lastAt := s.now })).collGrant c

/-- A leg is suspended: the cycles that it waited count in PEER_WAIT (R332), and the clock of R330 stops. -/
def State.collClock (s : State) (x : EngRun) : State :=
  match x.coll with
  | none => s
  | some c => s.modColl x (fun (q : CollSt) => { q with
      peerWait := if (c.next q).isNone then q.peerWait + (s.now - q.lastAt) else q.peerWait, lastAt := s.now, susp := s.stage })

/-! ### Frames -/

/-- The collective header of a frame (R327). -/
structure CollHdr where
  group : Nat
  sub : Nat
  phase : Nat
  src : Nat
  seq : Nat
  step : Nat
  ring : Nat
  chunk : Nat
  sig : Nat
  len : Nat
  reason : Nat
  deriving DecidableEq, Repr, Inhabited

/-- Read a header. -/
def collHdr (d : List Byte) : CollHdr :=
  let w := fld d 0 4
  ⟨bits w 0 8, bits w 8 2, bits w 10 3, bits w 13 13, fld d 4 4, fld d 8 4, fld d 0x0C 2, fld d 0x10 4, bits (fld d 0x14 4) 0 25,
    fld d 0x18 4, fld d 0x1C 1⟩

/-- The job with a fabric tag. -/
def State.tagged (s : State) (tag : Nat) : Option (Nat × Job) :=
  if tag = 0 then none else s.jobs.find? (fun (p : Nat × Job) => p.2.tag == tag)

/-- The running step's task of a collective's identity that has not ended (R314). -/
def State.collTask (s : State) (j : Nat) (jb : Job) (h : CollHdr) : Option CollCtx :=
  (jb.run).bind (fun (r : RunStep) =>
    if r.q.step ≠ h.step then none
    else (r.tasks.find? (fun (t : TaskRun) =>
        t.hdr.kind == 0x10 && (t.st == .ready || t.st == .running || t.st == .suspended) && t.fail.isNone
          && (parseColl t.body).any (fun y => y.group == h.group && y.seq == h.seq))).bind (fun t =>
      (s.engOf j t.hdr.id).bind EngRun.coll))

/-- A peer's READY or data has come (R330); PEER_WAIT counts the cycles until then in which no chunk-step could run (R332). -/
def State.collArrive (s : State) (c : CollCtx) (peer : Nat) : State :=
  match s.collOf c.x with
  | none => s
  | some q =>
    let s1 := s.modColl c.x (fun (q : CollSt) => { q with heard := mset q.heard peer (if c.x.t.st = .running then s.stage else q.susp) })
    if c.x.t.st ≠ .running then s1
    else
      let w := if (c.next q).isNone then s.now - q.lastAt else 0
      s1.modColl c.x (fun (q : CollSt) => { q with peerWait := q.peerWait + w, lastAt := s.now })

/-- COLLECTIVE_DATA (R326, R327, R330): a granted chunk's bytes are held in staging and acknowledged; a header that
disagrees fails the collective. Data of no job or task here is answered TXN_NACK (R303, R330), and data that nothing has granted is
refused (log 48). -/
def execCollectiveData (fr : Frame) (s : State) : Host.Outcome State Fault Refusal :=
  .next (if fr.typ ≠ 8 then s else s.receive fr (fun s =>
    let h := collHdr fr.payload
    if h.sub ≠ 0 then s
    else if fr.tag = 0 then s.reply fr 8 0 false ((fr.payload.take 64).set 1 (Byte.of (bits (fld fr.payload 1 1) 2 6 * 4 + 2)))
    else match s.tagged fr.tag.toNat with
      | none => s.nack fr 1
      | some (j, jb) => match s.collTask j jb h with
        | none => s.nack fr 1
        | some c => match s.collOf c.x with
          | none => s.nack fr 1
          | some q =>
            let hit := (c.steps.zipIdx).find? (fun t => c.takes t.1 == some ⟨h.src, h.phase, h.ring, h.chunk⟩)
            if h.sig ≠ c.sig then s.collFail c h.src 0x03 0
            else match hit with
              | none => s.reject fr.port.toNat
              | some (t, i) =>
                if h.len ≠ c.lenOf t then s.collFail c h.src 0x03 0
                else if !q.granted.contains i || q.done.contains i || decide (c.chunkLen t < fr.offset.toNat) then
                  s.reject fr.port.toNat
                else
                  let d := (fr.payload.drop 64).take (c.chunkLen t - fr.offset.toNat)
                  let s1 := (s.collArrive c h.src).modColl c.x (fun (q : CollSt) => { q with
                    staged := mset q.staged i (mset (mgetD q.staged i []) fr.offset.toNat d)
                    received := q.received + d.length })
                  s1.reply fr 8 fr.offset.toNat false (c.header 2 ⟨h.src, h.phase, h.ring, h.chunk⟩ h.len 0)))

/-- COLLECTIVE_READY (R326, R330): kept until the sender's chunk-step runs, even before its task has begun. -/
def execCollectiveReady (fr : Frame) (s : State) : Host.Outcome State Fault Refusal :=
  .next (if fr.typ ≠ 8 then s else s.receive fr (fun s =>
    let h := collHdr fr.payload
    if h.sub ≠ 1 ∨ fr.tag = 0 then s
    else match s.tagged fr.tag.toNat with
      | none => s.reject fr.port.toNat
      | some (j, jb) =>
        let y : ReadyRec := ⟨h.group, h.step, h.seq, h.src, h.phase, h.ring, h.chunk, h.sig, h.len⟩
        let s1 := match s.collTask j jb h with
          | some c => s.collArrive c h.src
          | none => s
        let s2 := s1.modJob j (fun (b : Job) => { b with readies := b.readies ++ [y] })
        match (s2.job j).bind (fun b => s2.collTask j b h) with
        | none => s2
        | some c => if (s2.collOf c.x).isNone then s2 else match c.badReady with
          | some z => s2.collFail c z.src 0x03 0
          | none => s2))

/-- A frame of a collective task has been answered. -/
def State.collAnswered (s : State) (j task : Nat) : State :=
  match (s.engOf j task).bind EngRun.coll with
  | none => s
  | some c => s.modTask j task (fun t => match t.eng with
    | .coll q =>
      let owed := q.owed - 1
      { t with eng := .coll { q with owed := owed }
               finished := t.finished || (owed == 0 && decide (q.done.length = c.steps.length)) }
    | _ => t)

/-- COLLECTIVE_ACK (R327): the frame's transaction ends. -/
def execCollectiveAck (fr : Frame) (s : State) : Host.Outcome State Fault Refusal :=
  .next (if fr.typ ≠ 8 ∨ (collHdr fr.payload).sub ≠ 2 then s else s.receive fr (fun s =>
    match s.endTxn fr with
    | none => s
    | some (x, s1) => match x.use_ with
      | .coll j t => s1.collAnswered j t
      | _ => s1))

/-- COLLECTIVE_ABORT (R330). -/
def execCollectiveAbort (fr : Frame) (s : State) : Host.Outcome State Fault Refusal :=
  .next (if fr.typ ≠ 8 then s else s.receive fr (fun s =>
    let h := collHdr fr.payload
    if h.sub ≠ 3 ∨ fr.tag = 0 then s
    else match s.tagged fr.tag.toNat with
      | none => s.reject fr.port.toNat
      | some (j, jb) => match s.collTask j jb h with
        | none => s
        | some c => s.collFail c h.src 0x04 h.reason))

/-! ### COLL_GROUP_SET -/

/-- A group record and its members (R312, R313): none where they break the rules. -/
def parseCollGroup (r : List Byte) : Option (Nat × Nat × CollGroup) :=
  let w := fld r 0 4
  let a := fld r 0x10 8
  let sz := bits w 0 14
  if bits w 14 2 == 0 && bits w 29 3 == 0 && decide (1 ≤ sz ∧ sz ≤ 8192 ∧ bits w 16 13 < sz) && bits (fld r 4 4) 8 24 == 0
      && fld r 0x0A 6 == 0 && bits a 0 6 == 0 && bits a 44 20 == 0 && zeroBytes r 0x18 0x40 && r.length == 64 then
    some (bits (fld r 4 4) 0 8, bits a 0 44, ⟨sz, bits w 16 13, fld r 8 2, []⟩)
  else none

/-- The row of CollGroupSet in the command catalogue (R370). -/
def specCollGroupSet : CmdSpec :=
  ⟨0x0404, false, true, false, false, [(0x08, 0, 44)]⟩

/-- COLL_GROUP_SET's own part (R312, R313). -/
def collGroupBody (f : Faults) (c : CmdRec) (s : State) : CmdRes :=
  let j := c.job.toNat
  match s.job j with
  | none => .done s 0x0005 0
  | some jb =>
    let va := c.par 0x08 0 44
    if jb.run.isSome ∨ !jb.queue.isEmpty then .done s 0x0001 0
    else if va % 64 ≠ 0 then .done s 0x0003 0
    else match s.cmdJobRead f j jb.pt va 64 with
      | (s1, none) => .done s1 0x000E 0
      | (s1, some r) => match parseCollGroup r with
        | none => .done s1 0x0003 0
        | some (id, ma, g) => match s1.cmdJobRead f j jb.pt ma (2 * g.size) with
          | (s2, none) => .done s2 0x000E 0
          | (s2, some b) =>
            let ms := (chunksOf 2 b).map leNat
            if ms.any (fun m => decide (8191 < m)) ∨ (dedup ms).length ≠ ms.length ∨ nth ms g.rank ≠ s.dom.deviceId then
              .done s2 0x0003 0
            else .done (s2.modJob j (fun (b : Job) => { b with groups := mset b.groups id { g with members := ms } })) 0 0

/-- The group that a COLL_GROUP_SET names (R313). -/
def State.groupNamed (s : State) (c : CmdRec) : Option Nat :=
  match s.job c.job.toNat with
  | none => none
  | some jb => bif s.jobReach jb.pt (c.par 0x08 0 44) 64
      then (parseCollGroup (jobBytes s jb.pt (c.par 0x08 0 44) 64)).map (fun p => p.1) else none

/-- An earlier open command of the host names the same group (R366): a JOB_RESHARD, or a COLL_GROUP_SET that waits for one. -/
def State.groupBusy (s : State) (h : HostId) (c : CmdRec) : Bool :=
  match s.groupNamed c with
  | none => false
  | some g => (s.host h).openCmds.any (fun o => o.job == c.job.toNat
      && ((o.kind == .reshard && o.cmd.par 0x18 0 8 == g) || (o.kind == .waiting && o.op == 0x0404 && s.groupNamed o.cmd == some g)))

/-- COLL_GROUP_SET, behind an earlier command on the same group (R366). -/
def execCollGroupSet (h : HostId) (c : CmdRec) (f : Faults) (s : State) : Host.Outcome State Fault Refusal :=
  .next (s.command specCollGroupSet h c (fun s => if s.groupBusy h c then .later s .waiting else collGroupBody f c s))

end Sys2Proof.Machine
end

