-- ==== Sys2Proof/Machine/Waystation.lean ====
section
/-! DEFINITION. Mapping records, changing the mapping of a job, waystation images (12, R335–R351). -/
namespace Sys2Proof.Machine

/-! ### Mapping records -/

/-- The fixed part of a mapping record that keeps its table (R335): the record with no bounds or devices, and their addresses. -/
def parseMap (r : List Byte) : Option (MapRec × Nat × Nat) :=
  let c := fld r 0x0C 4
  let b := fld r 0x18 8
  let d := fld r 0x20 8
  let m : MapRec := ⟨fld r 0 2, fld r 2 2, fld r 4 2, fld r 6 2, fld r 8 2, bits c 0 13, bits c 16 1, fld r 0x10 2, fld r 0x12 2,
    fld r 0x14 1, fld r 0x15 1, fld r 0x16 2, fld r 0x28 2, [], []⟩
  if decide (1 ≤ m.dp ∧ 1 ≤ m.tp ∧ 1 ≤ m.pp ∧ 1 ≤ m.sp ∧ 1 ≤ m.ep ∧ m.dp * m.tp * m.pp * m.sp * m.ep ≤ 8192)
      && fld r 0x0A 2 == 0 && bits c 13 3 == 0 && bits c 17 15 == 0
      && decide (1 ≤ m.layers ∧ m.layers ≤ 4096 ∧ 1 ≤ m.kvHeads ∧ m.kvHeads ≤ 4096 ∧ m.tp ≤ m.kvHeads ∧ 1 ≤ m.qPerKv)
      && (if m.experts = 0 then m.topK == 0 && m.ep == 1 else decide (1 ≤ m.topK ∧ m.topK ≤ 8 ∧ m.ep ≤ m.experts))
      && bits b 0 6 == 0 && bits b 44 20 == 0 && bits d 0 6 == 0 && bits d 44 20 == 0
      && decide (256 ≤ m.capFactor ∧ m.capFactor ≤ 4096) && zeroBytes r 0x2A 0x80 && r.length == 128
  then some (m, bits b 0 44, bits d 0 44) else none

/-- Devices of a mapping. -/
def MapRec.count (m : MapRec) : Nat := m.dp * m.tp * m.pp * m.sp * m.ep

/-- The bounds and the device list keep R335 and R337. -/
def MapRec.shapeOk (m : MapRec) : Bool :=
  m.bounds.head? == some 0 && m.bounds.getLast? == some m.layers
    && (m.bounds.zip (m.bounds.drop 1)).all (fun p => decide (p.1 < p.2))
    && (dedup m.devices).length == m.devices.length

/-- The record stands on a device (R335): the list holds it at RANK. -/
def MapRec.ok (m : MapRec) (device : Nat) : Bool := m.shapeOk && m.devices[m.rank]? == some device

/-- The device has no place in a new mapping (R341): RANK then says nothing (log 49). -/
def MapRec.leaves (m : MapRec) (device : Nat) : Bool := m.shapeOk && !m.devices.contains device

/-- Read a mapping record for a command (R335): a status where it cannot stand. -/
def State.readMap (s : State) (f : Faults) (j : Nat) (jb : Job) (va : Nat) (ok : MapRec → Bool) : State × Except Nat MapRec :=
  if va % 64 ≠ 0 then (s, .error 0x0003)
  else match s.cmdJobRead f j jb.pt va 128 with
    | (s1, none) => (s1, .error 0x000E)
    | (s1, some r) => match parseMap r with
      | none => (s1, .error 0x0003)
      | some (m, ba, da) => match s1.cmdJobRead f j jb.pt ba (2 * (m.pp + 1)) with
        | (s2, none) => (s2, .error 0x000E)
        | (s2, some bs) => match s2.cmdJobRead f j jb.pt da (2 * m.count) with
          | (s3, none) => (s3, .error 0x000E)
          | (s3, some ds) =>
            let m1 := { m with bounds := (chunksOf 2 bs).map leNat, devices := (chunksOf 2 ds).map leNat }
            if ok m1 then (s3, .ok m1) else (s3, .error 0x0003)

/-- The row of JobMapSet in the command catalogue (R370). -/
def specJobMapSet : CmdSpec :=
  ⟨0x0405, false, true, false, false, [(0x08, 0, 44)]⟩

/-- JOB_MAP_SET (R335, R337). -/
def execJobMapSet (h : HostId) (c : CmdRec) (f : Faults) (s : State) : Host.Outcome State Fault Refusal :=
  .next (s.command specJobMapSet h c (fun s =>
    let j := c.job.toNat
    match s.job j with
    | none => .done s 0x0005 0
    | some jb =>
      if jb.run.isSome ∨ !jb.queue.isEmpty then .done s 0x0001 0
      else match s.readMap f j jb (c.par 0x08 0 44) (fun m => m.ok s.dom.deviceId) with
        | (s1, .error e) => .done s1 e 0
        | (s1, .ok m) => .done (s1.modJob j (fun (b : Job) => { b with map := some m })) 0 0))

/-- Data rank of a device's rank (R336). -/
def MapRec.dataRank (m : MapRec) : Nat := m.rank / (m.tp * m.sp * m.ep * m.pp)

/-- The device with the next data rank and otherwise equal coordinates (R346). -/
def MapRec.nextData (m : MapRec) : Nat :=
  let k := m.tp * m.sp * m.ep * m.pp
  nth m.devices (m.rank % k + k * ((m.dataRank + 1) % m.dp))

/-! ### Training banks -/

/-- The ranges of job addresses that hold a group's current state (R347): tier 0 from BANK0_ADDR, tier 1 the current bank,
tier 2 the current working bank of each part. -/
def Train.currentRanges (t : Train) (g : TrainGrp) : List (Nat × Nat) :=
  let n := t.elems g.g
  let bk := g.g.bank n
  if g.g.tier = 0 then [(g.g.bank0, bk.2)]
  else if g.g.tier = 1 then [(if g.cur then g.g.bank1 else g.g.bank0, bk.2)]
  else (List.range g.g.delay).flatMap (fun p =>
    let r := g.g.part n p
    let w := planeAt false (if g.partBank.getLsbD p then g.g.bank1 else g.g.bank0) bk.1 0 n
    let el := w.ty.width / 8
    [(w.data + 32 * r.1 * el, 32 * r.2 * el), (w.scale + r.1, r.2)])

/-- Pages of a table's banks, for R341. -/
def bankPages (pt : NMap Nat) (t : Train) (g : TGroup) : List Nat :=
  let n := (g.bank (t.elems g)).2
  let pg (va : Nat) : List Nat := (List.range (cdiv (va % 2 ^ 21 + n) (2 ^ 21))).filterMap (fun k => mget pt (va / 2 ^ 21 + k))
  pg g.bank0 ++ (if g.tier = 0 then [] else pg g.bank1)

/-- The last update step that applied a part, 0 where none has (R261). -/
def lastApplied (d n p : Nat) : Nat := (((List.range n).filter (fun a => a % d == p)).getLast?).getD 0

/-- A tier-2 group of a job as it stands now. -/
def State.trainGrp (s : State) (j id : Nat) : Option (Job × Train × TrainGrp) :=
  match s.job j with
  | none => none
  | some jb => match jb.train with
    | none => none
    | some t => (t.group id).map (fun g => (jb, t, g))

/-- Apply to one part the valid slots that it has still to take (R342, R351); none where an application writes poison. -/
def State.flushPart (s : State) (j id : Nat) (prog : OptProg) (p : Nat) : Option State :=
  match s.trainGrp j id with
  | none => some s
  | some (jb, t, g) =>
    let due := (List.range (t.ordinal + 1)).filterMap (fun u =>
      if u < lastApplied g.g.delay t.ordinal p then none
      else g.ledger.find? (fun (l : LedSlot) => l.mark == 1 && l.ordinal == u))
    if due.isEmpty ∨ (g.g.part (t.elems g.g) p).2 = 0 then some s
    else
      let r := due.foldl (applySlot noFaults (slowRun j jb g 0 jb.pt) t g p prog) (.init s)
      if r.pois ≠ 0 ∨ r.broken then none
      else some (({ s with mem := r.st.mem } : State).setGroup j { g with partBank := g.partBank ^^^ BitVec.ofNat 4 (2 ^ p) })

/-- Apply every part's slots of a group, write back what is owed first, and empty its ledger. -/
def State.flushGroup (s : State) (j id : Nat) : Option State :=
  match s.trainGrp j id with
  | none => some s
  | some (jb, t, g) =>
    let s1 := match g.owed with
      | some (p, b) => s.slowBack noFaults j jb t g p b
      | none => s
    let live := g.ledger.any (fun (l : LedSlot) => l.mark == 1)
    let clear (z : State) : State := match z.trainGrp j id with
      | none => z
      | some (_, _, y) => z.setGroup j { y with ledger := y.ledger.map (fun (l : LedSlot) => { l with mark := 0 }) }
    if !live then some (clear s1)
    else match s.optProg jb { t with params := jobBytes s jb.pt t.paramAddr 16384 } jb.pt g.g with
      | none => none
      | some prog => ((List.range g.g.delay).foldl (fun (z : Option State) p => z.bind (fun y => y.flushPart j id prog p)) (some s1)).map clear

/-- Apply to every tier-2 part all its valid slots and empty the ledger; none where that fails. -/
def State.flushLedger (s : State) (j : Nat) : Option State :=
  match (s.job j).bind Job.train with
  | none => some s
  | some t => (t.groups.filter (fun (g : TrainGrp) => g.g.tier == 2)).foldl (fun (z : Option State) (g : TrainGrp) =>
      z.bind (fun y => y.flushGroup j g.g.id)) (some s)

/-! ### Resharding -/

/-- The row of JobReshard in the command catalogue (R370). -/
def specJobReshard : CmdSpec :=
  ⟨0x0406, false, true, false, false, [(0x08, 0, 44), (0x10, 0, 44), (0x18, 0, 8), (0x20, 0, 44), (0x28, 0, 16),
    (0x30, 0, 48)]⟩

/-- JOB_RESHARD (R341): it stays open until the switch or its failure. A device of the old mapping only has no shard in the new table, which
it does not read (log 49). -/
def execJobReshard (h : HostId) (c : CmdRec) (f : Faults) (s : State) : Host.Outcome State Fault Refusal :=
  .next (s.command specJobReshard h c (fun s =>
    let j := c.job.toNat
    match s.job j with
    | none => .done s 0x0005 0
    | some jb =>
      if jb.run.isSome ∨ !jb.queue.isEmpty ∨ jb.reshard.isSome then .done s 0x0001 0
      else if c.par 0x30 0 48 < s.stage + 16 ∨ (mget jb.groups (c.par 0x18 0 8)).isNone ∨ c.par 0x20 0 44 % 64 ≠ 0 then .done s 0x0003 0
      else
        let open_ (u : State) (m : MapRec) (t : Train) (gs : List TGroup) (kp : Nat) (leaving : Bool) : CmdRes :=
          let r : Reshard := ⟨m, c.par 0x10 0 44, c.par 0x18 0 8, c.par 0x20 0 44, c.par 0x28 0 16, c.par 0x30 0 48, false, 0, t, gs, kp,
            leaving, none, []⟩
          .later (u.modJob j (fun (b : Job) => { b with reshard := some r })) .reshard
        match s.readMap f j jb (c.par 0x08 0 44) (fun m => m.ok s.dom.deviceId || (jb.train.isSome && m.leaves s.dom.deviceId)) with
        | (s1, .error e) => .done s1 e 0
        | (s1, .ok m) => match jb.train, m.leaves s.dom.deviceId with
          | some o, true => open_ s1 m o [] 0 true
          | _, _ => match s1.trainTable f j jb (c.par 0x10 0 44) with
            | (s2, .error e) => .done s2 e 0
            | (s2, .ok (t, gs, kp)) =>
              let old := (jb.train.map (fun o => o.groups.flatMap (fun g => bankPages jb.pt o g.g))).getD []
              if (gs.flatMap (bankPages jb.pt t)).any (fun p => old.contains p) then .done s2 0x0003 0
              else open_ s2 m t gs kp false))

/-- The open JOB_RESHARD of a job completes; a COLL_GROUP_SET that waited for it goes on (R366). -/
def State.endReshard (s : State) (j status : Nat) : State :=
  let s1 := s.completeBoth (fun (o : OpenCmd) => if o.job = j ∧ o.kind = OpenKind.reshard then some (status, 0) else none)
  let go (t : State) (h : HostId) : State := t.runWaiting h (fun o => o.job == j && o.op == 0x0404) (fun o => collGroupBody noFaults o.cmd)
  go (go s1 .a) .b

/-- A reshard fails (R344): the old mapping and banks stay, EV_RESHARD names the step. -/
def State.reshardFail (s : State) (j step : Nat) : State :=
  let s1 := s.modJob j (fun (b : Job) => { b with reshard := none })
  (s1.post { s1.ev 0x040A with job := j, arg0 := step }).endReshard j 0x0011

/-- The form of a reshard: the RESHARD_MODE of the job's record, or of the new one where the job has none (log 49). -/
def Job.reshardMode (jb : Job) (r : Reshard) : Nat := (jb.map.map MapRec.mode).getD r.map.mode

/-- Job addresses from here on name ledger slots in an image: group × 16 + slot (log 49). -/
def ledgerKey (group slot : Nat) : Nat := 2 ^ 60 + (group * 16 + slot) * 2 ^ 40

/-- An image is written back (R350): banks, ledger, ordinal, headroom, records, variants, mapping. -/
def State.wayIn (s : State) (j : Nat) (w : WayImage) : State :=
  match s.job j with
  | none => s
  | some jb => match jb.train with
    | none => s
    | some t =>
      let gs := t.groups.map (fun (g : TrainGrp) => match w.train.group g.g.id with
        | none => g
        | some o => { o with
            keep := 0, keepPages := [], owed := none, staged := [], applied := none, inStep := false, settled := false
            ledger := (o.ledger.zip g.ledger).map (fun (l : LedSlot × LedSlot) => { l.1 with pages := l.2.pages }) })
      let free := t.groups.flatMap (fun g => g.keepPages)
      let s1 := s.modJob j (fun (b : Job) => { b with
        variants := w.variants, variantNext := []
        map := w.map.or b.map
        train := some { t with
          groups := gs, pool := t.pool ++ free, ordinal := w.train.ordinal, h := w.train.h, clean := w.train.clean, skips := w.train.skips
          lastSkip := w.train.lastSkip, repairs := w.train.repairs, rollback := false, tallied := [], bisect := [], digs := [], extra := 0 }
        way := b.way.map (fun y => { y with full := true, open_ := none, waitFrom := none, late := false }) })
      let s2 := w.bytes.foldl (fun (z : State) p =>
        if 2 ^ 60 ≤ p.1 then z else if z.jobReach jb.pt p.1 p.2.length then z.jobPut j p.1 p.2 else z) s1
      let s3 := gs.foldl (fun (z : State) g => (g.ledger.zipIdx).foldl (fun (z : State) l =>
        match w.bytes.find? (fun p => p.1 == ledgerKey g.g.id l.2) with
        | none => z
        | some p => ((l.1.pages.zip (chunksOf (2 ^ 21) p.2)).foldl (fun (z : State) q => z.store (q.1 * 2 ^ 21) q.2) z)) z) s2
      match (s3.job j).bind Job.train with
      | some t2 => s3.loadTier0 noFaults j jb.pt t2
      | none => s3

/-- The image that this device holds of a generation its partner sends back: its own copy where it kept one (log 49). -/
def Job.ownImage (jb : Job) (w : WayImage) : WayImage :=
  ((jb.way.map Way.kept).getD [] |>.find? (fun (i : WayImage) => i.ordinal == w.ordinal)).getD w

/-- A job without training state takes the table of the image (R347, R350): it is held to R247, and its ledger and staging need pages
(log 49). -/
def State.wayTable (s : State) (j : Nat) (jb : Job) (w : WayImage) : Except Nat State :=
  match jb.train with
  | some _ => .ok s
  | none => match parseTrainHdr (w.train.table.take 64), (chunksOf 128 (w.train.table.drop 64)).mapM parseGroup with
    | some (_, kp, t0), some gs =>
      if !tableFits jb t0 gs kp then .error 0x0003
      else match s.placeTrain noFaults j jb { t0 with table := w.train.table } gs kp with
        | some s1 => .ok s1
        | none => .error 0x0004
    | _, _ => .error 0x0003

/-- A generation is restored (R350, R351): the image, then its ledger applied to the tier-2 state as it stands. A failing application
leaves the parts as the image has them (log 49). -/
def State.wayRestore (s : State) (j : Nat) (w : WayImage) : State :=
  let s1 := s.wayIn j w
  (s1.flushLedger j).getD s1

/-- A block of a group in a bank: for each plane its data address, data bytes and scale address. -/
abbrev BlockAt := List (Nat × Nat × Nat)

/-- Block `i` of a group's shard in the bank at an address (R248, R250). -/
def TGroup.blockAt (g : TGroup) (base n i : Nat) : BlockAt :=
  let bk := g.bank n
  (List.range bk.1.length).map (fun k =>
    let d := planeAt false base bk.1 k n
    let b := 32 * (d.ty.width / 8)
    (d.data + b * i, b, d.scale + i))

/-- The bank that holds the current value of block `i` of a group (R251, R261). -/
def Train.currentBank (t : Train) (g : TrainGrp) (i : Nat) : Nat :=
  if g.g.tier = 0 then g.g.bank0
  else if g.g.tier = 1 then (if g.cur then g.g.bank1 else g.g.bank0)
  else
    let p := ((List.range g.g.delay).find? (fun p =>
      let r := g.g.part (t.elems g.g) p
      decide (r.1 ≤ i ∧ i < r.1 + r.2))).getD 0
    if g.partBank.getLsbD p then g.g.bank1 else g.g.bank0

/-- Blocks of this device's shard of a group. -/
def Train.shardBlocks (t : Train) (g : TGroup) : Nat := (g.shard t.dpSize t.dpRank).2

/-- Element `32 × u` of the tensor that a reshard's segments count in (log 49): this device's shards, the groups in table order. -/
def Train.unitAt (t : Train) : List TGroup → Nat → Option (TGroup × Nat)
  | [], _ => none
  | g :: r, u => if u < t.shardBlocks g then some (g, u) else t.unitAt r (u - t.shardBlocks g)

/-- Where a send entry's blocks lie now, and a receive entry's under the new table (R342). -/
def Train.sendBlocks (t : Train) (e : CollSeg) : List BlockAt :=
  (List.range (e.len / 32)).filterMap (fun k => (t.unitAt (t.groups.map (fun g => g.g)) (e.off / 32 + k)).bind (fun q =>
    (t.group q.1.id).map (fun g => q.1.blockAt (t.currentBank g q.2) (t.elems q.1) q.2)))
def Train.recvBlocks (t : Train) (gs : List TGroup) (e : CollSeg) : List BlockAt :=
  (List.range (e.len / 32)).filterMap (fun k => (t.unitAt gs (e.off / 32 + k)).map (fun q => q.1.blockAt q.1.bank0 (t.elems q.1) q.2))

/-- Lines of a block. -/
def BlockAt.lines (pt : NMap Nat) (b : BlockAt) : List Nat := b.flatMap (fun p => jobLines pt p.1 p.2.1 ++ jobLines pt p.2.2 1)

/-- A block's bytes, plane by plane, data then scale; one from an uncorrectable line goes with zero data and scale 0x80 (R324). -/
def BlockAt.read (s : State) (f : Faults) (pt : NMap Nat) (b : BlockAt) : List Byte :=
  b.flatMap (fun p => if (badLines s f (jobLines pt p.1 p.2.1 ++ jobLines pt p.2.2 1)).isEmpty
    then jobBytes s pt p.1 p.2.1 ++ [jobByte s pt p.2.2] else zeros p.2.1 ++ [poisonScale])

/-- Bytes of blocks. -/
def blocksLen (bs : List BlockAt) : Nat := (bs.map (fun b => (b.map (fun p => p.2.1 + 1)).sum)).sum

/-- Write blocks from a stream of such bytes. -/
def State.putBlocks (s : State) (j : Nat) (bs : List BlockAt) (d : List Byte) : State :=
  (bs.flatten.foldl (fun (z : State × List Byte) p =>
    ((z.1.jobPut j p.1 (z.2.take p.2.1)).jobPut j p.2.2 ((z.2.drop p.2.1).take 1), z.2.drop (p.2.1 + 1))) (s, d)).1

/-- The receive entries of rank `r` with what comes for each: the `k`-th local one takes the `k`-th local send (R318), the others take what
the members sent, in table order; none where something lacks. -/
def pairSegs (r : Nat) : List CollSeg → List (List Byte) → List (List Byte) → Option (List (CollSeg × List Byte))
  | [], _, _ => some []
  | e :: l, own, others =>
    match if e.peer = r then own else others with
    | [] => none
    | d :: rest => (pairSegs r l (if e.peer = r then rest else own) (if e.peer = r then others else rest)).map (fun z => (e, d) :: z)

/-- The PERMUTE of a reshard (R342 step 2): every send entry's blocks, read from `src`, go to their peers in service frames (log 49); every
receive entry's blocks are written into bank 0 of the new table. None where the table or what came does not fit. -/
def State.reshardMove (s : State) (f : Faults) (j : Nat) (jb : Job) (r : Reshard) (g : CollGroup) (src : Option (State × Train))
    (table : List Byte) (recv : List (List Byte)) : Option State :=
  let n (t : Train) (gs : List TGroup) : Nat := 32 * (gs.map t.shardBlocks).sum
  let old := (src.map (fun p => n p.2 (p.2.groups.map (fun g => g.g)))).getD 0
  match segTable g.size g.rank false (old, false) (n r.train r.newGroups, false) table with
  | none => none
  | some segs =>
    let out := (segs.filter (fun e => !e.recv)).map (fun e =>
      (e, (src.map (fun p => (p.2.sendBlocks e).flatMap (fun b => b.read p.1 f jb.pt))).getD []))
    match pairSegs g.rank (segs.filter (fun e => e.recv)) ((out.filter (fun e => e.1.peer == g.rank)).map Prod.snd) recv with
    | none => none
    | some ins =>
      if !ins.all (fun e => blocksLen (r.train.recvBlocks r.newGroups e.1) == e.2.length) then none
      else
        let s1 := ins.foldl (fun (z : State) e => z.putBlocks j (r.train.recvBlocks r.newGroups e.1) e.2) s
        some (out.foldl (fun (z : State) e => if e.1.peer = g.rank then z else z.sendBytes (nth g.members e.1.peer) e.2) s1)

/-- Lines of the blocks that a reshard reads (R395). -/
def Train.shardLines (t : Train) (pt : NMap Nat) : List Nat :=
  dedup (t.groups.flatMap (fun g => (List.range (t.shardBlocks g.g)).flatMap (fun i =>
    BlockAt.lines pt (g.g.blockAt (t.currentBank g i) (t.elems g.g) i))))

/-- What the members of a resharded job hold alike, from a training state (R342, R343). -/
def Train.carry (t : Train) (jb : Job) : Carry := ⟨t.ordinal, t.h, t.clean, t.skips, t.lastSkip, t.repairs, t.rollbacks, jb.variants⟩

/-- The tier-2 state in host memory, as another state of the device has it (R343, R351). -/
def State.takeHost (s : State) (j : Nat) (jb : Job) (t : Train) (z : State) : State :=
  (t.groups.filter (fun (g : TrainGrp) => g.g.tier == 2)).foldl (fun (u : State) g =>
    let n := (g.g.hostPlanes (t.elems g.g)).2
    u.jobPut j g.g.hostAddr (jobBytes z jb.pt g.g.hostAddr n)) s

/-- RESHARD_START (R342 steps 1 and 2, R343): from the tick that begins S. The operand holds what came from other members and
what the partner answers for generation G. Step 1 empties the ledger, here or in G's image, which is worked out
apart, so that a failure leaves the old state as it is (R344); step 2 is the PERMUTE, after which this member is counted as finished. -/
def execReshardStart (job : BitVec 4) (x : ReshardIn) (s : State) : Host.Outcome State Fault Refusal :=
  let j := job.toNat
  match s.job j with
  | none => .next s
  | some jb => match jb.reshard with
    | none => .next s
    | some r =>
      if !(s.cvrWorks && !r.moved && decide (r.stage ≤ s.stage) && jb.run.isNone && jb.abort.isNone) then .next s
      else
        let through := jb.reshardMode r = 1
        let src : Option (Option (State × Train)) := match jb.train with
          | none => some none
          | some _ =>
            let z := if through then (x.image.bind (fun w => (s.wayIn j (jb.ownImage w)).flushLedger j)) else s.flushLedger j
            z.bind (fun z => ((z.job j).bind Job.train).map (fun t => some (z, t)))
        match src with
        | none => .next (s.reshardFail j 1)
        | some src =>
          let base := match src with
            | none => s
            | some (z, t) => if through then s.takeHost j jb t z else z.meet (z.cmdReader j) x.f (t.shardLines jb.pt)
          match base.cmdJobRead x.f j jb.pt r.segs (16 * r.entries), mget jb.groups r.group with
          | (_, some table), some g => (match base.reshardMove (if through then noFaults else x.f) j jb r g src table x.recv with
            | none => .next ((if through then s else base).reshardFail j 2)
            | some s1 =>
              let r1 : Reshard := { r with
                moved := true, movedAt := s.stage, carry := src.map (fun p => p.2.carry jb)
                counts := if through then (src.map (fun p => p.2.groups.map (fun g => (g.g.id, (g.updates, g.lastStep))))).getD [] else [] }
              .next ((s1.modJob j (fun (b : Job) => { b with reshard := some r1 })).shareValue g.members 1))
          | (s1, _), _ => .next ((if through then s else s1).reshardFail j 2)

/-- The training state of the new table at the switch (R342 step 4, R343): bank 0 current everywhere, no keep entries, the counts carried
over. -/
def Reshard.switched (r : Reshard) (pages : List Nat) (c : Carry) : Train :=
  let t := r.train.place r.newGroups pages
  { t with
    ordinal := c.ordinal, h := c.h, clean := c.clean, skips := c.skips, lastSkip := c.lastSkip, repairs := c.repairs, rollbacks := c.rollbacks
    groups := t.groups.map (fun g => match mget r.counts g.g.id with
      | some (u, l) => { g with updates := u, lastStep := l }
      | none => g) }

/-- RESHARD_SWITCH (R342 step 4, R344): at the tick after the confirmation; `confirm` is the service all-reduce's answer, none where some
member did not finish step 2: it also tells a device that joins what the others carry over. A device that leaves ends without training
state and mapping. -/
def execReshardSwitch (job : BitVec 4) (confirm : Option Carry) (s : State) : Host.Outcome State Fault Refusal :=
  let j := job.toNat
  match s.job j with
  | none => .next s
  | some jb => match jb.reshard with
    | none => .next s
    | some r =>
      if !(s.cvrWorks && r.moved && decide (r.movedAt < s.stage) && jb.abort.isNone) then .next s
      else match confirm with
        | none => .next (s.reshardFail j 3)
        | some c0 =>
          let c := r.carry.getD c0
          let unmap (m : NMap Nat) : NMap Nat := (jb.train.map (fun t => t.unmapKeep m)).getD m
          let bare := { jb with train := none, map := none, reshard := none, pt := unmap jb.pt, ptNext := unmap jb.ptNext }
          if r.leaving then .next ((s.setJob j bare).endReshard j 0)
          else match (s.setJob j bare).allocJob jb.hbms (r.train.need r.newGroups r.keepPages) with
            | none => .next (s.reshardFail j 4)
            | some pages =>
              let t := r.switched pages c
              let s1 := (s.setJob j { bare with train := some t, map := some r.map, variants := c.variants }).loadTier0 noFaults j bare.pt t
              .next ((if jb.reshardMode r = 1 then s1.jobPut j t.statusAddr t.status else s1).endReshard j 0)

/-! ### Waystations -/

/-- Device pages of a slot read whole. -/
def LedSlot.bytes (s : State) (l : LedSlot) : List Byte := l.pages.flatMap (fun p => s.bytes (p * 2 ^ 21) (2 ^ 21))

/-- The image of a job's training state at this moment (R347). -/
def State.wayImage (s : State) (jb : Job) (t : Train) (ordinal : Nat) : WayImage :=
  let rng (p : Nat × Nat) : Nat × List Byte := (p.1, jobBytes s jb.pt p.1 p.2)
  let led := t.groups.flatMap (fun g => (g.ledger.zipIdx).filterMap (fun l =>
    if l.1.mark = 1 then some (ledgerKey g.g.id l.2, l.1.bytes s) else none))
  ⟨ordinal, s.stage, { t with pool := [], stagePages := [] }, jb.map, jb.variants,
    (t.groups.flatMap (fun g => (t.currentRanges g).map rng)) ++ led
      ++ [rng (t.statusAddr, 64 * (t.groups.length + 1)), rng (t.hrAddr, 64)]⟩

/-- Pages of an image. -/
def WayImage.pages (w : WayImage) : List Nat :=
  dedup (w.bytes.flatMap (fun p => (List.range (cdiv (p.1 % 2 ^ 21 + p.2.length) (2 ^ 21))).map (fun k => p.1 / 2 ^ 21 + k)))

/-- Pages of an image that differ from the last one, or all (R348). -/
def WayImage.changedPages (w : WayImage) (prev : Option WayImage) : List Nat :=
  match prev with
  | none => w.pages
  | some o => w.pages.filter (fun p => (w.bytes.filter (fun b => decide (b.1 / 2 ^ 21 ≤ p ∧ p * 2 ^ 21 < b.1 + b.2.length)))
      != (o.bytes.filter (fun b => decide (b.1 / 2 ^ 21 ≤ p ∧ p * 2 ^ 21 < b.1 + b.2.length))))

/-- The pieces of a range of bytes, page by page. -/
def pagePieces (va : Nat) (d : List Byte) : List (Nat × List Byte) :=
  let room := 2 ^ 21 - va % 2 ^ 21
  (va / 2 ^ 21, d.take room) :: ((chunksOf (2 ^ 21) (d.drop room)).zipIdx).map (fun p => (va / 2 ^ 21 + 1 + p.2, p.1))

/-- Payloads of the frames that copy an image's pages (R348): whole units of 64 bytes, 512 at most. -/
def WayImage.payloads (w : WayImage) (pages : List Nat) : List (List Byte) :=
  ((w.bytes.flatMap (fun p => pagePieces p.1 p.2)).filter (fun p => pages.contains p.1)).flatMap (fun p =>
    (chunksOf 512 p.2).map (fun d => fitBytes (64 * cdiv d.length 64) d))

/-- Change a job's waystation state. -/
def State.modWay (s : State) (j : Nat) (f : Way → Way) : State := s.modJob j (fun (b : Job) => { b with way := b.way.map f })

/-- A generation fails part way (R348): the one before it stays, and the next one copies every page. -/
def State.wayFail (s : State) (j ordinal : Nat) : State :=
  (s.post { s.ev 0x040C with job := j, arg0 := ordinal }).modWay j (fun (w : Way) => { w with
    full := true, open_ := none, waitFrom := none, late := false, pend := [], sent := 0, acks := 0 })

/-- The copy of an open generation goes on (R85, R348): WRITE frames with JOB_TAG 0 and class service from serai 0, as many as may be
outstanding (log 49). -/
def State.waySend (j : Nat) : Nat → State → State
  | 0, s => s
  | n + 1, s => match (s.job j).bind Job.way with
    | none => s
    | some w => match w.open_, w.pend with
      | some img, d :: r =>
        let q : Req := { serai := 0, dest := w.partner, tag := 0, cls := 0, typ := 0, flow := serviceFlow, offset := 512 * w.sent % 2 ^ 32
                         window := 512 * w.sent / 2 ^ 32 % 16, poison := false, payload := d, use_ := TxnFor.way j img.ordinal }
        (match s.issue q with
          | .stall => s
          | .unreachable => s.wayFail j img.ordinal
          | .sent s1 => State.waySend j n (s1.modWay j (fun (w : Way) => { w with pend := r, sent := w.sent + 1, acks := w.acks + 1 })))
      | _, _ => s

/-- As much of a job's open generation as may go now. -/
def State.wayPump (s : State) (j : Nat) : State := State.waySend j (((s.job j).bind Job.way).map (fun w => w.pend.length) |>.getD 0) s

/-- A transaction of a generation is answered (R15, R348). -/
def State.wayAnswered (s : State) (j ordinal : Nat) : State :=
  match ((s.job j).bind Job.way).bind Way.open_ with
  | none => s
  | some img => if img.ordinal = ordinal then (s.modWay j (fun (w : Way) => { w with acks := w.acks - 1 })).wayPump j else s

/-- A transaction of a generation has failed (R348). -/
def State.wayLost (s : State) (j ordinal : Nat) (e : EventRec) : State :=
  match ((s.job j).bind Job.way).bind Way.open_ with
  | none => s
  | some img => if img.ordinal = ordinal then (s.post { e with cls := 1, job := j, status := 0x000E }).wayFail j ordinal else s

/-- A due generation begins at the close of an update step (R348, R349): one that does not fit fails. Replay takes none (R479). -/
def State.wayBegin (s : State) (j ordinal : Nat) : State :=
  match s.job j with
  | none => s
  | some jb => match jb.way, jb.train with
    | some w, some t =>
      if (ordinal + 1) % w.k ≠ 0 ∨ s.dbg.replay.isSome then s
      else
        let img := s.wayImage jb t ordinal
        let pages := img.changedPages (if w.full then none else w.kept.head?)
        if w.pages < img.pages.length + 2 * pages.length then s.wayFail j ordinal
        else (s.modWay j (fun (w : Way) => { w with
          open_ := some img, waitFrom := none, late := false, pend := img.payloads pages, sent := 0, acks := 0 })).wayPump j
    | _, _ => s

/-- The close of a step waits for the generation before its poison tally (R348): EV_WAYSTATION_LATE after a stage. -/
def State.wayLate (s : State) (j : Nat) : State :=
  match (s.job j).bind Job.way with
  | none => s
  | some w => match w.open_, w.waitFrom with
    | some img, some g =>
      if w.late ∨ s.stage ≤ g + 1 then s
      else (s.post { s.ev 0x040B with job := j, arg0 := img.ordinal }).modJob j (fun (b : Job) => { b with way := some { w with late := true } })
    | _, _ => s

/-- The row of WaystationSet in the command catalogue (R370). -/
def specWaystationSet : CmdSpec :=
  ⟨0x0407, false, true, false, false, [(0x08, 0, 16), (0x10, 0, 18), (0x18, 0, 16)]⟩

/-- WAYSTATION_SET (R346); `reserved` is the partner's answer. K 0, no pages or a partner above 8,191 is out of range. -/
def execWaystationSet (h : HostId) (c : CmdRec) (reserved : Bool) (s : State) : Host.Outcome State Fault Refusal :=
  .next (s.command specWaystationSet h c (fun s =>
    match s.job c.job.toNat with
    | none => .done s 0x0005 0
    | some jb =>
      let p := c.par 0x08 0 16
      let n := c.par 0x10 0 18
      let k := c.par 0x18 0 16
      let who : Option Nat := if p = 0xFFFF then jb.map.bind (fun m => if m.dp = 1 then none else some m.nextData)
        else if 8191 < p then none else some p
      match who with
      | none => .done s 0x0003 0
      | some d =>
        if n = 0 ∨ k = 0 then .done s 0x0003 0
        else if !reserved then .done s 0x0004 0
        else .done (s.modJob c.job.toNat (fun (b : Job) => { b with way := some ⟨d, n, k, none, none, false, [], true, [], 0, 0⟩ })) 0 0))

/-- Pages that the regions for other devices may take: 30 % of the HBM (R346). -/
def State.wayLimit (s : State) : Nat := 36864 * s.part.hbms * 3 / 10

/-- The row of WaystationHost in the command catalogue (R370). -/
def specWaystationHost : CmdSpec :=
  ⟨0x0408, true, false, false, false, [(0x08, 0, 32), (0x10, 0, 18)]⟩

/-- WAYSTATION_HOST (R346): it replaces a region of the same owner and tag; no pages gives it back (log 49). -/
def execWaystationHost (h : HostId) (c : CmdRec) (s : State) : Host.Outcome State Fault Refusal :=
  .next (s.command specWaystationHost h c (fun s =>
    let id := c.par 0x08 0 16
    let tag := c.par 0x08 16 16
    let n := c.par 0x10 0 18
    let key := id * 65536 + tag
    let s0 : State := { s with ways := merase s.ways key }
    if 8191 < id ∨ tag = 0 then .done s 0x0003 0
    else if n = 0 then .done s0 0 0
    else if s.wayLimit < n + (s0.ways.map (fun p => p.2.pages.length)).sum then .done s 0x0004 0
    else match s0.allocPages n ((List.range s.part.hbms).map stackPages) with
      | none => .done s 0x0004 0
      | some pages => .done { s0 with ways := mset s0.ways key ⟨pages, []⟩ } 0 0))

/-- WAYSTATION_COMMIT (R348, R349): the index header of a generation is written; the partner and the owner keep two. The
owner's generation commits once its last page is complete. -/
def execWaystationCommit (owner tag : BitVec 16) (ordinal : BitVec 32) (stage : BitVec 48) (s : State) : Host.Outcome State Fault Refusal :=
  let key := owner.toNat * 65536 + tag.toNat
  let s1 : State := if s.live then { s with ways := mmodify s.ways key (fun (w : WayRegion) =>
    { w with gens := ((ordinal.toNat, stage.toNat) :: w.gens).take 2 }) } else s
  if !(s.live && owner.toNat == s.dom.deviceId) then .next s1
  else match s1.tagged tag.toNat with
    | none => .next s1
    | some (j, jb) => match jb.way with
      | none => .next s1
      | some w => match w.open_ with
        | none => .next s1
        | some img =>
          if img.ordinal ≠ ordinal.toNat ∨ !w.pend.isEmpty ∨ w.acks ≠ 0 then .next s1
          else .next (s1.modJob j (fun (b : Job) => { b with way := some { w with
            open_ := none, waitFrom := none, late := false, full := false, kept := (img :: w.kept).take 2 } }))

/-- The row of WaystationStatus in the command catalogue (R370). -/
def specWaystationStatus : CmdSpec :=
  ⟨0x0409, false, true, false, false, [(0x08, 0, 64)]⟩

/-- WAYSTATION_STATUS (R350). -/
def execWaystationStatus (h : HostId) (c : CmdRec) (s : State) : Host.Outcome State Fault Refusal :=
  .next (s.command specWaystationStatus h c (fun s =>
    match s.job c.job.toNat with
    | none => .done s 0x0005 0
    | some jb =>
      let a := c.par 0x08 0 64
      let kept := (jb.way.map Way.kept).getD []
      let ent (k : Nat) : List Byte := match kept[k]? with
        | some w => toLE 8 w.ordinal ++ toLE 8 (w.stage % 2 ^ 48)
        | none => toLE 8 0xFFFFFFFF ++ zeros 8
      if a % 8 ≠ 0 then .done s 0x0003 0
      else match s.hostWrite h a (ent 0 ++ ent 1) with
        | some t => .done t 0 0
        | none => .done s 0x000E 0))

/-- The other devices of a job (R335). -/
def Job.others (jb : Job) : List Nat := (jb.map.map (fun (m : MapRec) => m.devices.eraseIdx m.rank)).getD []

/-- The row of WaystationRestore in the command catalogue (R370). -/
def specWaystationRestore : CmdSpec :=
  ⟨0x040A, false, true, false, false, [(0x08, 0, 32), (0x0C, 0, 16)]⟩

/-- WAYSTATION_RESTORE (R350, R351): `image` is what the partner of SOURCE answers, ST_NO_WAYSTATION where it holds none of that
generation; every member is told, and the command completes when every member holds it. -/
def execWaystationRestore (h : HostId) (c : CmdRec) (image : Option WayImage) (s : State) : Host.Outcome State Fault Refusal :=
  .next (s.command specWaystationRestore h c (fun s =>
    let j := c.job.toNat
    match s.job j with
    | none => .done s 0x0005 0
    | some jb =>
      let g := c.par 0x08 0 32
      let src := c.par 0x0C 0 16
      if jb.run.isSome ∨ !jb.queue.isEmpty ∨ jb.reshard.isSome then .done s 0x0001 0
      else if src ≠ 0xFFFF ∧ 8191 < src then .done s 0x0003 0
      else if src = 0xFFFF ∧ jb.way.isNone then .done s 0x0012 0
      else match image.filter (fun (w : WayImage) => w.ordinal == g) with
        | none => .done s 0x0012 0
        | some w =>
          let own := if src = 0xFFFF ∨ (jb.way.map Way.partner) = some src then jb.ownImage w else w
          match s.wayTable j jb own with
          | .error e => .done s e 0
          | .ok s1 =>
            let s2 := s1.wayRestore j own
            .later (s2.shareValue (((s2.job j).map Job.others).getD []) g) .restore))

end Sys2Proof.Machine
end

