-- ==== Sys2Proof/Machine/Close.lean ====
section
/-! DEFINITION. The close of an update step (10, R255–R275): the poison tally, commit or skip, headroom, ledger and status
area, the replica tally with its repair and rollback. -/
namespace Sys2Proof.Machine

/-! ### STEP_CLOSE -/

/-- A task of a step has completed, failed or been not run. -/
def TaskRun.resolved (t : TaskRun) : Bool := t.st == .done || t.st == .failed || t.st == .notRun
def RunStep.resolved (r : RunStep) : Bool := r.tasks.all TaskRun.resolved

/-- A group's settle condition holds (R253). -/
def TrainGrp.reached (g : TrainGrp) (ctrs : NMap Nat) : Bool := decide (g.g.settleVal ≤ mgetD ctrs g.g.settleCtr 0)

/-- Nothing of a group keeps the close waiting (R255, R256, R261): it has settled and its update leg has ended, or it cannot settle any
more; a tier-2 group has applied its part, and the part before it has been written back (log 47). -/
def Train.groupDone (t : Train) (r : RunStep) (ctrs : NMap Nat) (g : TrainGrp) : Bool :=
  !g.inStep || ((if g.settled then r.upds.all (fun (u : TaskRun) => u.hdr.id != updId g.g.id || u.st == .done || u.st == .failed)
      else !g.reached ctrs)
    && (g.g.tier != 2 || (g.owed.isNone
        && (g.applied.isSome || decide ((g.g.part (t.elems g.g) (t.ordinal % g.g.delay)).2 = 0)))))

/-- Groups of the step that have not settled (R256). -/
def Train.unsettled (t : Train) : List TrainGrp := t.groups.filter (fun g => g.inStep && !g.settled)

/-- The device tally of a step (R257). -/
def Train.deviceTally (t : Train) (r : RunStep) : Nat :=
  ((t.groups.filter (fun g => g.inStep && g.settled)).map (fun g => g.gradPoison)).sum
    + (r.upds.map (fun (u : TaskRun) => match u.eng with
        | .upd x => x.poisoned
        | _ => 0)).sum
    + t.extra + t.unsettled.length

/-- Every task and update leg of the job's update step is done (R255). -/
def Job.closable (jb : Job) (r : RunStep) (t : Train) : Bool :=
  r.q.update && r.close == 0 && jb.abort.isNone && r.resolved && t.groups.all (t.groupDone r jb.ctrs)

/-- Devices of a job's data group in rank order (log 62): the first collective group with the table's DP_SIZE and DP_RANK. -/
def Job.dataGroup (jb : Job) (t : Train) : List Nat :=
  ((jb.groups.find? (fun (p : Nat × CollGroup) => p.2.size == t.dpSize && p.2.rank == t.dpRank)).map (fun p => p.2.members)).getD []

/-- Devices whose tallies a job's poison tally sums (R257, log 62): those of its mapping record, or its data group. -/
def Job.tallyPeers (jb : Job) (t : Train) : List Nat := match jb.map with
  | some m => m.devices
  | none => jb.dataGroup t

/-- STEP_CLOSE (R255–R257, R334): unsettled groups are posted, the device tally is taken and goes to the job's devices; the close may
have to wait for a waystation generation (R348). -/
def execStepClose (job : BitVec 4) (s : State) : Host.Outcome State Fault Refusal :=
  let j := job.toNat
  match s.job j with
  | none => .next s
  | some jb => match jb.run, jb.train with
    | some r, some t =>
      if !(s.cvrWorks && jb.closable r t) then .next s
      else
        let s1 := t.unsettled.foldl (fun (x : State) g => x.post { x.ev 0x0401 with job := j, arg0 := g.g.id }) s
        .next ((s1.shareValue (jb.tallyPeers t) (t.deviceTally r)).modJob j (fun (b : Job) => { b with
          run := some { r with close := 1, devTally := t.deviceTally r }
          way := b.way.map (fun (w : Way) => if w.open_.isSome then { w with waitFrom := some s.stage } else w) }))
    | _, _ => .next s

/-! ### POISON_TALLY -/

/-- What a clean tally commits for a group (R255): the bank that its update leg wrote becomes current. -/
def TrainGrp.commit (g : TrainGrp) (step : Nat) : TrainGrp :=
  if g.inStep && g.wrote then { g with cur := !g.cur, updates := g.updates + 1, lastStep := step } else g

/-- The part that a tier-2 group applied becomes current whatever the tally (R261); its write-back is owed. -/
def TrainGrp.switchPart (g : TrainGrp) (step : Nat) : TrainGrp :=
  match g.applied with
  | some p =>
    if g.staged.isEmpty then g
    else { g with
      partBank := g.partBank ^^^ BitVec.ofNat 4 (2 ^ p), owed := some (p, g.staged), staged := []
      updates := g.updates + 1, lastStep := step }
  | none => g

/-- The step's ledger slot is marked valid or skipped, with its step number and headroom (R260). -/
def TrainGrp.markSlot (g : TrainGrp) (n step : Nat) (h : Int) (clean : Bool) : TrainGrp :=
  if g.g.tier = 2 ∧ g.inStep then
    { g with ledger := (g.ledger.zipIdx).map (fun (l : LedSlot × Nat) =>
        if l.2 = n % (g.g.delay + 1) then { l.1 with mark := if clean then 1 else 2, ordinal := n, step := step, h := h } else l.1) }
  else g

/-- The keep entry becomes absent (R264). -/
def TrainGrp.dropKeep (g : TrainGrp) : TrainGrp := { g with keep := 0, keepPages := [], relStage := 0 }

/-- A group at the close of step `n`. -/
def TrainGrp.close (g : TrainGrp) (n step : Nat) (h : Int) (clean : Bool) : TrainGrp :=
  (((if clean then g.commit step else g).switchPart step).markSlot n step h clean).dropKeep

/-- The headroom rule (R258): new headroom and clean count. -/
def Train.nextHeadroom (t : Train) (clean : Bool) : Int × Nat :=
  if !clean then (max t.hrMin (t.h - 1), 0)
  else if t.clean + 1 = t.cleanRun then (min t.hrMax (t.h + 1), 0)
  else (t.h, t.clean + 1)

/-- The training state after steps 3 and 4 of the close (R255, R258, R264). -/
def Train.close (t : Train) (step : Nat) (clean : Bool) : Train :=
  let hc := t.nextHeadroom clean
  { t with
    groups := t.groups.map (fun g => g.close t.ordinal step t.h clean)
    pool := t.pool ++ t.groups.flatMap (fun g => g.keepPages)
    ordinal := t.ordinal + 1, h := hc.1, clean := hc.2
    skips := if clean then t.skips else t.skips + 1
    lastSkip := if clean then t.lastSkip else step }

/-- Tier-0 banks committed now go back to BANK0_ADDR (R251). -/
def State.mirrorTier0 (s : State) (f : Faults) (j : Nat) (pt : NMap Nat) (t : Train) (pick : TrainGrp → Bool) : State :=
  (t.groups.filter (fun g => g.g.tier == 0 && pick g)).foldl (fun (x : State) g =>
    let n := (g.g.bank (t.elems g.g)).2
    let base := tileAt g.g.homeCore + g.g.tsOff + (if g.cur then n else 0)
    (List.range (n / 64)).foldl (fun (x : State) k => match xlate pt (g.g.bank0 + 64 * k) with
      | some a => x.carry (x.cmdReader j) f j pt (base + 64 * k) a 64
      | none => x) x) s

/-- Replicated groups of tier 0 or 1 (R272). -/
def Train.replicas (t : Train) : List TrainGrp := t.groups.filter (fun g => g.g.replicated && g.g.tier != 2)

/-- The replica tally is due at the close that has just counted its ordinal (R272). -/
def Train.tallyDue (t : Train) : Bool := t.tallyT != 0 && t.ordinal % t.tallyT == 0 && !t.replicas.isEmpty

/-- The close has done its work (R255, R275, R348): a rollback that was asked for stops the job; else a due waystation generation begins. -/
def State.closeEnd (s : State) (j : Nat) : State :=
  match s.job j with
  | none => s
  | some jb => match jb.run, jb.train with
    | some r, some t =>
      if t.rollback then
        let s1 := s.modJob j (fun (b : Job) => { b with
          run := some { r with close := 3, rolledBack := true }
          train := some { t with rollbacks := t.rollbacks + 1 } })
        s1.post { s1.ev 0x0408 with job := j, arg0 := r.q.step }
      else (s.modRun j (fun (r : RunStep) => { r with close := 3 })).wayBegin j (t.ordinal - 1)
    | _, _ => s

/-- The tally that decides, and the difference that replay notes (R257, R479). -/
def State.tallyTotal (s : State) (j devTally total : Nat) : Nat × State :=
  match s.replayOf j, s.replayRec j with
  | some _, some p =>
    (fld p.1 0x20 8, if fld p.1 0x18 8 = devTally then s else s.modReplay (fun (r : Replay) => { r with divTally := true }))
  | _, _ => (total, s)

/-- Steps 3 and 4 of the close (R255–R260, R264). -/
def State.applyTally (s : State) (j : Nat) (jb : Job) (r : RunStep) (t : Train) (total : Nat) : State :=
  let clean := total == 0
  let t1 := t.close r.q.step clean
  let s1 := s.modJob j (fun (b : Job) => { b with
    run := some { r with skip := !clean, totTally := total }
    train := some t1, pt := t.unmapKeep b.pt, ptNext := t.unmapKeep b.ptNext })
  let s2 := if clean then s1 else s1.post { s1.ev 0x0402 with job := j, arg0 := r.q.step, arg1 := r.devTally }
  let s3 := if !clean && decide (t.h = t.hrMin) then s2.post { s2.ev 0x0403 with job := j, arg0 := unsgn 64 t.h } else s2
  let s4 := if clean then s3.mirrorTier0 noFaults j jb.pt t1 (fun g => g.inStep && g.wrote) else s3
  let s5 := s4.jobPut j t.statusAddr t1.status
  let s6 := match jb.queue.head? with
    | some q => s5.headroomRec j t1 q.step
    | none => s5
  if t1.tallyDue && (s6.replayOf j).isNone then
    (s6.modRun j (fun (r : RunStep) => { r with close := 2 })).modTrain j (fun (t : Train) => { t with digs := t.digPages t.replicas })
  else s6.closeEnd j

/-- POISON_TALLY (R257): the sum over the job's devices arrives; it contains this device's own tally. -/
def execPoisonTally (job : BitVec 4) (total : BitVec 64) (s : State) : Host.Outcome State Fault Refusal :=
  let j := job.toNat
  match s.job j with
  | none => .next s
  | some jb => match jb.run, jb.train with
    | some r, some t =>
      if !(s.cvrWorks && r.close == 1 && jb.abort.isNone && jb.way.all (fun (w : Way) => w.open_.isNone) && decide (r.devTally ≤ total.toNat))
      then .next s
      else
        let p := s.tallyTotal j r.devTally total.toNat
        .next (p.2.applyTally j jb r t p.1)
    | _, _ => .next s

/-! ### The replica tally -/

/-- The digest of `m` pages of a group from page `p` on is the sum of theirs (R272). -/
def Train.digOf (t : Train) (id p m : Nat) : Nat :=
  (t.digs.filter (fun d => d.group == id && decide (p ≤ d.page ∧ d.page < p + m))).foldl (fun a d => (a + d.sum) % 2 ^ 64) 0

/-- The digest legs of a group have taken every page digest (R272). -/
def Train.digested (t : Train) (id : Nat) : Bool := t.digs.all (fun d => d.group != id || d.st == 2)

/-- The digests of the data group in rank order, this device's own in its place. -/
def Train.withOwn (t : Train) (l : List (BitVec 64)) (own : Nat) : List Nat :=
  (List.range t.dpSize).map (fun r => if r = t.dpRank then own else (l[r]?.map BitVec.toNat).getD 0)

/-- All digests are equal. -/
def agree (l : List Nat) : Bool := l.all (fun a => l.head? == some a)

/-- A range of a group's bank that is open in the replica tally: group, first page, pages (0 while one page is compared again after its
repair), digests by rank (R273, R274). -/
abbrev OpenRange := Nat × Nat × Nat × List Nat

/-- The replica tally has been taken for every group and nothing is open (R272–R275). -/
def Train.tallyOver (t : Train) : Bool := t.bisect.isEmpty && t.replicas.all (fun g => t.tallied.contains g.g.id)

/-- The page error records of one page of a group's current bank (R274, R402), by their keys. -/
def Train.pageKeys (t : Train) (pt : NMap Nat) (g : TrainGrp) (p : Nat) : List Nat :=
  let a := 2 ^ 21 * p
  let n := min (2 ^ 21) ((g.g.bank (t.elems g.g)).2 - a)
  dedup ((List.range (cdiv n 64)).filterMap (fun k => (t.bankAddr pt g (a + 64 * k)).map pageKey))

/-- Events that a page error record counts, corrected or not. -/
def State.pageCount (s : State) (k : Nat) : Nat := ((mget s.pageRecs k).map (fun r => r.corr + r.unc)).getD 0

/-- The tally of a group was clean (R274): the counts of its pages' error records now. -/
def Train.cleanAt (t : Train) (s : State) (pt : NMap Nat) (id : Nat) : Train :=
  { t with groups := t.groups.map (fun g => if g.g.id = id then
      { g with cleanSeen := ((List.range (t.bankPages g)).flatMap (t.pageKeys pt g)).foldl (fun (m : NMap Nat) k =>
          mset m k (s.pageCount k)) [] }
    else g) }

/-- End of a round: the close ends when the replica tally is over. -/
def State.tallyStep (s : State) (j : Nat) : State :=
  match (s.job j).bind Job.train with
  | some t => if t.tallyOver then s.closeEnd j else s
  | none => s

/-- REPLICA_TALLY (R272, R273, R334): once its digest legs are done, the group's root goes to the data group, and the roots are
compared. -/
def execReplicaTally (job : BitVec 4) (group : BitVec 16) (roots : List (BitVec 64)) (s : State) : Host.Outcome State Fault Refusal :=
  let j := job.toNat
  match s.job j with
  | none => .next s
  | some jb => match jb.run, jb.train with
    | some r, some t => (match t.replicas.find? (fun g => g.g.id == group.toNat) with
        | none => .next s
        | some g =>
          if !(s.cvrWorks && r.close == 2 && jb.abort.isNone && !t.tallied.contains g.g.id && roots.length == t.dpSize && t.digested g.g.id)
          then .next s
          else
            let n := t.bankPages g
            let own := t.digOf g.g.id 0 n
            let ds := t.withOwn roots own
            let t1 := { t with tallied := t.tallied ++ [g.g.id] }
            let t2 := if agree ds then t1.cleanAt s jb.pt g.g.id else { t1 with bisect := t1.bisect ++ [(g.g.id, 0, n, ds)] }
            .next (((s.shareValue (jb.dataGroup t) own).modTrain j (fun _ => t2)).tallyStep j))
    | _, _ => .next s

/-- The lines of one page of a group's current bank, in order. -/
def bankLines (pt : NMap Nat) (t : Train) (g : TrainGrp) (p : Nat) : List Nat :=
  let n := (g.g.bank (t.elems g.g)).2
  (List.range (cdiv (min (2 ^ 21) (n - p * 2 ^ 21)) 64)).filterMap (fun k => t.bankAddr pt g (p * 2 ^ 21 + 64 * k))

/-- This device's log shows an event in a page's range since the group's last clean tally (R274). -/
def State.pageEvent (s : State) (pt : NMap Nat) (t : Train) (g : TrainGrp) (p : Nat) : Bool :=
  (t.pageKeys pt g p).any (fun k => decide (mgetD g.cleanSeen k 0 < s.pageCount k))

/-- What a round has come to: the state, the ranges still open, the single pages found, a repair that failed. -/
structure Round where
  ranges : List OpenRange
  singles : List OpenRange
  failed : Bool
  deriving DecidableEq, Repr

/-- One open range in a round (R273): cut in two; of the parts that differ, single pages are set aside. A page under comparison after a
repair closes, or fails the tally. -/
def Train.roundRange (t : Train) (z : Round) (q : OpenRange × List (BitVec 64)) : Round :=
  let (id, p, m, ds) := q.1
  if m = 0 then (if agree (t.withOwn q.2 (t.digOf id p 1)) then z else { z with failed := true })
  else if m = 1 then { z with singles := z.singles ++ [q.1] }
  else
    let a := cdiv m 2
    let lo := t.withOwn q.2 (t.digOf id p a)
    let up := (ds.zip lo).map (fun v => (v.1 + 2 ^ 64 - v.2) % 2 ^ 64)
    let parts : List OpenRange := [(id, p, a, lo), (id, p + a, m - a, up)].filter (fun c => !agree c.2.2.2)
    { z with
      ranges := z.ranges ++ parts.filter (fun c => c.2.2.1 != 1)
      singles := z.singles ++ parts.filter (fun c => c.2.2.1 == 1) }

/-- A mismatching page (R274): the candidate of lowest rank sends it to every device that differs, after which its digest is taken and
compared again; or a rollback. The bytes that come to this device are free values (log 51). -/
def State.repairPage (s : State) (j : Nat) (g : TrainGrp) (q : OpenRange × List Bool) : State :=
  match s.job j with
  | none => s
  | some jb => match jb.train with
    | none => s
    | some t =>
      let (id, p, _, ds) := q.1
      let s0 := s.post { s.ev 0x0406 with job := j, arg0 := id, arg1 := p }
      let seen (r : Nat) : Bool := if r = t.dpRank then s.pageEvent jb.pt t g p else q.2.getD r false
      let cands := (List.range t.dpSize).filter (fun r => !seen r)
      match cands with
      | [] => s0.modTrain j (fun (t : Train) => { t with rollback := true })
      | src :: _ =>
        if !agree (cands.map (fun r => nth ds r)) then s0.modTrain j (fun (t : Train) => { t with rollback := true })
        else
          let tgt := (List.range t.dpSize).filter (fun r => nth ds r != nth ds src)
          let s1 := tgt.foldl (fun (x : State) r => x.post { x.ev 0x0407 with job := j, arg0 := src, arg1 := r }) s0
          let ls := bankLines jb.pt t g p
          let s2 := if src = t.dpRank then
              tgt.foldl (fun (x : State) r => x.sendBytes (nth (jb.dataGroup t) r) (ls.flatMap (fun l => s.bytes l 64))) s1
            else if tgt.contains t.dpRank then
              (ls.foldl (fun (x : State) l => x.scramble l 64) s1).mirrorTier0 noFaults j jb.pt t (fun y => y.g.id == g.g.id)
            else s1
          s2.modTrain j (fun (t : Train) => { (t.modDig id p (fun _ => t.digPage g p)) with
            repairs := t.repairs + 1, bisect := t.bisect ++ [(id, p, 0, List.replicate t.dpSize (nth ds src))] })

/-- TALLY_BISECT_ROUND (R273–R275): `lower` holds the digests for each open range of the group in order, `logs` says for each single page
found, by rank, whether that device's log shows an event. -/
def execTallyBisectRound (job : BitVec 4) (group : BitVec 16) (lower : List (List (BitVec 64))) (logs : List (List Bool)) (s : State) :
    Host.Outcome State Fault Refusal :=
  let j := job.toNat
  match s.job j with
  | none => .next s
  | some jb => match jb.run, jb.train with
    | some r, some t => (match t.group group.toNat with
        | none => .next s
        | some g =>
          let mine := t.bisect.filter (fun (q : OpenRange) => q.1 == g.g.id)
          if !(s.cvrWorks && r.close == 2 && jb.abort.isNone && !mine.isEmpty && t.digested g.g.id) then .next s
          else
            let s := mine.foldl (fun (x : State) q => x.shareValue (jb.dataGroup t) (t.digOf q.1 q.2.1 (max 1 (cdiv q.2.2.1 2)))) s
            let z := (mine.zipIdx).foldl (fun (z : Round) q => t.roundRange z (q.1, lower.getD q.2 [])) ⟨[], [], false⟩
            let t1 := { t with
              bisect := t.bisect.filter (fun (q : OpenRange) => q.1 != g.g.id) ++ z.ranges, rollback := t.rollback || z.failed }
            let s1 := s.modTrain j (fun _ => t1)
            let s2 := (z.singles.zipIdx).foldl (fun (x : State) q => x.repairPage j g (q.1, logs.getD q.2 [])) s1
            let s3 := s2.modTrain j (fun (t : Train) =>
              if t.rollback || t.bisect.any (fun (q : OpenRange) => q.1 == g.g.id) then t else t.cleanAt s jb.pt g.g.id)
            .next (s3.tallyStep j))
    | _, _ => .next s

end Sys2Proof.Machine
end

