-- ==== Sys2Proof/Machine/Dbg.lean ====
section
/-! DEFINITION. The debug port's transfers and requests (18). -/
namespace Sys2Proof.Machine

/-- The port works from the end of boot phase 1 until PWROK falls (chapter 18). -/
def State.dbgUp (s : State) : Bool := s.pwrok && s.cfgActive

/-- IDCODE (R466): STEPPING[3:0], PART of DEV_ID, 0x2D3, 1. -/
def State.idcode (s : State) : Nat := s.stepping % 16 * 2 ^ 28 + s.part.devId * 2 ^ 12 + 0x2D3 * 2 + 1

/-- Length and content of the data register that the TAP's instruction selects (R466): bypass for any that is not implemented. -/
def State.tapData (s : State) : Nat × Nat :=
  if s.dbg.ir = 0x01 then (32, s.idcode) else if s.dbg.ir = 0x20 then (512, s.dbg.dr.toNat) else (1, 0)

/-- Fields of a request (R467). -/
def reqOp (q : BitVec 512) : Nat := bits q.toNat 0 8
def reqArg (q : BitVec 512) : Nat := bits q.toNat 32 32
def reqAddr (q : BitVec 512) : Nat := bits q.toNat 64 64
def reqData (q : BitVec 512) : List Byte := toLE 32 (bits q.toNat 256 256)

/-- A response (R467): OP and TAG echoed, VALID, STATUS, RESULT, DATA. -/
def mkResp (q : BitVec 512) (status result : Nat) (data : List Byte) : BitVec 512 :=
  BitVec.ofNat 512 (bits q.toNat 0 16 + 2 ^ 16 + status % 2 ^ 16 * 2 ^ 32 + result % 2 ^ 64 * 2 ^ 64
    + leNat (fitBytes 32 data) * 2 ^ 256)

/-- Queue a response. -/
def State.answer (s : State) (q : BitVec 512) (status result : Nat) (data : List Byte) : State :=
  { s with dbg := { s.dbg with resps := s.dbg.resps ++ [mkResp q status result data] } }

/-- DBG_XFER_UPDATE (R467): a full queue of 16 answers ST_BUSY (log 37). -/
def execDbgXferUpdate (req : BitVec 512) (s : State) : Host.Outcome State Fault Refusal :=
  if !s.dbgUp then .next s
  else
    let s1 := { s with dbg := { s.dbg with ir := 0x20, dr := req } }
    if reqOp req = 0 then .next s1
    else if 16 ≤ s.dbg.reqs.length then .next (s1.answer req 0x0001 0 [])
    else .next { s1 with dbg := { s1.dbg with reqs := s1.dbg.reqs ++ [req] } }

/-- DBG_XFER_CAPTURE (R467): the oldest unread response, or zeros. -/
def execDbgXferCapture (s : State) : Host.Outcome State Fault Refusal :=
  if !s.dbgUp then .next s
  else match s.dbg.resps with
    | [] => .next { s with dbg := { s.dbg with ir := 0x20, dr := 0 } }
    | r :: rest => .next { s with dbg := { s.dbg with ir := 0x20, dr := r, resps := rest } }

/-- What one request asks for: OP, least level, which ARG bits, whether ADDR and DATA are used (R468). -/
structure DbgSpec where
  op : Nat
  level : Nat
  argBits : Nat
  addr : Bool
  data : Bool
  deriving DecidableEq, Repr

/-- Reserved bits of a request are zero. -/
def DbgSpec.clean (d : DbgSpec) (q : BitVec 512) : Bool :=
  bits q.toNat 16 16 == 0 && (reqArg q &&& d.argBits) == reqArg q && (d.addr || reqAddr q == 0)
    && bits q.toNat 128 128 == 0 && (d.data || bits q.toNat 256 256 == 0)

/-- What a request's own part answers: state, STATUS, RESULT, DATA. -/
abbrev DbgRes := State × Nat × Nat × List Byte

/-- The controller executes the oldest request when it is this one (R467, R468): below its level or with a reserved bit
it returns ST_BAD_FIELD. -/
def State.request (s : State) (d : DbgSpec) (body : BitVec 512 → State → DbgRes) : State :=
  match s.dbg.reqs with
  | [] => s
  | q :: rest =>
    if !s.dbgUp || reqOp q != d.op then s
    else
      let s1 := { s with dbg := { s.dbg with reqs := rest } }
      if s.dbg.level < d.level ∨ !d.clean q then s1.answer q 0x0003 0 []
      else
        let r := body q s1
        r.1.answer q r.2.1 r.2.2.1 r.2.2.2

/-- The level changes (R470): EV_DEBUG_UNLOCK; below 2 every unit resumes, breakpoints go and replay mode ends. -/
def State.setLevel (s : State) (n : Nat) : State :=
  if s.dbg.level = n then s
  else
    let d := if n < 2 then { s.dbg with
        level := n, haltCores := 0, haltC := 0, haltS := 0, haltCvr := false, grants := [], bps := [], replay := none }
      else { s.dbg with level := n }
    let s1 := { s with dbg := d }
    s1.post { s1.ev 0x0606 with srcType := 8, srcIndex := 0, arg0 := n }

/-- DBG_STATUS (R468). -/
def execDbgStatus (s : State) : Host.Outcome State Fault Refusal :=
  .next (s.request ⟨0x01, 0, 0, false, false⟩ (fun _ s =>
    (s, 0, s.dbg.level + 4 * b2n s.dbg.replay.isSome + 8 * b2n s.anyHalted + s.devState % 256 * 2 ^ 8
      + s.dbg.fails % 256 * 2 ^ 16, [])))

/-- DBG_CHALLENGE (R469): a fresh nonce; after 8 failures ST_STATE. -/
def execDbgChallenge (s : State) : Host.Outcome State Fault Refusal :=
  .next (s.request ⟨0x02, 0, 0, false, false⟩ (fun _ s =>
    if 8 ≤ s.dbg.fails then (s, 0x0016, 0, [])
    else
      let r := s.draw
      let n : BitVec 256 := r.1.setWidth 256
      ({ r.2 with dbg := { r.2.dbg with nonce := some n, pieces := [], pieceLevel := 0 } }, 0, s.serial, toLE 32 n.toNat)))

/-- The 45 signed bytes of an unlock (R469). -/
def unlockMessage (serial : Nat) (nonce : BitVec 256) (level : Nat) : List Byte :=
  [0x50#8, 0x5A#8, 0x44#8, 0x42#8] ++ toLE 8 serial ++ toLE 32 nonce.toNat ++ toLE 1 level

/-- The manifest whose ROOT_KEY signs unlocks: that of the bank booted or selected, once it has passed check 2 (R469). -/
def State.unlockKey (s : State) : Option Manifest :=
  match s.runningManifest with
  | some m => if m.authentic s.fuses && decide (3 ≤ max s.phaseReached.toNat (if s.phase = 0xF then 0 else s.phase.toNat))
      then some m else none
  | none => none

/-- DBG_UNLOCK_PIECE (R469): the sixteenth piece has the signature verified; the nonce is then spent. -/
def execDbgUnlockPiece (s : State) : Host.Outcome State Fault Refusal :=
  .next (s.request ⟨0x03, 0, 0x30F, false, true⟩ (fun q s =>
    let lv := bits (reqArg q) 8 2
    let i := bits (reqArg q) 0 4
    if s.setting 5 = 0 then (s, 0x0016, s.dbg.level, [])
    else if lv ≠ 1 ∧ lv ≠ 2 then (s, 0x0003, 0, [])
    else match s.unlockKey, s.dbg.nonce with
      | some m, some n =>
        let old := if s.dbg.pieceLevel = lv then s.dbg.pieces else []
        let ps := mset old i (reqData q)
        if ps.length < 16 then
          ({ s with dbg := { s.dbg with pieces := ps, pieceLevel := lv } }, 0, s.dbg.level, [])
        else
          let s1 := { s with dbg := { s.dbg with pieces := [], pieceLevel := 0, nonce := none } }
          let sig := ps.flatMap (fun p => p.2)
          if rsaVerify (beNat (m.rootKey.take 512)) (beNat (m.rootKey.drop 512)) (unlockMessage s.serial n lv) sig then
            (s1.setLevel lv, 0, lv, [])
          else ({ s1 with dbg := { s1.dbg with fails := s1.dbg.fails + 1 } }, 0x0013, s.dbg.level, [])
      | _, _ => (s, 0x0016, s.dbg.level, [])))

/-- DBG_LOCK (R470). -/
def execDbgLock (s : State) : Host.Outcome State Fault Refusal :=
  .next (s.request ⟨0x04, 1, 0, false, false⟩ (fun _ s =>
    if s.dbg.replay.any (fun (r : Replay) => r.running) then (s, 0x0001, 0, []) else (s.setLevel 0, 0, 0, [])))

/-- LEN and ADDR of an access are in range: LEN 4 … 32 in fours, ADDR aligned (R468). -/
def accessOk (q : BitVec 512) : Bool :=
  let n := reqArg q
  decide (4 ≤ n ∧ n ≤ 32) && n % 4 == 0 && reqAddr q % 4 == 0

/-- The debug controller as a reader (R413). -/
def dbgReader : Reader := ⟨8, 0, 0xFF, 0xFFFFFFFF, 1⟩

/-- Whether all bytes of a debug access lie in one reachable region (R471). -/
def State.dbgReach (s : State) (a n : Nat) : Bool :=
  decide (a + n ≤ 2 ^ 48) && (match regionOf s.part a, regionOf s.part (a + n - 1) with
    | .none, _ => false
    | _, .none => false
    | .host h, .host _ => s.hostUp h
    | _, _ => true)

/-- DBG_READ (R471, R472): an uncorrectable line gives its stored symbols and ST_FAULT, and is not marked. -/
def execDbgRead (f : Faults) (s : State) : Host.Outcome State Fault Refusal :=
  .next (s.request ⟨0x10, 1, 0x3F, true, false⟩ (fun q s =>
    let a := reqAddr q
    let n := reqArg q
    if !accessOk q then (s, 0x0003, 0, [])
    else if !s.dbgReach a n then (s, 0x000E, 0, [])
    else if regionOf s.part a = .regs then
      (s, 0, 0, (List.range (n / 4)).flatMap (fun k => toLE 4 (s.regRead (a + 4 * k))))
    else
      let ls := linesOf a n
      let t := { s.meet dbgReader f ls with marked := s.marked }
      (t, if (badLines s f ls).isEmpty then 0 else 0x000E, 0, s.bytes a n)))

/-- DBG_WRITE (R471, R472): registers by the arbiter, memory by the rules of whole and partial lines. -/
def execDbgWrite (f : Faults) (s : State) : Host.Outcome State Fault Refusal :=
  .next (s.request ⟨0x11, 2, 0x3F, true, true⟩ (fun q s =>
    let a := reqAddr q
    let n := reqArg q
    let d := (reqData q).take n
    if !accessOk q then (s, 0x0003, 0, [])
    else if !s.dbgReach a n then (s, 0x000E, 0, [])
    else if regionOf s.part a = .regs then
      ((List.range (n / 4)).foldl (fun (t : State) k => t.devWrite .debugPort (a + 4 * k) (fld d (4 * k) 4)) s, 0, 0, [])
    else (s.put dbgReader f a d, 0, 0, [])))

/-- The target that an ARG names (R473): none for a reserved type; the flag says whether it is present. -/
def State.target (s : State) (arg : Nat) : Option (HaltUnit × Bool) :=
  let i := bits arg 3 8
  match bits arg 0 3 with
  | 0 => some (.core i, decide (i < s.part.cores))
  | 1 => some (.cdie i, decide (i < s.part.cdies))
  | 2 => some (.serai i, decide (i < s.part.serais))
  | 3 => some (.cvr, decide (i < 4))
  | 7 => some (.all, true)
  | _ => none

/-- DBG_HALT (R473). -/
def execDbgHalt (s : State) : Host.Outcome State Fault Refusal :=
  .next (s.request ⟨0x20, 2, 0x7FF, false, false⟩ (fun q s =>
    match s.target (reqArg q) with
    | none => (s, 0x0003, 0, [])
    | some (u, ok) => if ok then (s.halt u, 0, 0, []) else (s, 0x0002, 0, [])))

/-- DBG_STEP (R473): a grant of one task or leg, or one instruction of the Caravaneer; a unit that is not halted is left
as it is (log 37). -/
def execDbgStep (s : State) : Host.Outcome State Fault Refusal :=
  .next (s.request ⟨0x21, 2, 0x7FF, false, false⟩ (fun q s =>
    match s.target (reqArg q) with
    | none => (s, 0x0003, 0, [])
    | some (u, ok) =>
      if u = .all then (s, 0x0003, 0, [])
      else if !ok then (s, 0x0002, 0, [])
      else if !s.halted u then (s, 0, 0, [])
      else if u = .cvr then ({ s with dbg := { s.dbg with cvrSteps := s.dbg.cvrSteps + 1 } }, 0, 0, [])
      else if s.granted u then (s, 0, 0, [])
      else ({ s with dbg := { s.dbg with grants := s.dbg.grants ++ [u.code] } }, 0, 0, [])))

/-- Resume a unit. -/
def State.unhalt (s : State) (u : HaltUnit) : State :=
  let d := { s.dbg with grants := s.dbg.grants.filter (fun (g : Nat × Nat) =>
    g != u.code && !(8 ≤ g.1 && u == HaltUnit.core (g.2 % 128))) }
  match u with
  | .core c => { s with dbg := { d with haltCores := d.haltCores &&& ~~~(BitVec.ofNat 128 (2 ^ c)) } }
  | .cdie n => { s with dbg := { d with haltC := d.haltC &&& ~~~(BitVec.ofNat 8 (2 ^ n)) } }
  | .serai n => { s with dbg := { d with haltS := d.haltS &&& ~~~(BitVec.ofNat 4 (2 ^ n)) } }
  | .cvr => { s with dbg := { d with haltCvr := false } }
  | .all => { s with dbg := { d with
      haltC := 0, haltS := 0, haltCvr := false, grants := d.grants.filter (fun (g : Nat × Nat) => g.1 == 1 || decide (8 ≤ g.1)) } }

/-- DBG_RESUME (R473). -/
def execDbgResume (s : State) : Host.Outcome State Fault Refusal :=
  .next (s.request ⟨0x22, 2, 0x7FF, false, false⟩ (fun q s =>
    match s.target (reqArg q) with
    | none => (s, 0x0003, 0, [])
    | some (u, ok) => if ok then (s.unhalt u, 0, 0, []) else (s, 0x0002, 0, [])))

/-- DBG_HALT_STATUS (R473). -/
def execDbgHaltStatus (s : State) : Host.Outcome State Fault Refusal :=
  .next (s.request ⟨0x23, 1, 0, false, false⟩ (fun _ s =>
    (s, 0, 0, toLE 16 s.dbg.haltCores.toNat ++ toLE 1 s.dbg.haltC.toNat ++ toLE 1 s.dbg.haltS.toNat
      ++ toLE 1 (b2n s.dbg.haltCvr))))

/-- A breakpoint record with its reserved bits zero (R475). -/
def parseBp (d : List Byte) : Option Bp :=
  let w := fld d 0 4
  let v := fld d 8 8
  let n := fld d 0x10 4
  let k := bits w 0 3
  if decide (1 ≤ k ∧ k ≤ 4) && bits w 6 2 == 0 && bits w 12 20 == 0 && bits v 48 16 == 0 && zeroBytes d 0x14 0x20
      && (k != 4 || (v % 64 == 0 && n % 64 == 0)) then
    some ⟨k, bit w 3, bit w 4, bit w 5, bits w 8 4, fld d 4 4, bits v 0 48, n, 0, ⟨0, 0⟩, 0, 0, 0, none⟩
  else none

/-- DBG_BP_SET (R475). -/
def execDbgBpSet (s : State) : Host.Outcome State Fault Refusal :=
  .next (s.request ⟨0x30, 2, 0x7, false, true⟩ (fun q s =>
    match parseBp (reqData q) with
    | none => (s, 0x0003, 0, [])
    | some b => ({ s with dbg := { s.dbg with bps := mset s.dbg.bps (reqArg q) b } }, 0, 0, [])))

/-- DBG_BP_CLEAR (R475). -/
def execDbgBpClear (s : State) : Host.Outcome State Fault Refusal :=
  .next (s.request ⟨0x31, 2, 0x7, false, false⟩ (fun q s =>
    ({ s with dbg := { s.dbg with bps := merase s.dbg.bps (reqArg q) } }, 0, 0, [])))

/-- DBG_BP_HIT (R475): count and last hit, in the layout of log 37; a slot not set answers zeros. -/
def execDbgBpHit (s : State) : Host.Outcome State Fault Refusal :=
  .next (s.request ⟨0x32, 1, 0x7, false, false⟩ (fun q s =>
    match mget s.dbg.bps (reqArg q) with
    | none => (s, 0, 0, [])
    | some b => (s, 0, b.hits, toLE 8 b.hitTime.stage ++ toLE 4 b.hitTime.offset ++ toLE 4 b.hitSrc ++ toLE 4 b.hitTask
        ++ zeros 4 ++ toLE 8 b.hitAddr)))

/-- Replay state for a job's log. -/
def Replay.enter (job va pages : Nat) : Replay := ⟨job, va, pages, 0, false, [], [], [], false, false, 0xFFFFFFFF⟩

/-- DBG_REPLAY_ENTER (R478). -/
def execDbgReplayEnter (s : State) : Host.Outcome State Fault Refusal :=
  .next (s.request ⟨0x40, 2, 0xFFFFF, true, false⟩ (fun q s =>
    let j := bits (reqArg q) 0 4
    let n := bits (reqArg q) 4 16
    if 2 ^ 44 ≤ reqAddr q then (s, 0x0003, 0, [])
    else match s.job j with
      | some jb =>
        if s.dom.joined || s.jobs.length != 1 || !jb.queue.isEmpty || jb.run.isSome || s.dbg.replay.isSome then
          (s, 0x0016, 0, [])
        else ({ s with dbg := { s.dbg with replay := some (.enter j (reqAddr q) n) } }, 0, 0, [])
      | none => (s, 0x0016, 0, [])))

/-- DBG_REPLAY_EXIT (R481): outside replay mode ST_STATE (log 37). -/
def execDbgReplayExit (s : State) : Host.Outcome State Fault Refusal :=
  .next (s.request ⟨0x41, 2, 0, false, false⟩ (fun _ s =>
    match s.dbg.replay with
    | none => (s, 0x0016, 0, [])
    | some r => if r.running then (s, 0x0001, 0, []) else ({ s with dbg := { s.dbg with replay := none } }, 0, 0, [])))

/-- The DATA of REPLAY_STATUS (R481). -/
def Replay.status (r : Replay) : List Byte :=
  toLE 4 r.step ++ toLE 4 (b2n r.running + r.divColl.length % 2 ^ 16 * 2 ^ 16) ++ toLE 4 r.divBatch.length
    ++ toLE 4 (b2n r.divTally + 2 * b2n r.divHead) ++ toLE 4 r.stopped

/-- DBG_REPLAY_STATUS (R481): outside replay mode ST_STATE (log 37). -/
def execDbgReplayStatus (s : State) : Host.Outcome State Fault Refusal :=
  .next (s.request ⟨0x42, 1, 0, false, false⟩ (fun _ s =>
    match s.dbg.replay with
    | none => (s, 0x0016, 0, [])
    | some r => (s, 0, 0, r.status)))

/-- OPs of the table "Debug requests". -/
def dbgOps : List Nat :=
  [0x01, 0x02, 0x03, 0x04, 0x10, 0x11, 0x20, 0x21, 0x22, 0x23, 0x30, 0x31, 0x32, 0x40, 0x41, 0x42]

/-- DBG_RESERVED_OP (R468): ST_BAD_FIELD and no effect. -/
def execDbgReservedOp (s : State) : Host.Outcome State Fault Refusal :=
  match s.dbg.reqs with
  | [] => .next s
  | q :: rest =>
    if !s.dbgUp || dbgOps.contains (reqOp q) then .next s
    else .next (({ s with dbg := { s.dbg with reqs := rest } } : State).answer q 0x0003 0 [])

end Sys2Proof.Machine
end

