-- ==== Sys2Proof/Machine/Fabric.lean ====
section
/-! DEFINITION. Frames that a port receives, transactions, and control frames (11, R281–R283, R299–R304). -/
namespace Sys2Proof.Machine

/-- Where a request of another device goes, or the reason of its refusal (R303). A page of the window that is not mapped counts
as no window (log 38). -/
def State.fabTarget (s : State) (fr : Frame) (len : Nat) (perm : Window → Bool) : Except Nat (Nat × Job × Nat) :=
  match s.tagged fr.tag.toNat with
  | none => .error 1
  | some (j, jb) => match mget jb.windows fr.window.toNat with
    | none => .error 2
    | some w =>
      let va := w.base + fr.offset.toNat
      if w.pages * 2 ^ 21 < fr.offset.toNat + len then .error 3
      else if !perm w then .error 4
      else if !s.jobReach jb.pt va len then .error 2
      else .ok (j, jb, va)



/-- A region for the images of a device is reserved here (R346). -/
def State.hostsImages (s : State) (owner : Nat) : Bool := s.ways.any (fun p => p.1 / 65536 == owner)

/-- FRAME_WRITE (R303, R304, R399): the payload lands whole, marked where it carries uncorrectability. With JOB_TAG 0 it copies a waystation
image (R289, R348): its place in the region is the firmware's, and no row reads it there (log 49). -/
def execFrameWrite (fr : Frame) (s : State) : Host.Outcome State Fault Refusal :=
  .next (if fr.typ ≠ 0 then s else s.receive fr (fun s =>
    if fr.tag = 0 ∧ s.hostsImages fr.src.toNat = true then s.reply fr 1 0 false (zeros 64)
    else match s.fabTarget fr fr.payload.length Window.write with
    | .error e => s.nack fr e
    | .ok (j, jb, va) =>
      let s1 := s.jobPut j va fr.payload
      let s2 := if fr.poison then (jobLines jb.pt va fr.payload.length).foldl (fun (t : State) l => t.mark l) s1 else s1
      s2.reply fr 1 0 false (zeros 64)))

/-- FRAME_READ (R303, R399, R406). -/
def execFrameRead (fr : Frame) (f : Faults) (s : State) : Host.Outcome State Fault Refusal :=
  .next (if fr.typ ≠ 2 then s else s.receive fr (fun s =>
    let n := fld fr.payload 0 2
    if n = 0 ∨ 8 < n then s.nack fr 3
    else match s.fabTarget fr (64 * n) Window.read with
      | .error e => s.nack fr e
      | .ok (j, jb, va) =>
        let ls := jobLines jb.pt va (64 * n)
        let bad := !(badLines s f ls).isEmpty
        let s1 := s.meet ⟨3, fr.port.toNat / 16, j, 0xFFFFFFFF, 1⟩ f ls
        s1.reply fr 3 0 bad (if bad then zeros (64 * n) else jobBytes s jb.pt va (64 * n))))

/-- FRAME_SIGNAL (R68, R69, R303): OFFSET names a counter, so no range is checked. -/
def execFrameSignal (fr : Frame) (s : State) : Host.Outcome State Fault Refusal :=
  .next (if fr.typ ≠ 4 then s else s.receive fr (fun s =>
    match s.tagged fr.tag.toNat with
    | none => s.nack fr 1
    | some (j, jb) => match mget jb.windows fr.window.toNat with
      | none => s.nack fr 2
      | some w =>
        if !w.signal then s.nack fr 4
        else (s.bump noFaults j (fr.offset.toNat % 4096)).reply fr 5 0 false (zeros 64)))

/-- FRAME_WRITE_ACK (R304). -/
def execFrameWriteAck (fr : Frame) (s : State) : Host.Outcome State Fault Refusal :=
  .next (if fr.typ ≠ 1 then s else s.receive fr (fun s =>
    match s.endTxn fr with
    | none => s
    | some (x, s1) => match x.use_ with
      | .write j t => s1.movAnswered j t
      | .way j n => s1.wayAnswered j n
      | _ => s1))

/-- FRAME_SIGNAL_ACK (R281). -/
def execFrameSignalAck (fr : Frame) (s : State) : Host.Outcome State Fault Refusal :=
  .next (if fr.typ ≠ 5 then s else s.receive fr (fun s =>
    match s.endTxn fr with
    | none => s
    | some (_, s1) => s1))

/-- FRAME_READ_DATA (R304, R399): the bytes land in tile store, as uncorrectable lines where POISON is set. -/
def execFrameReadData (fr : Frame) (s : State) : Host.Outcome State Fault Refusal :=
  .next (if fr.typ ≠ 3 then s else s.receive fr (fun s =>
    match s.endTxn fr with
    | none => s
    | some (x, s1) => match x.use_ with
      | .read j t a n => (match s1.engOf j t with
          | none => s1
          | some e =>
            let d := fitBytes n fr.payload
            let w : Writes := (d.zipIdx).map (fun p => (a + p.2, p.1))
            let s2 := s1.moveWrite e noFaults w (if fr.poison then linesOf a n else [])
            let s3 := if fr.poison then s2.modTask j t (fun y => match y.eng with
                | .mov m => { y with eng := .mov { m with psn := true } }
                | _ => y) else s2
            s3.movAnswered j t)
      | _ => s1))

/-- A transfer's request has failed: the task fails, or the collective does (R301, R303, R330). -/
def State.txnFail (s : State) (x : Txn) (e : EventRec) : State :=
  match x.use_ with
  | .write j t => s.taskFault j t 0x000E (some { e with
      cls := 1, job := j, task := t, status := 0x000E
      srcType := (((s.taskOf j t).map TaskRun.src).getD (0, 0)).1, srcIndex := (((s.taskOf j t).map TaskRun.src).getD (0, 0)).2 })
  | .read j t _ _ => s.taskFault j t 0x000E (some { e with
      cls := 1, job := j, task := t, status := 0x000E
      srcType := (((s.taskOf j t).map TaskRun.src).getD (0, 0)).1, srcIndex := (((s.taskOf j t).map TaskRun.src).getD (0, 0)).2 })
  | .coll j t => s.collTxnFail j t x.dest e
  | .way j n => s.wayLost j n e

/-- FRAME_TXN_NACK (R303, R330). -/
def execFrameTxnNack (fr : Frame) (s : State) : Host.Outcome State Fault Refusal :=
  .next (if fr.typ ≠ 6 then s else s.receive fr (fun s =>
    match s.endTxn fr with
    | none => s
    | some (x, s1) => s1.txnFail x { s1.ev 0x0509 with arg0 := x.dest, arg1 := fr.offset.toNat }))

/-- FRAME_SERVICE (R281, R289): firmware messages change nothing that the manual names; a job's tag has no place here. -/
def execFrameService (fr : Frame) (s : State) : Host.Outcome State Fault Refusal :=
  .next (if fr.typ ≠ 10 then s else s.receive fr (fun s => if fr.tag = 0 then s else s.reject fr.port.toNat))

/-- FRAME_RESERVED_TYPE (R281): discarded and counted; it is not forwarded either. -/
def execFrameReservedType (fr : Frame) (s : State) : Host.Outcome State Fault Refusal :=
  .next (if fr.typ ≠ 7 ∧ fr.typ.toNat < 11 then s
    else s.receive { fr with dest := BitVec.ofNat 16 s.dom.deviceId } (fun s => s.reject fr.port.toNat))

/-- TRANSACTION_TIMEOUT (R301): no answer has come for 2 s; the tag is not used again for 2 s. -/
def execTransactionTimeout (txn : BitVec 15) (s : State) : Host.Outcome State Fault Refusal :=
  match s.dom.txns.find? (fun (x : Txn) => x.tag == txn.toNat) with
  | none => .next s
  | some x =>
    if !(s.live && decide (x.at_ + 2 * secondCycles ≤ s.now)) then .next s
    else
      let s1 : State := { s with dom := { s.dom with
        txns := s.dom.txns.filter (fun (y : Txn) => y.tag != x.tag)
        quarantine := mset s.dom.quarantine x.tag (s.now + 2 * secondCycles) } }
      .next (s1.txnFail x { s1.ev 0x0508 with arg0 := x.dest, arg1 := x.tag })

/-- The frames that a port holds for sending go (R301); a transit frame's buffer on its ingress port is free (R302). -/
def State.dropHeld (s : State) (k : Nat) : State :=
  let p := s.port k
  let s1 := s.setPort k { p with waiting := [], unacked := [], stallFrom := none, creditStall := p.stalledTo s.now }
  p.waiting.foldl (fun (t : State) w => t.freeIngress w.2.1 w.2.2) s1

/-- PORT_DOWN_DISCARD (R301): the port has not been UP for more than 1 s since it went DOWN (log 50). -/
def execPortDownDiscard (port : BitVec 6) (s : State) : Host.Outcome State Fault Refusal :=
  if s.live && (s.port port.toNat).downAt.any (fun t => decide (t + secondCycles < s.now)) then .next (s.dropHeld port.toNat) else .next s

/-- FABRIC_STALL_DETECT (R299): some frame of the class and lane has waited for credits for 10 stages. -/
def execFabricStallDetect (port : BitVec 6) (cls : BitVec 2) (vl : Bool) (s : State) : Host.Outcome State Fault Refusal :=
  if s.live && (s.port port.toNat).waiting.any (fun w =>
      w.2.2.cls == cls && w.2.2.vl == vl && w.1.any (fun g => decide (g + 10 ≤ s.stage))) then
    .next (s.post { s.portEv 0x0506 port.toNat with arg0 := cls.toNat, arg1 := b2n vl })
  else .next s

/-! ### Control frames -/

/-- A control frame is received (R283): the full number is the one with these low bits nearest above the last accepted. -/
def State.receiveCtl (s : State) (c : CtrlFrame) (f : State → State) : State :=
  let k := c.port.toNat
  let p := s.port k
  if !(s.live && (p.st == .up || p.st == .narrowing || (p.st == .training && p.phase == 5))) then s
  else
    let n := p.ctlRx + (c.ccount.toNat + 2 ^ 32 - p.ctlRx % 2 ^ 32) % 2 ^ 32
    f (s.setPort k { p with ctlRx := n + 1 })

/-- CTRL_IDLE (R283). -/
def execCtrlIdle (c : CtrlFrame) (s : State) : Host.Outcome State Fault Refusal := .next (s.receiveCtl c (fun s => s))

/-- CTRL_ACK (R282): frames up to VALUE are released; a number not yet sent says nothing. In phase 5 it is the peer's first ACK (R293). -/
def execCtrlAck (c : CtrlFrame) (s : State) : Host.Outcome State Fault Refusal :=
  .next (s.receiveCtl c (fun s => s.modPort c.port.toNat (fun p =>
    if p.st == .training then { p with peerAck := true }
    else if p.txSeq ≤ c.value.toNat then p
    else { p with unacked := p.unacked.filter (fun u => decide (c.value.toNat < u.1)) })))

/-- CTRL_NAK (R282): the frames from VALUE on leave again; all are kept until an ACK covers them. -/
def execCtrlNak (c : CtrlFrame) (s : State) : Host.Outcome State Fault Refusal :=
  .next (s.receiveCtl c (fun s => s.modPort c.port.toNat (fun p =>
    if p.st == .training || decide (p.txSeq < c.value.toNat) then p
    else
      let again (u : Nat × Frame) : Bool := decide (c.value.toNat ≤ u.1)
      let rest := p.unacked.filter again
      { p with
        unacked := p.unacked.map (fun u => if again u then (u.1, s.leaving u.2) else u)
        t1 := rest.foldl (fun t u => s.departed { p with t1 := t } u.2) p.t1
        retrans := cap32 (p.retrans + rest.length) })))

/-- CTRL_CREDIT (R283, R302): the difference from the previous total refills the reserve, then the shared pool. -/
def execCtrlCredit (c : CtrlFrame) (s : State) : Host.Outcome State Fault Refusal :=
  .next (s.receiveCtl c (fun s =>
    if c.cls = 3 then s
    else
      let key := laneKey c.cls.toNat c.vl
      (s.modPort c.port.toNat (fun p =>
        let d := (c.value.toNat + 2 ^ 64 - mgetD p.creditIn key 0 % 2 ^ 64) % 2 ^ 64
        let r := mgetD p.reserve key 0
        let fill := min d (256 - r)
        { p with creditIn := mset p.creditIn key c.value.toNat, reserve := mset p.reserve key (r + fill), shared := p.shared + (d - fill) })).pump
          c.port.toNat))

/-- Begin to narrow to a set (R294): EV_FABRIC_PORT on entry, EV_FABRIC_NARROW. `tries` are this end's own requests, 0 where it only answers. -/
def State.narrow (s : State) (k : Nat) (lam : BitVec 4) (tries : Nat) : State :=
  let s1 := if (s.port k).st == .up then s.portTo k .narrowing else s
  let s2 := s1.modPort k (fun p => { p with narrowTo := lam, narrowTries := tries, narrowAgreed := false })
  s2.post { s2.portEv 0x0502 k with arg0 := lam.toNat }

/-- This end's own request is open (R283, R294). -/
def Port.asks (p : Port) : Bool := p.st == .narrowing && p.narrowTries != 0

/-- Wavelengths still healthy after a peer's request (R294): what it leaves out of the set in use is lost to it, what the new set holds is
healthy (DEDUCED, log 50). -/
def Port.okAfter (p : Port) (asked set : BitVec 4) : BitVec 4 :=
  (p.lambdaOk &&& ~~~((if p.st == .narrowing then p.narrowTo else p.lambdaUsed) &&& ~~~asked)) ||| set

/-- CTRL_NARROW (R283, R294): a request is answered with the set it names, or, where this end asks too, with the set that neither request
leaves out; an end that asks goes on asking until an answer with its set comes. -/
def execCtrlNarrow (c : CtrlFrame) (s : State) : Host.Outcome State Fault Refusal :=
  .next (s.receiveCtl c (fun s =>
    let k := c.port.toNat
    let p := s.port k
    if !(p.st == .up || p.st == .narrowing) || c.lambdaNew == 0 then s
    else if c.reply then
      (if p.asks && p.narrowTo == c.lambdaNew then s.modPort k (fun p => { p with narrowAgreed := true }) else s)
    else
      let set := if p.asks then lambdaPick (p.narrowTo &&& c.lambdaNew) else c.lambdaNew
      if set = 0 then s.portTo k .down
      else
        let s1 := if p.st == .up || p.narrowTo != set then s.narrow k set (if p.asks then p.narrowTries else 0) else s
        (s1.modPort k (fun q => { q with
          lambdaOk := p.okAfter c.lambdaNew set
          narrowAgreed := q.narrowAgreed || !p.asks })).sendCtl k 4 0 false true set 0))

/-- CONTROL_FRAME_RESEND (R283): totals again, a NAK while the sequence lacks, a NARROW request until its answer; after 8
the port goes DOWN. -/
def execControlFrameResend (port : BitVec 6) (ctype : BitVec 4) (s : State) : Host.Outcome State Fault Refusal :=
  let k := port.toNat
  let p := s.port k
  if !(s.live && (p.st == .up || p.st == .narrowing)) then .next s
  else match ctype.toNat with
    | 1 => .next (s.sendAck k)
    | 2 => .next (if (mget p.ctlOut 2).isSome then s.sendNak k else s)
    | 3 => .next (p.creditOut.foldl (fun (t : State) y => t.sendCtl k 3 (y.1 / 2) (y.1 % 2 == 1) false 0 (y.2 % 2 ^ 64)) s)
    | 4 =>
      if p.asks && !p.narrowAgreed then
        if 8 ≤ p.narrowTries then .next (s.portTo k .down)
        else .next ((s.modPort k (fun p => { p with narrowTries := p.narrowTries + 1 })).sendCtl k 4 0 false false p.narrowTo 0)
      else .next s
    | _ => .next s



/-- DATA_FRAME_RECEIVE_FAIL (R282, R287): discarded, and a NAK names the first sequence lacking. -/
def execDataFrameReceiveFail (port : BitVec 6) (tagFail : Bool) (s : State) : Host.Outcome State Fault Refusal :=
  let k := port.toNat
  if !(s.live && (s.port k).st == .up) then .next s
  else
    .next ((if tagFail then s.tagFailed k else s).sendNak k)

/-- CONTROL_FRAME_DISCARD (R283, R287). -/
def execControlFrameDiscard (port : BitVec 6) (tagFail : Bool) (s : State) : Host.Outcome State Fault Refusal :=
  let k := port.toNat
  let p := s.port k
  if !(s.live && (p.st == .up || p.st == .narrowing || (p.st == .training && p.phase == 5))) then .next s
  else .next (if tagFail then s.tagFailed k else s.reject k)

/-- CODEWORD_UNCORRECTABLE (R278, R294, R310). -/
def execCodewordUncorrectable (port : BitVec 6) (wave : BitVec 2) (s : State) : Host.Outcome State Fault Refusal :=
  let k := port.toNat
  let p := s.port k
  if !(s.live && (p.st == .up || p.st == .narrowing) && p.lambdaUsed.getLsbD wave.toNat) then .next s
  else .next (s.setPort k { p with
    fecUnc := cap32 (p.fecUnc + 1), uncStage := mset p.uncStage wave.toNat (mgetD p.uncStage wave.toNat 0 + 1) })

/-- WAVELENGTH_FAIL (R294): a wavelength in use that fails narrows the port, or takes it DOWN where none is left. -/
def execWavelengthFail (port : BitVec 6) (wave : BitVec 2) (s : State) : Host.Outcome State Fault Refusal :=
  let k := port.toNat
  let p := s.port k
  if !(s.live && (p.st == .up || p.st == .narrowing) && p.lambdaOk.getLsbD wave.toNat) then .next s
  else
    let ok := p.lambdaOk &&& ~~~(BitVec.ofNat 4 (2 ^ wave.toNat))
    let s1 := s.setPort k { p with lambdaOk := ok }
    let used := if p.st == .narrowing then p.narrowTo else p.lambdaUsed
    if !used.getLsbD wave.toNat then .next s1
    else if lambdaPick ok = 0 then .next (s1.portTo k .down)
    else .next ((s1.narrow k (lambdaPick ok) 1).sendCtl k 4 0 false false (lambdaPick ok) 0)

/-- NARROW_COMPLETE (R294): both ends run the new set; the receiver names its first missing sequence. -/
def execNarrowComplete (port : BitVec 6) (s : State) : Host.Outcome State Fault Refusal :=
  let k := port.toNat
  let p := s.port k
  if !(s.live && p.st == .narrowing && p.narrowAgreed) then .next s
  else
    let s1 := s.setPort k { p with lambdaUsed := p.narrowTo, narrowTo := 0, narrowTries := 0, narrowAgreed := false }
    .next (((s1.portTo k .up).sendNak k).pump k)

/-- PORT_AUTH_DOWN (R287). -/
def execPortAuthDown (port : BitVec 6) (s : State) : Host.Outcome State Fault Refusal :=
  let k := port.toNat
  let p := s.port k
  if !(s.live && (p.st == .up || p.st == .narrowing) && decide (64 < p.tagStage) && p.uncStage.isEmpty) then .next s
  else
    let s1 := s.portTo k .down
    .next (s1.post { s1.portEv 0x0503 k with arg0 := p.tagStage })

end Sys2Proof.Machine
end

