-- ==== Sys2Proof/Machine/FabricTime.lean ====
section
/-! DEFINITION. The stage clock across a domain, key and route switches, port training (11, R284–R295, R305–R309). -/
namespace Sys2Proof.Machine

/-! ### The stage clock -/

/-- A timestamp in cycles, with the period in force at its stage (R306). -/
def State.cyclesOf (s : State) (t : Stamp) : Int :=
  (t.stage * ((if t.stage < s.periodFrom then s.periodWas else s.period) * 850) + t.offset : Nat)

/-- TIME payload (R306); the port writes T3 and ROOT_STAGE as the frame leaves. -/
def State.timePayload (s : State) (msg exchange : Nat) (t2 : List Byte) : List Byte :=
  let d := s.dom
  let root := d.timekeeper == d.deviceId
  toLE 4 msg ++ toLE 4 exchange ++ t2 ++ zeros 12
    ++ toLE 4 (d.timekeeper % 2 ^ 13 + (if root then 0 else min d.hops 15) * 2 ^ 16 + b2n (root || d.locked) * 2 ^ 20
      + b2n d.holdover * 2 ^ 21)
    ++ toLE 4 ((d.announce.map Prod.fst).getD 0) ++ toLE 8 ((d.announce.map Prod.snd).getD 0) ++ zeros 16

/-- Send a TIME frame on the link it serves (R306). -/
def State.sendTime (s : State) (k : Nat) (payload : List Byte) : State :=
  s.sendBy k false ⟨0, BitVec.ofNat 16 (s.port k).peerId, BitVec.ofNat 16 s.dom.deviceId, 0, 0, false, s.dom.epoch, s.dom.kgen, 9,
    false, 0, 0, 0, 576, payload⟩

/-- A REQUEST on one link (R306): the port records t1 as it leaves. -/
def State.timeAsk (s : State) (k : Nat) : State :=
  let n := ((s.port k).exchange + 1) % 2 ^ 32
  (s.modPort k (fun p => { p with t1 := none, exchange := n })).sendTime k (s.timePayload 1 n (zeros 12))

/-- Each stage a follower sends a REQUEST on its time ports that are UP (R305, R306): so it also learns which peers are locked (DESIGN
CHOICE, log 50). -/
def State.timeExchange (s : State) : State :=
  if s.follower then (s.dom.timePorts.filter (fun k => (s.port k).st == .up)).foldl State.timeAsk s else s

/-- What a TIME frame says of its sender (R305, R306): locked to the timekeeper that this device follows. -/
def State.hearLock (s : State) (fr : Frame) : State :=
  let w := fld fr.payload 0x20 4
  s.modPort fr.port.toNat (fun p => { p with peerLocked := some (bit w 20 && bits w 0 13 == s.dom.timekeeper) })

/-- TIME_REQUEST (R306): stamped t2 on arrival; the RESPONSE carries it. -/
def execTimeRequest (fr : Frame) (s : State) : Host.Outcome State Fault Refusal :=
  .next (if fr.typ ≠ 9 ∨ fld fr.payload 0 1 ≠ 1 then s else s.receive fr (fun s =>
    (s.hearLock fr).sendTime fr.port.toNat (s.timePayload 2 (fld fr.payload 4 4) s.stamp.bytes)))

/-- 10 µs in cycles, the largest error that is slewed (R307). -/
def slewLimit : Int := 8500

/-- A measured correction is taken (R305, R307): slewed, or one step at the next tick; ±17 cycles (±20 ns) is locked (log 50). -/
def Domain.correct (d : Domain) (c : Int) : Domain :=
  if c.natAbs ≤ slewLimit.natAbs then { d with phaseErr := c, locked := decide (c.natAbs ≤ 17), holdover := false }
  else { d with stepErr := c, phaseErr := 0, locked := false, holdover := false }

/-- What one exchange measures (R305, R306), in cycles: the round trip, the correction of the tick phase, and how far the domain's stage
clock, ROOT_STAGE and the offset of T3 with the way here, is ahead of this device's (R309, DEDUCED, log 50). -/
def State.measure (s : State) (t1 : Stamp) (b : List Byte) : Nat × Int × Int :=
  let t2 := s.cyclesOf (readStamp (b.drop 8))
  let t3 := s.cyclesOf (readStamp (b.drop 0x14))
  let a := s.cyclesOf t1
  let t4 := s.cyclesOf s.stamp
  let rtt := ((t4 - a) - (t3 - t2)).toNat
  let root : Stamp := { readStamp (b.drop 0x14) with stage := bits (fld b 0x30 8) 0 48 }
  (rtt, ((t2 - a) - (t4 - t3)) / 2, s.cyclesOf root + rtt / 2 - t4)

/-- The RESPONSE of the time port that a follower follows (R305, R307, R309): hops and the announcement; the correction. A device in holdover
whose stage is off by more than half a stage is lost: it stays in holdover until it joins again. -/
def State.follow (s : State) (b : List Byte) (raw ahead : Int) : State :=
  let np := bits (fld b 0x24 4) 0 14
  let ps := bits (fld b 0x28 8) 0 48
  let per : Int := s.periodCycles
  let d0 := { s.dom with
    hops := bits (fld b 0x20 4) 16 4 + 1, announce := if np ≠ 0 ∧ s.stage < ps then some (np, ps) else s.dom.announce }
  if s.dom.lost then s
  else if s.dom.renumber then { s with dom := d0.correct ((raw + per / 2) % per - per / 2) }
  else if s.dom.holdover ∧ per < 2 * (ahead.natAbs : Int) then
    ({ s with dom := { s.dom with lost := true } } : State).post
      { s.ev 0x050C with arg0 := unsgn 64 ((bits (fld b 0x30 8) 0 48 : Int) - s.stage) }
  else { s with dom := d0.correct raw }

/-- TIME_RESPONSE (R305–R307, R309): t4 and the round trip; the follower takes the first of its ports whose peer is locked, and
its correction where this is that port. -/
def execTimeResponse (fr : Frame) (s : State) : Host.Outcome State Fault Refusal :=
  .next (if fr.typ ≠ 9 ∨ fld fr.payload 0 1 ≠ 2 then s else s.receive fr (fun s =>
    let k := fr.port.toNat
    let p := s.port k
    match p.t1 with
    | none => s
    | some t1 =>
      if !(s.follower && s.dom.timePorts.contains k && fld fr.payload 4 4 == p.exchange) then s
      else
        let m := s.measure t1 fr.payload
        let s1 := ((s.setPort k { p with t1 := none, rttNs := cap32 (m.1 * 1000 / 850) }).hearLock fr).chooseTime
        if s1.dom.inUse = some k then s1.follow fr.payload m.2.1 m.2.2 else s1))

/-- A new period is in force from the present stage on (R58, R306–R308). -/
def State.setPeriod (s : State) (us : Nat) : State := { s with period := us, periodWas := s.period, periodFrom := s.stage }

/-- STAGE_RENUMBER (R60, R308): a joining device whose time port is UP and whose phase is locked takes the timekeeper's stage number and
period at its first aligned tick. Exchanges under way, in the old numbers, say nothing more. -/
def execStageRenumber (stage : BitVec 48) (periodUs : BitVec 14) (s : State) : Host.Outcome State Fault Refusal :=
  if !(s.live && s.follower && s.dom.renumber && s.dom.locked && s.dom.inUse.any (fun k => (s.port k).st == .up) && s.jobs.isEmpty
      && decide (25 ≤ periodUs.toNat ∧ periodUs.toNat ≤ 10000)) then .next s
  else
    let s1 : State := ({ s with
      stage := stage.toNat, offset := 0, dom := { s.dom with renumber := false }
      ports := s.ports.map (fun (p : Nat × Port) => (p.1, { p.2 with t1 := none })) } : State).setPeriod periodUs.toNat
    .next (s1.post { s1.ev 0x0103 with arg0 := s.stage, arg1 := stage.toNat })

/-- PERIOD_CHANGE (R59, R307): at the tick that begins the announced stage. -/
def execPeriodChange (s : State) : Host.Outcome State Fault Refusal :=
  match s.dom.announce with
  | none => .next s
  | some (us, g) =>
    if !(s.live && s.dom.joined && decide (g ≤ s.stage)) then .next s
    else
      let s1 : State := ({ s with dom := { s.dom with announce := none } } : State).setPeriod us
      .next (s1.completeBoth (fun (o : OpenCmd) => if o.kind = OpenKind.period then some (0, 0) else none))

/-! ### Keys, routes, timekeeper -/

/-- The open switch commands of an opcode whose stage has come complete (R364). -/
def State.endSwitch (s : State) (op : Nat) : State :=
  s.completeBoth (fun (o : OpenCmd) => match o.kind with
    | .stageAt g => if o.op = op ∧ g ≤ s.stage then some (0, 0) else none
    | _ => none)

/-- KEY_SWITCH (R285, R288): every link derives its keys from the other generation; without a key the ports are refused. -/
def execKeySwitch (s : State) : Host.Outcome State Fault Refusal :=
  match s.dom.keyAt with
  | none => .next s
  | some g =>
    if !(s.live && decide (g ≤ s.stage)) then .next s
    else
      let k := !s.dom.kgen
      let s1 : State := { s with dom := { s.dom with kgen := k, keyAt := none, eraseAt := some (g + 2) } }
      let up := (s1.ports.filter (fun (p : Nat × Port) => p.2.st == .up || p.2.st == .narrowing)).map Prod.fst
      let s2 := if (s1.dom.key k).isSome then
          up.foldl (fun (t : State) n => (t.modPort n (fun p => { p with rxOld := p.rxKey })).deriveKeys n k) s1
        else up.foldl (fun (t : State) n => t.portRefuse n 2) s1
      .next (s2.endSwitch 0x0504)

/-- KEY_OLD_ERASE (R288): the old slot, and what the links still hold of it. -/
def execKeyOldErase (s : State) : Host.Outcome State Fault Refusal :=
  match s.dom.eraseAt with
  | none => .next s
  | some g =>
    if !(s.live && decide (g ≤ s.stage)) then .next s
    else .next { s with
      dom := if s.dom.kgen then { s.dom with eraseAt := none, key0 := none } else { s.dom with eraseAt := none, key1 := none }
      ports := s.ports.map (fun (p : Nat × Port) => (p.1, { p.2 with rxOld := [] })) }

/-- ROUTE_SWITCH (R298). -/
def execRouteSwitch (s : State) : Host.Outcome State Fault Refusal :=
  match s.dom.routeAt with
  | none => .next s
  | some g =>
    if !(s.live && decide (g ≤ s.stage)) then .next s
    else .next (({ s with dom := { s.dom with epoch := !s.dom.epoch, routeAt := none } } : State).endSwitch 0x0507)

/-- A device takes a new timekeeper and time ports (R309): which peers are locked to it is not known yet. -/
def State.newTimekeeper (s : State) (tk : Nat) (tps : List Nat) : State :=
  let s1 : State := { s with
    dom := { s.dom with timekeeper := tk, timePorts := tps, tkAt := none }
    ports := s.ports.map (fun (p : Nat × Port) => (p.1, { p.2 with peerLocked := none })) }
  if tk = s.dom.deviceId then
    { s1 with dom := { s1.dom with inUse := none, hops := 0, locked := true, holdover := false, lost := false } }
  else match s1.nextTimePort with
    | some n => { s1 with dom := { s1.dom with inUse := some n } }
    | none =>
      let s2 : State := { s1 with dom := { s1.dom with inUse := none, holdover := true, locked := false } }
      if s.dom.holdover then s2 else s2.post (s2.ev 0x050B)

/-- TIMEKEEPER_SWITCH (R309, R364): no device renumbers. A switch that FABRIC_JOIN or FABRIC_LEAVE has overtaken changes nothing; its command
completes at its stage all the same (log 50). -/
def execTimekeeperSwitch (s : State) : Host.Outcome State Fault Refusal :=
  if !s.live then .next s
  else match s.dom.tkAt with
    | none => .next (s.endSwitch 0x0508)
    | some (tk, tps, g) => .next ((if g ≤ s.stage then s.newTimekeeper tk tps else s).endSwitch 0x0508)

/-! ### Training -/

/-- PORT_LIGHT_SAMPLE (R290). -/
def execPortLightSample (port : BitVec 6) (light : Bool) (s : State) : Host.Outcome State Fault Refusal :=
  if s.live && light && (s.port port.toNat).st == .dark then .next (s.portTrain port.toNat) else .next s

/-- REFUSED_RETRY (R290): every 10 s. -/
def execRefusedRetry (port : BitVec 6) (s : State) : Host.Outcome State Fault Refusal :=
  let p := s.port port.toNat
  if s.live && p.st == .refused && decide (p.since + 10 * secondCycles ≤ s.now) then .next (s.portTrain port.toNat) else .next s

/-- DOWN_RETRAIN (R290): after 1 ms. -/
def execDownRetrain (port : BitVec 6) (s : State) : Host.Outcome State Fault Refusal :=
  let p := s.port port.toNat
  if s.live && p.st == .down && decide (p.since + secondCycles / 1000 ≤ s.now) then .next (s.portTrain port.toNat) else .next s

/-- Limit of a training phase in cycles (table "Training phases", R291): 10, 20, 2, 1 and 0.1 ms. -/
def phaseLimit (n : Nat) : Nat := nth [0, 8500000, 17000000, 1700000, 850000, 85000] n

/-- TRAINING_TIMEOUT (R291): a phase has passed its limit: DARK, or REFUSED in phase 4, where no proof came (log 50). -/
def execTrainingTimeout (port : BitVec 6) (s : State) : Host.Outcome State Fault Refusal :=
  let p := s.port port.toNat
  if !(s.live && p.st == .training && decide (p.phaseAt + phaseLimit p.phase < s.now)) then .next s
  else if p.phase = 4 then .next (s.portRefuse port.toNat 2)
  else .next (s.portTo port.toNat .dark)

/-- The frames that a session brings across (R284): the peer has told what it accepted, it is the same end, and the port was DOWN for at most
1 s. -/
def Port.resumed (p : Port) (now : Nat) : List (Nat × Frame) :=
  match p.resume with
  | some n =>
    if p.prevPeer = some (p.peerId, p.peerPort) ∧ p.downAt.any (fun t => decide (now ≤ t + secondCycles)) = true then
      p.unacked.filter (fun u => decide (n < u.1))
    else []
  | none => []

/-- The port is UP (R284, R286, R302, R305): sequences from 0, the frames carried over sent again, the waiting ones too. -/
def State.portUp (s : State) (k : Nat) : State :=
  let p := s.port k
  let again := p.resumed s.now
  let q : Port := { p with
    txSeq := again.length, rxSeq := 0, resume := none, retrans := cap32 (p.retrans + again.length), unacked := []
    narrowTo := 0, narrowTries := 0, narrowAgreed := false }
  let q1 := (again.zipIdx).foldl (fun (q : Port) u =>
    { (q.takeCredits u.1.2).getD q with unacked := q.unacked ++ [(u.2, s.leaving u.1.2)], t1 := s.departed q u.1.2 }) q
  let s1 := (s.setPort k q1).portTo k .up
  (if s1.dom.timePorts.contains k then s1.chooseTime else s1).pump k

/-- A port enters a phase of its training (R291). -/
def Port.toPhase (p : Port) (n now : Nat) : Port := { p with phase := n, phaseAt := now }

/-- TRAINING_PHASE_DONE (R291–R294): `healthy` are the wavelengths found healthy in phase 2, and healthy at both ends in
phase 3; none left takes the port DOWN. In phase 4 this end sends its message; in phase 5 it has its keys and credits and sends an ACK, and
the phase ends when the peer's first ACK has come (R293). -/
def execTrainingPhaseDone (port : BitVec 6) (healthy : BitVec 4) (s : State) : Host.Outcome State Fault Refusal :=
  let k := port.toNat
  let p := s.port k
  if !(s.live && p.st == .training) then .next s
  else match p.phase with
    | 1 => .next (s.setPort k (p.toPhase 2 s.now))
    | 2 => .next (s.setPort k { p.toPhase 3 s.now with lambdaOk := healthy })
    | 3 =>
      if lambdaPick healthy = 0 then .next ((s.setPort k { p with lambdaOk := healthy }).portTo k .down)
      else
        let s1 := s.setPort k { p.toPhase 4 s.now with lambdaOk := healthy, lambdaUsed := lambdaPick healthy }
        if !s.dom.joined then .next (s1.portRefuse k 4)
        else if (s.dom.key s.dom.kgen).isNone then .next (s1.portRefuse k 2)
        else .next (s1.sendTraining k)
    | 4 =>
      if p.peerOk && p.peerNonce.isSome then
        .next (((s.setPort k { p.toPhase 5 s.now with ctlTx := 0, ctlRx := 0, ctlOut := [] }.initCredits).deriveKeys k s.dom.kgen).sendAck k)
      else .next s
    | 5 => if p.peerAck then .next (s.portUp k) else .next s
    | _ => .next s

/-- TRAINING_MESSAGE (R292, R293): a message with a bad MAGIC or CRC is ignored; the others are checked and remembered, and this end
answers with its own proof. -/
def execTrainingMessage (port : BitVec 6) (msg : List Byte) (s : State) : Host.Outcome State Fault Refusal :=
  let k := port.toNat
  let p := s.port k
  let w := fld msg 4 4
  let id := bits (fld msg 0x0C 2) 0 13
  let pp := fld msg 0x0E 1
  if !(s.live && p.st == .training && (p.phase == 4 || p.phase == 5)) then .next s
  else if msg.length ≠ 128 ∨ fld msg 0 4 ≠ 0x49545A50 ∨ fld msg 0x7C 4 ≠ crc32 (msg.take 124) then .next s
  else if bits w 0 8 ≠ 1 then .next (s.portRefuse k 5)
  else if !bit w 8 ∨ fld msg 8 4 ≠ s.dom.domainId then .next (s.portRefuse k 1)
  else if id = s.dom.deviceId then
    let s1 := s.portRefuse k 3
    .next (s1.post { s1.portEv 0x0505 k with arg0 := id })
  else
    let n : BitVec 128 := BitVec.ofNat 128 (fld msg 0x10 16)
    let mine := endId s.dom.deviceId k
    let q : Port := { p with
      peerId := id, peerPort := pp, peerNonce := some n
      resume := if bit w 11 && (msg.drop 0x20).take 3 == mine then some (fld msg 0x28 8) else none }
    let s1 := (s.setPort k q).sendTraining k
    if !bit w 10 then .next s1
    else match s.dom.key s.dom.kgen with
      | none => .next (s1.portRefuse k 2)
      | some key =>
        let who := if lowerEnd s.dom.deviceId k id pp then 1 else 0
        if (msg.drop 0x30).take 16 = linkProof key s.dom.domainId s.dom.deviceId k id pp p.nonce n who then
          .next (s1.modPort k (fun q => { q with peerOk := true }))
        else .next (s1.portRefuse k 2)

end Sys2Proof.Machine
end

