-- ==== Sys2Proof/Machine/FabricCmds.lean ====
section
/-! DEFINITION. The FABRIC_* commands (11, 13). -/
namespace Sys2Proof.Machine

/-- Ports in the field of FABRIC_JOIN and FABRIC_TIMEKEEPER_SET: the first COUNT of four. -/
def timePortsOf (w : Nat) : List Nat := ((List.range 4).map (fun i => bits w (6 * i) 6)).take (bits w 24 3)

/-- Every port that is up goes DOWN. -/
def State.portsDown (s : State) : State :=
  (s.ports.filter (fun (p : Nat × Port) => p.2.st == .up || p.2.st == .narrowing)).foldl (fun (t : State) p => t.portTo p.1 .down) s

/-- The row of FabricJoin in the command catalogue (R370). -/
def specFabricJoin : CmdSpec :=
  ⟨0x0501, true, false, false, false, [(0x08, 0, 32), (0x0C, 0, 13), (0x10, 0, 13), (0x14, 0, 27)]⟩

/-- FABRIC_JOIN (R296, R305, R308, R478). Ports of an earlier membership go DOWN and train anew (log 50). DESIGN CHOICE (log 60): state,
busy and field checks come before ST_ABSENT. -/
def execFabricJoin (h : HostId) (c : CmdRec) (s : State) : Host.Outcome State Fault Refusal :=
  .next (s.command specFabricJoin h c (fun s =>
    let tp := timePortsOf (c.par 0x14 0 27)
    let id := c.par 0x0C 0 13
    let tk := c.par 0x10 0 13
    if s.dbg.replay.isSome then .done s 0x0016 0
    else if !s.jobs.isEmpty then .done s 0x0001 0
    else if 4 < c.par 0x14 24 3 then .done s 0x0003 0
    else if tp.any (fun k => decide (s.part.ports ≤ k)) then .done s 0x0002 0
    else
      let s1 := ({ s with dom := { s.dom with inUse := none } } : State).portsDown
      .done { s1 with dom := { s1.dom with
        joined := true, domainId := c.par 0x08 0 32, deviceId := id, timekeeper := tk, timePorts := tp, inUse := none
        hops := 0, locked := tk == id, holdover := false, lost := false, phaseErr := 0, stepErr := 0, renumber := tk != id
        announce := none, tkAt := none } } 0 0))

/-- The row of FabricLeave in the command catalogue (R370). -/
def specFabricLeave : CmdSpec :=
  ⟨0x0502, true, false, false, false, []⟩

/-- FABRIC_LEAVE (R308): ST_STATE outside a domain (log 50). -/
def execFabricLeave (h : HostId) (c : CmdRec) (s : State) : Host.Outcome State Fault Refusal :=
  .next (s.command specFabricLeave h c (fun s =>
    if !s.dom.joined then .done s 0x0016 0
    else if s.jobs.any (fun (p : Nat × Job) => p.2.tag != 0) then .done s 0x0001 0
    else
      let s1 : State := { s with dom := { s.dom with inUse := none } }
      let s2 := s1.portsDown
      .done { s2 with dom := { s2.dom with
        joined := false, domainId := 0, deviceId := 0, timekeeper := 0, timePorts := [], inUse := none, hops := 0, locked := false
        holdover := false, lost := false, phaseErr := 0, stepErr := 0, renumber := false, announce := none, tkAt := none } } 0 0))

/-- The row of FabricKeySet in the command catalogue (R370). -/
def specFabricKeySet : CmdSpec :=
  ⟨0x0503, true, false, false, false, [(0x08, 0, 256)]⟩

/-- FABRIC_KEY_SET (R285): the slot that is not current. -/
def execFabricKeySet (h : HostId) (c : CmdRec) (s : State) : Host.Outcome State Fault Refusal :=
  .next (s.command specFabricKeySet h c (fun s =>
    let k : BitVec 256 := BitVec.ofNat 256 (c.par 0x08 0 256)
    .done { s with dom := if s.dom.kgen then { s.dom with key0 := some k } else { s.dom with key1 := some k } } 0 0))

/-- The row of FabricKeySwitch in the command catalogue (R370). -/
def specFabricKeySwitch : CmdSpec :=
  ⟨0x0504, true, false, false, false, [(0x08, 0, 48)]⟩

/-- FABRIC_KEY_SWITCH (R288): one switch at a time (log 50). -/
def execFabricKeySwitch (h : HostId) (c : CmdRec) (s : State) : Host.Outcome State Fault Refusal :=
  .next (s.command specFabricKeySwitch h c (fun s =>
    let g := c.par 0x08 0 48
    if g < s.stage + 16 then .done s 0x0003 0
    else if s.dom.keyAt.isSome then .done s 0x0001 0
    else .later { s with dom := { s.dom with keyAt := some g } } (.stageAt g)))

/-- FABRIC_PORT_SET of one port (R290, R295, R301). -/
def State.portSet (s : State) (action k : Nat) : State :=
  let st := (s.port k).st
  match action with
  | 0 => if st = .off then s else (s.portTo k .off).dropHeld k
  | 1 => if st = .off then s.portTo k .dark else s
  | _ => if st = .off ∨ st = .down then s else s.portTo k .down

/-- The row of FabricPortSet in the command catalogue (R370). -/
def specFabricPortSet : CmdSpec :=
  ⟨0x0505, true, false, false, false, [(0x08, 0, 64), (0x10, 0, 2)]⟩

/-- FABRIC_PORT_SET (R290, R295, R311). -/
def execFabricPortSet (h : HostId) (c : CmdRec) (s : State) : Host.Outcome State Fault Refusal :=
  .next (s.command specFabricPortSet h c (fun s =>
    let m := c.par 0x08 0 64
    let a := c.par 0x10 0 2
    if a = 3 then .done s 0x0003 0
    else if !subMask m (2 ^ s.part.ports - 1) then .done s 0x0002 0
    else .done ((bitList 64 m).foldl (fun (t : State) k => t.portSet a k) s) 0 0))

/-- Frames or transactions of the epoch that is not current are still here (R298). -/
def State.oldEpoch (s : State) : Bool :=
  s.dom.txns.any (fun (x : Txn) => x.epoch != s.dom.epoch)
    || s.ports.any (fun (p : Nat × Port) => p.2.waiting.any (fun w => w.2.2.epoch != s.dom.epoch)
      || p.2.unacked.any (fun u => u.2.epoch != s.dom.epoch))

/-- The row of FabricRouteLoad in the command catalogue (R370). -/
def specFabricRouteLoad : CmdSpec :=
  ⟨0x0506, true, false, false, false, [(0x08, 0, 64), (0x10, 0, 14)]⟩

/-- FABRIC_ROUTE_LOAD (R297, R298, R311): the whole table is checked first; ids from ENTRIES on are unreachable (log 50). -/
def execFabricRouteLoad (h : HostId) (c : CmdRec) (s : State) : Host.Outcome State Fault Refusal :=
  .next (s.command specFabricRouteLoad h c (fun s =>
    let a := c.par 0x08 0 64
    let n := c.par 0x10 0 14
    if a % 8 ≠ 0 ∨ n = 0 ∨ 8192 < n then .done s 0x0003 0
    else if s.oldEpoch then .done s 0x0001 0
    else match s.hostRead h a (4 * n) with
      | none => .done s 0x000E 0
      | some b =>
        let es := (chunksOf 4 b).map leNat
        let used (e : Nat) : List Nat := (List.range (bits e 24 3)).map (fun i => bits e (6 * i) 6)
        if es.any (fun e => decide (4 < bits e 24 3) || bits e 28 4 != 0) then .done s 0x0003 0
        else if es.any (fun e => (used e).any (fun k => decide (s.part.ports ≤ k))) then .done s 0x0002 0
        else
          let t : NMap Nat := (es.zipIdx).map (fun p => (p.2, p.1))
          .done { s with dom := if s.dom.epoch then { s.dom with route0 := t } else { s.dom with route1 := t } } 0 0))

/-- The row of FabricRouteSwitch in the command catalogue (R370). -/
def specFabricRouteSwitch : CmdSpec :=
  ⟨0x0507, true, false, false, false, [(0x08, 0, 48)]⟩

/-- FABRIC_ROUTE_SWITCH (R298). -/
def execFabricRouteSwitch (h : HostId) (c : CmdRec) (s : State) : Host.Outcome State Fault Refusal :=
  .next (s.command specFabricRouteSwitch h c (fun s =>
    let g := c.par 0x08 0 48
    if g < s.stage + 16 then .done s 0x0003 0
    else if s.dom.routeAt.isSome then .done s 0x0001 0
    else .later { s with dom := { s.dom with routeAt := some g } } (.stageAt g)))

/-- The row of FabricTimekeeperSet in the command catalogue (R370). -/
def specFabricTimekeeperSet : CmdSpec :=
  ⟨0x0508, true, false, false, false, [(0x08, 0, 13), (0x0C, 0, 27), (0x10, 0, 48)]⟩

/-- FABRIC_TIMEKEEPER_SET (R309): the stage must lie ahead (log 50). -/
def execFabricTimekeeperSet (h : HostId) (c : CmdRec) (s : State) : Host.Outcome State Fault Refusal :=
  .next (s.command specFabricTimekeeperSet h c (fun s =>
    let g := c.par 0x10 0 48
    let tp := timePortsOf (c.par 0x0C 0 27)
    if !s.dom.joined then .done s 0x0016 0
    else if g ≤ s.stage ∨ 4 < c.par 0x0C 24 3 then .done s 0x0003 0
    else if tp.any (fun k => decide (s.part.ports ≤ k)) then .done s 0x0002 0
    else if s.dom.tkAt.isSome then .done s 0x0001 0
    else .later { s with dom := { s.dom with tkAt := some (c.par 0x08 0 13, tp, g) } } (.stageAt g)))

/-- The row of FabricWindowSet in the command catalogue (R370). -/
def specFabricWindowSet : CmdSpec :=
  ⟨0x0509, false, true, false, false, [(0x08, 0, 7), (0x10, 0, 44), (0x18, 0, 12)]⟩

/-- FABRIC_WINDOW_SET (R303, R311). -/
def execFabricWindowSet (h : HostId) (c : CmdRec) (s : State) : Host.Outcome State Fault Refusal :=
  .next (s.command specFabricWindowSet h c (fun s =>
    let n := c.par 0x18 0 12
    let b := c.par 0x10 0 44
    let w := c.par 0x08 0 4
    if b % 2 ^ 21 ≠ 0 ∨ 2048 < n ∨ 2 ^ 44 < b + n * 2 ^ 21 then .done s 0x0003 0
    else .done (s.modJob c.job.toNat (fun (j : Job) => { j with windows :=
        (if n = 0 then merase j.windows w
         else mset j.windows w ⟨b, n, c.par 0x08 4 1 == 1, c.par 0x08 5 1 == 1, c.par 0x08 6 1 == 1⟩) })) 0 0))

/-- The row of FabricPeersSet in the command catalogue (R370). -/
def specFabricPeersSet : CmdSpec :=
  ⟨0x050A, false, true, false, false, [(0x08, 0, 44), (0x10, 0, 13)]⟩

/-- FABRIC_PEERS_SET (R303, R311): the table replaces the job's peer entries. -/
def execFabricPeersSet (h : HostId) (c : CmdRec) (f : Faults) (s : State) : Host.Outcome State Fault Refusal :=
  .next (s.command specFabricPeersSet h c (fun s =>
    let n := c.par 0x10 0 13
    let j := c.job.toNat
    match s.job j with
    | none => .done s 0x0005 0
    | some jb =>
      if 4096 < n then .done s 0x0003 0
      else match s.cmdJobRead f j jb.pt (c.par 0x08 0 44) (4 * n) with
        | (s1, none) => .done s1 0x000E 0
        | (s1, some b) =>
          let es := (chunksOf 4 b).map leNat
          let t : NMap (Nat × Nat) := (es.zipIdx).filterMap (fun p => if bit p.1 31 then some (p.2, (bits p.1 0 13, bits p.1 16 4)) else none)
          .done (s1.modJob j (fun (b : Job) => { b with peers := t })) 0 0))

/-- Wavelengths in a set. -/
def lambdaWidth (l : BitVec 4) : Nat := (bitList 4 l.toNat).length

/-- A port status record (R310). -/
def Port.status (p : Port) (now k : Nat) : List Byte :=
  toLE 4 (p.st.code + (if p.st = .up ∨ p.st = .narrowing then lambdaWidth p.lambdaUsed else 0) * 2 ^ 4 + p.lambdaOk.toNat * 2 ^ 8
      + (if p.st = .up ∨ p.st = .narrowing then p.lambdaUsed.toNat else 0) * 2 ^ 12 + p.refuse % 256 * 2 ^ 16)
    ++ toLE 4 (p.peerId % 2 ^ 16 + p.peerPort % 64 * 2 ^ 16) ++ p.lastChange.bytes ++ toLE 4 p.retrains
    ++ toLE 8 p.txBytes ++ toLE 8 p.rxBytes ++ toLE 8 p.fecCorr ++ toLE 4 p.fecUnc ++ toLE 4 p.retrans ++ toLE 4 p.authFails
    ++ toLE 4 p.rejects ++ toLE 8 (p.stalledTo now) ++ toLE 4 p.rttNs ++ toLE 8 (Config.opticalSensor 0 k) ++ toLE 8 (Config.opticalSensor 1 k)
    ++ zeros 36

/-- The row of FabricPortStatus in the command catalogue (R370). -/
def specFabricPortStatus : CmdSpec :=
  ⟨0x050B, true, false, false, false, [(0x08, 0, 64), (0x10, 0, 64)]⟩

/-- FABRIC_PORT_STATUS (R310, R311). -/
def execFabricPortStatus (h : HostId) (c : CmdRec) (s : State) : Host.Outcome State Fault Refusal :=
  .next (s.command specFabricPortStatus h c (fun s =>
    let a := c.par 0x08 0 64
    let m := c.par 0x10 0 64
    if a % 8 ≠ 0 then .done s 0x0003 0
    else if !subMask m (2 ^ s.part.ports - 1) then .done s 0x0002 0
    else match s.hostWrite h a ((bitList 64 m).flatMap (fun k => (s.port k).status s.now k)) with
      | some t => .done t 0 0
      | none => .done s 0x000E 0))

/-- The row of FabricDomainStatus in the command catalogue (R370). -/
def specFabricDomainStatus : CmdSpec :=
  ⟨0x050C, true, false, false, false, [(0x08, 0, 64)]⟩

/-- FABRIC_DOMAIN_STATUS (R310): 0xFFFF_FFFF where no time port is in use (log 50). -/
def execFabricDomainStatus (h : HostId) (c : CmdRec) (s : State) : Host.Outcome State Fault Refusal :=
  .next (s.command specFabricDomainStatus h c (fun s =>
    let a := c.par 0x08 0 64
    let d := s.dom
    let w := [d.domainId, d.deviceId, d.timekeeper, d.inUse.getD 0xFFFFFFFF, b2n d.holdover, b2n d.epoch, b2n d.kgen,
      unsgn 32 (d.phaseErr * 1000 / 850)]
    if a % 8 ≠ 0 then .done s 0x0003 0
    else match s.hostWrite h a (w.flatMap (toLE 4)) with
      | some t => .done t 0 0
      | none => .done s 0x000E 0))

end Sys2Proof.Machine
end

