-- ==== Sys2Proof/Machine/KvCmds.lean ====
section
/-! DEFINITION. Cache pools, sequences, pre-emption and ferrying (08, "When the pool runs out"), and commands that wait for an
earlier one on the same object (R366). -/
namespace Sys2Proof.Machine

/-- The row of KvPoolSet in the command catalogue (R370). -/
def specKvPoolSet : CmdSpec :=
  ⟨0x0201, false, true, false, false, [(0x08, 0, 8), (0x08, 16, 13), (0x10, 0, 44), (0x18, 0, 23), (0x20, 0, 24),
    (0x24, 0, 24), (0x28, 0, 44), (0x30, 0, 23)]⟩

/-- KV_POOL_SET (R185, log 43). -/
def execKvPoolSet (h : HostId) (c : CmdRec) (s : State) : Host.Outcome State Fault Refusal :=
  .next (s.command specKvPoolSet h c (fun s =>
    match s.job c.job.toNat with
    | none => .done s 0x0005 0
    | some jb =>
      let d := c.par 0x08 0 8
      let n := c.par 0x08 16 13
      let pool := c.par 0x10 0 44
      let pages := c.par 0x18 0 23
      let sb := c.par 0x20 0 24
      let sbn := c.par 0x24 0 24
      let fe := c.par 0x28 0 44
      let fpages := c.par 0x30 0 23
      let ferryOk := (List.range fpages).all (fun k => match mget jb.pt (fe / 2 ^ 21 + k) with
        | some a => regionOf s.part a == .host jb.owner
        | none => false)
      if jb.kv.isSome then .done s 0x0001 0
      else if (d ≠ 64 ∧ d ≠ 128) ∨ n = 0 ∨ 4096 < n ∨ pages = 0 ∨ pool % 2 ^ 21 ≠ 0 ∨ fe % 2 ^ 21 ≠ 0
          ∨ !mappedAll jb.pt pool (pages * 2 ^ 21) ∨ 2 ^ 44 < fe + fpages * 2 ^ 21 ∨ !ferryOk
          ∨ sb % 64 ≠ 0 ∨ sb < jb.tsBase ∨ jb.tsBase + jb.tsBytes < sb + sbn then .done s 0x0003 0
      else .done (s.setKv c.job.toNat ⟨d, n, pool, pages, sb, sbn, fe, fpages, [], [], [], 0⟩) 0 0))

/-- Live sequences of the device (R213). -/
def State.liveSeqs (s : State) : Nat := (s.jobs.map (fun p => (p.2.kv.map (fun k => k.seqs.length)).getD 0)).sum

/-- An earlier open command of the host names the same sequence (R366). -/
def State.seqBusy (s : State) (h : HostId) (job seq : Nat) : Bool :=
  (s.host h).openCmds.any (fun o => o.job == job && (o.kind == .pin seq
    || (o.kind == .waiting && decide (0x0202 ≤ o.op ∧ o.op ≤ 0x0205) && o.cmd.par 0x08 0 32 == seq)))

/-- KV_ADMIT's own part (R186, R213): the record is written with empty caches. -/
def kvAdmitBody (c : CmdRec) (s : State) : CmdRes :=
  match s.job c.job.toNat with
  | none => .done s 0x0005 0
  | some jb => match jb.kv with
    | none => .done s 0x0016 0
    | some p =>
      let id := c.par 0x08 0 32
      if p.seqs.any (fun q => q.id == id) then .done s 0x0003 0
      else if 65536 ≤ s.liveSeqs then .done s 0x0001 0
      else match p.take 2 with
        | none => .done s 0x0004 0
        | some (a, p1) =>
          let q : KvSeq := ⟨id, c.par 0x0C 0 2, p.nextOrder, false, false, a, []⟩
          let s1 := s.jobPut c.job.toNat a ((List.range p.caches).flatMap (fun _ => KvDir.init.bytes))
          .done (s1.setKv c.job.toNat { p1 with seqs := p1.seqs ++ [q], nextOrder := p1.nextOrder + 1 }) 0 a

/-- KV_RELEASE's own part (R213). -/
def kvReleaseBody (c : CmdRec) (s : State) : CmdRes :=
  let j := c.job.toNat
  match s.kvPool j with
  | none => .done s 0x0016 0
  | some p => match p.seqs.find? (fun q => q.id == c.par 0x08 0 32) with
    | none => .done s 0x0003 0
    | some q =>
      if (s.namedCaches j).any (fun n => n.1 == q.seqRec) then .done s 0x0001 0
      else
        let units := q.seqRec :: q.dirs.flatMap (fun d => d.2.list.map Prod.fst ++ d.2.pages)
        .done (s.setKv j { p.give units with seqs := p.seqs.filter (fun r => r.id != q.id) }) 0 0

/-- KV_UNPIN's own part (R217). -/
def kvUnpinBody (c : CmdRec) (s : State) : CmdRes :=
  let j := c.job.toNat
  match s.kvPool j with
  | none => .done s 0x0016 0
  | some p => match p.seqs.find? (fun q => q.id == c.par 0x08 0 32) with
    | none => .done s 0x0003 0
    | some q => .done (s.setKv j (p.setSeq { q with pinned := false })) 0 0

/-- The pool after a pre-emption, its units alone (R215). -/
def KvPool.afterPreempt (p : KvPool) (q : KvSeq) : KvPool :=
  match p.takeFerryN 0 q.bales with
  | none => p
  | some (_, p1) => match p1.takeFerryN 1 q.listPages with
    | none => p
    | some (_, p2) =>
      (p2.give (q.dirs.flatMap (fun d => d.2.list.map Prod.fst ++ d.2.pages))).setSeq { q with ferried := true }

/-- The pool can hold a ferried sequence, after pre-empting as many as R214 allows. -/
def KvPool.canHold (inUse : List Nat) (q : KvSeq) : Nat → KvPool → Bool
  | 0, p => p.poolFits q
  | n + 1, p => p.poolFits q || (match p.victim inUse q.yields with
      | none => false
      | some v => (p.afterPreempt v).canHold inUse q n)

/-- KV_PIN's own part (R217): a ferried sequence returns first. -/
def kvPinBody (c : CmdRec) (s : State) : CmdRes :=
  let j := c.job.toNat
  match s.kvPool j with
  | none => .done s 0x0016 0
  | some p => match p.seqs.find? (fun q => q.id == c.par 0x08 0 32) with
    | none => .done s 0x0003 0
    | some q =>
      if !q.ferried then .done (s.setKv j (p.setSeq { q with pinned := true })) 0 0
      else if KvPool.canHold (s.inUse j []) q p.seqs.length p then .later s (.pin q.id)
      else .done s 0x0004 0

/-- The own part of a sequence command by its opcode. -/
def seqBody (op : Nat) (c : CmdRec) (s : State) : CmdRes :=
  if op = 0x0202 then kvAdmitBody c s else if op = 0x0203 then kvReleaseBody c s else if op = 0x0204 then kvPinBody c s else kvUnpinBody c s

/-- A sequence command, behind an earlier one on the same sequence (R366). -/
def seqCmd (h : HostId) (op : Nat) (c : CmdRec) (s : State) : CmdRes :=
  if s.seqBusy h c.job.toNat (c.par 0x08 0 32) then .later s .waiting else seqBody op c s

/-- The row of KvAdmit in the command catalogue (R370). -/
def specKvAdmit : CmdSpec :=
  ⟨0x0202, false, true, false, false, [(0x08, 0, 32), (0x0C, 0, 2)]⟩

/-- KV_ADMIT. -/
def execKvAdmit (h : HostId) (c : CmdRec) (s : State) : Host.Outcome State Fault Refusal :=
  .next (s.command specKvAdmit h c (seqCmd h 0x0202 c))

/-- The row of KvRelease in the command catalogue (R370). -/
def specKvRelease : CmdSpec :=
  ⟨0x0203, false, true, false, false, [(0x08, 0, 32)]⟩

/-- KV_RELEASE. -/
def execKvRelease (h : HostId) (c : CmdRec) (s : State) : Host.Outcome State Fault Refusal :=
  .next (s.command specKvRelease h c (seqCmd h 0x0203 c))

/-- The row of KvPin in the command catalogue (R370). -/
def specKvPin : CmdSpec :=
  ⟨0x0204, false, true, false, false, [(0x08, 0, 32)]⟩

/-- KV_PIN. -/
def execKvPin (h : HostId) (c : CmdRec) (s : State) : Host.Outcome State Fault Refusal :=
  .next (s.command specKvPin h c (seqCmd h 0x0204 c))

/-- The row of KvUnpin in the command catalogue (R370). -/
def specKvUnpin : CmdSpec :=
  ⟨0x0205, false, true, false, false, [(0x08, 0, 32)]⟩

/-- KV_UNPIN. -/
def execKvUnpin (h : HostId) (c : CmdRec) (s : State) : Host.Outcome State Fault Refusal :=
  .next (s.command specKvUnpin h c (seqCmd h 0x0205 c))

/-- Attention tasks of a job that are ready and have not started, with what their first leg's check gives. -/
def State.attReady (s : State) (j : Nat) : List (EngRun × AttBody × KvPool × List AttRow) :=
  match s.job j with
  | none => []
  | some jb => match jb.run with
    | none => []
    | some r => (r.tasks.filter (fun (t : TaskRun) => t.hdr.kind == 0x05 && t.st == .ready && t.legs == 0)).filterMap (fun (t : TaskRun) =>
        match s.engOf j t.hdr.id with
        | none => none
        | some x => match attCheck s x with
          | .ok b p rows => some (x, b, p, rows)
          | _ => none)

/-- Sequences that must return from the ferry area next: the first ferried row of each task that is held, and those of open
KV_PIN commands (R216, R217). -/
def State.wanted (s : State) (j : Nat) : List KvSeq :=
  match s.kvPool j with
  | none => []
  | some p =>
    (s.attReady j).filterMap (fun t => (t.2.2.2.filterMap (fun r => p.seqAt r.seqRec)).find? (fun q => q.ferried))
      ++ p.seqs.filter (fun q => q.ferried && [HostId.a, HostId.b].any (fun h =>
          (s.host h).openCmds.any (fun o => o.job == j && o.kind == .pin q.id)))

/-- What pre-emption is needed for (R214, R216): the sequences it may not touch, and which ones it may. -/
def State.kvNeeds (s : State) (f : Faults) (j : Nat) : List (List Nat × (Option KvSeq)) :=
  match s.kvPool j with
  | none => []
  | some p =>
    (s.attReady j).filterMap (fun t =>
        let recs := t.2.2.2.map (fun r => r.seqRec)
        if t.2.1.appends && !(recs.filterMap p.seqAt).any (fun q => q.ferried)
            && (attReserve s f t.1 t.2.1 p t.2.2.2 (s.namedCaches j)).isNone then some (s.inUse j recs, none) else none)
      ++ (s.wanted j).filterMap (fun q => if p.poolFits q then none else some (s.inUse j [q.seqRec], some q))

/-- KV_PREEMPT (R214, R215): the Caravaneer pre-empts the sequence that R214 chooses for a need. -/
def execKvPreempt (job : BitVec 4) (seq : BitVec 32) (f : Faults) (s : State) : Host.Outcome State Fault Refusal :=
  let j := job.toNat
  match s.job j, s.kvPool j with
  | some jb, some p =>
    let want := (s.kvNeeds f j).filterMap (fun n => p.victim n.1 (match n.2 with
      | some q => q.yields
      | none => fun _ => true))
    match want.find? (fun q => q.id == seq.toNat) with
    | none => .next s
    | some q =>
      if !(s.cvrWorks && !s.paused && s.jobReach jb.pt p.ferry (p.ferryPages * 2 ^ 21)) then .next s
      else match s.moveSeq f j jb.pt false p q with
        | none => .next s
        | some (t, p1, q1) =>
          .next ((t.setKv j (p1.setSeq { q1 with ferried := true })).post
            { t.ev 0x0302 with job := j, arg0 := q.id, arg1 := q.bales })
  | _, _ => .next s

/-- KV_FERRY_BACK (R216, R217): a wanted sequence returns to the pool. -/
def execKvFerryBack (job : BitVec 4) (seq : BitVec 32) (f : Faults) (s : State) : Host.Outcome State Fault Refusal :=
  let j := job.toNat
  match s.job j, s.kvPool j with
  | some jb, some p =>
    match (s.wanted j).find? (fun q => q.id == seq.toNat) with
    | none => .next s
    | some q =>
      if !(s.cvrWorks && !s.paused && s.jobReach jb.pt p.ferry (p.ferryPages * 2 ^ 21)) then .next s
      else match s.moveSeq f j jb.pt true p q with
        | none => .next s
        | some (t, p1, q1) =>
          let pin (o : OpenCmd) : Bool := o.job == j && o.kind == .pin q.id
          let pinned := [HostId.a, HostId.b].any (fun h => (t.host h).openCmds.any pin)
          let t1 := (t.setKv j (p1.setSeq { q1 with ferried := false, pinned := q1.pinned || pinned })).post
            { t.ev 0x0303 with job := j, arg0 := q.id }
          let t2 := t1.completeBoth (fun o => if pin o then some (0, 0) else none)
          let go (t : State) (h : HostId) : State := t.runWaiting h
            (fun o => o.job == j && decide (0x0202 ≤ o.op ∧ o.op ≤ 0x0205) && o.cmd.par 0x08 0 32 == q.id)
            (fun o => seqBody o.op o.cmd)
          .next (go (go t2 .a) .b)
  | _, _ => .next s

/-- A task that ends gives its unused reservation back (log 43). -/
def State.kvReturn (s : State) (j id : Nat) : State :=
  match s.taskOf j id, s.kvPool j with
  | some t, some p => (match t.eng with
      | .att a => (s.setKv j (p.give (a.bales ++ a.listPages))).modTask j id (fun t => { t with
          eng := .att { a with bales := [], listPages := [] } })
      | _ => s)
  | _, _ => s

end Sys2Proof.Machine
end

