-- ==== Sys2Proof/Machine/MediaPix.lean ====
section
/-! DEFINITION. What the media complex computes for one sample part (09): recipes and part descriptors, augmentation draws,
geometry, colour, packing. -/
namespace Sys2Proof.Machine

/-- A recipe record (R229). -/
structure Recipe where
  media : Nat
  outTy : Nat
  auto : Bool
  lensEn : Bool
  meshEn : Bool
  bandEn : Bool
  toneEn : Bool
  resample : Nat
  border : Bool
  chroma : Bool
  cropRand : Bool
  grain : Bool
  w : Nat
  h : Nat
  bIn : Nat
  bOut : Nat
  frames : Nat
  step : Nat
  exp : Int
  fill : Nat
  virtW : Nat
  virtH : Nat
  cropX : Nat
  cropY : Nat
  flipH : Nat
  flipV : Nat
  rot : Nat
  gainLo : Nat
  gainHi : Nat
  offLo : Int
  offHi : Int
  lens : Nat
  mesh : Nat
  band : Nat
  tone : Nat
  deriving DecidableEq, Repr, Inhabited

/-- A recipe that keeps the table "Recipe record" (R229). -/
def parseRecipe (r : List Byte) : Option Recipe :=
  let w := fld r 0 4
  let d := fld r 8 4
  let a (o : Nat) : Nat := fld r o 8
  let q : Recipe := ⟨bits w 0 2, bits w 2 2, bit w 4, bit w 5, bit w 6, bit w 7, bit w 8, bits w 9 2, bit w 11, bit w 12, bit w 13,
    bit w 14, fld r 4 2, fld r 6 2, bits d 0 5, bits d 8 5, bits d 16 7, bits d 24 8, sgn 8 (fld r 0x0C 1), fld r 0x10 4,
    fld r 0x14 2, fld r 0x16 2, fld r 0x18 2, fld r 0x1A 2, bits (fld r 0x1C 4) 0 17, bits (fld r 0x20 4) 0 17, bits (fld r 0x24 4) 0 4,
    fld r 0x28 2, fld r 0x2A 2, sgn 16 (fld r 0x2C 2), sgn 16 (fld r 0x2E 2), bits (a 0x30) 0 44, bits (a 0x38) 0 44,
    bits (a 0x40) 0 44, bits (a 0x48) 0 44⟩
  let rsv := bits w 15 17 == 0 && bits d 5 3 == 0 && bits d 13 3 == 0 && bit d 23 == false && zeroBytes r 0x0D 0x10
    && bits (fld r 0x1C 4) 17 15 == 0 && bits (fld r 0x20 4) 17 15 == 0 && bits (fld r 0x24 4) 4 28 == 0
    && bits (a 0x30) 44 20 == 0 && bits (a 0x38) 44 20 == 0 && bits (a 0x40) 44 20 == 0 && bits (a 0x48) 44 20 == 0
    && zeroBytes r 0x50 0x80 && r.length == 128
  let text := q.media == 3
  let flat := q.media == 2 || text
  if rsv && decide (1 ≤ q.w) && (q.outTy == 2) == text && q.outTy != 3
    && (if flat then q.h == 1 else decide (1 ≤ q.h))
    && (text || (q.resample != 3 && decide (1 ≤ q.bIn ∧ q.bIn ≤ 16 ∧ 1 ≤ q.bOut ∧ q.bOut ≤ 16) && fld r 0x0C 1 != 0x80
      && (if q.media = 1 then decide (1 ≤ q.frames ∧ q.frames ≤ 64 ∧ 1 ≤ q.step) else q.frames == 1 && decide (1 ≤ q.step))
      && decide (q.flipH ≤ 65536 ∧ q.flipV ≤ 65536 ∧ q.gainLo ≤ q.gainHi ∧ q.offLo ≤ q.offHi) && (q.bandEn || q.bOut == q.bIn)))
    && (q.media != 2 || (!q.lensEn && !q.meshEn && !q.toneEn))
  then some q else none

/-- A part descriptor (R223). -/
structure PartD where
  src : Nat
  codec : Nat
  bytes : Nat
  frames : Nat
  lens : Nat
  mesh : Nat
  tileW : Nat
  tileH : Nat
  imgW : Nat
  imgH : Nat
  format : Nat
  rate : Nat
  deriving DecidableEq, Repr, Inhabited

/-- Codecs that a MEDIA value admits (R224, log 46). -/
def codecOk (media codec : Nat) : Bool :=
  match media with
  | 0 => codec ≤ 5
  | 1 => codec ≤ 2
  | 2 => 6 ≤ codec && codec ≤ 9
  | _ => codec == 10

/-- Frames that a clip spans (R236). -/
def Recipe.span (q : Recipe) : Nat := (q.frames - 1) * q.step + 1

/-- A part descriptor with its reserved bits zero and its fields in range for its recipe (R223, R224, R236). -/
def parsePart (r : List Byte) (q : Recipe) : Option PartD :=
  let v := fld r 0 8
  let l := fld r 0x10 8
  let m := fld r 0x18 8
  let p : PartD := ⟨bits v 0 44, bits v 44 4, fld r 8 4, fld r 0x0C 4, bits l 0 44, bits m 0 44, fld r 0x20 2, fld r 0x22 2,
    fld r 0x24 2, fld r 0x26 2, fld r 0x28 2, fld r 0x2C 4⟩
  let vid := p.codec ≤ 2
  let pix := p.codec ≤ 5
  if bits v 48 16 == 0 && bits l 44 20 == 0 && bits m 44 20 == 0 && zeroBytes r 0x2A 0x2C && zeroBytes r 0x30 0x40 && r.length == 64
    && codecOk q.media p.codec && decide (1 ≤ p.bytes)
    && (if vid then decide (q.span ≤ p.frames) else p.frames == 0)
    && (pix || (p.lens == 0 && p.mesh == 0))
    && (if p.codec = 5 then decide (16 ≤ p.tileW ∧ p.tileW ≤ 4096 ∧ 16 ≤ p.tileH ∧ p.tileH ≤ 4096 ∧ 1 ≤ p.imgW ∧ 1 ≤ p.imgH)
          && decide (1 ≤ bits p.format 0 5 ∧ bits p.format 0 5 ≤ 16) && bits p.format 11 5 == 0
        else p.tileW == 0 && p.tileH == 0 && p.imgW == 0 && p.imgH == 0)
    && (if p.codec = 9 then bits p.format 2 6 == 0 && decide (1 ≤ bits p.format 8 5 ∧ bits p.format 8 5 ≤ 16) && bits p.format 13 3 == 0
        else p.codec == 5 || p.format == 0)
    && (if 6 ≤ p.codec ∧ p.codec ≤ 9 then true else p.rate == 0)
    && (p.codec != 10 || p.bytes % 4 == 0)
  then some p else none

/-- A mesh (R231). -/
structure Mesh where
  nx : Nat
  ny : Nat
  cw : Nat
  ch : Nat
  pts : List Byte
  deriving DecidableEq, Repr, Inhabited

/-- Bytes of a mesh record whose 64-byte header is `r`; none where the header breaks R231. -/
def meshSize (r : List Byte) : Option Nat :=
  let w := fld r 0 4
  let nx := bits w 0 9
  let ny := bits w 16 9
  if 2 ≤ nx ∧ nx ≤ 257 ∧ 2 ≤ ny ∧ ny ≤ 257 ∧ 1 ≤ fld r 4 2 ∧ 1 ≤ fld r 6 2 then some (64 + 8 * nx * ny) else none

/-- The mesh of a record's bytes. -/
def meshOf (r : List Byte) : Mesh := ⟨bits (fld r 0 4) 0 9, bits (fld r 0 4) 16 9, fld r 4 2, fld r 6 2, r.drop 64⟩

/-- A lens record keeps R232; its reserved bytes are ignored (R6). -/
def lensOk (r : List Byte) : Bool := decide (256 ≤ fld r 8 4 ∧ 256 ≤ fld r 0x0C 4) && r.length == 64

/-- An exact quotient rounded to nearest, ties to even (R232). -/
def rdiv (a b : Int) : Int :=
  let n := if b < 0 then -a else a
  let d := if b < 0 then -b else b
  let q := n / d
  let r := n % d
  if 2 * r > d ∨ (2 * r = d ∧ q % 2 = 1) then q + 1 else q

/-- Where a mesh takes a crop-space point (R231), in Q8; outside the grid the manual states none (log 46). -/
def Mesh.at (m : Mesh) (u v : Nat) : Int × Int :=
  let i := u / m.cw
  let j := v / m.ch
  if m.nx ≤ i + 1 ∨ m.ny ≤ j + 1 then (Config.mediaOpen 0 u v, Config.mediaOpen 1 u v)
  else
    let al : Int := (u % m.cw : Nat)
    let be : Int := (v % m.ch : Nat)
    let cw : Int := m.cw
    let ch : Int := m.ch
    let p (k a b : Nat) : Int := sgn 32 (fld m.pts (8 * (a + m.nx * b) + 4 * k) 4)
    let g (k : Nat) : Int := rdiv ((cw - al) * (ch - be) * p k i j + al * (ch - be) * p k (i + 1) j
      + (cw - al) * be * p k i (j + 1) + al * be * p k (i + 1) (j + 1)) (cw * ch)
    (g 0, g 1)

/-- The lens of R232; none outside. -/
def lensAt (r : List Byte) (xu yu : Int) : Option (Int × Int) :=
  let c (o : Nat) : Int := sgn 32 (fld r o 4)
  let fx : Int := fld r 8 4
  let fy : Int := fld r 0x0C 4
  let m (a b : Int) : Int := roundShift (a * b) 24 0 0
  let one := pow2 24
  let x := rdiv ((xu - c 0) * one) fx
  let y := rdiv ((yu - c 4) * one) fy
  if 8 * one ≤ x.natAbs ∨ 8 * one ≤ y.natAbs then none
  else
    let r2 := m x x + m y y
    let r4 := m r2 r2
    let r6 := m r4 r2
    let k := one + m (c 0x10) r2 + m (c 0x14) r4 + m (c 0x18) r6
    let p1 := c 0x1C
    let p2 := c 0x20
    let xd := m x k + 2 * m p1 (m x y) + m p2 (r2 + 2 * m x x)
    let yd := m y k + m p1 (r2 + 2 * m y y) + 2 * m p2 (m x y)
    some (c 0 + rdiv (xd * fx) one, c 4 + rdiv (yd * fy) one)

/-- A random draw of the media complex (R237). -/
def mediaDraw (seed salt idx part stage n : Nat) : Nat :=
  philoxSeed seed (idx % 2 ^ 32) (2 * 2 ^ 16 + idx / 2 ^ 32 % 2 ^ 16) ((8 * part + stage) * 2 ^ 24 + n / 4) salt (n % 4)

/-- uniform(u, n) of R237. -/
def uniform (u n : Nat) : Nat := u * n / 2 ^ 32

/-- An image plane set as geometry reads it: the firmware manifest that runs, size, bands, depth, values. -/
structure Img where
  fw : List Byte
  w : Nat
  h : Nat
  bands : Nat
  depth : Nat
  vals : List Int
  deriving DecidableEq, Repr, Inhabited

/-- A pixel's band; outside the image the nearest edge, or FILL (R233). -/
def Img.tap (i : Img) (q : Recipe) (b : Nat) (x y : Int) : Int :=
  let inside := decide (0 ≤ x ∧ x < i.w ∧ 0 ≤ y ∧ y < i.h)
  if q.border && !inside then (q.fill : Int)
  else
    let cx := (min (max x 0) ((i.w : Int) - 1)).toNat
    let cy := (min (max y 0) ((i.h : Int) - 1)).toNat
    i.vals.getD ((cy * i.w + cx) * i.bands + b) 0

/-- The Keys kernel with a = −0.5 (R233) at phase `p` of 256 for tap `k`: 2048 times the tap in units of 2^−14. -/
def keysKernel (p : Int) : Nat → Int
  | 0 => -(p * p * p) + 512 * p * p - 65536 * p
  | 1 => 3 * p * p * p - 1280 * p * p + 33554432
  | 2 => -3 * p * p * p + 1024 * p * p + 65536 * p
  | _ => p * p * p - 256 * p * p

/-- A tap rounded down or up, which the manual leaves open; exact where it needs no rounding (log 21). -/
def keysRounded (fw : List Byte) (p k : Nat) : Int :=
  let x := keysKernel p k
  x / 2048 + (if x % 2048 = 0 then 0 else Config.bicubic fw p k % 2)

/-- A tap of the firmware's kernel table (R233): the four of a phase sum to 16,384 (log 21). -/
def bicubicTap (fw : List Byte) (p k : Nat) : Int :=
  if k = 2 then 16384 - keysRounded fw p 0 - keysRounded fw p 1 - keysRounded fw p 3 else keysRounded fw p k

/-- One band resampled at a Q8 point, with CLAMP (R233). -/
def Img.sample (i : Img) (q : Recipe) (b : Nat) (sx sy : Int) : Int × Bool :=
  match q.resample with
  | 0 => (i.tap q b ((sx + 128) / 256) ((sy + 128) / 256), false)
  | 1 =>
    let x := sx / 256
    let y := sy / 256
    let fx := sx % 256
    let fy := sy % 256
    (roundShift ((256 - fx) * (256 - fy) * i.tap q b x y + fx * (256 - fy) * i.tap q b (x + 1) y
      + (256 - fx) * fy * i.tap q b x (y + 1) + fx * fy * i.tap q b (x + 1) (y + 1)) 16 0 0, false)
  | _ =>
    let x := sx / 256
    let y := sy / 256
    let fx := (sx % 256).toNat
    let fy := (sy % 256).toNat
    let s : Int := ((List.range 4).map (fun k => ((List.range 4).map (fun m =>
      bicubicTap i.fw fx m * bicubicTap i.fw fy k * i.tap q b (x - 1 + (m : Int)) (y - 1 + (k : Int)))).sum)).sum
    let v := roundShift s 28 0 0
    let top := pow2 i.depth - 1
    (if v < 0 then 0 else if v > top then top else v, decide (v < 0 ∨ v > top))

/-- The edge pixel nearest the lens centre (R233, log 46). -/
def Img.edge (i : Img) (lens : List Byte) : Int × Int :=
  let c (o : Nat) (n : Nat) : Int := min (max ((sgn 32 (fld lens o 4) + 128) / 256) 0) ((n : Int) - 1)
  let x := c 0 i.w
  let y := c 4 i.h
  let l := x
  let r := (i.w : Int) - 1 - x
  let t := y
  let b := (i.h : Int) - 1 - y
  if l ≤ r ∧ l ≤ t ∧ l ≤ b then (0, y)
  else if r ≤ t ∧ r ≤ b then ((i.w : Int) - 1, y)
  else if t ≤ b then (x, 0) else (x, (i.h : Int) - 1)

/-- Orientation, crop and flips of a part (R230, R237). -/
structure Orient where
  fh : Bool
  fv : Bool
  k : Nat
  cx : Nat
  cy : Nat
  deriving DecidableEq, Repr, Inhabited

/-- Draws of a part as functions of the stage and draw number. -/
abbrev Draws := Nat → Nat → Nat

/-- The crop space of a decoded image (R230). -/
def spaceOf (q : Recipe) (mesh : Option Mesh) (i : Img) : Nat × Nat :=
  match mesh with
  | some m => ((m.nx - 1) * m.cw, (m.ny - 1) * m.ch)
  | none => (if q.virtW = 0 then i.w else q.virtW, if q.virtH = 0 then i.h else q.virtH)

/-- Orientation and crop; none where the crop space is smaller than the crop region (R230). -/
def orientOf (q : Recipe) (dr : Draws) (space : Nat × Nat) : Option Orient :=
  let set := if q.rot = 0 then [0] else bitList 4 q.rot
  let k := nth set (uniform (dr 4 2) set.length)
  let rw := if k % 2 = 0 then q.w else q.h
  let rh := if k % 2 = 0 then q.h else q.w
  if space.1 < rw ∨ space.2 < rh then none
  else
    let cx := if q.cropRand then uniform (dr 3 0) (space.1 - rw + 1) else q.cropX
    let cy := if q.cropRand then uniform (dr 3 1) (space.2 - rh + 1) else q.cropY
    some ⟨decide (dr 4 0 / 2 ^ 16 < q.flipH), decide (dr 4 1 / 2 ^ 16 < q.flipV), k, cx, cy⟩

/-- The source point of an output pixel in Q8, or none outside the lens (R230–R232). -/
def srcPoint (q : Recipe) (o : Orient) (mesh : Option Mesh) (lens : Option (List Byte)) (x0 y0 : Nat) : Option (Int × Int) :=
  let x := if o.fh then q.w - 1 - x0 else x0
  let y := if o.fv then q.h - 1 - y0 else y0
  let ab : Nat × Nat := match o.k with
    | 0 => (x, y)
    | 1 => (y, q.w - 1 - x)
    | 2 => (q.w - 1 - x, q.h - 1 - y)
    | _ => (q.h - 1 - y, x)
  let u := ab.1 + o.cx
  let v := ab.2 + o.cy
  let p : Int × Int := match mesh with
    | some m => m.at u v
    | none => (256 * (u : Int), 256 * (v : Int))
  match lens with
  | some l => lensAt l p.1 p.2
  | none => some p

/-- Gain and offset of a part (R237). -/
def gainOf (q : Recipe) (dr : Draws) : Int := ((q.gainLo + uniform (dr 5 0) (q.gainHi - q.gainLo + 1) : Nat) : Int)
def offOf (q : Recipe) (dr : Draws) : Int := q.offLo + (uniform (dr 5 1) ((q.offHi - q.offLo).toNat + 1) : Nat)

/-- The band matrix (R234) on one point, with CLAMP; `lo` and `hi` the clamp range. -/
def bandMix (q : Recipe) (band : List Byte) (g o lo hi : Int) (vs : List Int) : List Int × Bool :=
  if !q.bandEn then (vs, false)
  else
    let r := (List.range q.bOut).map (fun b =>
      let s : Int := ((vs.zipIdx).map (fun p => sgn 16 (fld band (2 * (16 * b + p.2)) 2) * p.1)).sum
      let v := roundShift (s * g) 24 0 0 + sgn 32 (fld band (512 + 4 * b) 4) + o
      (if v < lo then lo else if v > hi then hi else v, decide (v < lo ∨ v > hi)))
    (r.map Prod.fst, r.any (fun p => p.2))

/-- The tone stage of a pixel value of depth `p` (R235). -/
def toned (q : Recipe) (tone : List Byte) (b p : Nat) (v : Int) : Int :=
  let v16 := v * pow2 (16 - p)
  if q.toneEn then
    let i := (v16 / 16).toNat
    let f := v16 % 16
    let t (k : Nat) : Int := if k < 4096 then sgn 16 (fld tone (8192 * b + 2 * k) 2)
      else if k = 4096 then sgn 16 (fld tone (8192 * b + 2 * 4095) 2) else Config.mediaOpen 2 b k
    t i + roundShift ((t (i + 1) - t i) * f) 4 0 0
  else v16 - 32768

/-- Bytes and scale byte of one packed block (R235): `n` elements, padding zero. The scale byte is never the poison scale (R224); one
above 127, which the manual does not state, is free (log 46). -/
def packBlock (q : Recipe) (n : Nat) (ts : List Int) : List Byte × Byte :=
  let w := if q.outTy = 0 then 8 else 16
  let r : List Int × Int :=
    if q.auto then
      let b := requantAuto (ts.map (fun t => (t, 0))) q.exp w 0
      (b.qs, b.e)
    else if q.outTy = 1 then (ts.map (narrow 16), q.exp)
    else (ts.map (fun t => narrow 8 (roundShift t 8 0 0)),
      if q.exp + 8 ≤ 127 then q.exp + 8 else Config.mediaOpen 3 q.exp 0 % 255 - 127)
  (fitBytes (n * w / 8) (r.1.flatMap (fun v => toLE (w / 8) (unsgn w v))), scaleByte r.2)

/-- Pack blocks of 32 along one axis. -/
def packRow (q : Recipe) (ts : List Int) : List Byte × List Byte :=
  let bs := (chunksOf 32 ts).map (packBlock q 32)
  (bs.flatMap Prod.fst, bs.map Prod.snd)

/-- One frame through geometry, colour and packing (R230–R235): its packed planes and CLAMP. -/
def packFrame (q : Recipe) (o : Orient) (dr : Draws) (mesh : Option Mesh) (lens : Option (List Byte)) (band tone : List Byte) (i : Img) :
    List Byte × List Byte × Bool :=
  (List.range (q.w * q.h)).foldr (fun n (z : List Byte × List Byte × Bool) =>
    let vs : List (Int × Bool) := match srcPoint q o mesh lens (n % q.w) (n / q.w) with
      | some p => (List.range i.bands).map (fun b => i.sample q b p.1 p.2)
      | none => (List.range i.bands).map (fun b =>
          if q.border then ((q.fill : Int), false)
          else
            let e := i.edge (lens.getD [])
            (i.tap q b e.1 e.2, false))
    let m := bandMix q band (gainOf q dr) (offOf q dr) 0 65535 (vs.map Prod.fst)
    let ts := (m.1.zipIdx).map (fun p => toned q tone p.2 i.depth p.1)
    let b := packRow q ts
    (b.1 ++ z.1, b.2 ++ z.2.1, z.2.2 || m.2 || vs.any (fun v => v.2))) ([], [], false)

/-- Why a sample is dropped (R239), with its detail. -/
structure DropWhy where
  reason : Nat
  detail : Nat
  deriving DecidableEq, Repr, Inhabited

/-- The named records of a recipe as values. -/
def RecipeData.meshRec (d : RecipeData) (q : Recipe) : Option Mesh := if q.meshEn then some (meshOf d.mesh) else none
def RecipeData.lensRec (d : RecipeData) (q : Recipe) : Option (List Byte) := if q.lensEn then some d.lens else none

/-- A luma position on one axis of a component, in quarters of its samples (R227): own sampling factor, the largest, and where the
component's first sample lies, in halves. One that is no whole quarter is rounded down or up, which is open (log 46). -/
def chromaAt (f m : Nat) (o : Int) (x : Nat) : Int :=
  let n : Int := (4 * (x : Int) - 2 * o) * f
  n / m + (if n % m = 0 then 0 else Config.mediaOpen 4 n m % 2)

/-- Where a component's first sample lies: as the stream signals, else as in 4:2:0 type 0 (R227, log 46). -/
def lumaOffset (c : Plane) (mx my : Nat) : Int × Int :=
  let o := c.pos.getD (0, 1)
  (if c.fx = mx then 0 else o.1, if c.fy = my then 0 else o.2)

/-- The sample nearest a position in quarters; of two equally near ones either, which is open (log 46). -/
def nearQ (u : Int) : Int := if u % 4 = 2 then u / 4 + Config.mediaOpen 5 u 0 % 2 else (u + 2) / 4

/-- A component at a luma position (R227): interpolated, beyond its edge the nearest sample, signed values offset. -/
def lumaAt (c : Plane) (bilinear : Bool) (mx my k x y : Nat) : Int :=
  let o := lumaOffset c mx my
  let u := chromaAt c.fx mx o.1 x
  let v := chromaAt c.fy my o.2 y
  let clip (i : Int) (n : Nat) : Nat := (min (max i 0) ((n : Int) - 1)).toNat
  let g (i j : Int) : Int := (c.frames.getD k []).getD (clip j c.h * c.w + clip i c.w) 0 + (if c.signed then pow2 (c.depth - 1) else 0)
  if bilinear then
    roundShift ((4 - u % 4) * (4 - v % 4) * g (u / 4) (v / 4) + u % 4 * (4 - v % 4) * g (u / 4 + 1) (v / 4)
      + (4 - u % 4) * (v % 4) * g (u / 4) (v / 4 + 1) + u % 4 * (v % 4) * g (u / 4 + 1) (v / 4 + 1)) 4 0 0
  else g (nearQ u) (nearQ v)

/-- A frame with every component on the luma grid, bands interleaved, row by row (R227). -/
def lumaGrid (ps : List Plane) (bilinear : Bool) (k w h : Nat) : List Int :=
  let mx := (ps.map Plane.fx).foldl max 1
  let my := (ps.map Plane.fy).foldl max 1
  (List.range (w * h)).flatMap (fun n => ps.map (fun c => lumaAt c bilinear mx my k (n % w) (n / w)))

/-- Image and video parts after decoding (R227, R230–R236). -/
def pixPart (fw : List Byte) (q : Recipe) (p : PartD) (d : RecipeData) (dr : Draws) (w h : Nat) (ps : List Plane) :
    Except DropWhy (Packed × Bool) :=
  if ps.length ≠ q.bIn then .error ⟨6, 0⟩
  else if p.codec ≤ 2 ∧ ((ps.head?).map (fun c => c.frames.length)).getD 0 < p.frames then .error ⟨1, 0⟩
  else
    let start := if q.media = 1 ∧ q.cropRand then uniform (dr 0 0) (p.frames - q.span + 1) else 0
    let im (k : Nat) : Img := ⟨fw, w, h, ps.length, (ps.map Plane.depth).foldl max 0, lumaGrid ps q.chroma (start + k * q.step) w h⟩
    let mesh := d.meshRec q
    match orientOf q dr (spaceOf q mesh (im 0)) with
    | none => .error ⟨8, 0⟩
    | some o =>
      let fs := (List.range q.frames).map (fun k => packFrame q o dr mesh (d.lensRec q) d.band d.tone (im k))
      .ok (⟨fs.flatMap (fun f => f.1), fs.flatMap (fun f => f.2.1), if q.media = 1 then q.frames else q.w⟩, fs.any (fun f => f.2.2))

/-- Audio parts after decoding (R227, R234–R236). -/
def audPart (q : Recipe) (p : PartD) (d : RecipeData) (dr : Draws) (rate : Nat) (chans : List (List Int)) : Except DropWhy (Packed × Bool) :=
  if chans.length ≠ q.bIn ∨ rate ≠ p.rate then .error ⟨6, 0⟩
  else
    let l := (nth chans 0).length
    let start := if l < q.w then 0 else if q.cropRand then uniform (dr 3 0) (l - q.w + 1) else q.cropX
    let n := min q.w (l - start)
    let mixed := (List.range n).map (fun t =>
      bandMix q d.band (gainOf q dr) (offOf q dr) (-32768) 32767 (chans.map (fun c => c.getD (start + t) 0)))
    let rows := (List.range q.bOut).map (fun c =>
      packRow q ((List.range q.w).map (fun t => ((mixed[t]?).map (fun m => m.1.getD c 0)).getD 0)))
    .ok (⟨rows.flatMap Prod.fst, rows.flatMap Prod.snd, n⟩, mixed.any (fun m => m.2))

/-- Text parts (R226, R236). -/
def textPart (q : Recipe) (raw : List Byte) : Except DropWhy (Packed × Bool) :=
  let toks := (chunksOf 4 raw).map leNat
  if toks.any (fun t => decide (2 ^ 31 ≤ t)) then .error ⟨7, 0⟩
  else
    let kept := toks.take q.w
    let row := kept ++ List.replicate (q.w - kept.length) q.fill
    .ok (⟨row.flatMap (toLE 4), [], kept.length⟩, false)

/-- PCM bytes as channels of S16 (R226, R227); a frame cut short ends early. -/
def pcmChans (p : PartD) (raw : List Byte) : Decoded :=
  let f := bits p.format 0 2
  let n := bits p.format 8 5
  let w := f + 1
  if raw.length % (w * n) ≠ 0 then .corrupt 0
  else
    let one (b : List Byte) : Int := match f with
      | 0 => ((leNat b : Nat) - 128 : Int) * 256
      | 1 => sgn 16 (leNat b)
      | 2 => narrow 16 (roundShift (sgn 24 (leNat b)) 8 0 0)
      | _ => narrow 16 (roundShift (sgn 32 (leNat b)) 16 0 0)
    let frames := chunksOf (w * n) raw
    .audio p.rate 16 ((List.range n).map (fun c => frames.map (fun fr => one ((fr.drop (c * w)).take w))))

/-- Tiles of a CODEC 5 part: across, down, planes (R223). -/
def PartD.tiles (p : PartD) : Nat × Nat × Nat :=
  (cdiv p.imgW p.tileW, cdiv p.imgH p.tileH, if bit p.format 5 then bits p.format 0 5 else 1)

/-- Samples of one tile from its decompressed bytes (R226, R227): the predictor undone, signed samples offset (log 46). -/
def tileVals (p : PartD) (raw : List Byte) : List Nat :=
  let wide := bit p.format 7
  let w := if wide then 2 else 1
  let per := if bit p.format 5 then 1 else bits p.format 0 5
  let m := if wide then 65536 else 256
  let rows := (chunksOf (p.tileW * per * w) raw).map (fun r => (chunksOf w r).map leNat)
  let undone := if bit p.format 10 then
      rows.map (fun r => ((List.range r.length).foldl (fun (z : List Nat) k =>
        z ++ [if k < per then nth r k else (nth r k + nth z (k - per)) % m]) []))
    else rows
  (undone.flatten).map (fun v => if bit p.format 6 then (v + m / 2) % m else v)

/-- The image that a part's tiles make: tile bytes in table order; a tile that ends early, or that does not inflate, is
corrupt. -/
def tiffImage (p : PartD) (tiles : List (List Byte)) : Decoded :=
  let g := p.tiles
  let wide := bit p.format 7
  let bands := bits p.format 0 5
  let per := if bit p.format 5 then 1 else bands
  let need := p.tileW * p.tileH * per * (if wide then 2 else 1)
  let comp := bits p.format 8 2
  let raw := tiles.map (fun t => if comp = 0 then some t else Config.inflate comp t)
  if raw.any (fun r => ((r.map (fun b => decide (b.length < need))).getD true)) then .corrupt 0
  else
    let vals := raw.map (fun r => tileVals p ((r.getD []).take need))
    let at_ (x y b : Nat) : Int :=
      let pl := if bit p.format 5 then b else 0
      let t := x / p.tileW + g.1 * (y / p.tileH + g.2.1 * pl)
      ((nth vals t).getD ((y % p.tileH * p.tileW + x % p.tileW) * per + (if bit p.format 5 then 0 else b)) 0 : Nat)
    .pixels p.imgW p.imgH ((List.range bands).map (fun b => ⟨p.imgW, p.imgH, if wide then 16 else 8, false, 1, 1, none,
      [(List.range (p.imgW * p.imgH)).map (fun n => at_ (n % p.imgW) (n / p.imgW) b)]⟩))

/-- The largest picture of a codec (table "Decoder support", R226). -/
def pixLimit (codec : Nat) : Nat × Nat :=
  match codec with
  | 0 => (8192, 4352)
  | 1 => (8192, 4352)
  | 2 => (4096, 2304)
  | 5 => (65535, 65535)
  | _ => (32768, 32768)

/-- Components of a 4:2:0 picture; of a monochrome one. -/
def is420 (ps : List Plane) : Bool :=
  match ps with
  | [y, u, v] => y.fx == 2 * u.fx && y.fy == 2 * u.fy && u.fx == v.fx && u.fy == v.fy
  | _ => false
def isMono (ps : List Plane) : Bool := ps.length == 1

/-- A picture's form is among a codec's supported features (table "Decoder support", R226). -/
def pixSupported (codec : Nat) (ps : List Plane) : Bool :=
  let deep (n : Nat) : Bool := ps.all (fun c => decide (1 ≤ c.depth ∧ c.depth ≤ n))
  match codec with
  | 0 => (is420 ps || isMono ps) && deep 10 && ps.all (fun c => decide (8 ≤ c.depth))
  | 1 => (is420 ps || isMono ps) && ps.all (fun c => c.depth == 8 || c.depth == 10)
  | 2 => is420 ps && ps.all (fun c => c.depth == 8)
  | 3 => decide (1 ≤ ps.length ∧ ps.length ≤ 16) && deep 16
  | 4 => decide (1 ≤ ps.length ∧ ps.length ≤ 4) && ps.all (fun c => c.depth == 8 && decide (1 ≤ c.fx ∧ c.fx ≤ 4 ∧ 1 ≤ c.fy ∧ c.fy ≤ 4))
  | _ => true

/-- The drop that the table "Decoder support" gives a decoded part (R226, R239): UNSUPPORTED before LIMIT where both hold (log 20). -/
def supportDrop (codec : Nat) (x : Decoded) : Option DropWhy :=
  let unsupported : DropWhy := ⟨2, (Config.mediaOpen 6 codec 0 % 65536).toNat⟩
  let limit : DropWhy := ⟨3, 0⟩
  match x with
  | .pixels w h ps =>
    if !pixSupported codec ps then some unsupported
    else if (pixLimit codec).1 < w ∨ (pixLimit codec).2 < h then some limit else none
  | .audio r b cs =>
    match codec with
    | 6 => if b = 32 then some unsupported
        else if b < 4 ∨ 24 < b ∨ cs.length = 0 ∨ 8 < cs.length ∨ 192000 < r then some limit else none
    | 7 => if cs.length = 0 ∨ 8 < cs.length then some limit else none
    | 8 => if cs.length = 0 ∨ cs.length = 7 ∨ 8 < cs.length ∨ r < 8000 ∨ 96000 < r then some limit else none
    | _ => none
  | _ => none

/-- An audio sample as S16 (R227): a wider one narrowed by RNE and clamped; what a narrower one becomes is open (log 46). -/
def audio16 (bits : Nat) (v : Int) : Int :=
  if bits = 16 then v else if bits < 16 then narrow 16 (Config.mediaOpen 7 bits v) else narrow 16 (roundShift v (bits - 16) 0 0)

/-- A decoded part through its recipe (R226, R227): Opus comes out at 48 kHz. -/
def finishPart (fw : List Byte) (q : Recipe) (p : PartD) (d : RecipeData) (dr : Draws) (x : Decoded) : Except DropWhy (Packed × Bool) :=
  match supportDrop p.codec x with
  | some w => .error w
  | none => match x with
  | .pixels w h ps => if q.media ≤ 1 then pixPart fw q p d dr w h ps else .error ⟨6, 0⟩
  | .audio r b cs =>
    if q.media = 2 then audPart q p d dr (if p.codec = 7 then 48000 else r) (cs.map (fun c => c.map (audio16 b))) else .error ⟨6, 0⟩
  | .corrupt k => .error ⟨1, k⟩
  | .unsupported k => .error ⟨2, k⟩
  | .limit => .error ⟨3, 0⟩

/-- Padded bands or samples, and bytes of one element of an output. -/
def Recipe.elBytes (q : Recipe) : Nat := if q.outTy = 0 then 1 else if q.outTy = 1 then 2 else 4

/-- Data and scale bytes of one sample of an output (R238). -/
def Recipe.sampleBytes (q : Recipe) : Nat × Nat :=
  match q.media with
  | 3 => (4 * q.w, 0)
  | 2 => (cdiv q.w 32 * 32 * q.bOut * q.elBytes, cdiv q.w 32 * q.bOut)
  | _ => (32 * q.w * q.h * q.frames * q.elBytes, q.w * q.h * q.frames)

end Sys2Proof.Machine
end

