-- ==== Sys2Proof/Machine/Media.lean ====
section
/-! DEFINITION. Media channels (09): opening, submitting and closing, intake, stream slots, decoding, the convoy assembler, buffer
sets of steps. -/
namespace Sys2Proof.Machine

/-- A channel record that keeps its table (R220), with what it reserves. -/
def parseChan (r : List Byte) : Option Chan :=
  let w := fld r 0 4
  let v := fld r 8 4
  let x := fld r 0x10 4
  let a := fld r 0x18 8
  let outs := bits w 3 2 + 1
  let rec_ (o : Nat) : Nat := fld r (0x20 + 8 * o) 8
  let n := fld r 4 2
  let rsv := fld r 6 2
  let strict := bit w 0
  if bits w 1 2 != 3 && bits w 5 27 == 0 && decide (1 ≤ n ∧ n ≤ 1024 ∧ rsv ≤ 1024) && (!strict || rsv == 0)
    && decide (2 ≤ bits v 12 4 ∧ bits v 12 4 ≤ 8) && bits v 24 8 == 0
    && decide (n + rsv ≤ bits x 0 13 ∧ bits x 0 13 ≤ 4096) && bits x 13 3 == 0 && bits x 28 4 == 0 && zeroBytes r 0x14 0x18
    && bits a 44 20 == 0 && bits a 0 21 == 0
    && (List.range 4).all (fun o => bits (rec_ o) 44 20 == 0 && bits (rec_ o) 0 6 == 0 && (decide (o < outs) || rec_ o == 0))
    && zeroBytes r 0x40 0x80 && r.length == 128
  then some {
    job := 0, strict := strict, half := bits w 1 2, outs := outs, batchN := n, reserve := rsv
    late := if bits v 0 8 = 0 then 32 else bits v 0 8
    dropRoom := bits v 16 8, stepBatches := bits v 8 4 + 1, buffers := bits v 12 4, salt := fld r 0x0C 4
    inflight := bits x 0 13, ctr := bits x 16 12, window := bits a 0 44, recipes := (List.range outs).map rec_
    planes := [], sets := [], nextPos := 0, taken := 0, samples := [], drops := [], closed := false, finalSent := false
    batches := 0, consumed := 0, freed := 0 }
  else none

/-- Round up to a multiple. -/
def roundUp (n m : Nat) : Nat := cdiv n m * m

/-- Bytes of a manifest's place (R221). -/
def Chan.maniBytes (c : Chan) : Nat := roundUp (64 + 32 * (c.batchN + c.dropRoom)) 4096

/-- Offsets of each output's data and scale plane in a batch, and the batch's size (R221). -/
def Chan.layout (c : Chan) : List (Nat × Nat) × Nat :=
  c.planes.foldl (fun (z : List (Nat × Nat) × Nat) p =>
    let sc := z.2 + roundUp (c.batchN * p.1) 4096
    (z.1 ++ [(z.2, sc)], sc + (if p.2 = 0 then 64 else roundUp (c.batchN * p.2) 4096))) ([], c.maniBytes)

/-- Pages of one buffer set (R221). -/
def Chan.setPages (c : Chan) : Nat := cdiv (c.stepBatches * c.layout.2) (2 ^ 21)

/-- Media halves that a host may use (R353): host B those of its grant. -/
def State.mediaFor (s : State) (h : Option HostId) : Nat :=
  if h = some HostId.b then s.part.mediaHalves &&& s.grantHalves else s.part.mediaHalves

/-- The row of MediaChannelOpen in the command catalogue (R370). -/
def specMediaChannelOpen : CmdSpec :=
  ⟨0x0301, false, true, false, false, [(0x08, 0, 44)]⟩

/-- The recipes that a channel names, read in order; none where a read fails or a recipe breaks its table (R220). -/
def State.readRecipes (s : State) (f : Faults) (j : Nat) (pt : NMap Nat) : List Nat → State × Except Nat (List Recipe)
  | [] => (s, .ok [])
  | a :: r =>
    match s.cmdJobRead f j pt a 128 with
    | (t, none) => (t, .error 0x000E)
    | (t, some b) => match t.readRecipes f j pt r, parseRecipe b with
      | (u, .ok qs), some q => (u, .ok (q :: qs))
      | (u, .error e), _ => (u, .error e)
      | (u, .ok _), none => (u, .error 0x0003)

/-- A channel as the recipes in force at open fix it (log 46). -/
def Chan.withRecipes (ch : Chan) (j : Nat) (qs : List Recipe) : Chan := { ch with job := j, planes := qs.map Recipe.sampleBytes }

/-- There is no room for one more channel (R218, R221). -/
def State.chansFull (s : State) (ch : Chan) : Bool :=
  decide (64 ≤ s.chans.length)
    || (ch.strict && decide (8 ≤ (s.chans.filter (fun (p : Nat × Chan) => p.2.strict)).length))
    || decide (s.part.mediaSamples < (s.chans.map (fun (p : Nat × Chan) => p.2.inflight)).sum + ch.inflight)

/-- The window of a channel is not free in its job's address space. -/
def windowTaken (jb : Job) (ch : Chan) : Bool :=
  decide (2 ^ 44 < ch.window + ch.setPages * 2 ^ 21) || (List.range ch.setPages).any (fun k =>
    (mget jb.pt (ch.window / 2 ^ 21 + k)).isSome || (mget jb.ptNext (ch.window / 2 ^ 21 + k)).isSome)

/-- A checked channel takes its pages and the lowest free number (R221, log 33). -/
def State.placeChan (s : State) (jb : Job) (ch : Chan) : CmdRes :=
  if windowTaken jb ch then .done s 0x0003 0
  else match s.allocJob jb.hbms (ch.buffers * ch.setPages) with
    | none => .done s 0x0004 0
    | some pg => match freshBelow 64 (s.chans.map Prod.fst) with
      | none => .done s 0x0001 0
      | some id => .done { s with chans := mset s.chans id { ch with sets := chunksOf ch.setPages pg } } 0 id

/-- MEDIA_CHANNEL_OPEN (R4, R220, R221). DESIGN CHOICE (log 60): on the PZ8-T the common checks still come before ST_ABSENT. -/
def execMediaChannelOpen (h : HostId) (c : CmdRec) (f : Faults) (s : State) : Host.Outcome State Fault Refusal :=
  .next (s.command specMediaChannelOpen h c (fun s =>
    match s.job c.job.toNat with
    | none => .done s 0x0005 0
    | some jb =>
      let j := c.job.toNat
      let va := c.par 0x08 0 44
      if s.part.mediaHalves = 0 then .done s 0x0002 0
      else if va % 64 ≠ 0 then .done s 0x0003 0
      else match s.cmdJobRead f j jb.pt va 128 with
        | (t, none) => .done t 0x000E 0
        | (t, some r) => match parseChan r with
          | none => .done t 0x0003 0
          | some ch =>
            if ch.half ≠ 0 ∧ !(s.part.mediaHalves.testBit (ch.half - 1)) then .done t 0x0002 0
            else if t.mediaFor (some h) = 0 ∨ (ch.half ≠ 0 ∧ !((t.mediaFor (some h)).testBit (ch.half - 1))) then .done t 0x0003 0
            else if t.chansFull ch then .done t 0x0001 0
            else match t.readRecipes f j jb.pt ch.recipes with
              | (u, .error e) => .done u e 0
              | (u, .ok qs) => u.placeChan jb (ch.withRecipes j qs)))

/-- Change a channel. -/
def State.setChan (s : State) (c : Nat) (v : Chan) : State := { s with chans := mset s.chans c v }

/-- An earlier open command of the host names the same channel (R366). -/
def State.chanBusy (s : State) (h : HostId) (job ch : Nat) : Bool :=
  (s.host h).openCmds.any (fun o => o.job == job && (o.kind == .submit ch
    || (o.kind == .waiting && (o.op == 0x0302 || o.op == 0x0303) && o.cmd.par 0x08 0 6 == ch)))

/-- MEDIA_SUBMIT's own part (R223): it stays open until its last entry is taken. -/
def submitBody (c : CmdRec) (s : State) : CmdRes :=
  let ch := c.par 0x08 0 6
  let n := c.par 0x18 0 13
  match mget s.chans ch with
  | none => .done s 0x0003 0
  | some x =>
    if x.job ≠ c.job.toNat then .done s 0x0003 0
    else if x.closed then .done s 0x0009 0
    else if n = 0 ∨ 4096 < n then .done s 0x0003 0
    else .later (s.setChan ch { x with taken := 0 }) (.submit ch)

/-- MEDIA_CHANNEL_CLOSE's own part (R244). -/
def closeBody (c : CmdRec) (s : State) : CmdRes :=
  let ch := c.par 0x08 0 6
  match mget s.chans ch with
  | none => .done s 0x0003 0
  | some x =>
    if x.job ≠ c.job.toNat then .done s 0x0003 0
    else if x.closed then .done s 0x0009 0
    else .done (s.setChan ch { x with closed := true }) 0 0

/-- A channel command's own part by its opcode; a part with no media half has none (R4). -/
def chanBody (op : Nat) (c : CmdRec) (s : State) : CmdRes :=
  if s.part.mediaHalves = 0 then .done s 0x0002 0 else if op = 0x0302 then submitBody c s else closeBody c s

/-- A channel command, behind an earlier one on the same channel (R366). -/
def chanCmd (h : HostId) (op : Nat) (c : CmdRec) (s : State) : CmdRes :=
  if s.chanBusy h c.job.toNat (c.par 0x08 0 6) then .later s .waiting else chanBody op c s

/-- The row of MediaSubmit in the command catalogue (R370). -/
def specMediaSubmit : CmdSpec :=
  ⟨0x0302, false, true, false, false, [(0x08, 0, 6), (0x10, 0, 44), (0x18, 0, 13)]⟩

/-- MEDIA_SUBMIT. -/
def execMediaSubmit (h : HostId) (c : CmdRec) (s : State) : Host.Outcome State Fault Refusal :=
  .next (s.command specMediaSubmit h c (chanCmd h 0x0302 c))

/-- The row of MediaChannelClose in the command catalogue (R370). -/
def specMediaChannelClose : CmdSpec :=
  ⟨0x0303, false, true, false, false, [(0x08, 0, 6)]⟩

/-- MEDIA_CHANNEL_CLOSE. -/
def execMediaChannelClose (h : HostId) (c : CmdRec) (s : State) : Host.Outcome State Fault Refusal :=
  .next (s.command specMediaChannelClose h c (chanCmd h 0x0303 c))

/-! ### Intake -/

/-- The media complex as a reader (R224, R406). -/
def mediaReader (half j : Nat) : Reader := ⟨6, half, j, 0xFFFFFFFF, 1⟩

/-- Job memory that the complex reads; none where an address or a line fails (R224). -/
def State.mediaRead (s : State) (f : Faults) (half j : Nat) (pt : NMap Nat) (va n : Nat) : State × Option (List Byte) :=
  if !s.jobReach pt va n then (s, none)
  else
    let ls := jobLines pt va n
    let t := s.meet (mediaReader half j) f ls
    (t, if (badLines s f ls).isEmpty then some (jobBytes s pt va n) else none)

/-- A sample is dropped (R239, R240). -/
def Chan.drop (c : Chan) (stage : Nat) (m : Sample) (why : DropWhy) (part : Nat) : Chan :=
  { c with
    samples := c.samples.filter (fun x => x.pos != m.pos)
    drops := c.drops ++ [⟨m.pos, m.idx, m.tag, m.half, why.reason, part, why.detail, stage⟩] }

/-- Samples in flight on a half. -/
def State.onHalf (s : State) (h : Nat) : Nat :=
  (s.chans.map (fun (p : Nat × Chan) => (p.2.samples.filter (fun (m : Sample) => m.half == h)).length)).sum

/-- The half of a new sample (R218), of those that the job's host may use (R353). -/
def State.pickHalf (s : State) (c : Chan) : Nat :=
  let may := s.mediaFor (s.owner c.job)
  if c.half ≠ 0 then c.half - 1
  else if !may.testBit 1 then 0
  else if !may.testBit 0 ∨ s.onHalf 1 < s.onHalf 0 then 1 else 0

/-- The recipe data of one part (R229): the recipe, then the records it names, or the drop reason. -/
def State.readRecipe (s : State) (f : Faults) (half j : Nat) (pt : NMap Nat) (addr : Nat) (part : List Byte) (planes : Nat × Nat) :
    State × Except DropWhy RecipeData :=
  match s.mediaRead f half j pt addr 128 with
  | (s1, none) => (s1, .error ⟨5, 0⟩)
  | (s1, some r) => match parseRecipe r with
    | none => (s1, .error ⟨6, 0⟩)
    | some q => match parsePart part q with
      | none => (s1, .error ⟨6, 0⟩)
      | some p =>
        if q.sampleBytes ≠ planes then (s1, .error ⟨6, 0⟩)
        else
          let lensA := if p.lens = 0 then q.lens else p.lens
          let meshA := if p.mesh = 0 then q.mesh else p.mesh
          let get (z : State × Option (List Byte)) (on : Bool) (a n : Nat) : State × Option (List Byte) := match z.2 with
            | none => z
            | some _ => if on then z.1.mediaRead f half j pt a n else (z.1, some [])
          let l := get (s1, some []) q.lensEn lensA 64
          let mh := get l q.meshEn meshA 64
          let sz := meshSize (mh.2.getD [])
          if mh.2.isNone then (mh.1, .error ⟨5, 0⟩)
          else if (q.lensEn ∧ !lensOk (l.2.getD [])) ∨ (q.meshEn ∧ sz.isNone) then (mh.1, .error ⟨6, 0⟩)
          else
            let m := get mh q.meshEn meshA (sz.getD 64)
            let b := get m q.bandEn q.band 576
            let t := get b q.toneEn q.tone (8192 * q.bOut)
            if t.2.isNone then (t.1, .error ⟨5, 0⟩)
            else (t.1, .ok ⟨r, l.2.getD [], m.2.getD [], b.2.getD [], t.2.getD []⟩)

/-- Every part of an entry: its recipes, or the first drop reason with its part. -/
def State.readParts (s : State) (f : Faults) (half j : Nat) (pt : NMap Nat) (k : Nat) :
    List (Nat × List Byte × (Nat × Nat)) → State × Except (DropWhy × Nat) (List RecipeData)
  | [] => (s, .ok [])
  | (a, b, pl) :: r =>
    let x := s.readRecipe f half j pt a b pl
    match x.2 with
    | .error w => (x.1, .error (w, k))
    | .ok d =>
      let y := x.1.readParts f half j pt (k + 1) r
      (y.1, match y.2 with
        | .error e => .error e
        | .ok l => .ok (d :: l))

/-- The open MEDIA_SUBMIT of a channel. -/
def State.submitOf (s : State) (ch : Nat) : Option (HostId × OpenCmd) :=
  let one (h : HostId) : Option (HostId × OpenCmd) := ((s.host h).openCmds.find? (fun o => o.kind == .submit ch)).map (fun o => (h, o))
  (one .a).or (one .b)

/-- The channel takes the next entry of its open MEDIA_SUBMIT (R223, R224). -/
def State.takeSample (s : State) (f : Faults) (n : Nat) (ch : Chan) (h : HostId) (o : OpenCmd) (jb : Job) : State :=
  let half := s.pickHalf ch
  let size := 64 * (1 + ch.outs)
  let va := o.cmd.par 0x10 0 44 + ch.taken * size
  let e := s.mediaRead f half ch.job jb.pt va size
  let b := e.2.getD []
  let m : Sample := ⟨ch.nextPos, bits (fld b 0 8) 0 48, fld b 8 4, half, (chunksOf 64 (b.drop 64)), [], 0, [], false, 0, false, none⟩
  let ch1 := { ch with nextPos := ch.nextPos + 1, taken := ch.taken + 1 }
  let r : State × Chan :=
    if e.2.isNone then (e.1, ch1.drop s.stage m ⟨5, 0⟩ 0)
    else if fld b 6 2 != 0 || !zeroBytes b 0x0C 0x40 then (e.1, ch1.drop s.stage m ⟨6, 0⟩ 0)
    else
      let x := e.1.readParts f half ch.job jb.pt 0 (((ch.recipes.zip m.parts).zip ch.planes).map (fun p => (p.1.1, p.1.2, p.2)))
      match x.2 with
      | .error w => (x.1, ch1.drop s.stage m w.1 w.2)
      | .ok l => (x.1, { ch1 with samples := ch1.samples ++ [{ m with recipes := l }] })
  let s1 := r.1.setChan n r.2
  if ch1.taken < o.cmd.par 0x18 0 13 then s1
  else
    (s1.completeWhere h (fun q => if q = o then some (0, 0) else none)).runWaiting h
      (fun q => q.job == o.job && (q.op == 0x0302 || q.op == 0x0303) && q.cmd.par 0x08 0 6 == n) (fun q => chanBody q.op q.cmd)

/-- MEDIA_SAMPLE_TAKE (R85, R218, R220, R223, R224): intake pauses while the channel holds INFLIGHT samples. -/
def execMediaSampleTake (channel : BitVec 6) (f : Faults) (s : State) : Host.Outcome State Fault Refusal :=
  match mget s.chans channel.toNat, s.submitOf channel.toNat with
  | some ch, some (h, o) =>
    match s.job ch.job with
    | some jb =>
      if s.cvrWorks && decide (ch.samples.length < ch.inflight) then .next (s.takeSample f channel.toNat ch h o jb)
      else .next s
    | none => .next s
  | _, _ => .next s

/-! ### Decoding -/

/-- Parts of a sample that are packed; parts that hold a slot. -/
def Sample.packed (m : Sample) : Nat := m.done.length
def Sample.slots (m : Sample) : Nat := m.started - m.packed

/-- Every part is packed. -/
def Sample.complete (m : Sample) : Bool := m.packed == m.parts.length

/-- Slots in use on a half (R218, R225). -/
def State.slotsUsed (s : State) (h : Nat) : Nat :=
  (s.chans.map (fun (p : Nat × Chan) => ((p.2.samples.filter (fun (m : Sample) => m.half == h)).map Sample.slots).sum)).sum

/-- The lowest unresolved position of a channel (R242): a sample stays unresolved until it is ready or dropped. -/
def Chan.head (c : Chan) : Option Sample :=
  (c.samples.filter (fun m => !m.ready)).foldl (fun (a : Option Sample) m => match a with
    | none => some m
    | some b => if m.pos < b.pos then some m else a) none

/-- The next sample of a channel on a half with a part to start. -/
def Chan.nextStart (c : Chan) (h : Nat) : Option Sample :=
  (c.samples.filter (fun m => m.half == h && decide (m.started < m.parts.length))).foldl (fun (a : Option Sample) m => match a with
    | none => some m
    | some b => if m.pos < b.pos then some m else a) none

/-- The sample that gets a free slot (R225): the head of a strict channel, else channels in rotation. -/
def State.nextSlot (s : State) (h : Nat) : Option (Nat × Sample) :=
  let strict := s.chans.findSome? (fun (p : Nat × Chan) => if p.2.strict then
      (p.2.head.bind (fun m => if m.half = h ∧ m.started < m.parts.length then some (p.1, m) else none)) else none)
  match strict with
  | some x => some x
  | none =>
    let last := mgetD s.rrHalf h 63
    (List.range 64).findSome? (fun k =>
      let c := (last + 1 + k) % 64
      ((mget s.chans c).bind (fun x => x.nextStart h)).map (fun m => (c, m)))

/-- Change a sample. -/
def Chan.setSample (c : Chan) (m : Sample) : Chan := { c with samples := c.samples.map (fun x => if x.pos = m.pos then m else x) }

/-- MEDIA_DECODE_START (R225). -/
def execMediaDecodeStart (half : BitVec 1) (s : State) : Host.Outcome State Fault Refusal :=
  let h := half.toNat
  if !(s.live && s.part.mediaHalves.testBit h && decide (s.slotsUsed h < 128)) then .next s
  else match s.nextSlot h with
    | none => .next s
    | some (c, m) => match mget s.chans c with
      | none => .next s
      | some ch =>
        .next { (s.setChan c (ch.setSample { m with started := m.started + 1 })) with rrHalf := mset s.rrHalf h c }

/-- The bytes of a part, or its tiles' bytes (R223, R224). -/
def State.partBytes (s : State) (f : Faults) (half j : Nat) (pt : NMap Nat) (p : PartD) : State × Option (List (List Byte)) :=
  if p.codec ≠ 5 then
    let r := s.mediaRead f half j pt p.src p.bytes
    (r.1, r.2.map (fun b => [b]))
  else
    let g := p.tiles
    let t := s.mediaRead f half j pt p.src (16 * g.1 * g.2.1 * g.2.2)
    match t.2 with
    | none => (t.1, none)
    | some b => (chunksOf 16 b).foldl (fun (z : State × Option (List (List Byte))) e => match z.2 with
        | none => z
        | some l =>
          let r := z.1.mediaRead f half j pt (bits (fld e 0 8) 0 44) (fld e 8 4)
          (r.1, r.2.map (fun x => l ++ [x]))) (t.1, some [])

/-- What the decoder makes of a part (R226, R227). -/
def decodePart (fw : List Byte) (q : Recipe) (p : PartD) (raw : List (List Byte)) : Decoded :=
  if p.codec = 5 then tiffImage p raw
  else if p.codec = 9 then pcmChans p (nth raw 0)
  else Config.decode fw p.codec q.grain (nth raw 0)

/-- The firmware manifest that runs (R219). -/
def State.mediaFw (s : State) : List Byte := (s.flash.bank s.upd.running).manifest

/-- The part of a sample that finishes (R225): of those that hold a slot, which one is open (log 46). -/
def Sample.finishing (m : Sample) (free : Nat) : Nat :=
  let l := (List.range m.started).filter (fun k => (mget m.done k).isNone)
  nth l (free % max 1 l.length)

/-- A part of a sample finishes (R219, R226–R237), or its sample is dropped. -/
def State.decodeDone (s0 : State) (f : Faults) (n : Nat) (ch : Chan) (m : Sample) (jb : Job) : State :=
  let s := s0.free.2
  let k := m.finishing s0.free.1
  let d := nth m.recipes k
  match parseRecipe d.recipe with
  | none => s
  | some q => match parsePart (nth m.parts k) q with
    | none => s
    | some p =>
      let rd := s.partBytes f m.half ch.job jb.pt p
      let dr : Draws := fun st dn => mediaDraw jb.seed ch.salt m.idx k st dn
      let r : Except DropWhy (Packed × Bool) := match rd.2 with
        | none => .error ⟨5, 0⟩
        | some raw => if q.media = 3 then textPart q (nth raw 0)
            else finishPart s.mediaFw q p d dr (decodePart s.mediaFw q p raw)
      match r with
      | .error w => rd.1.setChan n (ch.drop s.stage m w k)
      | .ok x =>
        rd.1.setChan n (ch.setSample { m with
          done := mset m.done k x.1, clamp := m.clamp || x.2, doneStage := s.stage })

/-- MEDIA_DECODE_DONE. -/
def execMediaDecodeDone (channel : BitVec 6) (pos : BitVec 64) (f : Faults) (s : State) : Host.Outcome State Fault Refusal :=
  match mget s.chans channel.toNat with
  | none => .next s
  | some ch => match ch.samples.find? (fun m => m.pos == pos.toNat), s.job ch.job with
    | some m, some jb => if s.live && decide (m.packed < m.started) then .next (s.decodeDone f channel.toNat ch m jb) else .next s
    | _, _ => .next s

/-! ### The convoy assembler -/

/-- A manifest entry of a sample or of a drop (R239). -/
def Sample.entry (m : Sample) : List Byte :=
  let l (k : Nat) : Nat := ((mget m.done k).map (fun p => p.len)).getD 0
  toLE 8 (m.idx + m.half % 2 * 2 ^ 49 + b2n m.clamp * 2 ^ 50) ++ toLE 8 m.pos ++ toLE 4 m.tag
    ++ toLE 4 (l 0 % 2 ^ 16 + l 1 % 2 ^ 16 * 2 ^ 16) ++ toLE 4 (l 2 % 2 ^ 16 + l 3 % 2 ^ 16 * 2 ^ 16) ++ zeros 4
def Drop.entry (d : Drop) : List Byte :=
  toLE 8 (d.idx + 2 ^ 48 + d.half % 2 * 2 ^ 49) ++ toLE 8 d.pos ++ toLE 4 d.tag
    ++ toLE 4 (d.reason % 256 + d.part % 4 * 2 ^ 8 + d.detail % 2 ^ 16 * 2 ^ 16) ++ toLE 4 d.stage ++ toLE 4 (d.stage / 2 ^ 32 % 2 ^ 16)

/-- One batch position: a sample, or a drop of a strict channel. -/
inductive Slot where
  | smp (m : Sample)
  | gone (d : Drop)
  deriving DecidableEq, Repr, Inhabited

/-- Write bytes into a buffer set at an offset, page by page. -/
def State.setStore (s : State) (pages : List Nat) (off : Nat) (d : List Byte) : State :=
  (linesOf off d.length).foldl (fun (t : State) l =>
    let lo := max l off
    let hi := min (l + 64) (off + d.length)
    t.store (nth pages (lo / 2 ^ 21) * 2 ^ 21 + lo % 2 ^ 21) ((d.drop (lo - off)).take (hi - lo))) s

/-- Issue one batch (R221, R222, R238, R239): planes, manifest, then READY_CTR where its set is being consumed. -/
def State.issueBatch (s : State) (n : Nat) (ch : Chan) (slots : List Slot) (drops : List Drop) (final : Bool) : State :=
  let k := ch.batches
  let u := k / ch.stepBatches
  let pages := nth ch.sets (u % ch.buffers)
  let lay := ch.layout
  let base := k % ch.stepBatches * lay.2
  let s1 := ((ch.planes.zip lay.1).zipIdx).foldl (fun (t : State) p =>
    let pl := p.1.1
    let data := (List.range ch.batchN).flatMap (fun i => match slots[i]? with
      | some (Slot.smp m) => fitBytes pl.1 (mgetD m.done p.2 default).data
      | _ => zeros pl.1)
    let scale := if pl.2 = 0 then [0#8] else (List.range ch.batchN).flatMap (fun i => match slots[i]? with
      | some (Slot.smp m) => fitBytes pl.2 (mgetD m.done p.2 default).scale
      | _ => List.replicate pl.2 0x81#8)
    (t.setStore pages (base + p.1.2.1) data).setStore pages (base + p.1.2.2) scale) s
  let head := toLE 8 k ++ toLE 4 (slots.length + drops.length % 256 * 2 ^ 16 + b2n (decide (slots.length < ch.batchN)) * 2 ^ 24
      + b2n final * 2 ^ 25) ++ toLE 8 (s.stage % 2 ^ 48) ++ toLE 4 (s.offset % 2 ^ 24) ++ zeros 40
  let ents := slots.flatMap (fun e => match e with
    | .smp m => m.entry
    | .gone d => d.entry)
  let s2 := s1.setStore pages base (head ++ ents ++ drops.flatMap Drop.entry)
  let gone := slots.map (fun e => match e with
    | .smp m => m.pos
    | .gone d => d.pos)
  let top := gone.foldl max 0
  let ch1 := { ch with
    batches := k + 1
    samples := (ch.samples.filter (fun m => !gone.contains m.pos)).map (fun m =>
      if m.ref = none ∧ m.pos < top ∧ !ch.strict then { m with ref := some s.stage } else m)
    drops := ch.drops.filter (fun d => !gone.contains d.pos && !drops.contains d)
    finalSent := ch.finalSent || final }
  let s3 := s2.setChan n ch1
  if decide (u + 1 = ch.consumed) && (((s.runOf ch.job).map (fun (r : RunStep) => r.q.chans.contains n)).getD false) then
    s3.bump noFaults ch.job ch.ctr
  else s3

/-- The set of the next batch is free for it: every earlier use of it has been freed (R222, log 46). -/
def Chan.room (c : Chan) : Bool := decide (c.batches / c.stepBatches < c.freed + c.buffers)

/-- Ready samples in position order. -/
def Chan.readyList (c : Chan) : List Sample := (c.samples.filter (fun m => m.ready)).mergeSort (fun a b => decide (a.pos ≤ b.pos))

/-- The samples and drops of a strict channel's batch `k`: its positions in order while each is resolved. -/
def Chan.strictSlots (c : Chan) (k : Nat) : List (Option Slot) :=
  (List.range c.batchN).map (fun i =>
    let p := k * c.batchN + i
    match c.samples.find? (fun m => m.pos == p && m.ready) with
    | some m => some (.smp m)
    | none => (c.drops.find? (fun d => d.pos == p)).map Slot.gone)

/-- Drop records that the manifest of a last batch of `n` entries carries (R239, R244, log 46): every remaining one, as far as DROPS counts
and the manifest's place holds them. -/
def Chan.lastDrops (c : Chan) (n : Nat) : List Drop := if c.strict then [] else c.drops.take (min 255 (c.maniBytes / 32 - 2 - n))

/-- The batch that a channel issues now: positions, trailing drops, FINAL (R241, R243, R244); none where none is due. -/
def Chan.due (c : Chan) : Option (List Slot × List Drop × Bool) :=
  let idle := c.samples.all (fun m => m.ready)
  let trail := c.drops.take c.dropRoom
  if c.finalSent then
    if c.batches % c.stepBatches ≠ 0 then some ([], c.lastDrops 0, true) else none
  else if c.strict then
    let l := c.strictSlots c.batches
    if l.all (fun o => o.isSome) then some (l.filterMap id, [], false)
    else if c.closed ∧ idle ∧ c.nextPos < (c.batches + 1) * c.batchN then some (l.filterMap id, [], true)
    else none
  else
    let r := c.readyList
    if (if c.closed then c.batchN else c.batchN + c.reserve) ≤ r.length then some ((r.take c.batchN).map Slot.smp, trail, false)
    else if c.closed ∧ idle then some (r.map Slot.smp, c.lastDrops r.length, true)
    else none

/-- A drop record from its bytes. -/
def readDrop (b : List Byte) : Drop :=
  ⟨fld b 8 8, bits (fld b 0 8) 0 48, fld b 0x10 4, bits (fld b 0 8) 49 1, fld b 0x14 1, bits (fld b 0x15 1) 0 2, fld b 0x16 2,
    fld b 0x18 4 + fld b 0x1C 2 * 2 ^ 32⟩

/-- A batch as the log gives it, and whether a logged sample is a drop now. -/
structure LoggedBatch where
  slots : List Slot
  diverged : Bool
  /-- submission positions taken so far -/
  used : List Nat
  deriving DecidableEq, Repr, Inhabited

/-- One logged position (R479): the sample of the logged index, or its drop, which is a divergence; none while it is neither. -/
def Chan.loggedSlot (c : Chan) (z : LoggedBatch) (e : List Byte) : Option LoggedBatch :=
  let ix := bits (fld e 0 8) 0 48
  if bits (fld e 0 8) 48 1 = 1 then some { z with slots := z.slots ++ [Slot.gone (readDrop e)] }
  else match c.samples.find? (fun (m : Sample) => m.ready && m.idx == ix && !z.used.contains m.pos) with
    | some m => some ⟨z.slots ++ [Slot.smp m], z.diverged, z.used ++ [m.pos]⟩
    | none => (c.drops.find? (fun (d : Drop) => d.idx == ix && !z.used.contains d.pos)).map (fun d =>
        ⟨z.slots ++ [Slot.gone d], true, z.used ++ [d.pos]⟩)

/-- The logged positions of a manifest, all of them or none yet. -/
def Chan.loggedSlots (c : Chan) (m : List Byte) : Option LoggedBatch :=
  (List.range (fld m 8 2)).foldl (fun (z : Option LoggedBatch) i => z.bind (fun z =>
    c.loggedSlot z ((m.drop (64 + 32 * i)).take 32))) (some ⟨[], false, []⟩)

/-- Issue a replayed step's next batch (R479): exactly the logged samples and drop records; none where it has to wait. -/
def State.issueLogged (s : State) (n : Nat) (ch : Chan) : Option State :=
  (s.loggedBatch ch.job n (ch.batches % ch.stepBatches)).bind (fun m => (ch.loggedSlots m).map (fun z =>
    let trail := (List.range (fld m 0x0A 1)).map (fun i => readDrop ((m.drop (64 + 32 * (fld m 8 2 + i))).take 32))
    let lost := trail.map (fun (d : Drop) => d.idx) ++ z.slots.filterMap (fun e => match e with
      | .gone d => some d.idx
      | .smp _ => none)
    let c1 : Chan := { ch with
      samples := ch.samples.filter (fun (x : Sample) => z.used.contains x.pos || !lost.contains x.idx)
      drops := ch.drops.filter (fun (d : Drop) => z.used.contains d.pos || !lost.contains d.idx) }
    let s1 := if z.diverged then s.modReplay (fun (r : Replay) => { r with divBatch := r.divBatch ++ [(n, fld m 0 8)] }) else s
    s1.issueBatch n c1 z.slots trail (bits (fld m 0x0B 1) 1 1 == 1)))

/-- Issue batches of a channel, `fuel` at most. -/
def State.issueBatches (n : Nat) : Nat → State → State
  | 0, s => s
  | fuel + 1, s => match mget s.chans n with
    | none => s
    | some ch =>
      if !ch.room then s
      else if (s.replayOf ch.job).isSome then (match s.issueLogged n ch with
        | none => s
        | some t => State.issueBatches n fuel t)
      else match ch.due with
        | none => s
        | some (l, d, fin) => State.issueBatches n fuel (s.issueBatch n ch l d fin)

/-- The reference tick of a strict channel's head (R242). -/
def Chan.markHead (c : Chan) (stage : Nat) : Chan :=
  if !c.strict then c
  else match c.head with
    | some m => if m.ref.isNone then c.setSample { m with ref := some stage } else c
    | none => c

/-- A sample has passed the late limit (R242). -/
def Chan.isLate (c : Chan) (stage : Nat) (m : Sample) : Bool :=
  !m.ready && (match m.ref with
    | some r => decide (r + c.late ≤ stage)
    | none => false)

/-- LATE drops of a channel (R242), with the head's reference tick before and after. -/
def Chan.lateDrops (c : Chan) (stage : Nat) : Chan :=
  let c1 := c.markHead stage
  ((c1.samples.filter (c1.isLate stage)).foldl (fun (x : Chan) m => x.drop stage m ⟨4, 0⟩ 0) c1).markHead stage

/-- A sample whose planes are complete becomes ready (R240). -/
def Chan.becomeReady (c : Chan) : Chan :=
  { c with samples := c.samples.map (fun m => if m.complete then { m with ready := true } else m) }

/-- CONVOY_ASSEMBLE of one channel at a tick (R240). -/
def State.convoy (s : State) (n : Nat) : State :=
  match mget s.chans n with
  | none => s
  | some c =>
    let r := c.becomeReady
    State.issueBatches n 4 (s.setChan n (if (s.replayOf c.job).isSome then r else r.lateDrops s.stage))

/-- The convoy assembler of every channel at a tick. -/
def State.convoys (s : State) : State := (s.chans.map Prod.fst).foldl State.convoy s

/-- LATE_DROP (R242): a sample past its late limit is dropped and its slot freed. -/
def execLateDrop (channel : BitVec 6) (pos : BitVec 64) (s : State) : Host.Outcome State Fault Refusal :=
  match mget s.chans channel.toNat with
  | none => .next s
  | some c => match c.samples.find? (fun m => m.pos == pos.toNat) with
    | none => .next s
    | some m =>
      if s.live && c.isLate s.stage m && !m.complete && (s.replayOf c.job).isNone then .next (s.setChan channel.toNat (c.drop s.stage m ⟨4, 0⟩ 0)) else .next s

/-- The step's channels at its tick (R222): each takes its next set, which the delivery window maps to, and READY_CTR reads the
batches already issued into it. -/
def State.mapSets (s : State) (j : Nat) (chs : List Nat) : State :=
  chs.foldl (fun (t : State) n => match mget t.chans n with
    | none => t
    | some c =>
      let u := c.consumed
      let pages := nth c.sets (u % c.buffers)
      let win := c.window / 2 ^ 21
      let put (m : NMap Nat) : NMap Nat := (pages.zipIdx).foldl (fun (m : NMap Nat) p => mset m (win + p.2) (p.1 * 2 ^ 21)) m
      let got := min c.stepBatches (c.batches - u * c.stepBatches)
      (t.setChan n { c with consumed := u + 1 }).modJob j (fun b => { b with
        pt := put b.pt, ptNext := put b.ptNext, ctrs := mset b.ctrs c.ctr got })) s

/-- A step's sets become free (R222); a channel whose last set is freed closes (R244). -/
def State.freeSets (s : State) (j : Nat) (chs : List Nat) : State :=
  chs.foldl (fun (t : State) n => match mget t.chans n with
    | none => t
    | some c =>
      let c1 := { c with freed := c.freed + 1 }
      let win := c.window / 2 ^ 21
      let out (m : NMap Nat) : NMap Nat := m.filter (fun p => !decide (win ≤ p.1 ∧ p.1 < win + (nth c.sets 0).length))
      if c1.finalSent ∧ c1.batches % c1.stepBatches = 0 ∧ c1.batches ≤ c1.freed * c1.stepBatches then
        ({ t with chans := merase t.chans n } : State).modJob j (fun b => { b with pt := out b.pt, ptNext := out b.ptNext })
      else t.setChan n c1) s

end Sys2Proof.Machine
end

