-- ==== Sys2Proof/Machine/Place.lean ====
section
/-! DEFINITION. Placing legs (03, R71–R77, R84): candidates of a group in order, what holds a leg back, spill and restore, the
start of a leg. -/
namespace Sys2Proof.Machine

/-! ### Groups -/

/-- The core of a group. -/
def groupCore : GroupId → Option Nat
  | .array c => some c.toNat
  | .vector c => some c.toNat
  | .mover c _ => some c.toNat
  | .coll _ => none

/-- A number for each group. -/
def groupCode : GroupId → Nat
  | .array c => c.toNat
  | .vector c => 128 + c.toNat
  | .mover c m => 256 + 4 * c.toNat + m.toNat
  | .coll n => 768 + n.toNat

/-- The groups that a task's kind uses (R71). -/
def TaskRun.usesArray (t : TaskRun) : Bool := [0x01, 0x05, 0x06].contains t.hdr.kind
def TaskRun.usesVector (t : TaskRun) : Bool := [0x02, 0x03, 0x05, updKind].contains t.hdr.kind

/-- Tier of the group of an update leg. -/
def Job.updTier (jb : Job) (t : TaskRun) : Nat := ((jb.train.bind (fun r => r.group (t.hdr.id - 0x40000000))).map (fun g => g.g.tier)).getD 0

/-- A ready or suspended task whose next leg is for the group (R71): KIND 0x05 is placed on the array group; an update leg of tier 1
takes any core of the job until its first leg. -/
def TaskRun.forGroup (t : TaskRun) (jb : Job) (g : GroupId) : Bool :=
  match g with
  | .array c => t.usesArray && t.hdr.core == c.toNat
  | .vector c =>
    if t.hdr.kind = updKind then
      (if t.legs = 0 ∧ jb.updTier t ≠ 0 then jb.cores.testBit c.toNat else t.hdr.core == c.toNat)
    else t.usesVector && t.hdr.kind != 0x05 && t.hdr.core == c.toNat
  | .mover c m => t.hdr.kind == 0x04 && t.hdr.core == c.toNat && bits (fld (unitOf t.body 0) 0 4) 0 2 == m.toNat
  | .coll n => t.hdr.kind == 0x10 && collSerai t.body == n.toNat

/-- Arrays of the allowance that a body enables (R84). -/
def TaskRun.arrays (t : TaskRun) : Nat :=
  if t.hdr.kind = 0x05 then 4
  else if t.usesArray then (bitList 4 (bits (fld (unitOf t.body 0) 0 4) 8 4)).length
  else 0

/-- Accumulator banks that a body names, array × 4 + bank (R72, R102, R197): every bank that its chunks take in turn. -/
def TaskRun.banks (t : TaskRun) : List Nat :=
  if t.hdr.kind = 0x05 then List.range 16
  else if t.usesArray then
    let r := unitOf t.body 0
    let w := fld r 0 4
    let nb := bits w 12 2 + 1
    let chunkN := bits (fld r (if t.hdr.kind = 0x06 then 0x14 else 0x1C) 4) 0 11
    let n := if chunkN = 0 then 1 else cdiv (fld r 0x10 4) chunkN
    (bitList 4 (bits w 8 4)).flatMap (fun a => (List.range (min 4 (n * nb))).map (fun b => 4 * a + b))
  else []

/-! ### Candidates -/

/-- A task whose next leg a group may start, with its job and its position in the order of R72. -/
structure Cand where
  j : Nat
  t : TaskRun
  pos : Nat
  key : Nat
  deriving DecidableEq, Repr, Inhabited

/-- Order of a candidate (R72, R253): class, suspended before not started, round robin over jobs, position. -/
def candKey (backhaul started : Bool) (turn pos : Nat) : Nat :=
  ((b2n backhaul * 2 + b2n (!started)) * 16 + turn % 16) * 2 ^ 20 + pos

/-- Candidates of one job on a group: list tasks by position; update legs, in order of settlement, after every one of them. -/
def jobCands (g : GroupId) (turn j : Nat) (jb : Job) : List Cand :=
  match jb.run with
  | none => []
  | some r =>
    if jb.abort.isSome then []
    else
      let open_ (t : TaskRun) : Bool := ((t.st == .ready && (t.queued || t.queueOf.isNone || t.hdr.kind == updKind)) || t.st == .suspended)
        && t.fail.isNone && !t.finished && t.forGroup jb g
      let own := (r.tasks.zipIdx).filterMap (fun (p : TaskRun × Nat) =>
        if open_ p.1 then some (⟨j, p.1, p.2, candKey jb.backhaul (p.1.st == .suspended) turn p.2⟩ : Cand) else none)
      let upd := (r.upds.zipIdx).filterMap (fun (p : TaskRun × Nat) =>
        if open_ p.1 then
          some (⟨j, p.1, 2 ^ 17 + p.2, candKey jb.backhaul (own.isEmpty && p.1.st == .suspended) turn (2 ^ 17 + p.2)⟩ : Cand)
        else none)
      own ++ upd

/-- Insert a candidate before the first of a higher key. -/
def insertCand (c : Cand) : List Cand → List Cand
  | [] => [c]
  | d :: r => if c.key < d.key then c :: d :: r else d :: insertCand c r

/-- Candidates of a group in the order of R72. Round robin starts with the job after the one served first since the tick before
(log 52). -/
def State.cands (s : State) (g : GroupId) : List Cand :=
  let last := mget s.rrPrev (groupCode g)
  let turn (j : Nat) : Nat := match last with
    | some k => (j + 31 - k) % 16
    | none => j
  (s.jobs.flatMap (fun (p : Nat × Job) => jobCands g (turn p.1) p.1 p.2)).foldl (fun l c => insertCand c l) []

/-! ### What holds a leg back -/

/-- A leg of KIND 0x05 runs on a core: it holds both groups. -/
def State.bothOn (s : State) (core : Nat) : Bool :=
  match s.onGroup (.array (BitVec.ofNat 7 core)) with
  | some (_, t) => t.hdr.kind == 0x05
  | none => false

/-- Collective legs at once on a serai are bounded by R85 alone; every other group runs one leg (R71). -/
def State.groupFree (s : State) (g : GroupId) : Bool :=
  match g with
  | .coll _ => true
  | .vector c => (s.onGroup g).isNone && !s.bothOn c.toNat && (mget s.svc c.toNat).isNone
  | _ => (s.onGroup g).isNone

/-- Suspended tasks of a job on a core, but for one. -/
def Job.heldBy (jb : Job) (core id : Nat) : List TaskRun :=
  match jb.run with
  | none => []
  | some r => (r.tasks ++ r.upds).filter (fun (t : TaskRun) => t.st == .suspended && t.hdr.core == core && t.hdr.id != id)

/-- A suspended task of the same job holds state that the leg would use (R72, R74). -/
def Job.blocksOn (jb : Job) (core : Nat) (t : TaskRun) : Bool :=
  (jb.heldBy core t.hdr.id).any (fun (h : TaskRun) =>
    (t.usesVector && h.usesVector) || (t.usesArray && h.usesArray && h.banks.any (fun b => t.banks.contains b)))

/-- Arrays that running legs on a C-die hold (R84). -/
def State.arraysOn (s : State) (die : Nat) : Nat :=
  (s.jobs.map (fun (p : Nat × Job) => match p.2.run with
    | none => 0
    | some r => (r.tasks.map (fun (t : TaskRun) => match t.leg with
        | some l => if t.st = .running ∧ t.hdr.core / 16 = die then l.arrays else 0
        | none => 0)).sum)).sum

/-- Collectives of a job in flight (R85). -/
def Job.collsOpen (jb : Job) : Nat :=
  match jb.run with
  | none => 0
  | some r => (r.tasks.filter (fun (t : TaskRun) => t.hdr.kind == 0x10 && (t.st == .running || t.st == .suspended))).length

/-- A gather task's readiness (R109): others are ready as soon as their waits are satisfied. -/
def TaskRun.gatherCtl (t : TaskRun) : Option MatCtl :=
  if t.hdr.kind = 0x01 then (parseMatCtl (unitOf t.body 0)).filter (fun c => c.gather) else none

/-- The grant of a halted core that a task has taken (R473). -/
def takenGrant (j id core : Nat) : Nat × Nat := (8 + j, core + 128 * id)

/-- Every halted unit above the leg has granted it (R473). -/
def State.grantsLeg (s : State) (g : GroupId) (j id : Nat) : Bool :=
  (s.heldUnits (GroupId.unit g)).all (fun u => s.granted u || (match u with
    | .core c => s.dbg.grants.contains (takenGrant j id c)
    | _ => false))

/-- The blocks of the leg's unit work (R385), and no sampled configuration waits for a boundary (R80). -/
def State.blocksOk (s : State) (g : GroupId) : Bool :=
  let b := s.blk (groupBlk g)
  b.halt != 2 && b.sampled.isNone && (match groupCore g with
    | some c => (s.blk (128 + c / 16)).halt != 2
    | none => true)

/-- The backhaul holds of R76 and R77 leave the leg free to start. -/
def State.holdsOff (s : State) (g : GroupId) (jb : Job) (t : TaskRun) : Bool :=
  (match g, groupCore g with
    | .mover _ _, _ => false
    | _, some c => jb.backhaul && (match (s.core c).holdEnd with
        | some e => decide (s.stage ≤ e)
        | none => false)
    | _, none => false)
  || (match t.heldUntil with
    | some e => decide (e < s.stage + 64 ∧ s.stage ≤ e)
    | none => false)

/-- The leg may start now (R72, R74, R76, R77, R84, R85, R109, R473). -/
def State.mayStart (s : State) (g : GroupId) (c : Cand) : Bool :=
  match s.job c.j with
  | none => false
  | some jb =>
    let t := c.t
    s.blocksOk g && s.grantsLeg g c.j t.hdr.id && !s.holdsOff g jb t
      && (t.gatherCtl.isNone || t.fillHit || t.legs != 0)
      && (match groupCore g with
        | none => t.legs != 0 || decide (jb.collsOpen < 64)
        | some k => !jb.blocksOn k t
            && (t.hdr.kind != 0x05 || s.groupFree (.vector (BitVec.ofNat 7 k)))
            && (t.arrays == 0 || decide (s.arraysOn (k / 16) + t.arrays ≤ mgetD s.power.allow (k / 16) 64)))

/-! ### Spill and restore -/

/-- The spill area of a job on a core takes bytes whose layout the manual does not give (R74, log 52). -/
def State.spillArea (s : State) (jb : Job) (core : Nat) : State :=
  (mgetD jb.spill core []).foldl (fun (x : State) p => x.scramble (p * 2 ^ 21) (2 ^ 21)) s

/-- Spill what a suspended task holds in the groups that a leg of another job uses (R74). -/
def State.spillTask (s : State) (arr vec : Bool) (core j : Nat) (t : TaskRun) : State :=
  match s.job j with
  | none => s
  | some jb =>
    let k := s.core core
    if t.spilled.isSome then s
    else if arr && t.usesArray then
      let mine (p : Nat × Int) : Bool := t.banks.contains (p.1 / 32768)
      ((s.setCore core { k with acc := k.acc.filter (fun p => !mine p) }).modTask j t.hdr.id (fun x => { x with
        spilled := some (k.acc.filter mine) })).spillArea jb core
    else if vec && t.usesVector && t.hdr.kind != 0x05 then
      ((s.setCore core { k with la := [] }).modTask j t.hdr.id (fun x => { x with spilled := some k.la })).spillArea jb core
    else s

/-- Every suspended task of another job on the core is spilled before a leg (R74). -/
def State.spillOthers (s : State) (core j : Nat) (t : TaskRun) : State :=
  s.jobs.foldl (fun (x : State) (p : Nat × Job) =>
    if p.1 = j then x
    else (p.2.heldBy core 0xFFFFFFFFFF).foldl (fun (x : State) (h : TaskRun) => x.spillTask t.usesArray t.usesVector core p.1 h) x) s

/-- A task's spilled state comes back before its next leg (R74): its banks or the lane accumulators hold exactly what was spilled. -/
def State.restoreTask (s : State) (core : Nat) (t : TaskRun) : State :=
  match t.spilled with
  | none => s
  | some m =>
    let k := s.core core
    if t.usesArray then
      let rest := k.acc.filter (fun p => !t.banks.contains (p.1 / 32768))
      s.setCore core { k with acc := m.foldl (fun (a : NMap Int) p => mset a p.1 p.2) rest }
    else s.setCore core { k with la := m }

/-! ### Keep gathers and replayed collectives -/

/-- Order of eviction (R265): lowest KEEP_RANK, then earliest release, then lowest GROUP_ID. -/
def keepOrder (g : TrainGrp) : Nat := (g.g.keepRank * 2 ^ 48 + g.relStage % 2 ^ 48) * 2 ^ 16 + g.g.id

/-- The released entry that goes first. -/
def Train.keepVictim (t : Train) : Option TrainGrp :=
  (t.groups.filter (fun g => g.keep == 2)).foldl (fun (b : Option TrainGrp) g => match b with
    | none => some g
    | some h => if keepOrder g < keepOrder h then some g else some h) none

/-- Pages free now, and those that a tick frees. -/
def Train.keepRoom (t : Train) : Nat := t.pool.length + ((t.groups.filter (fun g => g.keep == 4)).map (fun g => g.keepPages.length)).sum

/-- Evict released entries until `n` pages are free or will be (R265), `fuel` at most. -/
def Train.evict (n : Nat) : Nat → Train → Train
  | 0, t => t
  | fuel + 1, t =>
    if n ≤ t.keepRoom then t
    else match t.keepVictim with
      | none => t
      | some g => Train.evict n fuel (t.setGroup { g with keep := 4 })

/-- The windows of entries being evicted leave the next mapping (R29, R265). -/
def Train.evictedPages (t : Train) (m : NMap Nat) : NMap Nat :=
  (t.groups.filter (fun g => g.keep == 4)).foldl (fun (m : NMap Nat) g =>
    (List.range g.g.gatherPages).foldl (fun (m : NMap Nat) k => merase m (g.g.gather / 2 ^ 21 + k)) m) m

/-- Map a window of pages (R264). -/
def mapWindow (va : Nat) (pages : List Nat) (m : NMap Nat) : NMap Nat :=
  (pages.zipIdx).foldl (fun (m : NMap Nat) p => mset m (va / 2 ^ 21 + p.2) (p.1 * 2 ^ 21)) m

/-- A keep gather before its first leg (R264, R265): a hit pins the entry and is marked in the task; a miss maps its pages, or waits. -/
def State.keepPlace (s : State) (x : EngRun) (t : Train) (g : TrainGrp) : AttGo :=
  if g.keep = 1 ∨ g.keep = 2 ∨ g.keep = 3 then
    .go ((s.setGroup x.j { g with keep := 3 }).setEng x
      (.coll { CollSt.init s.stage s.now [] with hit := true }))
  else if g.keep = 4 then .hold s
  else if g.g.gatherPages ≤ t.pool.length then
    let pages := t.pool.take g.g.gatherPages
    .go (s.modJob x.j (fun (b : Job) => { b with
      pt := mapWindow g.g.gather pages b.pt, ptNext := mapWindow g.g.gather pages b.ptNext
      train := some ({ t with pool := t.pool.drop g.g.gatherPages }.setGroup { g with keep := 1, keepPages := pages, relStage := 0 }) }))
  else
    let t1 := Train.evict g.g.gatherPages t.groups.length t
    let s1 := s.modJob x.j (fun (b : Job) => { b with ptNext := t1.evictedPages b.ptNext, train := some t1 })
    if g.g.gatherPages ≤ t1.keepRoom ∨ x.t.waitNoted then .hold s1
    else .hold ((s1.post { s1.ev 0x0405 with job := x.j, task := x.id, arg0 := g.g.id }).modEng x (fun y => { y with waitNoted := true }))

/-- A replayed collective without a retained result is not run (R479). -/
def State.replayMissing (s : State) (x : EngRun) : Option State :=
  if (s.replayOf x.j).isNone then none
  else
    let miss := match s.loggedColl x.j x.id with
      | none => true
      | some e => fld e 0x24 4 == 0xFFFFFFFF
    if !miss then none
    else some (((s.modEng x (fun t => { t with st := .notRun })).modReplay (fun (r : Replay) => { r with
      stopped := if r.stopped = 0xFFFFFFFF then x.id else r.stopped })).resolveNotRun x.j)

/-- The largest scale byte of a plane, 0x81 for none (R121). -/
def maxScaleByte (l : List Byte) : Nat :=
  match (l.filter (fun b => b != poisonScale)).map (fun b => sgn 8 b.toNat) with
  | [] => 0x81
  | a :: r => unsgn 8 (r.foldl max a)

/-- A replayed collective (R479): nothing is sent; IN_DIGEST is compared, the output comes from the result slot and is checked. -/
def State.collReplay (s : State) (x : EngRun) (f : Faults) : State :=
  match x.coll, s.replayOf x.j, s.loggedColl x.j x.id with
  | some c, some r, some e =>
    let inD := tensorDigest s x.pt c.b.inp
    let src := resultSlot r.logVa r.pages x.step + fld e 0x24 4
    let ps := c.b.out.planes
    let d := jobBytes s x.pt src ((ps.map Prod.snd).sum)
    let s1 := (ps.foldl (fun (z : State × List Byte) p => (z.1.legPut x f p.1 (z.2.take p.2), z.2.drop p.2)) (s, d)).1
    let outD := tensorDigest s1 x.pt c.b.out
    let same := inD == fld e 0x10 8 && outD == fld e 0x18 8
    let s2 := if same then s1 else s1.modReplay (fun (r : Replay) => { r with
      divColl := r.divColl ++ [x.id], divDigest := r.divDigest ++ [inD] })
    let s3 := s2.modEng x (fun t => { t with
      eng := .coll { CollSt.init s.stage s.now [] with inDigest := inD }, finished := true })
    s3.writeBound x c.b.maxe (maxScaleByte (match ps[1]? with
      | some p => jobBytes s3 x.pt p.1 p.2
      | none => []))
  | _, _, _ => s.badBody x

/-- The job served first on a group since the tick (R72). -/
def State.markTurn (s : State) (g : GroupId) (j : Nat) : State :=
  if (mget s.rrCur (groupCode g)).isSome then s else { s with rrCur := mset s.rrCur (groupCode g) j }

/-! ### Service digest legs -/

/-- The first page digest of a job's replica tally that waits for a leg on a core (R63, R72, R272, log 62). -/
def Job.svcDue (jb : Job) (core : Nat) : Option DigPage :=
  if jb.abort.isSome || !jb.cores.testBit core then none
  else jb.train.bind (fun t => t.digs.find? (fun d => d.st == 0))

/-- The digest leg that a vector group starts before every other class (R63, R72): jobs in round robin, pages in order. -/
def State.svcNext (s : State) (core : Nat) : Option (Nat × DigPage) :=
  let code := groupCode (.vector (BitVec.ofNat 7 core))
  let turn (j : Nat) : Nat := match mget s.rrPrev code with
    | some k => (j + 31 - k) % 16
    | none => j
  ((s.jobs.filterMap (fun (p : Nat × Job) => (p.2.svcDue core).map (fun d => (p.1, d)))).foldl
    (fun (b : Option (Nat × DigPage)) c => match b with
      | none => some c
      | some a => if turn c.1 < turn a.1 then some c else some a) none)

/-- A service digest leg starts (R63, R74): what any suspended task holds in the vector group is spilled first. -/
def State.startSvc (s : State) (core : Nat) (c : Nat × DigPage) : State :=
  let s1 := s.jobs.foldl (fun (x : State) (p : Nat × Job) =>
    (p.2.heldBy core 0xFFFFFFFFFF).foldl (fun (x : State) (h : TaskRun) => x.spillTask false true core p.1 h) x) s
  let s2 := s1.setCore core { s1.core core with la := [] }
  (({ s2 with svc := mset s2.svc core ⟨c.1, c.2.group, c.2.page⟩ } : State).modTrain c.1 (fun t =>
    t.modDig c.2.group c.2.page (fun d => { d with st := 1 }))).markTurn (.vector (BitVec.ofNat 7 core)) c.1

/-! ### Starting a leg -/

/-- What the drover does before a task's first leg: attention reserves (R207), a keep gather finds its pages (R264). -/
def State.placeFirst (s : State) (f : Faults) (x : EngRun) : AttGo :=
  if x.t.legs ≠ 0 then .go s
  else if x.t.hdr.kind = 0x05 then s.attPlace f x
  else if x.t.hdr.kind = 0x10 then
    match s.replayMissing x with
    | some s1 => .hold s1
    | none =>
      if (s.replayOf x.j).isSome then .go s
      else match parseColl x.t.body, x.jb.train with
        | some b, some t =>
          if !b.keep then .go s
          else (match x.keepGroup b with
            | some g => s.keepPlace x t g
            | none => .go s)
        | _, _ => .go s
  else .go s

/-- The first leg's checks and loads, or what a later leg brings back (R38, R143). -/
def State.legBegin (s : State) (x : EngRun) (first : Bool) (f : Faults) : State :=
  let k := x.t.hdr.kind
  if first then
    if k = 0x01 ∨ k = 0x06 then s.matBegin x f
    else if k = 0x02 then s.elemBegin x f
    else if k = 0x03 then s.tapBegin x
    else if k = 0x04 then s.movBegin x
    else if k = 0x05 then s.attBegin x f
    else if k = 0x10 then
      (if (s.replayOf x.j).isSome then s.collReplay x f
       else match x.t.eng, x.coll with
        | .coll q, some c =>
          if q.hit then s.modEng x (fun t => { t with
            eng := .coll { q with begun := true, inDigest := tensorDigest s x.pt c.b.inp }, finished := true })
          else s.collBegin x f
        | _, _ => s.collBegin x f)
    else s.updBegin x f
  else match x.t.eng with
    | .mat m => s.matResume x m
    | .elem e => if k = 0x02 then s.elemResume x f e else s
    | .upd u => s.updResume x f u
    | .coll _ => s.collResume x
    | _ => s

/-- Grants that a leg uses up (R473): a drover's is for one leg, a core's for one task to its end. -/
def State.useGrants (s : State) (g : GroupId) (j id : Nat) : State :=
  (s.heldUnits (GroupId.unit g)).foldl (fun (x : State) u => match u with
    | .core c =>
      if x.dbg.grants.contains (takenGrant j id c) then x
      else
        let y := x.ungrant u
        { y with dbg := { y.dbg with grants := y.dbg.grants ++ [takenGrant j id c] } }
    | _ => x.ungrant u) s

/-- The leg of a task starts on a group. A spill area that reads uncorrectable is job-fatal (R406): no leg starts. -/
def State.startLeg (s : State) (g : GroupId) (f : Faults) (c : Cand) : State :=
  let id := c.t.hdr.id
  match s.job c.j, s.taskOf c.j id with
  | some jb, some t =>
    let core := (groupCore g).getD t.hdr.core
    let area := if t.spilled.isSome then s.linesMet f (mgetD jb.spill core []) else []
    let s0 := s.fatalMeet (taskReader c.j t) f area
    if !(badLines s f area).isEmpty then s0 else
    let s1 := match g with
      | .coll _ => s0
      | .mover _ _ => s0
      | _ => (s0.spillOthers core c.j t).restoreTask core t
    let s2 := (s1.useGrants g c.j id).modTask c.j id (fun (t : TaskRun) => { t with
      st := .running, legs := t.legs + 1, spilled := none
      hdr := { t.hdr with core := core }
      leg := some ⟨g, s.stage, s.now, t.arrays, false, jb.pt, t.hdr.kind == 0x05, false⟩ })
    let s3 := s2.markTurn g c.j
    match s3.engOf c.j id with
    | some x => s3.legBegin x (t.legs == 0) f
    | none => s3
  | _, _ => s

/-- Device address of a task's header in its list (R26, R475). -/
def Job.hdrAddr (jb : Job) (r : RunStep) (pos : Nat) : Option Nat :=
  ((mget jb.lists r.q.list).bind TaskList.at_).bind (fun a => xlate jb.pt (a + 64 * pos))

/-- Start the first candidate that may start (R72): a breakpoint holds it instead (R475), one that its first placement holds gives way. -/
def State.startFirst (g : GroupId) (f : Faults) : List Cand → State → State
  | [], s => s
  | c :: rest, s =>
    if !s.mayStart g c then State.startFirst g f rest s
    else match s.job c.j, s.engOf c.j c.t.hdr.id with
      | some jb, some x =>
        (match jb.run with
          | none => s
          | some r =>
            let leg := (c.j, r.q.step, x.id, x.t.legs)
            let hits := s.bpLegs c.j x.id (if c.pos < 2 ^ 17 then jb.hdrAddr r c.pos else none) leg
            if !hits.isEmpty then hits.foldl (fun (y : State) n => y.bpHit n (GroupId.unit g) x.id 0 (some leg)) s
            else match s.placeFirst f x with
              | .hold s1 => State.startFirst g f rest s1
              | .go s1 => s1.startLeg g f c)
      | _, _ => State.startFirst g f rest s

/-- The drover may place legs: the device works, and neither an activation nor a takeover has stopped placement (R22, R460). -/
def State.placing (s : State) : Bool := s.live && !s.paused && decide (s.takeover < 2)

/-- The digest leg that a group may start (R63, R72): only a vector group takes one; a halt holds it as it holds every leg (R473). -/
def State.svcFor (s : State) (g : GroupId) : Option (Nat × (Nat × DigPage)) :=
  match g with
  | .vector c => if s.blocksOk g && (s.heldUnits (GroupId.unit g)).isEmpty then (s.svcNext c.toNat).map (fun d => (c.toNat, d)) else none
  | _ => none

/-- START_LEG (R72): the group is idle and the next leg that fits starts, a service leg first. -/
def execStartLeg (g : GroupId) (f : Faults) (s : State) : Host.Outcome State Fault Refusal :=
  if s.placing && s.groupFree g then
    match s.svcFor g with
    | some (core, d) => .next (s.startSvc core d)
    | none =>
      let s1 := s.fillQueues
      .next (State.startFirst g f (s1.cands g) s1)
  else .next s

end Sys2Proof.Machine
end

