-- ==== Sys2Proof/Machine/Ras.lean ====
section
/-! DEFINITION. Patrol scrub, die links and drover restarts (01, 15). -/
namespace Sys2Proof.Machine

/-- Structure scrubbed, as EV_MEM_SCRUB names it in the order of the table "Scrub passes" (log 36). -/
def scrubStruct (p : Part) (a : Nat) : Nat := match regionOf p a with
  | .depot _ => 1
  | .tile _ => 2
  | _ => 0

/-- A scrub that finds a line uncorrectable (R398, R401–R403): marked, counted, EV_MEM_SCRUB, worn; a line of the event
log is device-fatal (R406). -/
def State.scrubBad (s : State) (l : Nat) : State :=
  let u := holderOf s.part l
  let e : EventRec := { s.ev 0x0203 with srcType := u.1, srcIndex := u.2, addr := l, arg0 := scrubStruct s.part l }
  let s1 := (s.mark l).countUnc l
  if inLog l then (s1.deviceFatal (some e) 0x0203 0).wear l 0 else (s1.post e).wear l 0

/-- SCRUB_LINE (R398, R401): a marked line reads uncorrectable whatever its symbols hold. -/
def execScrubLine (addr : BitVec 48) (o : LineRead) (s : State) : Host.Outcome State Fault Refusal :=
  let l := lineOf addr.toNat
  if !(s.pwrok && s.ready && (regionOf s.part l).isMem) then .next s
  else match (if s.marked.contains l then LineRead.uncorrectable else o) with
    | .clean => .next s
    | .corrected => .next (s.corrected 0xFF 0xFFFFFFFF l)
    | .uncorrectable => .next (s.scrubBad l)

/-- Kind and number of a link, its key here and its name in events (log 36). -/
def linkCode : LinkId → Nat
  | .cs d => d.toNat
  | .cc d => 0x100 + d.toNat
  | .ring n => 0x200 + n.toNat
  | .idie i => 0x300 + i.toNat
  | .oe n => 0x400 + n.toNat

/-- A die at the end of a link: C-die, serai, I-die or optical engine. -/
inductive LinkEnd where
  | cdie (d : Nat)
  | serai (n : Nat)
  | idie (i : Nat)
  | engine (n : Nat)
  deriving DecidableEq, Repr

/-- Both ends of a link (R9, R11): a part's links join what R9 attaches. -/
def linkEnds (p : Part) : LinkId → LinkEnd × LinkEnd
  | .cs d => (.cdie d.toNat, .serai (Part.cdieSerai d.toNat))
  | .cc d => (.cdie d.toNat, .cdie (d.toNat + 1))
  | .ring n => (.serai n.toNat, .serai ((n.toNat + 1) % p.serais))
  | .idie i => (.idie i.toNat, .serai (p.idieSerai i.toNat))
  | .oe n => (.engine n.toNat, .serai (Part.engineSerai n.toNat))

/-- The die is in the part (R2). -/
def LinkEnd.present (p : Part) : LinkEnd → Bool
  | .cdie d => decide (d < p.cdies)
  | .serai n => decide (n < p.serais)
  | .idie i => decide (i < p.idies)
  | .engine n => decide (n < p.engines)

/-- Links that the part has (R11, R30, R31): those whose two ends it has, and of the ring as many as there are. -/
def linkPresent (p : Part) (l : LinkId) : Bool :=
  (linkEnds p l).1.present p && (linkEnds p l).2.present p && (match l with
    | .ring n => decide (n.toNat < p.ringLinks)
    | _ => true)

/-- Source of a link's events: the die at its lower end. -/
def linkSrc : LinkId → Nat × Nat
  | .cs d => (2, d.toNat)
  | .cc d => (2, d.toNat)
  | .ring n => (3, n.toNat)
  | .idie i => (0, i.toNat)
  | .oe n => (3, Part.engineSerai n.toNat)

/-- LINK_FLIT_REPLAY (R396): nothing is lost; EV_LINK_RETRY counts the stage's replays. -/
def execLinkFlitReplay (l : LinkId) (s : State) : Host.Outcome State Fault Refusal :=
  if !(s.live && linkPresent s.part l) then .next s
  else
    let k := linkCode l
    let n := mgetD s.linkStage k 0 + 1
    let s1 := { s with linkRun := mset s.linkRun k (mgetD s.linkRun k 0 + 1), linkStage := mset s.linkStage k n }
    .next (s1.post { s1.ev 0x0205 with srcType := (linkSrc l).1, srcIndex := (linkSrc l).2, arg0 := k, arg1 := n })

/-- LINK_FAIL (R396): 16 replays in a row without a clean receipt are device-fatal. -/
def execLinkFail (l : LinkId) (s : State) : Host.Outcome State Fault Refusal :=
  if s.live && linkPresent s.part l && decide (16 ≤ mgetD s.linkRun (linkCode l) 0) then
    .next (s.deviceFatal (some { s.ev 0x0206 with
      cls := 3, srcType := (linkSrc l).1, srcIndex := (linkSrc l).2, arg0 := linkCode l }) 0x0206 0)
  else .next s

/-- A link whose last stage had no replay has received cleanly (log 36). -/
def State.linksTick (s : State) : State :=
  { s with linkRun := s.linkRun.filter (fun p => decide (0 < mgetD s.linkStage p.1 0)), linkStage := [] }

/-- Number of a drover: C-dies 0 … 7, serais 8 … 11. -/
def dieCode : DieId → Nat
  | .cdie d => d.toNat
  | .serai n => 8 + n.toNat

/-- Source of a die's drover in events (R413). -/
def dieSrc : DieId → Nat × Nat
  | .cdie d => (2, d.toNat)
  | .serai n => (3, n.toNat)

/-- Dies of a part. -/
def diePresent (p : Part) : DieId → Bool
  | .cdie d => decide (d.toNat < p.cdies)
  | .serai n => decide (n.toNat < p.serais)

/-- The drover's state, nothing missed where unlisted. -/
def DroverSt.init : DroverSt := ⟨0, none⟩

/-- The task is placed on the die: a leg of it runs or stands suspended there (R21, R71). -/
def placedOn (d : DieId) (t : TaskRun) : Bool :=
  (t.st == .running || t.st == .suspended) && (match d with
    | .cdie k => t.hdr.kind != 0x10 && t.hdr.core / 16 == k.toNat
    | .serai n => t.hdr.kind == 0x10 && bits (fld t.body 0 4) 6 2 == n.toNat)

/-- Jobs with a task placed on a die. -/
def State.jobsOn (s : State) (d : DieId) : List Nat :=
  (s.jobs.filter (fun (p : Nat × Job) => match p.2.run with
    | some r => (r.tasks ++ r.upds).any (placedOn d)
    | none => false)).map (fun p => p.1)

/-- DROVER_RESTART (R21): after two missed checks; the die's jobs are aborted; a second restart within 1,000 stages is
device-fatal. -/
def execDroverRestart (d : DieId) (s : State) : Host.Outcome State Fault Refusal :=
  let st := mgetD s.drovers (dieCode d) .init
  if !(s.live && diePresent s.part d && decide (2 ≤ st.missed)) then .next s
  else
    let again := match st.lastRestart with
      | some g => decide (s.stage < g + 1000)
      | none => false
    let s1 := { s with drovers := mset s.drovers (dieCode d) ⟨0, some s.stage⟩ }
    let e : EventRec := { s.ev 0x0107 with
      cls := if again then 3 else 2, srcType := (dieSrc d).1, srcIndex := (dieSrc d).2, arg0 := dieCode d }
    if again then .next (s1.deviceFatal (some e) 0x0107 0)
    else
      let js := s.jobsOn d
      let s2 := s1.post { e with report := if js.isEmpty then 0 else s1.nextReport }
      .next (js.foldl (fun (t : State) j => t.jobFatal j none 0x0107) s2)

end Sys2Proof.Machine
end

