-- ==== Sys2Proof/Machine/Sched.lean ====
section
/-! DEFINITION. How legs, tasks and steps end (03, 15): suspension, overruns and holds, a gather's fill limit, completion, failure,
the end of a step. -/
namespace Sys2Proof.Machine

/-! ### A group falls idle -/

/-- A gather task's fill target is reached (R109). -/
def Job.fillSeen (jb : Job) (t : TaskRun) : Bool :=
  match t.gatherCtl with
  | some c => t.st == .ready && decide (c.fillTarget ≤ mgetD jb.ctrs c.fillCtr 0)
  | none => false

/-- The drover observes the fill counters of ready gather tasks on the cores that `sel` picks (R109). -/
def State.observeFill (s : State) (sel : Nat → Bool) : State :=
  { s with jobs := s.jobs.map (fun (p : Nat × Job) => (p.1, { p.2 with run := p.2.run.map (fun (r : RunStep) => { r with
      tasks := r.tasks.map (fun (t : TaskRun) =>
        if sel t.hdr.core && p.2.fillSeen t then { t with fillHit := true } else t) }) })) }

/-- A leg has left its group: a configuration that waited for the boundary is applied (R80), and an array group that falls idle
observes its gather tasks (R109). -/
def State.legOver (s : State) (l : Option Leg) : State :=
  match l with
  | none => s
  | some l =>
    let s1 := if legOnBlk s (groupBlk l.group) then s else s.boundaryApply (groupBlk l.group)
    match l.group with
    | .array c => s1.observeFill (fun k => k == c.toNat)
    | _ => s1

/-- A core's grant that the task has taken ends with it (R473). -/
def State.dropGrant (s : State) (j : Nat) (t : TaskRun) : State :=
  { s with dbg := { s.dbg with grants := s.dbg.grants.filter (fun g => g != takenGrant j t.hdr.id t.hdr.core) } }

/-- What follows the end of a task, whatever its outcome. -/
def State.taskOver (s : State) (j : Nat) (t : TaskRun) : State := (s.legOver t.leg).dropGrant j t

/-! ### Suspension -/

/-- The consecutive overruns of a task when a leg ends (R77). -/
def TaskRun.overrunsAfter (t : TaskRun) (l : Leg) : Nat := if l.overran then t.overruns + 1 else 0

/-- A leg that a tick has ended is suspended; the fourth consecutive overrun of a backhaul task holds it off (R73, R77). -/
def State.suspend (s : State) (j : Nat) (jb : Job) (t : TaskRun) (l : Leg) : State :=
  let n := t.overrunsAfter l
  let held := jb.backhaul && n == 4
  let s0 := match s.engOf j t.hdr.id with
    | some x => (s.matClock x).collClock x
    | none => s
  let s1 := s0.modTask j t.hdr.id (fun (t : TaskRun) => { t with
    st := .suspended, leg := none, overruns := if held then 0 else n
    heldUntil := if held then some (s.stage + 64) else t.heldUntil })
  let s2 := if held then s1.post { s1.ev 0x0102 with
      job := j, task := t.hdr.id, srcType := t.src.1, srcIndex := t.src.2, arg0 := 64 }
    else s1
  s2.legOver (some l)

/-- LEG_SUSPEND (R66, R73): the first tile boundary after a tick, or after the job's abort. -/
def execLegSuspend (l : LegId) (s : State) : Host.Outcome State Fault Refusal :=
  let j := l.job.toNat
  match s.job j, s.taskOf j l.task.toNat with
  | some jb, some t => (match t.leg with
      | none => .next s
      | some g =>
        if !(s.live && t.st == .running) || t.midTile then .next s
        else if jb.abort.isSome then .next ((s.endAborted j t.hdr.id).taskOver j t)
        else if t.fail.isSome || t.finished || !decide (g.startStage < s.stage) then .next s
        else .next (s.suspend j jb t g))
  | _, _ => .next s

/-! ### Overruns and holds -/

/-- The budget of a task's legs (R62, R75). -/
def State.budgetOf (s : State) (jb : Job) (t : TaskRun) : Nat :=
  if t.hdr.budget ≠ 0 then t.hdr.budget else if jb.budget ≠ 0 then jb.budget else s.periodCycles

/-- A lead overrun on a core (R76): two in four stages begin a hold of backhaul legs; a hold in force counts nothing. -/
def State.leadOverrun (s : State) (core : Nat) : State :=
  let k := s.core core
  if (match k.holdEnd with
    | some e => decide (s.stage ≤ e)
    | none => false) then s
  else
    let floor := k.holdEnd
    let seen := dedup ((k.overruns.filter (fun g => decide (s.stage ≤ g + 3) && (match floor with
      | some e => decide (e < g)
      | none => true))) ++ [s.stage])
    s.setCore core (if 2 ≤ seen.length then { k with overruns := [], holdEnd := some (s.stage + 16) } else { k with overruns := seen })

/-- STAGE_OVERRUN (R75, R76): the leg's running cycles reach its budget before the tick. -/
def execStageOverrun (l : LegId) (s : State) : Host.Outcome State Fault Refusal :=
  let j := l.job.toNat
  match s.job j, s.taskOf j l.task.toNat with
  | some jb, some t => (match t.leg with
      | none => .next s
      | some g =>
        let b := s.budgetOf jb t
        if !(s.live && t.st == .running && !g.overran && decide (b ≤ (s.stage + 1 - g.startStage) * s.periodCycles)) then .next s
        else
          let s1 := s.modTask j t.hdr.id (fun (t : TaskRun) => { t with leg := some { g with overran := true } })
          let s2 := s1.post { s1.ev 0x0101 with
            job := j, task := t.hdr.id, srcType := t.src.1, srcIndex := t.src.2, arg0 := b, arg1 := b }
          .next (match groupCore g.group with
            | some c => if jb.backhaul then s2 else s2.leadOverrun c
            | none => s2))
  | _, _ => .next s

/-- LEAD_HOLD_END (R76): after the last stage of the hold. -/
def execLeadHoldEnd (core : BitVec 7) (s : State) : Host.Outcome State Fault Refusal :=
  let k := s.core core.toNat
  match k.holdEnd with
  | some e => if s.live && decide (e < s.stage) then .next (s.setCore core.toNat { k with holdEnd := none }) else .next s
  | none => .next s

/-- BACKHAUL_HOLD_END (R77). -/
def execBackhaulHoldEnd (l : LegId) (s : State) : Host.Outcome State Fault Refusal :=
  match s.taskOf l.job.toNat l.task.toNat with
  | some t => (match t.heldUntil with
      | some e =>
        if s.live && decide (e < s.stage) then .next (s.modTask l.job.toNat l.task.toNat (fun (t : TaskRun) => { t with heldUntil := none }))
        else .next s
      | none => .next s)
  | none => .next s

/-- GATHER_FILL_LIMIT (R109): the tick that begins stage s0 + FILL_LIMIT. -/
def execGatherFillLimit (l : LegId) (s : State) : Host.Outcome State Fault Refusal :=
  let j := l.job.toNat
  match s.runOf j, s.taskOf j l.task.toNat with
  | some r, some t => (match t.gatherCtl with
      | none => .next s
      | some c => match mget r.seen c.fillCtr with
        | none => .next s
        | some s0 =>
          if s.live && t.st == .ready && !t.fillHit && decide (s0 + c.fillLimit ≤ s.stage) then
            .next (s.modTask j t.hdr.id (fun (t : TaskRun) => { t with fillHit := true }))
          else .next s)
  | _, _ => .next s

/-! ### The end of a task -/

/-- A completed collective goes to the replay log (R477). -/
def State.collLogged (s : State) (x : EngRun) : State :=
  match x.coll, x.t.eng with
  | some c, .coll q =>
    s.logColl x.j x.id c.b.group c.b.seq q.inDigest (tensorDigest s x.pt c.b.out)
      (c.b.out.planes.flatMap (fun p => jobBytes s x.pt p.1 p.2))
  | _, _ => s

/-- TASK_COMPLETE (R409, R68): acknowledgements and log entries, the record, then the signal and the tasks that it satisfies. -/
def execTaskComplete (l : LegId) (f : Faults) (s : State) : Host.Outcome State Fault Refusal :=
  let j := l.job.toNat
  match s.engOf j l.task.toNat with
  | none => .next s
  | some x =>
    let t := x.t
    if !(s.live && (t.st == .running || t.st == .suspended) && t.finished && t.fail.isNone && x.jb.abort.isNone) then .next s
    else if t.hdr.kind = updKind then .next ((s.updDone j t.hdr.id).taskOver j t)
    else
      let s1 := if t.hdr.kind = 0x06 then s.haloAck x f else if t.hdr.kind = 0x10 then s.collLogged x else s
      let s2 := (s1.kvReturn j t.hdr.id).endDone j t.hdr.id
      .next ((s2.wakeTasks f j).taskOver j t)

/-- TASK_FAIL (R407): the boundary of a task that met a failure. -/
def execTaskFail (l : LegId) (s : State) : Host.Outcome State Fault Refusal :=
  let j := l.job.toNat
  match s.job j, s.taskOf j l.task.toNat with
  | some jb, some t =>
    if s.live && t.fail.isSome && (t.st == .running || t.st == .suspended || t.st == .ready) && jb.abort.isNone then
      if t.hdr.kind = updKind then .next ((s.updFailed j t.hdr.id).taskOver j t)
      else .next (((s.kvReturn j t.hdr.id).endFailed j t.hdr.id).taskOver j t)
    else .next s
  | _, _ => .next s

/-! ### The end of a step -/

/-- Status of a step notice (R365). -/
def RunStep.status (r : RunStep) : Nat := if r.rolledBack then 0x0010 else if r.lost = 0 then 0 else 0x000E

/-- The step has nothing left to do (R65, R70, R255): every task is resolved, and an update step has closed. -/
def Job.stepOver (jb : Job) (r : RunStep) : Bool :=
  jb.abort.isNone && r.resolved && (if r.q.update && jb.train.isSome then r.close == 3 else true)

/-- STEP_COMPLETE (R65, R70, R365, R411, R476, R480): the step record, the divergence event, the step report, the sets it consumed,
the notice. -/
def execStepComplete (job : BitVec 4) (s : State) : Host.Outcome State Fault Refusal :=
  let j := job.toNat
  match s.job j with
  | none => .next s
  | some jb => match jb.run with
    | none => .next s
    | some r =>
      if !(s.cvrWorks && jb.stepOver r) then .next s
      else
        let s1 := (s.logStep j (fun (c : Chan) i => i * c.layout.2)).replayEnd j
        let s2 := if r.tasks.any (fun (t : TaskRun) => t.st == .notRun) then s1.addReport { jobReport s1 j r 0x0208 1 r.firstFail with time := r.firstAt } else s1
        let s3 := s2.freeSets j r.q.chans
        .next ((s3.notice j r.q r.status r.lost).modJob j (fun (b : Job) => { b with
          run := none, readies := b.readies.filter (fun (y : ReadyRec) => y.step != r.q.step) }))

end Sys2Proof.Machine
end

