-- ==== Sys2Proof/Machine/Spdm.lean ====
section
/-! DEFINITION. Attestation: the SPDM 1.2 responder over its five transports, IDE_KM and ATTEST_GET (R445–R449). Message
layouts are DMTF's (log 26). -/
namespace Sys2Proof.Machine

/-- Header length and content length of one DER element. -/
def derLen (b : List Byte) : Nat × Nat :=
  let l := fld b 1 1
  if l < 128 then (2, l) else (2 + (l - 128), beNat ((b.drop 2).take (l - 128)))

/-- The bytes of the first DER element, header with content. -/
def derItem (b : List Byte) : List Byte := b.take ((derLen b).1 + (derLen b).2)

/-- The content of the first DER element. -/
def derBody (b : List Byte) : List Byte := (derItem b).drop (derLen b).1

/-- The bytes after the first DER element. -/
def derRest (b : List Byte) : List Byte := b.drop ((derLen b).1 + (derLen b).2)

/-- SubjectPublicKeyInfo of an X.509 v3 certificate: the seventh element of its body. -/
def certKey (cert : List Byte) : List Byte :=
  derItem (derRest (derRest (derRest (derRest (derRest (derRest (derBody (derBody cert))))))))

/-- Slot 0 is provisioned (R446): the leaf's public key hashes to ID_KEY_HASH. -/
def State.slot0 (s : State) : Bool :=
  match s.flash.chain.getLast? with
  | some leaf => sha512 (certKey leaf) == s.fuses.idKeyHash
  | none => false

/-- The certificate chain of slot 0 in SPDM form: length, reserved, root hash, certificates. -/
def State.spdmChain (s : State) : List Byte :=
  let c := s.flash.chain.flatten
  toLE 2 (68 + c.length) ++ zeros 2 ++ sha512 (s.flash.chain.headD []) ++ c

/-- A transport's connection (R448). -/
def State.conn (s : State) : SpdmT → SpdmConn
  | .doe .a => s.doeA
  | .doe .b => s.doeB
  | .attest .a => s.attA
  | .attest .b => s.attB
  | .mctp => s.mctpConn

/-- Replace a transport's connection. -/
def State.setConn (s : State) (t : SpdmT) (c : SpdmConn) : State :=
  match t with
  | .doe .a => { s with doeA := c }
  | .doe .b => { s with doeB := c }
  | .attest .a => { s with attA := c }
  | .attest .b => { s with attB := c }
  | .mctp => { s with mctpConn := c }

/-- An ERROR response. -/
def spdmError (code data : Nat) : List Byte := [0x12#8, 0x7F#8, Byte.of code, Byte.of data]

/-- Request codes of the table "SPDM support". -/
def spdmCodes : List Nat := [0x84, 0xE1, 0xE3, 0x81, 0x82, 0x83, 0xE0, 0xE4, 0xE5, 0xEC, 0xFE]

/-- CERT, CHAL, MEAS with signatures, MEAS_FRESH, ENCRYPT, MAC and KEY_EX capability flags. -/
def spdmFlags : Nat := 0x2F6

/-- CTExponent that the responder gives (log 26). -/
def spdmCtExponent : Nat := 20

/-- The transport carries SPDM now (R429, R448): the responder runs on the Caravaneer; a DOE mailbox needs its port. -/
def State.spdmUp (s : State) (t : SpdmT) : Bool :=
  s.pwrok && s.cfgActive && s.cvrUp && (match t with
    | .doe h => (s.host h).link && s.part.hasHost h
    | .attest h => (s.host h).link && s.part.hasHost h
    | .mctp => true)

/-- One measurement block: index, specification 1, value type (bit 7: raw) and value. -/
def measBlock (index ty : Nat) (raw : Bool) (v : List Byte) : List Byte :=
  toLE 1 index ++ [0x01#8] ++ toLE 2 (3 + v.length) ++ toLE 1 (ty + 128 * b2n raw) ++ toLE 2 v.length ++ v

/-- The twelve measurement blocks (R449). -/
def State.measurements (s : State) : List (List Byte) :=
  let m := s.runningManifest
  let comps := (m.map (fun (m : Manifest) => m.comps)).getD []
  let hash (ty : Nat) : List Byte := ((comps.find? (fun (c : Comp) => c.ty == ty)).map (fun (c : Comp) => c.hash)).getD (zeros 64)
  let svn := (m.map (fun (m : Manifest) => m.svn)).getD 0
  [measBlock 1 0x00 false s.fuses.romDigest]
    ++ (List.range 8).map (fun k => measBlock (k + 2) (if k = 7 then 0x03 else 0x01) false (hash (k + 1)))
    ++ [measBlock 10 0x04 false (sha512 (s.flash.bank s.upd.running).manifest),
        measBlock 11 0x07 true (toLE 1 svn ++ toLE 1 s.fuses.svn ++ zeros 6),
        measBlock 12 0x05 true (toLE 1 s.dbg.level ++ toLE 1 (b2n s.upd.trial) ++ toLE 1 (b2n s.upd.running) ++ zeros 5)]

/-- Measurement summary hash where one is asked for. -/
def State.measSummary (s : State) (ty : Nat) : List Byte := if ty = 0 then [] else sha512 s.measurements.flatten

/-- The ASCII codes of a signing context's text. -/
def ctxAuth : List Byte := "responder-challenge_auth signing".toList.map (fun c => Byte.of c.toNat)
def ctxMeas : List Byte := "responder-measurements signing".toList.map (fun c => Byte.of c.toNat)
def ctxKey : List Byte := "responder-key_exchange_rsp signing".toList.map (fun c => Byte.of c.toNat)
def ctxVersion : List Byte := "dmtf-spdm-v1.2.*".toList.map (fun c => Byte.of c.toNat)

/-- The 100-byte combined prefix of SPDM 1.2. -/
def spdmPrefix (ctx : List Byte) : List Byte :=
  ctxVersion ++ ctxVersion ++ ctxVersion ++ ctxVersion ++ zeros (36 - ctx.length) ++ ctx

/-- The signature of a transcript with the identity key (R445). -/
def State.spdmSign (s : State) (ctx transcript : List Byte) : List Byte :=
  rsaSign s.fuses.idModulus s.fuses.idPrivate (spdmPrefix ctx ++ sha512 transcript)

/-- Response to a request that has passed the common checks: the state and the response bytes. -/
abbrev SpdmRes := State × List Byte

/-- GET_VERSION: version 1.2; the connection starts over. -/
def spdmVersion (s : State) (t : SpdmT) (m : List Byte) : SpdmRes :=
  let r : List Byte := [0x10#8, 0x04#8, 0, 0, 0, 1, 0x00#8, 0x12#8]
  let c : SpdmConn := { SpdmConn.init with ver := true, vca := m.take 4 ++ r }
  (s.setConn t c, r)

/-- GET_CAPABILITIES. -/
def spdmCapabilities (s : State) (t : SpdmT) (m : List Byte) : SpdmRes :=
  let c := s.conn t
  if !c.ver || c.caps then (s, spdmError 0x04 0)
  else if m.length ≠ 20 then (s, spdmError 0x01 0)
  else
    let r : List Byte := [0x12#8, 0x61#8, 0, 0, 0, Byte.of spdmCtExponent, 0, 0] ++ toLE 4 spdmFlags ++ toLE 4 4096 ++ toLE 4 4096
    (s.setConn t { c with caps := true, vca := c.vca ++ m ++ r }, r)

/-- What the responder selects of one algorithm structure: type and offered bits. -/
def algSelect (ty offered : Nat) : Nat := match ty with
  | 2 => offered &&& 0x10
  | 3 => offered &&& 0x02
  | 5 => offered &&& 0x01
  | _ => 0

/-- NEGOTIATE_ALGORITHMS. -/
def spdmAlgorithms (s : State) (t : SpdmT) (m : List Byte) : SpdmRes :=
  let c := s.conn t
  let n := fld m 2 1
  if !c.caps || c.algs then (s, spdmError 0x04 0)
  else if m.length < 32 ∨ m.length ≠ fld m 4 2 ∨ m.length < 32 + 4 * n then (s, spdmError 0x01 0)
  else
    let structs := (List.range n).flatMap (fun k =>
      let o := m.length - 4 * n + 4 * k
      toLE 1 (fld m o 1) ++ toLE 1 0x20 ++ toLE 2 (algSelect (fld m o 1) (fld m (o + 2) 2)))
    let r : List Byte := [0x12#8, 0x63#8, Byte.of n, 0] ++ toLE 2 (36 + 4 * n) ++ toLE 1 (fld m 6 1 &&& 1) ++ toLE 1 (fld m 7 1 &&& 2)
      ++ toLE 4 8 ++ toLE 4 (fld m 8 4 &&& 0x20) ++ toLE 4 (fld m 12 4 &&& 0x4) ++ zeros 12 ++ zeros 4 ++ structs
    (s.setConn t { c with algs := true, vca := c.vca ++ m ++ r }, r)

/-- GET_DIGESTS: slot 0 where it is provisioned (R446). -/
def spdmDigests (s : State) (t : SpdmT) (m : List Byte) : SpdmRes :=
  let c := s.conn t
  if !c.algs then (s, spdmError 0x04 0)
  else
    let r : List Byte := [0x12#8, 0x01#8, 0, Byte.of (b2n s.slot0)] ++ (if s.slot0 then sha512 s.spdmChain else [])
    (s.setConn t { c with msgB := c.msgB ++ m.take 4 ++ r }, r)

/-- GET_CERTIFICATE (R446): slot 0 only. -/
def spdmCertificate (s : State) (t : SpdmT) (m : List Byte) : SpdmRes :=
  let c := s.conn t
  let off := fld m 4 2
  if !c.algs then (s, spdmError 0x04 0)
  else if !s.slot0 then (s, spdmError 0x05 0)
  else if fld m 2 1 % 16 ≠ 0 ∨ m.length < 8 ∨ s.spdmChain.length < off then (s, spdmError 0x01 0)
  else
    let d := (s.spdmChain.drop off).take (min (fld m 6 2) 4088)
    let r : List Byte := [0x12#8, 0x02#8, 0, 0] ++ toLE 2 d.length ++ toLE 2 (s.spdmChain.length - off - d.length) ++ d
    (s.setConn t { c with msgB := c.msgB ++ m.take 8 ++ r }, r)

/-- 32 random bytes (R441). -/
def State.rand32 (s : State) : List Byte × State := (toLE 32 (s.draw.1.toNat % 2 ^ 256), s.draw.2)

/-- CHALLENGE (R446, R447): CHALLENGE_AUTH signed with the identity key. -/
def spdmChallengeAuth (s : State) (t : SpdmT) (m : List Byte) : SpdmRes :=
  let c := s.conn t
  if !c.algs then (s, spdmError 0x04 0)
  else if !s.slot0 then (s, spdmError 0x05 0)
  else if fld m 2 1 % 16 ≠ 0 ∨ m.length < 36 then (s, spdmError 0x01 0)
  else
    let n := s.rand32
    let body : List Byte := [0x12#8, 0x03#8, 0, 0x01#8] ++ sha512 s.spdmChain ++ n.1 ++ s.measSummary (fld m 3 1) ++ zeros 2
    let sig := s.spdmSign ctxAuth (c.vca ++ c.msgB ++ m ++ body)
    (n.2.setConn t { c with msgB := [] }, body ++ sig)

/-- GET_MEASUREMENTS (R449): count, one block or all; signed where asked. -/
def spdmMeasurements (s : State) (t : SpdmT) (m : List Byte) : SpdmRes :=
  let c := s.conn t
  let signed := bit (fld m 2 1) 0
  let op := fld m 3 1
  let bs := s.measurements
  if !c.algs then (s, spdmError 0x04 0)
  else if signed && (m.length < 37 || fld m 36 1 % 16 != 0) then (s, spdmError 0x01 0)
  else if 12 < op ∧ op ≠ 0xFF then (s, spdmError 0x01 0)
  else
    let sel := if op = 0 then [] else if op = 0xFF then bs else [nth bs (op - 1)]
    let n := s.rand32
    let body : List Byte := [0x12#8, 0x60#8, Byte.of (if op = 0 then 12 else 0), 0] ++ toLE 1 sel.length
      ++ toLE 3 sel.flatten.length ++ sel.flatten ++ n.1 ++ zeros 2
    if signed then
      let sig := s.spdmSign ctxMeas (c.vca ++ c.msgL ++ m ++ body)
      (n.2.setConn t { c with msgL := [] }, body ++ sig)
    else (n.2.setConn t { c with msgL := c.msgL ++ m ++ body }, body)

/-- KEY_EXCHANGE (R447, R448): not over ATTEST_GET; one session a transport. -/
def spdmKeyExchange (s : State) (t : SpdmT) (m : List Byte) : SpdmRes :=
  let c := s.conn t
  match t with
  | .attest _ => (s, spdmError 0x07 0xE4)
  | _ =>
    if !c.algs then (s, spdmError 0x04 0)
    else if c.session.isSome then (s, spdmError 0x0A 0)
    else if fld m 3 1 % 16 ≠ 0 ∨ m.length < 138 then (s, spdmError 0x01 0)
    else
      let n := s.rand32
      let d1 := n.2.draw
      let d2 := d1.2.draw
      let d3 := d2.2.draw
      let secret := Config.sessionSecret ((m.drop 40).take 96) s.freeCtr
      let sid := d3.1.toNat % 2 ^ 16
      let body : List Byte := [0x12#8, 0x64#8, 0, 0] ++ toLE 2 sid ++ [0#8, 0#8] ++ n.1 ++ toLE 48 d1.1.toNat ++ toLE 48 d2.1.toNat
        ++ s.measSummary (fld m 2 1) ++ zeros 2
      let th := c.vca ++ sha512 s.spdmChain ++ m ++ body
      let sig := s.spdmSign ctxKey th
      let ver := hmac512 (toLE 48 secret.toNat) (th ++ sig)
      (d3.2.setConn t { c with session := some (fld m 4 2 + sid * 2 ^ 16, false, secret) }, body ++ sig ++ ver)

/-- FINISH: the requester's proof under the session secret. -/
def spdmFinish (s : State) (t : SpdmT) (m : List Byte) : SpdmRes :=
  let c := s.conn t
  match c.session with
  | some (id, false, k) =>
    if (m.drop 4).take 64 = hmac512 (toLE 48 k.toNat) (m.take 4) then
      (s.setConn t { c with session := some (id, true, k) }, [0x12#8, 0x65#8, 0, 0])
    else (s.setConn t { c with session := none }, spdmError 0x06 0)
  | _ => (s, spdmError 0x04 0)

/-- END_SESSION. -/
def spdmEnd (s : State) (t : SpdmT) (_m : List Byte) : SpdmRes :=
  let c := s.conn t
  match c.session with
  | some (_, true, _) => (s.setConn t { c with session := none }, [0x12#8, 0x6C#8, 0, 0])
  | _ => (s, spdmError 0x04 0)

/-- A request that the responder supports, by its code; none outside the table. -/
def spdmBody (code : Nat) : Option (State → SpdmT → List Byte → SpdmRes) :=
  match code with
  | 0x84 => some spdmVersion
  | 0xE1 => some spdmCapabilities
  | 0xE3 => some spdmAlgorithms
  | 0x81 => some spdmDigests
  | 0x82 => some spdmCertificate
  | 0x83 => some spdmChallengeAuth
  | 0xE0 => some spdmMeasurements
  | 0xE4 => some spdmKeyExchange
  | 0xE5 => some spdmFinish
  | 0xEC => some spdmEnd
  | _ => none

/-- One request and its response (R447, R448, R461): Busy in the pause of an activation, UnsupportedRequest outside the
table, VersionMismatch for another version. -/
def State.spdm (s : State) (t : SpdmT) (m : List Byte) : SpdmRes :=
  let code := fld m 1 1
  if s.upd.act.any (fun p => p.1 == ActPhase.paused) then (s, spdmError 0x03 0)
  else match spdmBody code with
    | none => (s, spdmError 0x07 code)
    | some f =>
      if m.length < 4 then (s, spdmError 0x01 0)
      else if fld m 0 1 ≠ (if code = 0x84 then 0x10 else 0x12) then (s, spdmError 0x41 0)
      else f s t m

/-- A request of one code arrives on a transport and its response is kept there. -/
def State.spdmRow (s : State) (t : SpdmT) (m : List Byte) (code : Nat) : State :=
  if s.spdmUp t && fld m 1 1 == code then
    let r := s.spdm t m
    r.1.setConn t { r.1.conn t with resp := r.2 }
  else s

/-- GET_VERSION (R447). -/
def execGetVersion (t : SpdmT) (msg : List Byte) (s : State) : Host.Outcome State Fault Refusal := .next (s.spdmRow t msg 0x84)

/-- GET_CAPABILITIES (R447). -/
def execGetCapabilities (t : SpdmT) (msg : List Byte) (s : State) : Host.Outcome State Fault Refusal :=
  .next (s.spdmRow t msg 0xE1)

/-- NEGOTIATE_ALGORITHMS (R447). -/
def execNegotiateAlgorithms (t : SpdmT) (msg : List Byte) (s : State) : Host.Outcome State Fault Refusal :=
  .next (s.spdmRow t msg 0xE3)

/-- GET_DIGESTS (R447). -/
def execGetDigests (t : SpdmT) (msg : List Byte) (s : State) : Host.Outcome State Fault Refusal := .next (s.spdmRow t msg 0x81)

/-- GET_CERTIFICATE (R446). -/
def execGetCertificate (t : SpdmT) (msg : List Byte) (s : State) : Host.Outcome State Fault Refusal :=
  .next (s.spdmRow t msg 0x82)

/-- CHALLENGE (R446). -/
def execSpdmChallenge (t : SpdmT) (msg : List Byte) (s : State) : Host.Outcome State Fault Refusal :=
  .next (s.spdmRow t msg 0x83)

/-- GET_MEASUREMENTS (R449). -/
def execGetMeasurements (t : SpdmT) (msg : List Byte) (s : State) : Host.Outcome State Fault Refusal :=
  .next (s.spdmRow t msg 0xE0)

/-- KEY_EXCHANGE (R448). -/
def execKeyExchange (t : SpdmT) (msg : List Byte) (s : State) : Host.Outcome State Fault Refusal := .next (s.spdmRow t msg 0xE4)

/-- FINISH (R447). -/
def execFinish (t : SpdmT) (msg : List Byte) (s : State) : Host.Outcome State Fault Refusal := .next (s.spdmRow t msg 0xE5)

/-- END_SESSION (R447). -/
def execEndSession (t : SpdmT) (msg : List Byte) (s : State) : Host.Outcome State Fault Refusal := .next (s.spdmRow t msg 0xEC)

/-- SPDM_UNSUPPORTED_REQUEST (R447). -/
def execSpdmUnsupportedRequest (t : SpdmT) (msg : List Byte) (s : State) : Host.Outcome State Fault Refusal :=
  if spdmCodes.contains (fld msg 1 1) then .next s else .next (s.spdmRow t msg (fld msg 1 1))

/-- The row of AttestGet in the command catalogue (R370). -/
def specAttestGet : CmdSpec :=
  ⟨0x0606, false, false, false, true, [(0x08, 0, 64), (0x10, 0, 16), (0x18, 0, 64), (0x20, 0, 16)]⟩

/-- ATTEST_GET (R448): one request and its response; a response longer than RESP_MAX is not written. -/
def execAttestGet (h : HostId) (c : CmdRec) (s : State) : Host.Outcome State Fault Refusal :=
  .next (s.command specAttestGet h c (fun s =>
    if c.par 0x08 0 3 ≠ 0 ∨ c.par 0x18 0 3 ≠ 0 then .done s 0x0003 0
    else match s.hostRead h (c.par 0x08 0 64) (c.par 0x10 0 16) with
      | none => .done s 0x000E 0
      | some m =>
        let r := s.spdm (.attest h) m
        let t := r.1.setConn (.attest h) { r.1.conn (.attest h) with resp := r.2 }
        if c.par 0x20 0 16 < r.2.length then .done t 0x0003 r.2.length
        else match t.hostWrite h (c.par 0x18 0 64) r.2 with
          | some u => .done u 0 r.2.length
          | none => .done t 0x000E 0))

/-- The secured session on a port's own DOE mailbox is open (R448). -/
def State.ideSession (s : State) (h : HostId) : Bool :=
  s.spdmUp (.doe h) && (match (s.conn (.doe h)).session with
    | some (_, done, _) => done
    | none => false)

/-- Answer an IDE_KM message: protocol 0, object, payload (log 26). -/
def State.ideAnswer (s : State) (h : HostId) (obj : Nat) (d : List Byte) : State :=
  s.setConn (.doe h) { s.conn (.doe h) with resp := [0x12#8, 0x7E#8, 0, 0, 0, Byte.of obj] ++ d }

/-- An IDE_KM message arrives in a port's session (R448); in the pause of an activation it is answered with Busy (R461). -/
def State.ideRow (s : State) (h : HostId) (k : State → State) : State :=
  if !s.ideSession h then s
  else if s.upd.act.any (fun p => p.1 == ActPhase.paused) then s.setConn (.doe h) { s.conn (.doe h) with resp := spdmError 0x03 0 }
  else k s

/-- IDE_KM_QUERY (R355, R448): four selective streams, no link streams. -/
def execIdeKmQuery (h : HostId) (s : State) : Host.Outcome State Fault Refusal :=
  .next (s.ideRow h (fun s => s.ideAnswer h 0x01 (zeros 4 ++ toLE 1 4 ++ toLE 1 (s.host h).streams.length)))

/-- Key of a key slot: key set, direction, sub-stream. -/
def ideSlot (keySet rxTx : BitVec 1) (sub : BitVec 4) : Nat := keySet.toNat * 32 + rxTx.toNat * 16 + sub.toNat

/-- A key and an IV are programmed into a slot of a stream; a fifth stream is answered with status 4 (R355). -/
def State.ideProg (s : State) (h : HostId) (stream k : Nat) (key : BitVec 256) (iv : BitVec 64) : State :=
  let p := s.host h
  match mget p.streams stream with
  | none =>
    if 4 ≤ p.streams.length then s.ideAnswer h 0x03 [Byte.of stream, 0x04#8]
    else (s.setHost h { p with streams := mset p.streams stream ⟨[(k, key)], [(k, iv)], []⟩ }).ideAnswer h 0x03 [Byte.of stream, 0#8]
  | some st =>
    let st1 : IdeStream := { st with keys := mset st.keys k key, ivs := mset st.ivs k iv }
    (s.setHost h { p with streams := mset p.streams stream st1 }).ideAnswer h 0x03 [Byte.of stream, 0#8]

/-- IDE_KM_KEY_PROG (R355, R448). -/
def execIdeKmKeyProg (h : HostId) (stream : BitVec 8) (keySet rxTx : BitVec 1) (sub : BitVec 4) (key : BitVec 256)
    (iv : BitVec 64) (s : State) : Host.Outcome State Fault Refusal :=
  .next (s.ideRow h (fun s => s.ideProg h stream.toNat (ideSlot keySet rxTx sub) key iv))

/-- Start or stop a programmed key set. -/
def State.ideGo (s : State) (h : HostId) (stream k : Nat) (go : Bool) : State :=
  let p := s.host h
  match mget p.streams stream with
  | some st =>
    if (mget st.keys k).isSome then
      (s.setHost h { p with streams := mset p.streams stream { st with go := mset st.go k go } }).ideAnswer h 0x06
        [Byte.of stream, 0#8]
    else s.ideAnswer h 0x06 [Byte.of stream, 0x04#8]
  | none => s.ideAnswer h 0x06 [Byte.of stream, 0x04#8]

/-- IDE_KM_K_SET_GO (R448). -/
def execIdeKmKSetGo (h : HostId) (stream : BitVec 8) (keySet rxTx : BitVec 1) (sub : BitVec 4) (s : State) :
    Host.Outcome State Fault Refusal :=
  .next (s.ideRow h (fun s => s.ideGo h stream.toNat (ideSlot keySet rxTx sub) true))

/-- IDE_KM_K_SET_STOP (R448). -/
def execIdeKmKSetStop (h : HostId) (stream : BitVec 8) (keySet rxTx : BitVec 1) (sub : BitVec 4) (s : State) :
    Host.Outcome State Fault Refusal :=
  .next (s.ideRow h (fun s => s.ideGo h stream.toNat (ideSlot keySet rxTx sub) false))

end Sys2Proof.Machine
end

