-- ==== Sys2Proof/Machine/Tick.lean ====
section
/-! DEFINITION. TICK (R60): a new stage begins and every unit takes its cue from it. -/
namespace Sys2Proof.Machine

/-! ### The clock -/

/-- The stage clock at a tick (R60, R307, R389): the stage that ends has its length in cycles, less a correction taken in one step; the
first tick begins stage 0; a FAULT_N pulse may end. -/
def State.newStage (s : State) : State :=
  let len : Int := if s.ticking then (s.periodCycles : Int) - s.offset - s.dom.stepErr else 0
  let t := s.now + len.toNat
  { s with
    now := t
    stage := s.nextStage
    offset := 0, ticking := true
    faultN := s.faultN && !(!s.fatal && decide (s.faultNEnd ≤ t)) }

/-- A period set by DEVICE_CONFIG outside a domain is taken at the tick (R58). -/
def State.takePeriod (s : State) : State :=
  match s.periodAt with
  | none => s
  | some (us, _) => (({ s with periodAt := none } : State).setPeriod us).completeBoth
      (fun (o : OpenCmd) => if o.kind = OpenKind.period then some (0, 0) else none)

/-- Phase errors are slewed by at most 64 cycles a stage; a step correction is posted (R307). -/
def State.slew (s : State) : State :=
  let d := s.dom
  let e := d.phaseErr
  let s1 : State := { s with dom := { d with phaseErr := e - max (-64) (min 64 e), stepErr := 0 } }
  if d.stepErr = 0 then s1 else s1.post { s1.ev 0x050A with arg0 := unsgn 64 d.stepErr }

/-- Counts of a stage start anew on every port (R287, R294); the symbols that the FEC of a running link corrected are a free count of the
stage (R310, log 70). -/
def State.portsTick (s : State) : State :=
  { s with ports := s.ports.map (fun (p : Nat × Port) => (p.1, { p.2 with
      uncStage := [], tagStage := 0
      fecCorr := if p.2.st.session then p.2.fecCorr + Config.fecCorrected p.1 s.stage else p.2.fecCorr })) }

/-! ### Power and temperature -/



/-- A share in mW under the package cap (R82): in proportion to the ceiling, the margin kept; fractions of a mW fall away (log 52). -/
def State.shareOf (s : State) (u : PowerUnit) : Nat :=
  s.part.ceilW u * 1000 * (s.power.capW - s.part.marginW) / (s.part.pkgMaxW - s.part.marginW)

/-- The array allowance after a stage (R83): energy in nJ over the period in µs is the mean power in mW. -/
def nextAllow (a share energy periodUs : Nat) : Nat :=
  if share * periodUs < energy then max 4 (a - cdiv (energy - share * periodUs) (2500 * periodUs))
  else min 64 (a + min 8 ((share * periodUs - energy) / (2500 * periodUs)))

/-- The throttled share of a die after a tick (R427): none where it is not throttled. -/
def nextThrottle (old : Option Nat) (free ceil temp : Nat) : Option Nat :=
  if 95 ≤ temp then some (min free (max (ceil / 2) (old.getD free * 9 / 10)))
  else match old with
    | none => none
    | some v =>
      if 92 ≤ temp then some (min free v)
      else if free ≤ v * 105 / 100 then none else some (v * 105 / 100)

/-- One die's thermal response, with EV_THERMAL where throttling begins or ends (R427). -/
def State.throttleDie (s : State) (u : ThermUnit) (serai : Bool) (k : Nat) (p : PowerUnit) (temp : Nat) : State :=
  let m := if serai then s.power.throttleS else s.power.throttleC
  let old := mget m k
  let new := nextThrottle old (s.shareOf p) (s.part.ceilW p * 1000) temp
  let m1 := match new with
    | some v => mset m k v
    | none => merase m k
  let s1 : State := { s with power := if serai then { s.power with throttleS := m1 } else { s.power with throttleC := m1 } }
  if old.isSome == new.isSome then s1 else s1.post (s1.thermalEvent u temp 0)

/-- One stack's thermal response (R427): half bandwidth from 95 °C until it is below 92 °C (log 52). -/
def State.throttleStack (s : State) (k temp : Nat) : State :=
  let old := mgetD s.power.halved k false
  let new := if 95 ≤ temp then true else if temp < 92 then false else old
  let s1 : State := { s with power := { s.power with halved := if new then mset s.power.halved k true else merase s.power.halved k } }
  if old == new then s1 else s1.post (s1.thermalEvent (.stack (BitVec.ofNat 4 k)) temp 0)

/-- What the sensors gave at the tick is kept (R389, R390, R426, R429). -/
def State.readSensors (s : State) (i : TickIn) : State :=
  { s with power := { s.power with
      tempC := i.tempC, tempS := i.tempS, tempI := i.tempI, tempH := i.tempH
      railPower := i.railPower, packageW := i.packageW.toNat
      tjMax := ((i.tempC ++ i.tempS ++ i.tempI ++ i.tempH).map BitVec.toNat).foldl max 0 } }

/-- POWER_ALLOWANCE (R83), over the period of the stage that has ended, against the share that the thermal response leaves (log 52). -/
def State.allowances (s : State) (i : TickIn) (periodUs : Nat) : State :=
  { s with power := { s.power with allow := (List.range s.part.cdies).foldl (fun (m : NMap Nat) d =>
      mset m d (nextAllow (mgetD m d 64) ((mget s.power.throttleC d).getD (s.shareOf .cdie)) (nth i.energy d) periodUs)) s.power.allow } }

/-- THERMAL_RESPONSE (R427), dies and then stacks. -/
def State.thermals (s : State) (i : TickIn) : State :=
  let s1 := (List.range s.part.cdies).foldl (fun (x : State) d =>
    x.throttleDie (.cdie (BitVec.ofNat 3 d)) false d .cdie (nth i.tempC d).toNat) s
  let s2 := (List.range s.part.serais).foldl (fun (x : State) n =>
    x.throttleDie (.serai (BitVec.ofNat 2 n)) true n .serai (nth i.tempS n).toNat) s1
  (List.range s.part.hbms).foldl (fun (x : State) k => x.throttleStack k (nth i.tempH k).toNat) s2

/-- DROVER_CHECK (R21): suspended while the Caravaneer is halted (R474). -/
def State.droverCheck (s : State) (missing : List DieId) : State :=
  if s.dbg.haltCvr then s
  else
    let dies := (List.range s.part.cdies).map (fun d => DieId.cdie (BitVec.ofNat 3 d))
      ++ (List.range s.part.serais).map (fun n => DieId.serai (BitVec.ofNat 2 n))
    { s with drovers := dies.foldl (fun (m : NMap DroverSt) d =>
        let v := mgetD m (dieCode d) .init
        mset m (dieCode d) { v with missed := if missing.contains d then v.missed + 1 else 0 }) s.drovers }

/-! ### Jobs -/

/-- A change to a job's mapping takes effect (R29); its keep entries are released (R264); a waystation generation that is late is posted. -/
def State.jobTick (s : State) (j : Nat) : State :=
  (((s.modJob j (fun (b : Job) => { b with pt := b.ptNext })).keepTick j).wayLate j).wayPump j

/-- A task that stands at a halo-stamp wait (R175) or a ring wait (R105). -/
def EngRun.standing (x : EngRun) : Bool :=
  (x.t.st == .running || x.t.st == .suspended) && x.t.fail.isNone && !x.t.finished &&
  (match x.t.eng, x.matJob with
    | .mat m, some b => decide (m.tile < b.tiles) && ((b.ctl.ring && m.filled.any (fun n => ringAhead n m.tile == 0)) || !b.haloDone m)
    | .mov m, _ => (match parseMover x.t.body with
        | some (.ring _ _ ext _ id strm _ _ _ _ _ _) =>
          let y : Option EngRun := (x.jb.run.bind (fun (r : RunStep) => r.tasks.find? (fun (t : TaskRun) => t.hdr.id == id))).map (fun t =>
            { x with t := t })
          (match y.bind EngRun.matJob, y.map (fun (z : EngRun) => z.t.eng) with
            | some b, some (.mat q) =>
              let filled := nth q.filled strm
              m.piece % boxPieces ext (b.wDesc strm filled) == 0 && decide (b.ctl.slots ≤ ringAhead filled (nth q.freed strm))
            | _, _ => false)
        | _ => false)
    | _, _ => false)

/-- HALO_WAIT_DEADLOCK (R70): in a step with a failed or not-run task where all that is left stands at such waits, running legs fail. -/
def State.deadlock (s : State) (j : Nat) : State :=
  match s.runOf j with
  | none => s
  | some r =>
    let stands (t : TaskRun) : Bool := match s.engOf j t.hdr.id with
      | some x => x.standing
      | none => false
    if r.tasks.any (fun (t : TaskRun) => t.st == .failed || t.st == .notRun) && r.tasks.all (fun (t : TaskRun) => t.resolved || stands t) then
      (r.tasks.filter (fun (t : TaskRun) => t.st == .running && !t.resolved)).foldl (fun (x : State) (t : TaskRun) =>
        x.taskFault j t.hdr.id 0x000E none) s
    else s

/-- Counters that a tick sees at 1 or more for the first time in the step (s0 of R109). -/
def State.seenCtrs (s : State) (j : Nat) : State :=
  match s.job j with
  | none => s
  | some jb => s.modRun j (fun (r : RunStep) => { r with seen := jb.ctrs.foldl (fun (m : NMap Nat) (p : Nat × Nat) =>
      if p.2 = 0 ∨ (mget m p.1).isSome then m else mset m p.1 s.stage) r.seen })

/-- The first queued step of a job may begin: no step runs, nothing stops the job (R65, R66, R275, log 49). -/
def Job.mayBegin (jb : Job) : Bool :=
  jb.run.isNone && jb.abort.isNone && jb.reshard.isNone && !(jb.train.map Train.rollback).getD false

/-- A step as it begins. -/
def RunStep.start (q : QStep) (l : TaskList) : RunStep :=
  { q := q, tasks := l.hdrs.map (fun (h : TaskHdr) => TaskRun.init h .waiting), upds := [], seen := [], firstFail := 0, firstAt := { stage := 0, offset := 0 },
    close := 0
    rolledBack := false, logEntries := [], resultsLost := false, resultUsed := 0, skip := false, devTally := 0, totTally := 0
    headroom := 0 }

/-- STEP_BEGIN (R65, R222, R259, R267, R270): counters read zero, variant slots, training state and channels take their new values,
tasks without unsatisfied waits become ready. -/
def State.beginStep (s : State) (j : Nat) : State :=
  match s.job j with
  | none => s
  | some jb => match jb.queue with
    | [] => s
    | q :: rest => match mget jb.lists q.list with
      | none => s
      | some l =>
        if !jb.mayBegin then s
        else
          let s1 := (s.modJob j (fun (b : Job) => { b.takeVariants with
            queue := rest, ctrs := [], run := some (RunStep.start q l) })).replayBegin j q.step
          let s2 := (s1.trainBegin j q.step q.update).mapSets j q.chans
          let h := match (s2.job j).bind Job.train with
            | some t => unsgn 8 t.h
            | none => 0
          (s2.modRun j (fun (r : RunStep) => { r with headroom := h })).wakeTasks noFaults j

/-! ### A pause -/

/-- No stage of a pause counts (R461): stored stages move on with it. -/
def Chan.shift (c : Chan) : Chan := { c with samples := c.samples.map (fun (m : Sample) => { m with ref := m.ref.map (fun g => g + 1) }) }
def TaskRun.shift (t : TaskRun) : TaskRun :=
  { t with
    heldUntil := t.heldUntil.map (fun g => g + 1)
    eng := match t.eng with
      | .coll q => .coll (q.shift 1)
      | e => e }
def CoreSt.shift (c : CoreSt) : CoreSt := { c with overruns := c.overruns.map (fun g => g + 1), holdEnd := c.holdEnd.map (fun g => g + 1) }
def State.pauseShift (s : State) : State :=
  { s with
    chans := s.chans.map (fun (p : Nat × Chan) => (p.1, p.2.shift))
    cores := s.cores.map (fun (p : Nat × CoreSt) => (p.1, p.2.shift))
    jobs := s.jobs.map (fun (p : Nat × Job) => (p.1, { p.2 with run := p.2.run.map (fun (r : RunStep) => { r with
      tasks := r.tasks.map TaskRun.shift, upds := r.upds.map TaskRun.shift }) })) }

/-! ### The tick -/

/-- A takeover's steps at ticks (R22): placement stops, and resumes after the switch. -/
def takeoverTick (k : Nat) : Nat := if k = 1 then 2 else if k = 3 then 0 else k

/-- The Caravaneer's share of a tick, while it runs (R22, R460, R474): steps begin. -/
def State.beginSteps (s : State) : State :=
  if s.paused || s.dbg.haltCvr || decide (2 ≤ s.takeover) then s
  else (s.jobs.map Prod.fst).foldl State.beginStep s

/-- Round-robin marks (R72): the job served first since the tick before becomes the one to start after. -/
def State.turnRound (s : State) : State :=
  { s with rrPrev := s.rrCur.foldl (fun (m : NMap Nat) (p : Nat × Nat) => mset m p.1 p.2) s.rrPrev, rrCur := [] }

/-- Every member of a job holds the generation it restores (R350): the service all-reduce says so; a job on one device has no other. -/
def State.restoredAll (s : State) (i : TickIn) (j : Nat) : Bool :=
  i.restored.getLsbD j || (((s.job j).map Job.others).getD []).isEmpty

/-- What the units do at a tick of a device that works. -/
def State.tickUnits (s : State) (i : TickIn) (first : Bool) (periodUs : Nat) : State :=
  let js := s.jobs.map Prod.fst
  let s1 := ((s.sampleAll.svcTick).linksTick).portsTick
  let s2 := s1.readSensors i
  let t2 := s2.thermals i
  let s3 := if first then t2 else t2.allowances i periodUs
  let s4 := js.foldl State.jobTick (s3.droverCheck i.missing)
  let s5 := { (if s4.paused then s4.pauseShift else s4.convoys) with takeover := takeoverTick s4.takeover }
  let s6 := (js.foldl State.deadlock s5.turnRound).beginSteps
  let s7 := (js.foldl State.seenCtrs s6).observeFill (fun _ => true)
  let s8 := s7.completeBoth (fun (o : OpenCmd) => if o.kind = OpenKind.restore && s.restoredAll i o.job then some (0, 0) else none)
  (s8.bpStage.timeExchange).pumpAll

/-- TICK (R60): from the first one after self test on, every unit takes its cue from it; a fatal device keeps its stages and nothing
else. -/
def execTick (i : TickIn) (s : State) : Host.Outcome State Fault Refusal :=
  if !(s.pwrok && s.ready) then .next s
  else
    let first := !s.ticking
    let s1 := s.newStage
    if s1.fatal then .next s1
    else .next (((s1.takePeriod).slew).tickUnits i first s.period)

end Sys2Proof.Machine
end

