-- ==== Sys2Proof/Machine/Dispatch.lean ====
section
/-! DEFINITION. The dispatcher: one arm for each command of the table, each one direct call of its meaning. -/
namespace Sys2Proof.Machine

/-- The effect of a command on everything but the queue. -/
def exec (i : Instr) (s : State) : Host.Outcome State Fault Refusal :=
  match i with
  | .pwrokRise straps railsInRange => Sys2Proof.Machine.execPwrokRise straps railsInRange s
  | .bootPhaseDone => Sys2Proof.Machine.execBootPhaseDone s
  | .bootPhaseTimeout code => Sys2Proof.Machine.execBootPhaseTimeout code s
  | .pwrokFall => Sys2Proof.Machine.execPwrokFall s
  | .perstAssert h => Sys2Proof.Machine.execPerstAssert h s
  | .perstRelease h => Sys2Proof.Machine.execPerstRelease h s
  | .refclkLoss => Sys2Proof.Machine.execRefclkLoss s
  | .thermalTrip u temp => Sys2Proof.Machine.execThermalTrip u temp s
  | .pmbAlert rails => Sys2Proof.Machine.execPmbAlert rails s
  | .regulatorPoll rails => Sys2Proof.Machine.execRegulatorPoll rails s
  | .trstN => Sys2Proof.Machine.execTrstN s
  | .tick inp => Sys2Proof.Machine.execTick inp s
  | .lateDrop channel pos => Sys2Proof.Machine.execLateDrop channel pos s
  | .gatherFillLimit l => Sys2Proof.Machine.execGatherFillLimit l s
  | .droverRestart d => Sys2Proof.Machine.execDroverRestart d s
  | .leadHoldEnd core => Sys2Proof.Machine.execLeadHoldEnd core s
  | .backhaulHoldEnd l => Sys2Proof.Machine.execBackhaulHoldEnd l s
  | .startLeg g f => Sys2Proof.Machine.execStartLeg g f s
  | .legSuspend l => Sys2Proof.Machine.execLegSuspend l s
  | .stageOverrun l => Sys2Proof.Machine.execStageOverrun l s
  | .matrixTile core f => Sys2Proof.Machine.execMatrixTile core f s
  | .outputDrain core f => Sys2Proof.Machine.execOutputDrain core f s
  | .elementIteration core f => Sys2Proof.Machine.execElementIteration core f s
  | .tapSweepIteration core f => Sys2Proof.Machine.execTapSweepIteration core f s
  | .moverPiece core m f => Sys2Proof.Machine.execMoverPiece core m f s
  | .attentionPair core f => Sys2Proof.Machine.execAttentionPair core f s
  | .attentionFinish core => Sys2Proof.Machine.execAttentionFinish core s
  | .appendTokens core f => Sys2Proof.Machine.execAppendTokens core f s
  | .saddlebagFlush core f => Sys2Proof.Machine.execSaddlebagFlush core f s
  | .haloStampSeen core f => Sys2Proof.Machine.execHaloStampSeen core f s
  | .haloPublish core f => Sys2Proof.Machine.execHaloPublish core f s
  | .taskComplete l f => Sys2Proof.Machine.execTaskComplete l f s
  | .taskFail l => Sys2Proof.Machine.execTaskFail l s
  | .jobRelease job => Sys2Proof.Machine.execJobRelease job s
  | .groupSettle job group f => Sys2Proof.Machine.execGroupSettle job group f s
  | .stepClose job => Sys2Proof.Machine.execStepClose job s
  | .poisonTally job total => Sys2Proof.Machine.execPoisonTally job total s
  | .replicaTally job group roots => Sys2Proof.Machine.execReplicaTally job group roots s
  | .tallyBisectRound job group lower logs => Sys2Proof.Machine.execTallyBisectRound job group lower logs s
  | .stepComplete job => Sys2Proof.Machine.execStepComplete job s
  | .slowTierFetchDone job group part f => Sys2Proof.Machine.execSlowTierFetchDone job group part f s
  | .slowTierWriteback job group part f => Sys2Proof.Machine.execSlowTierWriteback job group part f s
  | .waystationCommit owner tag ordinal stage => Sys2Proof.Machine.execWaystationCommit owner tag ordinal stage s
  | .reshardStart job x => Sys2Proof.Machine.execReshardStart job x s
  | .reshardSwitch job confirm => Sys2Proof.Machine.execReshardSwitch job confirm s
  | .kvPreempt job seq f => Sys2Proof.Machine.execKvPreempt job seq f s
  | .kvFerryBack job seq f => Sys2Proof.Machine.execKvFerryBack job seq f s
  | .mediaSampleTake channel f => Sys2Proof.Machine.execMediaSampleTake channel f s
  | .mediaDecodeStart half => Sys2Proof.Machine.execMediaDecodeStart half s
  | .mediaDecodeDone channel pos f => Sys2Proof.Machine.execMediaDecodeDone channel pos f s
  | .collectiveChunkStep serai l f => Sys2Proof.Machine.execCollectiveChunkStep serai l f s
  | .collectivePeerTimeout l peer => Sys2Proof.Machine.execCollectivePeerTimeout l peer s
  | .transactionTimeout txn => Sys2Proof.Machine.execTransactionTimeout txn s
  | .portDownDiscard port => Sys2Proof.Machine.execPortDownDiscard port s
  | .fabricStallDetect port cls vl => Sys2Proof.Machine.execFabricStallDetect port cls vl s
  | .frameWrite fr => Sys2Proof.Machine.execFrameWrite fr s
  | .frameWriteAck fr => Sys2Proof.Machine.execFrameWriteAck fr s
  | .frameRead fr f => Sys2Proof.Machine.execFrameRead fr f s
  | .frameReadData fr => Sys2Proof.Machine.execFrameReadData fr s
  | .frameSignal fr => Sys2Proof.Machine.execFrameSignal fr s
  | .frameSignalAck fr => Sys2Proof.Machine.execFrameSignalAck fr s
  | .frameTxnNack fr => Sys2Proof.Machine.execFrameTxnNack fr s
  | .frameService fr => Sys2Proof.Machine.execFrameService fr s
  | .frameReservedType fr => Sys2Proof.Machine.execFrameReservedType fr s
  | .collectiveData fr => Sys2Proof.Machine.execCollectiveData fr s
  | .collectiveReady fr => Sys2Proof.Machine.execCollectiveReady fr s
  | .collectiveAck fr => Sys2Proof.Machine.execCollectiveAck fr s
  | .collectiveAbort fr => Sys2Proof.Machine.execCollectiveAbort fr s
  | .timeRequest fr => Sys2Proof.Machine.execTimeRequest fr s
  | .timeResponse fr => Sys2Proof.Machine.execTimeResponse fr s
  | .stageRenumber stage periodUs => Sys2Proof.Machine.execStageRenumber stage periodUs s
  | .periodChange => Sys2Proof.Machine.execPeriodChange s
  | .keySwitch => Sys2Proof.Machine.execKeySwitch s
  | .keyOldErase => Sys2Proof.Machine.execKeyOldErase s
  | .routeSwitch => Sys2Proof.Machine.execRouteSwitch s
  | .timekeeperSwitch => Sys2Proof.Machine.execTimekeeperSwitch s
  | .ctrlIdle c => Sys2Proof.Machine.execCtrlIdle c s
  | .ctrlAck c => Sys2Proof.Machine.execCtrlAck c s
  | .ctrlNak c => Sys2Proof.Machine.execCtrlNak c s
  | .ctrlCredit c => Sys2Proof.Machine.execCtrlCredit c s
  | .ctrlNarrow c => Sys2Proof.Machine.execCtrlNarrow c s
  | .controlFrameResend port ctype => Sys2Proof.Machine.execControlFrameResend port ctype s
  | .dataFrameReceiveFail port tagFail => Sys2Proof.Machine.execDataFrameReceiveFail port tagFail s
  | .codewordUncorrectable port wave => Sys2Proof.Machine.execCodewordUncorrectable port wave s
  | .wavelengthFail port wave => Sys2Proof.Machine.execWavelengthFail port wave s
  | .narrowComplete port => Sys2Proof.Machine.execNarrowComplete port s
  | .portAuthDown port => Sys2Proof.Machine.execPortAuthDown port s
  | .portLightSample port light => Sys2Proof.Machine.execPortLightSample port light s
  | .trainingPhaseDone port healthy => Sys2Proof.Machine.execTrainingPhaseDone port healthy s
  | .trainingMessage port msg => Sys2Proof.Machine.execTrainingMessage port msg s
  | .trainingTimeout port => Sys2Proof.Machine.execTrainingTimeout port s
  | .refusedRetry port => Sys2Proof.Machine.execRefusedRetry port s
  | .downRetrain port => Sys2Proof.Machine.execDownRetrain port s
  | .linkFlitReplay l => Sys2Proof.Machine.execLinkFlitReplay l s
  | .linkFail l => Sys2Proof.Machine.execLinkFail l s
  | .scrubLine addr o => Sys2Proof.Machine.execScrubLine addr o s
  | .parityFault addr group active => Sys2Proof.Machine.execParityFault addr group active s
  | .postedWriteTaken block => Sys2Proof.Machine.execPostedWriteTaken block s
  | .vrbTransactionDone r => Sys2Proof.Machine.execVrbTransactionDone r s
  | .msixDeferredSend h v => Sys2Proof.Machine.execMsixDeferredSend h v s
  | .msixPendingSend h v => Sys2Proof.Machine.execMsixPendingSend h v s
  | .takeoverSwitch => Sys2Proof.Machine.execTakeoverSwitch s
  | .activationPause => Sys2Proof.Machine.execActivationPause s
  | .activationResume switched => Sys2Proof.Machine.execActivationResume switched s
  | .confirmWindowExpiry => Sys2Proof.Machine.execConfirmWindowExpiry s
  | .mbxCmdTailWrite h value whole ide => Sys2Proof.Machine.execMbxCmdTailWrite h value whole ide s
  | .mbxCplHeadWrite h value whole ide => Sys2Proof.Machine.execMbxCplHeadWrite h value whole ide s
  | .devTimeLoRead h => Sys2Proof.Machine.execDevTimeLoRead h s
  | .devErrClear h value => Sys2Proof.Machine.execDevErrClear h value s
  | .apply w t value => Sys2Proof.Machine.execApply w t value s
  | .vrbCmdWrite h value => Sys2Proof.Machine.execVrbCmdWrite h value s
  | .vrbDroppedClear h value => Sys2Proof.Machine.execVrbDroppedClear h value s
  | .postedWrite w block off value => Sys2Proof.Machine.execPostedWrite w block off value s
  | .registerWrite w t value => Sys2Proof.Machine.execRegisterWrite w t value s
  | .bar4Read h off len ide f => Sys2Proof.Machine.execBar4Read h off len ide f s
  | .bar4Write h off data ide f => Sys2Proof.Machine.execBar4Write h off data ide f s
  | .mbxResync h c => Sys2Proof.Machine.execMbxResync h c s
  | .deviceConfig h c => Sys2Proof.Machine.execDeviceConfig h c s
  | .powerCapSet h c => Sys2Proof.Machine.execPowerCapSet h c s
  | .hostBPartitionSet h c => Sys2Proof.Machine.execHostBPartitionSet h c s
  | .caravaneerTakeover h c => Sys2Proof.Machine.execCaravaneerTakeover h c s
  | .eventMirrorSet h c => Sys2Proof.Machine.execEventMirrorSet h c s
  | .settingsSet h c => Sys2Proof.Machine.execSettingsSet h c s
  | .settingsGet h c => Sys2Proof.Machine.execSettingsGet h c s
  | .faultReportGet h c => Sys2Proof.Machine.execFaultReportGet h c s
  | .jobCreate h c => Sys2Proof.Machine.execJobCreate h c s
  | .jobDestroy h c => Sys2Proof.Machine.execJobDestroy h c s
  | .memMap h c => Sys2Proof.Machine.execMemMap h c s
  | .memUnmap h c => Sys2Proof.Machine.execMemUnmap h c s
  | .tasklistLoad h c f => Sys2Proof.Machine.execTasklistLoad h c f s
  | .tasklistUnload h c => Sys2Proof.Machine.execTasklistUnload h c s
  | .stepSubmit h c => Sys2Proof.Machine.execStepSubmit h c s
  | .replayLogSet h c => Sys2Proof.Machine.execReplayLogSet h c s
  | .kvPoolSet h c => Sys2Proof.Machine.execKvPoolSet h c s
  | .kvAdmit h c => Sys2Proof.Machine.execKvAdmit h c s
  | .kvRelease h c => Sys2Proof.Machine.execKvRelease h c s
  | .kvPin h c => Sys2Proof.Machine.execKvPin h c s
  | .kvUnpin h c => Sys2Proof.Machine.execKvUnpin h c s
  | .mediaChannelOpen h c f => Sys2Proof.Machine.execMediaChannelOpen h c f s
  | .mediaSubmit h c => Sys2Proof.Machine.execMediaSubmit h c s
  | .mediaChannelClose h c => Sys2Proof.Machine.execMediaChannelClose h c s
  | .trainStateSet h c f => Sys2Proof.Machine.execTrainStateSet h c f s
  | .variantLoad h c => Sys2Proof.Machine.execVariantLoad h c s
  | .variantUnload h c => Sys2Proof.Machine.execVariantUnload h c s
  | .collGroupSet h c f => Sys2Proof.Machine.execCollGroupSet h c f s
  | .jobMapSet h c f => Sys2Proof.Machine.execJobMapSet h c f s
  | .jobReshard h c f => Sys2Proof.Machine.execJobReshard h c f s
  | .waystationSet h c reserved => Sys2Proof.Machine.execWaystationSet h c reserved s
  | .waystationHost h c => Sys2Proof.Machine.execWaystationHost h c s
  | .waystationStatus h c => Sys2Proof.Machine.execWaystationStatus h c s
  | .waystationRestore h c image => Sys2Proof.Machine.execWaystationRestore h c image s
  | .fabricJoin h c => Sys2Proof.Machine.execFabricJoin h c s
  | .fabricLeave h c => Sys2Proof.Machine.execFabricLeave h c s
  | .fabricKeySet h c => Sys2Proof.Machine.execFabricKeySet h c s
  | .fabricKeySwitch h c => Sys2Proof.Machine.execFabricKeySwitch h c s
  | .fabricPortSet h c => Sys2Proof.Machine.execFabricPortSet h c s
  | .fabricRouteLoad h c => Sys2Proof.Machine.execFabricRouteLoad h c s
  | .fabricRouteSwitch h c => Sys2Proof.Machine.execFabricRouteSwitch h c s
  | .fabricTimekeeperSet h c => Sys2Proof.Machine.execFabricTimekeeperSet h c s
  | .fabricWindowSet h c => Sys2Proof.Machine.execFabricWindowSet h c s
  | .fabricPeersSet h c f => Sys2Proof.Machine.execFabricPeersSet h c f s
  | .fabricPortStatus h c => Sys2Proof.Machine.execFabricPortStatus h c s
  | .fabricDomainStatus h c => Sys2Proof.Machine.execFabricDomainStatus h c s
  | .updateBegin h c => Sys2Proof.Machine.execUpdateBegin h c s
  | .updateChunk h c => Sys2Proof.Machine.execUpdateChunk h c s
  | .updateStatus h c => Sys2Proof.Machine.execUpdateStatus h c s
  | .updateActivate h c => Sys2Proof.Machine.execUpdateActivate h c s
  | .updateConfirm h c => Sys2Proof.Machine.execUpdateConfirm h c s
  | .attestGet h c => Sys2Proof.Machine.execAttestGet h c s
  | .updManifestPiece total piece data => Sys2Proof.Machine.execUpdManifestPiece total piece data s
  | .updChunkPiece chunk piece data => Sys2Proof.Machine.execUpdChunkPiece chunk piece data s
  | .updStatus offset => Sys2Proof.Machine.execUpdStatus offset s
  | .updActivate => Sys2Proof.Machine.execUpdActivate s
  | .updConfirm => Sys2Proof.Machine.execUpdConfirm s
  | .getState => Sys2Proof.Machine.execGetState s
  | .getThermal => Sys2Proof.Machine.execGetThermal s
  | .getPower => Sys2Proof.Machine.execGetPower s
  | .setEndpointId eid => Sys2Proof.Machine.execSetEndpointId eid s
  | .getEndpointId => Sys2Proof.Machine.execGetEndpointId s
  | .getMctpVersionSupport msgType => Sys2Proof.Machine.execGetMctpVersionSupport msgType s
  | .getMessageTypeSupport => Sys2Proof.Machine.execGetMessageTypeSupport s
  | .getVersion t msg => Sys2Proof.Machine.execGetVersion t msg s
  | .getCapabilities t msg => Sys2Proof.Machine.execGetCapabilities t msg s
  | .negotiateAlgorithms t msg => Sys2Proof.Machine.execNegotiateAlgorithms t msg s
  | .getDigests t msg => Sys2Proof.Machine.execGetDigests t msg s
  | .getCertificate t msg => Sys2Proof.Machine.execGetCertificate t msg s
  | .spdmChallenge t msg => Sys2Proof.Machine.execSpdmChallenge t msg s
  | .getMeasurements t msg => Sys2Proof.Machine.execGetMeasurements t msg s
  | .keyExchange t msg => Sys2Proof.Machine.execKeyExchange t msg s
  | .finish t msg => Sys2Proof.Machine.execFinish t msg s
  | .endSession t msg => Sys2Proof.Machine.execEndSession t msg s
  | .ideKmQuery h => Sys2Proof.Machine.execIdeKmQuery h s
  | .ideKmKeyProg h stream keySet rxTx sub key iv => Sys2Proof.Machine.execIdeKmKeyProg h stream keySet rxTx sub key iv s
  | .ideKmKSetGo h stream keySet rxTx sub => Sys2Proof.Machine.execIdeKmKSetGo h stream keySet rxTx sub s
  | .ideKmKSetStop h stream keySet rxTx sub => Sys2Proof.Machine.execIdeKmKSetStop h stream keySet rxTx sub s
  | .dbgXferUpdate req => Sys2Proof.Machine.execDbgXferUpdate req s
  | .dbgXferCapture => Sys2Proof.Machine.execDbgXferCapture s
  | .dbgStatus => Sys2Proof.Machine.execDbgStatus s
  | .dbgChallenge => Sys2Proof.Machine.execDbgChallenge s
  | .dbgUnlockPiece => Sys2Proof.Machine.execDbgUnlockPiece s
  | .dbgLock => Sys2Proof.Machine.execDbgLock s
  | .dbgRead f => Sys2Proof.Machine.execDbgRead f s
  | .dbgWrite f => Sys2Proof.Machine.execDbgWrite f s
  | .dbgHalt => Sys2Proof.Machine.execDbgHalt s
  | .dbgStep => Sys2Proof.Machine.execDbgStep s
  | .dbgResume => Sys2Proof.Machine.execDbgResume s
  | .dbgHaltStatus => Sys2Proof.Machine.execDbgHaltStatus s
  | .dbgBpSet => Sys2Proof.Machine.execDbgBpSet s
  | .dbgBpClear => Sys2Proof.Machine.execDbgBpClear s
  | .dbgBpHit => Sys2Proof.Machine.execDbgBpHit s
  | .dbgReplayEnter => Sys2Proof.Machine.execDbgReplayEnter s
  | .dbgReplayExit => Sys2Proof.Machine.execDbgReplayExit s
  | .dbgReplayStatus => Sys2Proof.Machine.execDbgReplayStatus s
  | .flashProgramDone ok => Sys2Proof.Machine.execFlashProgramDone ok s
  | .activationVerifyDone failed => Sys2Proof.Machine.execActivationVerifyDone failed s
  | .controlFrameDiscard port tagFail => Sys2Proof.Machine.execControlFrameDiscard port tagFail s
  | .reservedOpcodeCommand h op c => Sys2Proof.Machine.execReservedOpcodeCommand h op c s
  | .dbgReservedOp => Sys2Proof.Machine.execDbgReservedOp s
  | .mctpUnknownRequest code => Sys2Proof.Machine.execMctpUnknownRequest code s
  | .spdmUnsupportedRequest t msg => Sys2Proof.Machine.execSpdmUnsupportedRequest t msg s

end Sys2Proof.Machine
end

