-- ==== Sys2Proof/Machine/Step.lean ====
section
/-! DEFINITION. One step of the block: the command at the front of the queue, or one idle cycle. -/
namespace Sys2Proof.Machine

/-- Take the command at the front of the queue and run it on the state with the queue's rest; an empty queue is one
cycle of the 850 MHz clock (log 28). -/
def step (s : State) : Host.Outcome State Fault Refusal :=
  match s.pending with
  | [] => .next s.idleCycle
  | c :: r => exec c { s with pending := r }

/-- The command that a word spells, put at the front of the queue; no change where it spells none (log 29). -/
def State.withFetchWord (s : State) (nbits w : Nat) : State :=
  match decodeTableWord nbits w with
  | some c => { s with pending := c :: s.pending }
  | none => s

end Sys2Proof.Machine
end

