-- ==== Sys2Proof/Safety.lean ====
section
/-! DEFINITION. The terms in which claims speak: the invariant of every state, and the end of a command's own part. -/
namespace Sys2Proof.Machine

/-- What every step keeps: memory is in its canonical form (log 9). -/
def Inv (s : State) : Prop := Memory.wf s.mem = true

/-- A command's own part has ended with ST_OK in state `t`: its completion record follows (R363, R364). -/
def completed (sp : CmdSpec) (h : HostId) (c : CmdRec) (t : State) (result : Nat) : State :=
  cmdAnswer sp.op h c (.done t 0x0000 result)

/-- A command's own part has run in state `t` and the command stays open (R364). -/
def opened (sp : CmdSpec) (h : HostId) (c : CmdRec) (t : State) (k : OpenKind) : State := cmdAnswer sp.op h c (.later t k)

/-- A command's own part runs, and starts in state `b`. -/
def Runs (sp : CmdSpec) (h : HostId) (c : CmdRec) (s b : State) : Prop := s.runs sp h c = true ∧ b = s.begun sp.op h c

/-- Every byte that the device or a host can address reads in `t` as in `s`. -/
def SameMem (s t : State) : Prop := ∀ a, t.byte a = s.byte a

/-- An SPDM request of one code passes the checks that all requests share (R447, R448, R461). -/
def Asks (s : State) (t : SpdmT) (m : List Byte) (code : Nat) : Prop :=
  s.spdmUp t = true ∧ s.upd.act.any (fun p => p.1 == ActPhase.paused) = false ∧ fld m 1 1 = code ∧ 4 ≤ m.length
    ∧ fld m 0 1 = (if code = 0x84 then 0x10 else 0x12)

/-- A transport holds a response; nothing else differs from `u`. -/
def spdmReply (u : State) (t : SpdmT) (r : List Byte) : State := u.setConn t { u.conn t with resp := r }

/-- The debug controller executes request `q`, the oldest, at its level and with reserved bits zero; `b` is the state in
which its own part starts (R467, R468). -/
def Requests (s : State) (q : BitVec 512) (d : DbgSpec) (b : State) : Prop :=
  s.dbgUp = true ∧ reqOp q = d.op ∧ d.level ≤ s.dbg.level ∧ d.clean q = true
    ∧ ∃ rest, s.dbg.reqs = q :: rest ∧ b = { s with dbg := { s.dbg with reqs := rest } }

/-- The management endpoint takes an update request (R457). -/
def TakesUpdate (s : State) : Prop :=
  s.mctpUp = true ∧ s.ready = true ∧ s.cvrIntact = true ∧ s.dbg.haltCvr = false ∧ s.setting 3 = 1 ∧ s.fatal = false
    ∧ s.updBusy = false

/-- A data frame that this device is to answer has been received: its port is UP, the port holds the key of its generation, it is
of this device or a TIME frame; `b` is the state after the port's own account of it (R281, R282, R288, R299). -/
def Received (s : State) (fr : Frame) (b : State) : Prop :=
  s.live = true ∧ s.dom.joined = true ∧ (s.port fr.port.toNat).st = .up ∧ s.keyHeld fr.port.toNat fr.kgen = true
    ∧ (fr.typ = 9 ∨ fr.dest.toNat = s.dom.deviceId)
    ∧ b = s.setPort fr.port.toNat { s.port fr.port.toNat with
        rxSeq := (s.port fr.port.toNat).rxSeq + 1
        rxBytes := (s.port fr.port.toNat).rxBytes + fr.payload.length
        ctlOut := merase (s.port fr.port.toNat).ctlOut 2
        creditOut := mset (s.port fr.port.toNat).creditOut (frameLane fr)
          (mgetD (s.port fr.port.toNat).creditOut (frameLane fr) 0 + frameCredits fr) }

/-- A control frame has been received; `b` is the state with its number taken as the last one accepted (R283). -/
def ReceivedCtl (s : State) (c : CtrlFrame) (b : State) : Prop :=
  s.live = true
    ∧ ((s.port c.port.toNat).st = .up ∨ (s.port c.port.toNat).st = .narrowing
      ∨ ((s.port c.port.toNat).st = .training ∧ (s.port c.port.toNat).phase = 5))
    ∧ b = s.setPort c.port.toNat { s.port c.port.toNat with
        ctlRx := (s.port c.port.toNat).ctlRx + (c.ccount.toNat + 2 ^ 32 - (s.port c.port.toNat).ctlRx % 2 ^ 32) % 2 ^ 32 + 1 }

/-- A collective message of the job with its tag, for a task of its running step. -/
def CollMessage (b : State) (fr : Frame) (sub j : Nat) (jb : Job) (c : CollCtx) : Prop :=
  fr.typ = 8 ∧ fr.tag ≠ 0 ∧ (collHdr fr.payload).sub = sub ∧ b.tagged fr.tag.toNat = some (j, jb)
    ∧ b.collTask j jb (collHdr fr.payload) = some c

end Sys2Proof.Machine
end

