-- ==== Sys2Proof/Certificates/Slice0/Obligations.lean ====
section
/-! DEFINITION. The statements for the provers. Those about a command's own part say the whole next state, so that each
is its frame as well: what the equation does not change is as it was in `b`, the state in which the own part starts, or
in `s`. -/

open Sys2Proof Sys2Proof.Machine

/-! ### The queue, reset, the invariant -/

/-- A step takes the command at the front of the queue and runs it on the state with the queue's rest. -/
def Obligations.StepRunsFrontCommand : Prop :=
  ∀ (c : Instr) (r : List Instr) (s : State), s.pending = c :: r → step s = exec c { s with pending := r }

/-- On an empty queue one cycle passes and nothing else that software can see moves: the model's choice (log 28). -/
def Obligations.EmptyQueueIsOneCycle : Prop :=
  (∀ s : State, s.pending = [] → s.pwrok = false → step s = .next s)
  ∧ (∀ s : State, s.pending = [] → s.pwrok = true → ∃ t, step s = .next t ∧ t.now = s.now + 1 ∧ t.stage = s.stage
      ∧ t.offset = (if s.ticking = true ∧ s.offset + 1 < 850 * s.period then s.offset + 1 else s.offset)
      ∧ t.mem = s.mem ∧ t.jobs = s.jobs ∧ t.hostA = s.hostA ∧ t.hostB = s.hostB ∧ t.events = s.events)

/-- The device right after reset: PWROK low, no job, nothing open, the sequence numbers at their first values, the stage
period at 200 µs. The values that the manual does not give are the model's (log 2, log 9). -/
def Obligations.ResetState : Prop :=
  State.reset.pwrok = false ∧ State.reset.ready = false ∧ State.reset.fatal = false ∧ State.reset.stage = 0
  ∧ State.reset.period = 200 ∧ State.reset.jobs = [] ∧ State.reset.mem = [] ∧ State.reset.marked = []
  ∧ State.reset.pending = [] ∧ State.reset.nextSeq = 1 ∧ State.reset.nextReport = 1
  ∧ (∀ h, (State.reset.host h).expHsn = 1 ∧ (State.reset.host h).nextDsn = 1 ∧ (State.reset.host h).cmdHead = 0
      ∧ (State.reset.host h).cmdTail = 0 ∧ (State.reset.host h).cplHead = 0 ∧ (State.reset.host h).cplTail = 0
      ∧ (State.reset.host h).openCmds = [])
  ∧ State.reset.dbg.level = 0 ∧ State.reset.dbg.fails = 0 ∧ State.reset.dom.joined = false

/-- The invariant holds at reset. -/
def Obligations.InvariantAtReset : Prop := Inv State.reset

/-- Every step keeps the canonical form of memory, whatever command is at the front of the queue. -/
def Obligations.EveryStepKeepsInvariant : Prop := ∀ s t : State, Inv s → step s = .next t → Inv t

/-- The 64 bytes of a command record and its opcode say which command it is: every mailbox command that the catalogue or
its reserved row names is read back from its slot, with every field at every value. -/
def Obligations.SlotNamesItsCommand : Prop :=
  ∀ (i : Instr) (h : HostId) (op : BitVec 16) (c : CmdRec), i.mailbox = some (h, op, c) →
    ∃ (f : Faults) (x : Bool) (w : Option WayImage), slotCommand h (c.slot op.toNat) f x w = i

/-! ### What every mailbox command has in common -/

/-- A command out of sequence is taken, completes with ST_SEQ and the expected HSN, and has no other effect. -/
def Obligations.OutOfSequenceCommand : Prop :=
  ∀ (i : Instr) (h : HostId) (op : BitVec 16) (c : CmdRec) (s : State), i.mailbox = some (h, op, c) → op ≠ 0x0001#16 →
    s.mayTake h = true → s.turnOf h = true → c.hsn.toNat ≠ (s.host h).expHsn →
    exec i s = .next ((s.take h op.toNat c).record h 0 c.hsn.toNat op.toNat c.job.toNat 0x0006 s.stage (s.host h).expHsn)

/-- A command waits in its ring while the device does not take it: before READY, in a takeover or a pause, while the
open count is 1,024, with no slot presented, or while it is the other host's turn. -/
def Obligations.CommandWaitsInItsRing : Prop :=
  ∀ (i : Instr) (h : HostId) (op : BitVec 16) (c : CmdRec) (s : State), i.mailbox = some (h, op, c) →
    (s.mayTake h = false ∨ s.turnOf h = false) → exec i s = .next s

/-- A fatal device takes commands and answers ST_STATE to every one but MBX_RESYNC and FAULT_REPORT_GET. -/
def Obligations.FatalDeviceAnswersState : Prop :=
  ∀ (i : Instr) (h : HostId) (op : BitVec 16) (c : CmdRec) (s : State), i.mailbox = some (h, op, c) → op ≠ 0x0001#16 →
    op ≠ 0x0009#16 → s.fatal = true → s.mayTake h = true → s.turnOf h = true → c.hsn.toNat = (s.host h).expHsn →
    exec i s = .next ((s.begun op.toNat h c).record h 0 c.hsn.toNat op.toNat c.job.toNat 0x0016 s.stage 0)

/-- A command with a non-zero reserved byte is rejected with ST_BAD_FIELD and has no effect. -/
def Obligations.ReservedByteIsRejected : Prop :=
  ∀ (i : Instr) (h : HostId) (op : BitVec 16) (c : CmdRec) (s : State), i.mailbox = some (h, op, c) → op ≠ 0x0001#16 →
    s.fatal = false → s.mayTake h = true → s.turnOf h = true → c.hsn.toNat = (s.host h).expHsn → c.rsvd ≠ 0#8 →
    exec i s = .next ((s.begun op.toNat h c).record h 0 c.hsn.toNat op.toNat c.job.toNat 0x0003 s.stage 0)

/-- What a completion leaves on its host's port: one record in the slot of MBX_CPL_TAIL, the index one further, the next
DSN one above and never 0, no other slot and no other ring index changed; memory is untouched. -/
def Obligations.CompletionRecord : Prop :=
  ∀ (sp : CmdSpec) (h : HostId) (c : CmdRec) (s : State) (r : Nat), ∃ t, completed sp h c s r = t
    ∧ mget (t.host h).cplRing ((s.host h).cplTail.toNat % 1024)
        = some ⟨(s.host h).nextDsn, c.hsn.toNat, 0, 0, c.job.toNat, sp.op, s.stage, r % 2 ^ 64⟩
    ∧ (∀ k, k ≠ (s.host h).cplTail.toNat % 1024 → mget (t.host h).cplRing k = mget (s.host h).cplRing k)
    ∧ (t.host h).cplTail = (s.host h).cplTail + 1
    ∧ (t.host h).nextDsn = (if (s.host h).nextDsn = 0xFFFFFFFF then 1 else (s.host h).nextDsn + 1)
    ∧ (t.host h).cplHead = (s.host h).cplHead ∧ (t.host h).cmdHead = (s.host h).cmdHead
    ∧ (t.host h).cmdTail = (s.host h).cmdTail ∧ (t.host h).openCmds = (s.host h).openCmds
    ∧ t.mem = s.mem ∧ t.jobs = s.jobs ∧ t.events = s.events

/-! ### Device, job and memory commands -/

/-- DEVICE_CONFIG outside a domain, POWER_CAP_SET, HOST_B_PARTITION_SET, CARAVANEER_TAKEOVER, EVENT_MIRROR_SET, MBX_RESYNC
without a list, FAULT_REPORT_GET and a reserved opcode complete with their effect. -/
def Obligations.DeviceCommandsComplete : Prop :=
  (∀ h c s b, Runs specDeviceConfig h c s b → 25 ≤ c.par 0x08 0 14 → c.par 0x08 0 14 ≤ 10000 → b.dom.joined = false →
    exec (.deviceConfig h c) s
      = .next (opened specDeviceConfig h c { b with periodAt := some (c.par 0x08 0 14, b.nextStage) } .period))
  ∧ (∀ h c s b, Runs specPowerCapSet h c s b → 60 * b.part.pkgMaxW ≤ 100 * c.par 0x08 0 16 →
      c.par 0x08 0 16 ≤ b.part.pkgMaxW →
      exec (.powerCapSet h c) s
        = .next (completed specPowerCapSet h c { b with power := { b.power with capW := c.par 0x08 0 16 } } 0))
  ∧ (∀ h c s b, Runs specHostBPartitionSet h c s b → b.part.dual = true →
      subMask (c.par 0x08 0 128) (2 ^ b.part.cores - 1) = true → subMask (c.par 0x18 0 16) (2 ^ b.part.hbms - 1) = true →
      subMask (c.par 0x18 16 2) b.part.mediaHalves = true → subMask b.usedByB.1 (c.par 0x08 0 128) = true →
      subMask b.usedByB.2.1 (c.par 0x18 0 16) = true → subMask b.usedByB.2.2 (c.par 0x18 16 2) = true →
      (b.anyHalfB = false ∨ c.par 0x18 16 2 ≠ 0) →
      exec (.hostBPartitionSet h c) s = .next (completed specHostBPartitionSet h c
        { b with grantCores := c.par 0x08 0 128, grantStacks := c.par 0x18 0 16, grantHalves := c.par 0x18 16 2 } 0))
  ∧ (∀ h c s b, Runs specCaravaneerTakeover h c s b → b.part.dual = true → b.anyHalted = false →
      b.dbg.replay = none → b.takeover = 0 →
      exec (.caravaneerTakeover h c) s = .next (opened specCaravaneerTakeover h c { b with takeover := 1 } .takeover))
  ∧ (∀ h c s b, Runs specEventMirrorSet h c s b → c.par 0x08 0 64 % 4096 = 0 →
      (c.par 0x10 0 1 = 0 → exec (.eventMirrorSet h c) s
        = .next (completed specEventMirrorSet h c (b.setHost h { b.host h with mirrorOn := false }) 0))
      ∧ (c.par 0x10 0 1 ≠ 0 → c.par 0x08 0 64 + 4 * 2 ^ 20 ≤ 2 ^ 46 → exec (.eventMirrorSet h c) s
        = .next (completed specEventMirrorSet h c
            (b.setHost h { b.host h with mirrorOn := true, mirror := c.par 0x08 0 64, evtTail := 0 }) 0)))
  ∧ (∀ h c s, s.mayTake h = true → s.turnOf h = true → c.hsn = 0#32 → c.rsvd = 0#8 → c.job = 0xFF#8 →
      c.params = 0#448 →
      exec (.mbxResync h c) s = .next ((s.take h 0x0001 c).record h 0 0 0x0001 0xFF 0 s.stage
        ((s.host h).lastHsn + (s.host h).openCmds.length * 2 ^ 32 + (s.host h).notices.length * 2 ^ 48)))
  ∧ (∀ h c s b r t, Runs specFaultReportGet h c s b → c.par 0x10 0 64 % 8 = 0 →
      b.reports.find? (fun (y : Report) => y.id == c.par 0x08 0 32) = some r →
      b.hostWrite h (c.par 0x10 0 64) (r.cut (c.par 0x18 0 32)) = some t →
      exec (.faultReportGet h c) s = .next (completed specFaultReportGet h c t (r.cut (c.par 0x18 0 32)).length))
  ∧ (∀ h op c s b, opcodes.contains op.toNat = false →
      Runs ⟨op.toNat, false, false, false, false, [(0x08, 0, 448)]⟩ h c s b →
      exec (.reservedOpcodeCommand h op c) s
        = .next (b.record h 0 c.hsn.toNat op.toNat c.job.toNat 0x0003 b.stage 0))

/-- JOB_CREATE on host A's resources takes the lowest free job id and its spill pages; JOB_DESTROY aborts and stays open
to the releasing tick; MEM_MAP of host memory and of HBM, and MEM_UNMAP, change the mapping that the next tick takes and
complete with the stage from which it holds. -/
def Obligations.JobAndMemoryCommandsComplete : Prop :=
  (∀ c s b id pages, Runs specJobCreate .a c s b → b.dbg.replay = none → c.par 0x20 0 128 ≠ 0 → c.par 0x0C 16 16 ≠ 0 →
    subMask (c.par 0x20 0 128) (2 ^ b.part.cores - 1) = true → subMask (c.par 0x0C 16 16) (2 ^ b.part.hbms - 1) = true →
    c.par 0x08 1 2 < b.part.serais → c.par 0x18 0 24 ≤ 8500000 → c.par 0x1C 0 24 % 64 = 0 → c.par 0x30 0 24 % 64 = 0 →
    c.par 0x1C 0 24 + c.par 0x30 0 24 ≤ 12 * 2 ^ 20 → c.par 0x0C 0 16 = 0 → b.freeJob = some id →
    (∀ p ∈ b.jobs, ((p.2.cores &&& c.par 0x20 0 128) != 0
      && rangesMeet p.2.tsBase p.2.tsBytes (c.par 0x1C 0 24) (c.par 0x30 0 24)) = false) →
    b.allocJob (c.par 0x0C 16 16) (2 * (bitList 128 (c.par 0x20 0 128)).length) = some pages →
    exec (.jobCreate .a c) s = .next (completed specJobCreate .a c
      (b.setJob id (Job.create .a (c.par 0x08 0 1 == 1) (c.par 0x08 1 2) 0 (c.par 0x0C 16 16) (c.par 0x10 0 64)
        (c.par 0x18 0 24) (c.par 0x1C 0 24) (c.par 0x30 0 24) (c.par 0x20 0 128)
        ((List.range (bitList 128 (c.par 0x20 0 128)).length).map
          (fun k => (nth (bitList 128 (c.par 0x20 0 128)) k, (pages.drop (2 * k)).take 2))))) id))
  ∧ (∀ h c s b, Runs specJobDestroy h c s b →
      exec (.jobDestroy h c) s = .next (opened specJobDestroy h c (b.abortJob c.job.toNat) .release))
  ∧ (∀ h c s b jb, Runs specMemMap h c s b → b.job c.job.toNat = some jb → c.par 0x08 0 44 % 2 ^ 21 = 0 →
      c.par 0x10 0 23 ≠ 0 → c.par 0x08 0 44 + c.par 0x10 0 23 * 2 ^ 21 ≤ 2 ^ 44 →
      (∀ k < c.par 0x10 0 23, mget jb.ptNext (c.par 0x08 0 44 / 2 ^ 21 + k) = none) →
      (c.par 0x10 24 2 = 2 → c.par 0x20 0 64 % 2 ^ 21 = 0 → c.par 0x20 0 64 + c.par 0x10 0 23 * 2 ^ 21 ≤ 2 ^ 46 →
        exec (.memMap h c) s = .next (cmdAnswer 0x0103 h c (.doneAt (b.setJob c.job.toNat
          (jb.mapPages (c.par 0x08 0 44 / 2 ^ 21)
            ((List.range (c.par 0x10 0 23)).map (fun k => hostBase h + c.par 0x20 0 64 + k * 2 ^ 21)))) 0 0 b.nextStage)))
      ∧ (∀ pages, c.par 0x10 24 2 = 0 → h = .a → c.par 0x18 0 16 = 0 →
        b.allocPages (c.par 0x10 0 23) (stackRanges jb.hbms) = some pages →
        exec (.memMap h c) s = .next (cmdAnswer 0x0103 h c (.doneAt (b.setJob c.job.toNat
          (jb.mapPages (c.par 0x08 0 44 / 2 ^ 21) (pages.map (· * 2 ^ 21)))) 0 0 b.nextStage))))
  ∧ (∀ h c s b jb, Runs specMemUnmap h c s b → b.job c.job.toNat = some jb → c.par 0x08 0 44 % 2 ^ 21 = 0 →
      c.par 0x10 0 23 ≠ 0 →
      (∀ k < c.par 0x10 0 23, (mget jb.ptNext (c.par 0x08 0 44 / 2 ^ 21 + k)).isSome = true) →
      exec (.memUnmap h c) s = .next (cmdAnswer 0x0104 h c (.doneAt (b.setJob c.job.toNat { jb with
        ptNext := jb.ptNext.filter (fun p => !decide (c.par 0x08 0 44 / 2 ^ 21 ≤ p.1
          ∧ p.1 < c.par 0x08 0 44 / 2 ^ 21 + c.par 0x10 0 23)) }) 0 0 b.nextStage)))

/-- TASKLIST_LOAD answers as its native form does; TASKLIST_UNLOAD takes a list out that no step names; STEP_SUBMIT queues a
step and owes its notice; REPLAY_LOG_SET starts and stops the log. -/
def Obligations.StepCommandsComplete : Prop :=
  (∀ h c f s b jb t id, Runs specTasklistLoad h c s b → b.job c.job.toNat = some jb → c.par 0x08 0 44 % 64 = 0 →
    c.par 0x10 24 1 = 0 → c.par 0x18 0 44 = 0 → c.par 0x10 0 17 ≠ 0 → c.par 0x10 0 17 ≤ 65536 → jb.lists.length < 64 →
    b.loadNative f c.job.toNat jb (c.par 0x08 0 44) (c.par 0x10 0 17) = .done t 0 id →
    exec (.tasklistLoad h c f) s = .next (completed specTasklistLoad h c t id))
  ∧ (∀ h c s b jb, Runs specTasklistUnload h c s b → b.job c.job.toNat = some jb →
      (mget jb.lists (c.par 0x08 0 16)).isSome = true → (∀ q ∈ jb.queue, q.list ≠ c.par 0x08 0 16) →
      (∀ r, jb.run = some r → r.q.list ≠ c.par 0x08 0 16) →
      exec (.tasklistUnload h c) s = .next (completed specTasklistUnload h c
        (b.setJob c.job.toNat { jb with lists := merase jb.lists (c.par 0x08 0 16) }) 0))
  ∧ (∀ h c s b jb, Runs specStepSubmit h c s b → b.job c.job.toNat = some jb →
      (mget jb.lists (c.par 0x08 0 16)).isSome = true → (∀ k < 4, c.par (0x10 + k) 7 1 = 0) → jb.queue.length < 4 →
      b.replayAllows c.job.toNat jb (c.par 0x0C 0 32) = true →
      ∃ t, exec (.stepSubmit h c) s = .next (completed specStepSubmit h c t 0)
        ∧ t.job c.job.toNat = some { jb with queue := jb.queue
            ++ [⟨c.par 0x08 0 16, c.par 0x0C 0 32, c.par 0x08 16 1 == 1, [], h, c.hsn.toNat⟩] }
        ∧ (t.host h).notices = (b.host h).notices ++ [(c.hsn.toNat, c.job.toNat, c.par 0x0C 0 32)]
        ∧ (∀ j, j ≠ c.job.toNat → t.job j = b.job j) ∧ t.mem = b.mem)
  ∧ (∀ h c s b jb, Runs specReplayLogSet h c s b → b.job c.job.toNat = some jb →
      (c.par 0x10 0 16 = 0 → exec (.replayLogSet h c) s
        = .next (completed specReplayLogSet h c (b.setJob c.job.toNat { jb with replayLog := none }) 0))
      ∧ (c.par 0x10 0 16 ≠ 0 → c.par 0x08 0 44 % 2 ^ 21 = 0 →
        mappedAll jb.pt (c.par 0x08 0 44) (c.par 0x10 0 16 * 2 ^ 21) = true →
        exec (.replayLogSet h c) s = .next (completed specReplayLogSet h c (b.setJob c.job.toNat
          { jb with replayLog := some ⟨c.par 0x08 0 44, c.par 0x10 0 16, c.par 0x10 16 1 == 1, 64, []⟩ }) 0)))

/-- KV_POOL_SET gives the job its pool; KV_ADMIT takes a two-unit record, writes it with empty caches and answers its
address; KV_RELEASE gives back every unit of a sequence that no task names; KV_PIN and KV_UNPIN set and clear the pin of a
resident sequence. -/
def Obligations.CacheCommandsComplete : Prop :=
  (∀ h c s b jb, Runs specKvPoolSet h c s b → b.job c.job.toNat = some jb → jb.kv = none →
    (c.par 0x08 0 8 = 64 ∨ c.par 0x08 0 8 = 128) → c.par 0x08 16 13 ≠ 0 → c.par 0x08 16 13 ≤ 4096 →
    c.par 0x18 0 23 ≠ 0 → c.par 0x10 0 44 % 2 ^ 21 = 0 → c.par 0x28 0 44 % 2 ^ 21 = 0 →
    mappedAll jb.pt (c.par 0x10 0 44) (c.par 0x18 0 23 * 2 ^ 21) = true → c.par 0x30 0 23 = 0 →
    c.par 0x20 0 24 % 64 = 0 → jb.tsBase ≤ c.par 0x20 0 24 → c.par 0x20 0 24 + c.par 0x24 0 24 ≤ jb.tsBase + jb.tsBytes →
    exec (.kvPoolSet h c) s = .next (completed specKvPoolSet h c (b.setKv c.job.toNat
      ⟨c.par 0x08 0 8, c.par 0x08 16 13, c.par 0x10 0 44, c.par 0x18 0 23, c.par 0x20 0 24, c.par 0x24 0 24, c.par 0x28 0 44, 0,
        [], [], [], 0⟩) 0))
  ∧ (∀ h c s b jb p a p1, Runs specKvAdmit h c s b → b.seqBusy h c.job.toNat (c.par 0x08 0 32) = false →
      b.job c.job.toNat = some jb → jb.kv = some p →
      (∀ q ∈ p.seqs, q.id ≠ c.par 0x08 0 32) → b.liveSeqs < 65536 → p.take 2 = some (a, p1) →
      exec (.kvAdmit h c) s = .next (completed specKvAdmit h c
        ((b.jobPut c.job.toNat a ((List.range p.caches).flatMap (fun _ => KvDir.init.bytes))).setKv c.job.toNat
          { p1 with seqs := p1.seqs ++ [⟨c.par 0x08 0 32, c.par 0x0C 0 2, p.nextOrder, false, false, a, []⟩]
                    nextOrder := p1.nextOrder + 1 }) a))
  ∧ (∀ h c s b p q, Runs specKvRelease h c s b → b.seqBusy h c.job.toNat (c.par 0x08 0 32) = false →
      b.kvPool c.job.toNat = some p → p.seqs.find? (fun (q : KvSeq) => q.id == c.par 0x08 0 32) = some q →
      (∀ n ∈ b.namedCaches c.job.toNat, n.1 ≠ q.seqRec) →
      exec (.kvRelease h c) s = .next (completed specKvRelease h c (b.setKv c.job.toNat
        { p.give (q.seqRec :: q.dirs.flatMap (fun d => d.2.list.map Prod.fst ++ d.2.pages)) with
          seqs := p.seqs.filter (fun (r : KvSeq) => r.id != q.id) }) 0))
  ∧ (∀ h c s b p q, Runs specKvPin h c s b → b.seqBusy h c.job.toNat (c.par 0x08 0 32) = false →
      b.kvPool c.job.toNat = some p → p.seqs.find? (fun (q : KvSeq) => q.id == c.par 0x08 0 32) = some q → q.ferried = false →
      exec (.kvPin h c) s
        = .next (completed specKvPin h c (b.setKv c.job.toNat (p.setSeq { q with pinned := true })) 0))
  ∧ (∀ h c s b p q, Runs specKvUnpin h c s b → b.seqBusy h c.job.toNat (c.par 0x08 0 32) = false →
      b.kvPool c.job.toNat = some p → p.seqs.find? (fun (q : KvSeq) => q.id == c.par 0x08 0 32) = some q →
      exec (.kvUnpin h c) s
        = .next (completed specKvUnpin h c (b.setKv c.job.toNat (p.setSeq { q with pinned := false })) 0))

/-- The update and settings commands with no flash write before them: each stays open while the flash works, or completes at
once with what it answers. Behind a flash write a request waits for its turn. -/
def Obligations.UpdateCommandsComplete : Prop :=
  (∀ h c s b bytes, Runs specUpdateBegin h c s b → b.updBusy = false → c.par 0x08 0 3 = 0 → c.par 0x10 0 32 ≤ 65536 →
    b.hostRead h (c.par 0x08 0 64) (c.par 0x10 0 32) = some bytes →
    (b.upd.flashQ ≠ [] ∨ (b.upd.trial = false ∧ manifestStatus b bytes = 0
        ∧ ∀ d, b.flash.delivery = some d → d.sha ≠ sha512 bytes) →
      exec (.updateBegin h c) s
        = .next (opened specUpdateBegin h c (b.queueFlash (.manifest bytes) (.cmd h c.hsn.toNat)) .flash))
    ∧ (∀ d, b.upd.flashQ = [] → b.upd.trial = false → manifestStatus b bytes = 0 → b.flash.delivery = some d →
      d.sha = sha512 bytes → exec (.updateBegin h c) s = .next (completed specUpdateBegin h c b 0)))
  ∧ (∀ h c s b, Runs specUpdateChunk h c s b → b.updBusy = false → c.par 0x08 0 3 = 0 →
      (b.upd.flashQ ≠ [] → exec (.updateChunk h c) s = .next (opened specUpdateChunk h c
        (b.queueFlash (.chunkAt h (c.par 0x08 0 64) (c.par 0x10 0 32)) (.cmd h c.hsn.toNat)) .flash))
      ∧ (∀ d m bytes, b.upd.flashQ = [] → b.flash.delivery = some d → b.deliveryManifest = some m →
        c.par 0x10 0 32 < d.chunks → b.hostRead h (c.par 0x08 0 64) (m.chunkLen (c.par 0x10 0 32)) = some bytes →
        sha512 bytes = nth m.hashes (c.par 0x10 0 32) →
        (d.held.contains (c.par 0x10 0 32) = false → exec (.updateChunk h c) s = .next (opened specUpdateChunk h c
          (b.queueFlash (.chunk (c.par 0x10 0 32) bytes) (.cmd h c.hsn.toNat)) .flash))
        ∧ (d.held.contains (c.par 0x10 0 32) = true →
          exec (.updateChunk h c) s = .next (completed specUpdateChunk h c b 0))))
  ∧ (∀ h c s b, Runs specUpdateStatus h c s b → b.updBusy = false → c.par 0x08 0 3 = 0 →
      (b.upd.flashQ ≠ [] → exec (.updateStatus h c) s = .next (opened specUpdateStatus h c
        (b.queueFlash (.status h (c.par 0x08 0 64) (c.par 0x10 0 32)) (.cmd h c.hsn.toNat)) .flash))
      ∧ (b.upd.flashQ = [] → b.flash.delivery = none →
        exec (.updateStatus h c) s = .next (completed specUpdateStatus h c b 0))
      ∧ (∀ d t, b.upd.flashQ = [] → b.flash.delivery = some d →
        b.hostWrite h (c.par 0x08 0 64) (d.bitmap.take (c.par 0x10 0 32)) = some t →
        exec (.updateStatus h c) s
          = .next (completed specUpdateStatus h c t (d.held.length + d.chunks * 2 ^ 32))))
  ∧ (∀ h c s b, Runs specUpdateActivate h c s b →
      (b.upd.flashQ ≠ [] → exec (.updateActivate h c) s
        = .next (opened specUpdateActivate h c (b.queueFlash .activate (.cmd h c.hsn.toNat)) .activate))
      ∧ (b.upd.flashQ = [] → b.updBusy = false → b.activateStatus = 0 → exec (.updateActivate h c) s
        = .next (opened specUpdateActivate h c
          { b with upd := { b.upd with act := some (.verify, .cmd h c.hsn.toNat) } } .activate)))
  ∧ (∀ h c s b, Runs specUpdateConfirm h c s b →
      (b.upd.flashQ ≠ [] → exec (.updateConfirm h c) s
        = .next (opened specUpdateConfirm h c (b.queueFlash .confirm (.cmd h c.hsn.toNat)) .flash))
      ∧ (b.upd.flashQ = [] → b.updBusy = false → b.upd.trial = true →
        exec (.updateConfirm h c) s = .next (completed specUpdateConfirm h c (State.burnSvn { b with
          upd := { b.upd with trial := false }
          flash := { b.flash.writeRecord { b.flash.recordD with confirmed := b.upd.running, trial := false } with
            delivery := none } }) 0)))
  ∧ (∀ h c s b d lo hi, Runs specSettingsSet h c s b → settingRange (c.par 0x08 0 16) = some (d, lo, hi) →
      lo ≤ c.par 0x10 0 64 → c.par 0x10 0 64 ≤ hi →
      (b.upd.flashQ ≠ [] ∨ b.setting (c.par 0x08 0 16) ≠ c.par 0x10 0 64 →
        exec (.settingsSet h c) s = .next (opened specSettingsSet h c
          (b.queueFlash (.setting (c.par 0x08 0 16) (c.par 0x10 0 64)) (.cmd h c.hsn.toNat)) .flash))
      ∧ (b.upd.flashQ = [] → mget b.flash.settings.vals (c.par 0x08 0 16) = some (settingFormat, c.par 0x10 0 64) →
        exec (.settingsSet h c) s = .next (completed specSettingsSet h c b 0)))
  ∧ (∀ h c s b, Runs specSettingsGet h c s b → (settingRange (c.par 0x08 0 16)).isSome = true →
      exec (.settingsGet h c) s = .next (completed specSettingsGet h c b (b.setting (c.par 0x08 0 16))))
  ∧ (∀ h c s b m u, Runs specAttestGet h c s b → c.par 0x08 0 3 = 0 → c.par 0x18 0 3 = 0 →
      b.hostRead h (c.par 0x08 0 64) (c.par 0x10 0 16) = some m →
      (b.spdm (.attest h) m).2.length ≤ c.par 0x20 0 16 →
      (((b.spdm (.attest h) m).1.setConn (.attest h)
          { (b.spdm (.attest h) m).1.conn (.attest h) with resp := (b.spdm (.attest h) m).2 }).hostWrite h (c.par 0x18 0 64)
        (b.spdm (.attest h) m).2) = some u →
      exec (.attestGet h c) s = .next (completed specAttestGet h c u (b.spdm (.attest h) m).2.length))

/-! ### Media, training and fabric commands -/

/-- MEDIA_CHANNEL_OPEN answers the lowest free channel; MEDIA_SUBMIT stays open until its last entry; MEDIA_CHANNEL_CLOSE
closes the intake. A part with no media half answers ST_ABSENT to the three. -/
def Obligations.MediaCommandsComplete : Prop :=
  (∀ h c f s b jb t r ch u qs pg id, Runs specMediaChannelOpen h c s b → b.job c.job.toNat = some jb →
    b.part.mediaHalves ≠ 0 → c.par 0x08 0 44 % 64 = 0 →
    b.cmdJobRead f c.job.toNat jb.pt (c.par 0x08 0 44) 128 = (t, some r) → parseChan r = some ch →
    t.mediaFor (some h) ≠ 0 → (ch.half ≠ 0 → b.part.mediaHalves.testBit (ch.half - 1) = true
      ∧ (t.mediaFor (some h)).testBit (ch.half - 1) = true) → t.chansFull ch = false → t.readRecipes f c.job.toNat jb.pt ch.recipes = (u, .ok qs) →
    windowTaken jb (ch.withRecipes c.job.toNat qs) = false →
    u.allocJob jb.hbms ((ch.withRecipes c.job.toNat qs).buffers * (ch.withRecipes c.job.toNat qs).setPages) = some pg →
    freshBelow 64 (u.chans.map Prod.fst) = some id →
    exec (.mediaChannelOpen h c f) s = .next (completed specMediaChannelOpen h c { u with
      chans := mset u.chans id { ch.withRecipes c.job.toNat qs with
        sets := chunksOf (ch.withRecipes c.job.toNat qs).setPages pg } } id))
  ∧ (∀ h c s b x, Runs specMediaSubmit h c s b → b.part.mediaHalves ≠ 0 →
      b.chanBusy h c.job.toNat (c.par 0x08 0 6) = false → mget b.chans (c.par 0x08 0 6) = some x → x.job = c.job.toNat →
      x.closed = false → c.par 0x18 0 13 ≠ 0 → c.par 0x18 0 13 ≤ 4096 →
      exec (.mediaSubmit h c) s = .next (opened specMediaSubmit h c
        (b.setChan (c.par 0x08 0 6) { x with taken := 0 }) (.submit (c.par 0x08 0 6))))
  ∧ (∀ h c s b x, Runs specMediaChannelClose h c s b → b.part.mediaHalves ≠ 0 →
      b.chanBusy h c.job.toNat (c.par 0x08 0 6) = false → mget b.chans (c.par 0x08 0 6) = some x → x.job = c.job.toNat →
      x.closed = false →
      exec (.mediaChannelClose h c) s
        = .next (completed specMediaChannelClose h c (b.setChan (c.par 0x08 0 6) { x with closed := true }) 0))
  ∧ (∀ h c f s b, b.part = .pz8t →
      (Runs specMediaChannelOpen h c s b → exec (.mediaChannelOpen h c f) s
        = .next (b.record h 0 c.hsn.toNat 0x0301 c.job.toNat 0x0002 b.stage 0))
      ∧ (Runs specMediaSubmit h c s b → b.chanBusy h c.job.toNat (c.par 0x08 0 6) = false → exec (.mediaSubmit h c) s
        = .next (b.record h 0 c.hsn.toNat 0x0302 c.job.toNat 0x0002 b.stage 0))
      ∧ (Runs specMediaChannelClose h c s b → b.chanBusy h c.job.toNat (c.par 0x08 0 6) = false →
        exec (.mediaChannelClose h c) s = .next (b.record h 0 c.hsn.toNat 0x0303 c.job.toNat 0x0002 b.stage 0)))

/-- The training and map commands on a job with no step: TRAIN_STATE_SET places its banks and loads tier 0, VARIANT_LOAD and
VARIANT_UNLOAD prepare a slot, COLL_GROUP_SET and JOB_MAP_SET put what their tables say, JOB_RESHARD stays open. -/
def Obligations.TrainingCommandsComplete : Prop :=
  (∀ h c f s b jb s1 t0 gs kp u, Runs specTrainStateSet h c s b → b.job c.job.toNat = some jb → jb.run = none →
    jb.queue = [] → b.trainTable f c.job.toNat jb (c.par 0x08 0 44) = (s1, .ok (t0, gs, kp)) →
    s1.placeTrain f c.job.toNat jb t0 gs kp = some u →
    exec (.trainStateSet h c f) s = .next (completed specTrainStateSet h c u ((jb.train.map Train.unapplied).getD 0)))
  ∧ (∀ h c s b, Runs specVariantLoad h c s b → c.par 0x08 16 9 ≠ 0 → c.par 0x08 16 9 ≤ 256 →
      exec (.variantLoad h c) s = .next (completed specVariantLoad h c (b.modJob c.job.toNat (fun (y : Job) => { y with
        variantNext := mset y.variantNext (c.par 0x08 0 10) (1 + c.par 0x08 10 1, c.par 0x08 16 9) })) 0))
  ∧ (∀ h c s b, Runs specVariantUnload h c s b →
      exec (.variantUnload h c) s = .next (completed specVariantUnload h c (b.modJob c.job.toNat (fun (y : Job) => { y with
        variantNext := mset y.variantNext (c.par 0x08 0 10) (0, 0) })) 0))
  ∧ (∀ h c f s b jb s1 r id ma g s2 ms, Runs specCollGroupSet h c s b → b.groupBusy h c = false →
      b.job c.job.toNat = some jb → jb.run = none → jb.queue = [] → c.par 0x08 0 44 % 64 = 0 → b.cmdJobRead f c.job.toNat jb.pt (c.par 0x08 0 44) 64 = (s1, some r) →
      parseCollGroup r = some (id, ma, g) → s1.cmdJobRead f c.job.toNat jb.pt ma (2 * g.size) = (s2, some ms) →
      (∀ m ∈ (chunksOf 2 ms).map leNat, m ≤ 8191) → (dedup ((chunksOf 2 ms).map leNat)).length = (chunksOf 2 ms).length →
      nth ((chunksOf 2 ms).map leNat) g.rank = b.dom.deviceId →
      exec (.collGroupSet h c f) s = .next (completed specCollGroupSet h c (s2.modJob c.job.toNat (fun (y : Job) => { y with
        groups := mset y.groups id { g with members := (chunksOf 2 ms).map leNat } })) 0))
  ∧ (∀ h c f s b jb s1 m, Runs specJobMapSet h c s b → b.job c.job.toNat = some jb → jb.run = none → jb.queue = [] →
      b.readMap f c.job.toNat jb (c.par 0x08 0 44) (fun x => x.ok b.dom.deviceId) = (s1, .ok m) →
      exec (.jobMapSet h c f) s
        = .next (completed specJobMapSet h c (s1.modJob c.job.toNat (fun (y : Job) => { y with map := some m })) 0))
  ∧ (∀ h c f s b jb s1 m, Runs specJobReshard h c s b → b.job c.job.toNat = some jb → jb.run = none →
      jb.queue = [] → jb.reshard = none → b.stage + 16 ≤ c.par 0x30 0 48 →
      (mget jb.groups (c.par 0x18 0 8)).isSome = true → c.par 0x20 0 44 % 64 = 0 →
      b.readMap f c.job.toNat jb (c.par 0x08 0 44)
        (fun x => x.ok b.dom.deviceId || (jb.train.isSome && x.leaves b.dom.deviceId)) = (s1, .ok m) →
      (∀ o, jb.train = some o → m.leaves b.dom.deviceId = true →
        exec (.jobReshard h c f) s = .next (opened specJobReshard h c (s1.modJob c.job.toNat (fun (y : Job) => { y with
          reshard := some ⟨m, c.par 0x10 0 44, c.par 0x18 0 8, c.par 0x20 0 44, c.par 0x28 0 16, c.par 0x30 0 48, false, 0, o, [], 0,
            true, none, []⟩ })) .reshard))
      ∧ (∀ s2 t gs kp, s1.trainTable f c.job.toNat jb (c.par 0x10 0 44) = (s2, .ok (t, gs, kp)) →
        (∀ o, jb.train = some o → m.leaves b.dom.deviceId = false ∧ (gs.flatMap (bankPages jb.pt t)).any
          (fun p => (o.groups.flatMap (fun g => bankPages jb.pt o g.g)).contains p) = false) →
        exec (.jobReshard h c f) s = .next (opened specJobReshard h c (s2.modJob c.job.toNat (fun (y : Job) => { y with
          reshard := some ⟨m, c.par 0x10 0 44, c.par 0x18 0 8, c.par 0x20 0 44, c.par 0x28 0 16, c.par 0x30 0 48, false, 0, t, gs, kp,
            false, none, []⟩ })) .reshard)))

/-- The waystation commands: WAYSTATION_SET names the partner, WAYSTATION_HOST reserves pages for an owner, WAYSTATION_STATUS
writes the kept generations, WAYSTATION_RESTORE restores the image that the partner answers, tells the other members and stays
open. WAYSTATION_COMMIT keeps two generations. -/
def Obligations.WaystationCommandsComplete : Prop :=
  (∀ h c s b jb d, Runs specWaystationSet h c s b → b.job c.job.toNat = some jb →
    ((c.par 0x08 0 16 ≤ 8191 ∧ d = c.par 0x08 0 16)
      ∨ (c.par 0x08 0 16 = 0xFFFF ∧ ∃ m, jb.map = some m ∧ m.dp ≠ 1 ∧ d = m.nextData)) →
    c.par 0x10 0 18 ≠ 0 → c.par 0x18 0 16 ≠ 0 →
    exec (.waystationSet h c true) s = .next (completed specWaystationSet h c (b.modJob c.job.toNat (fun (y : Job) => { y with
      way := some ⟨d, c.par 0x10 0 18, c.par 0x18 0 16, none, none, false, [], true, [], 0, 0⟩ })) 0))
  ∧ (∀ h c s b u key pages, Runs specWaystationHost h c s b → c.par 0x08 0 16 ≤ 8191 → c.par 0x08 16 16 ≠ 0 →
      key = c.par 0x08 0 16 * 65536 + c.par 0x08 16 16 → u = { b with ways := merase b.ways key } →
      (c.par 0x10 0 18 = 0 → exec (.waystationHost h c) s = .next (completed specWaystationHost h c u 0))
      ∧ (c.par 0x10 0 18 ≠ 0 →
        c.par 0x10 0 18 + (u.ways.map (fun p => p.2.pages.length)).sum ≤ b.wayLimit →
        u.allocPages (c.par 0x10 0 18) ((List.range b.part.hbms).map stackPages) = some pages →
        exec (.waystationHost h c) s = .next (completed specWaystationHost h c
          { u with ways := mset u.ways key ⟨pages, []⟩ } 0)))
  ∧ (∀ h c s b jb t (ent : Nat → List Byte), Runs specWaystationStatus h c s b → b.job c.job.toNat = some jb → c.par 0x08 0 64 % 8 = 0 →
      (∀ k, ((jb.way.map Way.kept).getD [])[k]? = none → ent k = toLE 8 0xFFFFFFFF ++ zeros 8) →
      (∀ k (g : WayImage), ((jb.way.map Way.kept).getD [])[k]? = some g → ent k = toLE 8 g.ordinal ++ toLE 8 (g.stage % 2 ^ 48)) →
      b.hostWrite h (c.par 0x08 0 64) (ent 0 ++ ent 1) = some t →
      exec (.waystationStatus h c) s = .next (completed specWaystationStatus h c t 0))
  ∧ (∀ h c s b jb w img s1, Runs specWaystationRestore h c s b → b.job c.job.toNat = some jb → jb.run = none → jb.queue = [] →
      jb.reshard = none → jb.way = some w → c.par 0x0C 0 16 = 0xFFFF → img.ordinal = c.par 0x08 0 32 →
      b.wayTable c.job.toNat jb (jb.ownImage img) = .ok s1 →
      exec (.waystationRestore h c (some img)) s = .next (opened specWaystationRestore h c
        ((s1.wayRestore c.job.toNat (jb.ownImage img)).shareValue
          ((((s1.wayRestore c.job.toNat (jb.ownImage img)).job c.job.toNat).map Job.others).getD []) (c.par 0x08 0 32)) .restore))
  ∧ (∀ owner tag ordinal stage s, s.live = true → owner.toNat ≠ s.dom.deviceId →
      exec (.waystationCommit owner tag ordinal stage) s = .next { s with
        ways := mmodify s.ways (owner.toNat * 65536 + tag.toNat) (fun (w : WayRegion) =>
          { w with gens := ((ordinal.toNat, stage.toNat) :: w.gens).take 2 }) })
  ∧ (∀ owner tag ordinal stage s j jb w img, s.live = true → owner.toNat = s.dom.deviceId →
      mget s.ways (owner.toNat * 65536 + tag.toNat) = none → s.tagged (BitVec.toNat tag) = some (j, jb) → jb.way = some w →
      w.open_ = some img → img.ordinal = BitVec.toNat ordinal → w.pend = [] → w.acks = 0 →
      exec (.waystationCommit owner tag ordinal stage) s = .next (s.modJob j (fun (b : Job) => { b with way := some { w with
        open_ := none, waitFrom := none, late := false, full := false, kept := (img :: w.kept).take 2 } })))


/-- The fabric commands that act on this device alone: membership, keys, ports, windows and peers. -/
def Obligations.FabricCommandsComplete : Prop :=
  (∀ h c s b u, Runs specFabricJoin h c s b → b.dbg.replay = none → b.jobs = [] → c.par 0x14 24 3 ≤ 4 →
    (∀ k ∈ timePortsOf (c.par 0x14 0 27), k < b.part.ports) →
    u = State.portsDown { b with dom := { b.dom with inUse := none } } →
    exec (.fabricJoin h c) s = .next (completed specFabricJoin h c { u with dom := { u.dom with
      joined := true, domainId := c.par 0x08 0 32, deviceId := c.par 0x0C 0 13, timekeeper := c.par 0x10 0 13
      timePorts := timePortsOf (c.par 0x14 0 27), inUse := none, hops := 0, locked := c.par 0x10 0 13 == c.par 0x0C 0 13
      holdover := false, lost := false, phaseErr := 0, stepErr := 0, renumber := c.par 0x10 0 13 != c.par 0x0C 0 13
      announce := none, tkAt := none } } 0))
  ∧ (∀ h c s b u, Runs specFabricLeave h c s b → b.dom.joined = true → (∀ p ∈ b.jobs, p.2.tag = 0) →
      u = State.portsDown { b with dom := { b.dom with inUse := none } } →
      exec (.fabricLeave h c) s = .next (completed specFabricLeave h c { u with dom := { u.dom with
        joined := false, domainId := 0, deviceId := 0, timekeeper := 0, timePorts := [], inUse := none, hops := 0
        locked := false, holdover := false, lost := false, phaseErr := 0, stepErr := 0, renumber := false
        announce := none, tkAt := none } } 0))
  ∧ (∀ h c s b, Runs specFabricKeySet h c s b →
      exec (.fabricKeySet h c) s = .next (completed specFabricKeySet h c { b with dom :=
        if b.dom.kgen then { b.dom with key0 := some (BitVec.ofNat 256 (c.par 0x08 0 256)) }
        else { b.dom with key1 := some (BitVec.ofNat 256 (c.par 0x08 0 256)) } } 0))
  ∧ (∀ h c s b, Runs specFabricKeySwitch h c s b → b.stage + 16 ≤ c.par 0x08 0 48 → b.dom.keyAt = none →
      exec (.fabricKeySwitch h c) s = .next (opened specFabricKeySwitch h c
        { b with dom := { b.dom with keyAt := some (c.par 0x08 0 48) } } (.stageAt (c.par 0x08 0 48))))
  ∧ (∀ h c s b, Runs specFabricPortSet h c s b → c.par 0x10 0 2 ≠ 3 →
      subMask (c.par 0x08 0 64) (2 ^ b.part.ports - 1) = true →
      exec (.fabricPortSet h c) s = .next (completed specFabricPortSet h c
        ((bitList 64 (c.par 0x08 0 64)).foldl (fun (t : State) k => t.portSet (c.par 0x10 0 2) k) b) 0))
  ∧ (∀ h c s b, Runs specFabricWindowSet h c s b → c.par 0x10 0 44 % 2 ^ 21 = 0 → c.par 0x18 0 12 ≤ 2048 →
      c.par 0x10 0 44 + c.par 0x18 0 12 * 2 ^ 21 ≤ 2 ^ 44 →
      exec (.fabricWindowSet h c) s = .next (completed specFabricWindowSet h c (b.modJob c.job.toNat (fun (j : Job) =>
        { j with windows := (if c.par 0x18 0 12 = 0 then merase j.windows (c.par 0x08 0 4)
          else mset j.windows (c.par 0x08 0 4) ⟨c.par 0x10 0 44, c.par 0x18 0 12, c.par 0x08 4 1 == 1, c.par 0x08 5 1 == 1,
            c.par 0x08 6 1 == 1⟩) })) 0))
  ∧ (∀ h c f s b jb s1 es, Runs specFabricPeersSet h c s b → b.job c.job.toNat = some jb → c.par 0x10 0 13 ≤ 4096 →
      b.cmdJobRead f c.job.toNat jb.pt (c.par 0x08 0 44) (4 * c.par 0x10 0 13) = (s1, some es) →

      exec (.fabricPeersSet h c f) s = .next (completed specFabricPeersSet h c (s1.modJob c.job.toNat (fun (y : Job) =>
        { y with peers := ((chunksOf 4 es).map leNat).zipIdx.filterMap (fun p =>
          if bit p.1 31 then some (p.2, (bits p.1 0 13, bits p.1 16 4)) else none) })) 0))

/-- The fabric commands that route, keep time or answer what a port and the domain hold. -/
def Obligations.FabricRoutingAndTimeCommandsComplete : Prop :=
  (∀ h c s b es, Runs specFabricRouteLoad h c s b → c.par 0x08 0 64 % 8 = 0 → c.par 0x10 0 14 ≠ 0 →
    c.par 0x10 0 14 ≤ 8192 → b.oldEpoch = false → b.hostRead h (c.par 0x08 0 64) (4 * c.par 0x10 0 14) = some es →
    (∀ e ∈ (chunksOf 4 es).map leNat, bits e 24 3 ≤ 4 ∧ bits e 28 4 = 0
      ∧ ∀ i < bits e 24 3, bits e (6 * i) 6 < b.part.ports) →
    exec (.fabricRouteLoad h c) s = .next (completed specFabricRouteLoad h c { b with dom :=
      if b.dom.epoch then { b.dom with route0 := ((chunksOf 4 es).map leNat).zipIdx.map (fun p => (p.2, p.1)) }
      else { b.dom with route1 := ((chunksOf 4 es).map leNat).zipIdx.map (fun p => (p.2, p.1)) } } 0))
  ∧ (∀ h c s b, Runs specFabricRouteSwitch h c s b → b.stage + 16 ≤ c.par 0x08 0 48 → b.dom.routeAt = none →
      exec (.fabricRouteSwitch h c) s = .next (opened specFabricRouteSwitch h c
        { b with dom := { b.dom with routeAt := some (c.par 0x08 0 48) } } (.stageAt (c.par 0x08 0 48))))
  ∧ (∀ h c s b, Runs specFabricTimekeeperSet h c s b → b.dom.joined = true → b.stage < c.par 0x10 0 48 →
      c.par 0x0C 24 3 ≤ 4 → (∀ k ∈ timePortsOf (c.par 0x0C 0 27), k < b.part.ports) → b.dom.tkAt = none →
      exec (.fabricTimekeeperSet h c) s = .next (opened specFabricTimekeeperSet h c { b with dom := { b.dom with
        tkAt := some (c.par 0x08 0 13, timePortsOf (c.par 0x0C 0 27), c.par 0x10 0 48) } } (.stageAt (c.par 0x10 0 48))))
  ∧ (∀ h c s b t, Runs specFabricPortStatus h c s b → c.par 0x08 0 64 % 8 = 0 →
      subMask (c.par 0x10 0 64) (2 ^ b.part.ports - 1) = true →
      b.hostWrite h (c.par 0x08 0 64) ((bitList 64 (c.par 0x10 0 64)).flatMap (fun k => (b.port k).status b.now k)) = some t →
      exec (.fabricPortStatus h c) s = .next (completed specFabricPortStatus h c t 0))
  ∧ (∀ h c s b t, Runs specFabricDomainStatus h c s b → c.par 0x08 0 64 % 8 = 0 →
      b.hostWrite h (c.par 0x08 0 64) (toLE 4 b.dom.domainId ++ toLE 4 b.dom.deviceId ++ toLE 4 b.dom.timekeeper
        ++ toLE 4 (b.dom.inUse.getD 0xFFFFFFFF) ++ toLE 4 (b2n b.dom.holdover) ++ toLE 4 (b2n b.dom.epoch)
        ++ toLE 4 (b2n b.dom.kgen) ++ toLE 4 (unsgn 32 (b.dom.phaseErr * 1000 / 850))) = some t →
      exec (.fabricDomainStatus h c) s = .next (completed specFabricDomainStatus h c t 0))

/-! ### Startup, lands, regulators, management requests -/

/-- PWROK_RISE samples the straps and starts phase 1; each boot phase passes to the next, phase 2 with the bank that the
rules select; a rail out of range and a phase failure stop the boot with their code; PWROK_FALL clears the device. -/
def Obligations.BootCommandsComplete : Prop :=
  (∀ straps s, s.pwrok = false →
    exec (.pwrokRise straps true) s = .next { s.cold with
      pwrok := true, phase := 1, strapRecovery := straps.getLsbD 0, strapSpiSlow := straps.getLsbD 1
      strapSmb := straps.extractLsb' 2 3 }
    ∧ exec (.pwrokRise straps false) s = .next { s.cold with
      pwrok := true, phaseReached := 1, phase := 0xF, fatal := true, failCode := 0x11
      strapRecovery := straps.getLsbD 0, strapSpiSlow := straps.getLsbD 1, strapSmb := straps.extractLsb' 2 3 })
  ∧ (∀ s : State, s.pwrok = true → s.fatal = false →
      (s.phase = 1 → exec .bootPhaseDone s = .next { s with cfgActive := true, phase := 2
                                                            hostA := { s.hostA with link := !s.hostA.perst }
                                                            hostB := { s.hostB with link := s.part.dual && !s.hostB.perst } })
      ∧ (s.phase = 2 → s.strapRecovery = true → exec .bootPhaseDone s = .next (s.bootStop 0x23))
      ∧ (s.phase = 2 → s.strapRecovery = false → bankSelect s = none → exec .bootPhaseDone s = .next (s.bootStop 0x21))
      ∧ (∀ bk f, s.phase = 2 → s.strapRecovery = false → bankSelect s = some (bk, f) →
          exec .bootPhaseDone s = .next { s with flash := f, upd := { s.upd with running := bk }, phase := 3
                                                 fallbackNote := bk != s.flash.recordD.confirmed || s.flash.recordD.trial })
      ∧ (s.phase = 3 → s.componentsOk = true →
          exec .bootPhaseDone s = .next { s.checkSettings with phase := 4 })
      ∧ (s.phase = 5 → exec .bootPhaseDone s = .next { s with phase := 6 })
      ∧ (s.phase = 6 → exec .bootPhaseDone s = .next { s with phase := 7 }))
  ∧ (∀ s : State, s.pwrok = true → s.fatal = false → s.phase = 3 → s.componentsOk = false →
      exec .bootPhaseDone s = exec (.bootPhaseTimeout 0x31) s)
  ∧ (∀ code s, s.pwrok = true → s.fatal = false → s.mayStop (BitVec.toNat code) = true →
      (code ≠ 0x31 → exec (.bootPhaseTimeout code) s
        = .next { s with phaseReached := s.phase, phase := 0xF, fatal := true, failCode := code })
      ∧ (code = 0x31 → exec (.bootPhaseTimeout code) s = .next { s with
          phaseReached := s.phase, phase := 0xF, fatal := true, failCode := code
          flash := s.flash.writeRecord { s.flash.recordD with
            bad := s.flash.recordD.bad ||| BitVec.ofNat 2 (2 ^ b2n s.upd.running) } }))
  ∧ (∀ s, exec .pwrokFall s = .next s.cold ∧ s.cold.pwrok = false ∧ s.cold.jobs = [] ∧ s.cold.flash = s.flash
      ∧ s.cold.fuses = s.fuses ∧ s.cold.hostA.perst = s.hostA.perst ∧ s.cold.faultN = false ∧ s.cold.thermtrip = false)

/-- Phases 4 and 7 leave device memory zero and unmarked; READY comes with no page error record; no device memory
survives PWROK falling. -/
def Obligations.DeviceMemoryIsZeroAfterBoot : Prop :=
  (∀ s : State, Machine.Inv s → s.pwrok = true → s.fatal = false →
    (s.phase = 4 → ∃ t, exec .bootPhaseDone s = .next t ∧ t.phase = 5
      ∧ (∀ a < depotBase, t.byte a = 0 ∧ a ∉ t.marked) ∧ (∀ a, depotBase ≤ a → t.byte a = s.byte a))
    ∧ (s.phase = 7 → ∃ t, exec .bootPhaseDone s = .next t ∧ t.phase = 8 ∧ t.ready = true
      ∧ (∀ a, depotBase ≤ a → a < regBase → t.byte a = 0) ∧ t.marked = [] ∧ t.pageRecs = []))
  ∧ (∀ s : State, Machine.Inv s → ∃ t, exec .pwrokFall s = .next t ∧ (∀ a < hostABase, t.byte a = 0)
      ∧ (∀ a, hostABase ≤ a → t.byte a = s.byte a))

/-- The PERST lands, the reference clock, the thermal trip, TRST_N and the regulator lines. -/
def Obligations.LandsAndRegulatorsComplete : Prop :=
  (∀ h s, exec (.perstAssert h) s = .next (s.setHost h { s.host h with
      perst := true, link := false, mps := 128, mrrs := 512, tag10 := false, barLog := 30, msixOn := false, msixProg := 0
      msixDefer := 0, msixLast := []
      msixPend := (s.host h).msixPend ||| (s.host h).msixDefer, mirrorOn := false, page := .init, timeCap := ⟨0, 0⟩
      perr := false, mbxIndex := false, streams := [] }))
  ∧ (∀ h s, exec (.perstRelease h) s = .next (s.setHost h { s.host h with
      perst := false, link := s.pwrok && s.cfgActive && s.part.hasHost h }))
  ∧ (∀ s : State, exec .refclkLoss s = .next (s.deviceFatal none 0 0)
      ∧ (s.pwrok = true → (s.deviceFatal none 0 0).fatal = true))
  ∧ (∀ u temp s, s.pwrok = true → 105 ≤ temp.toNat → u.present s.part = true →
      ∃ t, exec (.thermalTrip u temp) s = .next t ∧ t.thermtrip = true ∧ t.fatal = true
        ∧ (s.ready = false → s.fatal = false → t.phase = 0xF ∧ t.phaseReached = s.phase)
        ∧ (s.cvrUp = false → t.mem = s.mem ∧ t.events = s.events ∧ t.jobs = s.jobs)
        ∧ (s.fatal = true → s.cvrUp = false → t = { s with thermtrip := true })
        ∧ (s.fatal = true → s.cvrUp = true →
          t = State.post { s with thermtrip := true } (s.thermalEvent u temp.toNat 3)))
  ∧ (∀ s, exec .trstN s = .next { s with dbg := { s.dbg with ir := 0x01 } })
  ∧ (∀ rails s, faultingRail s.part rails = none →
      exec (.pmbAlert rails) s = .next s ∧ exec (.regulatorPoll rails) s = .next s)
  ∧ (∀ rails r s, s.pwrok = true → s.ready = true → s.fatal = false → faultingRail s.part rails = some r →
      exec (.pmbAlert rails) s = .next (s.deviceFatal none 0 r)
      ∧ exec (.regulatorPoll rails) s = .next (s.deviceFatal none 0 r) ∧ (s.deviceFatal none 0 r).fatal = true)
  ∧ (∀ v s, s.bar0Up .a = true →
      (s.vrb.busy = false → exec (.vrbCmdWrite .a v) s
        = .next { s with vrb := { s.vrb with next := v &&& 0x3FF1F, busy := true } })
      ∧ (s.vrb.busy = true → exec (.vrbCmdWrite .a v) s = .next { s with vrb := { s.vrb with dropped := true } })
      ∧ (v.getLsbD 1 = true → exec (.vrbDroppedClear .a v) s
        = .next { s with vrb := { s.vrb with dropped := false } }))
  ∧ (∀ v s, exec (.vrbCmdWrite .b v) s = .next s ∧ exec (.vrbDroppedClear .b v) s = .next s)
  ∧ (∀ r s, s.vrb.busy = true →
      (s.vrbSends = false → exec (.vrbTransactionDone r) s
        = .next { s with vrb := { s.vrb with cmd := s.vrb.next, busy := false, nack := true, pecErr := false, data := 0 } })
      ∧ (s.vrbSends = true → exec (.vrbTransactionDone .nack) s
        = .next { s with vrb := { s.vrb with cmd := s.vrb.next, busy := false, nack := true, pecErr := false, data := 0 } })
      ∧ (s.vrbSends = true → exec (.vrbTransactionDone .pecErr) s
        = .next { s with vrb := { s.vrb with cmd := s.vrb.next, busy := false, nack := false, pecErr := true, data := 0 } })
      ∧ (∀ d, s.vrbSends = true → bits s.vrb.next.toNat 16 2 = 1 → exec (.vrbTransactionDone (.data d)) s
        = .next { s with vrb := ⟨s.vrb.next, s.vrb.next, false, s.vrb.dropped, false, false, d &&& 0xFFFF⟩ })
      ∧ (∀ d, s.vrbSends = true → bits s.vrb.next.toNat 16 2 = 0 → exec (.vrbTransactionDone (.data d)) s
        = .next { s with vrb := ⟨s.vrb.next, s.vrb.next, false, s.vrb.dropped, false, false, d &&& 0xFF⟩ }))

/-- From phase 2 on the management endpoint answers every request and nothing else changes; the layouts are the model's
(log 30). -/
def Obligations.ManagementRequestsAnswer : Prop :=
  ∀ (s : State) (ans : List Byte → State), s.mctpUp = true → (∀ b, ans b = { s with mctp := { s.mctp with resp := b } }) →
    exec .getState s
      = .next (ans (toLE 4 s.devState ++ toLE 1 s.failCode.toNat ++ toLE 4 (s.now / 850000000) ++ toLE 1 s.phaseReached.toNat))
    ∧ exec .getThermal s = .next (ans (s.temps ++ toLE 1 (b2n s.thermtrip)
        ++ toLE 1 (maskOf (s.power.throttleC.map (fun p => p.1))) ++ toLE 1 (maskOf (s.power.throttleS.map (fun p => p.1)))))
    ∧ exec .getPower s = .next (ans (toLE 2 s.power.packageW ++ (List.range 31).flatMap (fun n =>
        toLE 2 (if s.phase.toNat < 3 then 0 else s.power.railPower.getD n 0 / 1000))))
    ∧ (∀ e, e ≠ 0 → e ≠ 0xFF → exec (.setEndpointId e) s = .next { s with mctp := ⟨e, [0x00, 0x00, e, 0x00]⟩ })
    ∧ (∀ e, (e = 0 ∨ e = 0xFF) → exec (.setEndpointId e) s = .next (ans [0x02]))
    ∧ exec .getEndpointId s = .next (ans [0x00, s.mctp.eid, 0x00, 0x00])
    ∧ (∀ m, (m = 0xFF ∨ m = 0x00 ∨ m = 0x05 ∨ m = 0x7E) →
        exec (.getMctpVersionSupport m) s = .next (ans [0x00, 0x01, 0xF1, 0xF3, 0xF0, 0x00]))
    ∧ (∀ m, m ≠ 0xFF → m ≠ 0x00 → m ≠ 0x05 → m ≠ 0x7E → exec (.getMctpVersionSupport m) s = .next (ans [0x80]))
    ∧ exec .getMessageTypeSupport s = .next (ans [0x00, 0x03, 0x00, 0x05, 0x7E])
    ∧ (∀ code, exec (.mctpUnknownRequest code) s = .next (ans [code, 0x05]))

/-! ### Registers, doorbells, messages, BAR4 -/

/-- Register writes and reads through BAR0 that have an effect of their own. -/
def Obligations.RegisterCommandsComplete : Prop :=
  (∀ h s, s.bar0Up h = true →
    exec (.devTimeLoRead h) s = .next (s.setHost h { s.host h with timeCap := ⟨s.stage, s.offset⟩ })
    ∧ (∀ v, exec (.devErrClear h v) s = .next (s.clearErr h v.toNat))
    ∧ (∀ v, exec (.apply (.host h) (.bar0 0x3008) v) s = .next (s.setHost h { s.host h with
        page := { (s.host h).page with apply := if v.getLsbD 16 then v.getLsbD 0 else (s.host h).page.apply } }))
    ∧ (∀ off v, off.toNat % 4 = 0 → exec (.registerWrite (.host h) (.bar0 off) v) s
        = .next (s.bar0Write h off.toNat v.toNat))
    ∧ (∀ off v, off.toNat % 4 = 0 → s.ideOk h true = true → exec (.registerWrite (.host h) (.ring off true) v) s
        = .next (s.setHost h { s.host h with cmdRing := ringPut (s.host h).cmdRing off.toNat v.toNat }))
    ∧ (∀ n v, 30 ≤ n.toNat → n.toNat ≤ 41 → exec (.registerWrite (.host h) (.barSize n) v) s
        = .next (s.setHost h { s.host h with barLog := n.toNat }))
    ∧ (∀ v, exec (.registerWrite (.host h) .msixEnable v) s
        = .next (s.setHost h { s.host h with msixOn := v.getLsbD 0 }))
    ∧ (∀ k v, v.getLsbD 0 = true → exec (.registerWrite (.host h) (.msixVector k) v) s = .next (s.setHost h
        { s.host h with msixProg := (s.host h).msixProg ||| BitVec.ofNat 64 (2 ^ k.toNat) }))
    ∧ (∀ k v, v.getLsbD 0 = false → exec (.registerWrite (.host h) (.msixVector k) v) s = .next (s.setHost h
        { s.host h with msixProg := (s.host h).msixProg &&& ~~~BitVec.ofNat 64 (2 ^ k.toNat) })))
  ∧ (∀ a v s, s.pwrok = true → exec (.registerWrite .debugPort (.dev a) v) s = .next (s.devWrite .debugPort a.toNat v.toNat))
  ∧ (∀ i d v s, s.pwrok = true → blkPresent s.part i = true → blkDrover i = d →
      exec (.apply (.drover d) (.dev (BitVec.ofNat 48 (blkAddr i + 0xFFC))) v) s = .next (s.setBlk i
        { s.blk i with apply := if v.getLsbD 16 then v.getLsbD 0 else (s.blk i).apply })
      ∧ (∀ o r, o < 0x800 → o % 4 = 0 → mgetD (s.blk i).regs o .init = r →
        exec (.registerWrite (.drover d) (.dev (BitVec.ofNat 48 (blkAddr i + o))) v) s = .next (s.setBlk i
          { s.blk i with apply := false, regs := mset (s.blk i).regs o ⟨r.cfg.write v, v, r.lastFault⟩ })))
  ∧ (∀ w block off v s, s.pwrok = true → blkPresent s.part block.toNat = true → 136 ≤ block.toNat →
      mayWriteBlk w block.toNat = true → 0x800 ≤ off.toNat → off.toNat < 0xFF8 → off.toNat % 4 = 0 →
      ((s.blk block.toNat).posted = none → exec (.postedWrite w block off v) s = .next (s.setBlk block.toNat
        { s.blk block.toNat with posted := some (off.toNat, v) }))
      ∧ ((s.blk block.toNat).posted.isSome = true → exec (.postedWrite w block off v) s = .next (s.setBlk block.toNat
        { s.blk block.toNat with dropped := true })))
  ∧ (∀ block s o v, (s.blk block.toNat).posted = some (o, v) →
      exec (.postedWriteTaken block) s = .next (s.setBlk block.toNat
        { s.blk block.toNat with pw := mset (s.blk block.toNat).pw o v, posted := none }))
  ∧ (∀ g s, s.pwrok = true →
      exec (.parityFault (BitVec.ofNat 48 (regBase + 0x2014)) g true) s
        = .next (({ s with devCtl := .init 1, devApply := false, perrDev := true } : State).post
            { s.ev 0x0105 with addr := regBase + 0x2014, arg0 := regBase + 0x2014, arg1 := 1 })
      ∧ exec (.parityFault (BitVec.ofNat 48 (regBase + 0x2014)) g false) s
        = .next { s with devCtl := s.devCtl.spoil g.toNat }
      ∧ (∀ h,
        exec (.parityFault (BitVec.ofNat 48 (pageAddr h)) g false) s = .next (s.setHost h { s.host h with
          page := { (s.host h).page with winLo := (s.host h).page.winLo.spoil g.toNat } })
        ∧ exec (.parityFault (BitVec.ofNat 48 (pageAddr h + 4)) g false) s = .next (s.setHost h { s.host h with
          page := { (s.host h).page with winHi := (s.host h).page.winHi.spoil g.toNat } })))

/-- A doorbell write of a whole dword takes effect where it keeps the index difference at 1,024 or less; any other is
ignored, sets the writer's MBX_INDEX bit and posts EV_MBX_INDEX with the host and the value. -/
def Obligations.DoorbellWrites : Prop :=
  ∀ h v ide s, s.bar0Up h = true → s.ideOk h ide = true →
    ((v - (s.host h).cmdHead).toNat ≤ 1024 →
      exec (.mbxCmdTailWrite h v true ide) s = .next (s.setHost h { s.host h with cmdTail := v }))
    ∧ (((s.host h).cplTail - v).toNat ≤ 1024 →
      exec (.mbxCplHeadWrite h v true ide) s = .next (s.setHost h { s.host h with cplHead := v }))
    ∧ (∀ whole, whole = false ∨ 1024 < (v - (s.host h).cmdHead).toNat →
      ∃ t, exec (.mbxCmdTailWrite h v whole ide) s = .next t ∧ (t.host h).cmdTail = (s.host h).cmdTail
        ∧ (t.host h).mbxIndex = true ∧ t.nextSeq = s.nextSeq + 1)
    ∧ (∀ whole, whole = false ∨ 1024 < ((s.host h).cplTail - v).toNat →
      ∃ t, exec (.mbxCplHeadWrite h v whole ide) s = .next t ∧ (t.host h).cplHead = (s.host h).cplHead
        ∧ (t.host h).mbxIndex = true ∧ t.nextSeq = s.nextSeq + 1)

/-- MSI-X messages that waited are sent once, and no byte of memory changes. -/
def Obligations.MessagesThatWaitedAreSent : Prop :=
  ∀ h v s, s.pwrok = true → (s.host h).canSend v.toNat = true →
    ((s.host h).msixPend.getLsbD v.toNat = true →
      exec (.msixPendingSend h v) s = .next (s.setHost h ((s.host h).send s.now v.toNat)))
    ∧ ((s.host h).msixDefer.getLsbD v.toNat = true → mgetD (s.host h).msixLast v.toNat 0 + 1700 ≤ s.now →
      exec (.msixDeferredSend h v) s = .next (s.setHost h ((s.host h).send s.now v.toNat)))
    ∧ ((s.host h).send s.now v.toNat).msixPend.getLsbD v.toNat = false
    ∧ ((s.host h).send s.now v.toNat).msixDefer.getLsbD v.toNat = false
    ∧ mgetD ((s.host h).send s.now v.toNat).msixSent v.toNat 0 = mgetD (s.host h).msixSent v.toNat 0 + 1

/-- A BAR4 access inside the window and the host's reach: a read answers the bytes of clean lines and changes nothing
else, a write changes exactly the bytes it names. -/
def Obligations.HostMemoryAccess : Prop :=
  (∀ (h : HostId) (off : BitVec 48) (len : BitVec 13) (ide : Bool) (f : Faults) (s : State) (a : Nat), s.bar0Up h = true → s.ready = true → s.ideOk h ide = true → s.barAddr h off.toNat = some a →
    len.toNat ≠ 0 → len.toNat ≤ 4096 → s.barReach h a = true → s.barReach h (a + len.toNat - 1) = true →
    badLines s f (linesOf a len.toNat) = [] → f.corr = [] →
    exec (.bar4Read h off len ide f) s = .next (s.setHost h { s.host h with rd := some (s.bytes a len.toNat, false) }))
  ∧ (∀ (h : HostId) (off : BitVec 48) (data : List Byte) (ide : Bool) (f : Faults) (s : State) (a : Nat), s.bar0Up h = true → s.ready = true → s.ideOk h ide = true → data ≠ [] →
      data.length ≤ 4096 → s.barAddr h off.toNat = some a → s.barReach h a = true →
      s.barReach h (a + data.length - 1) = true → inLog a = false → inLog (a + data.length - 1) = false → f.uncorr = [] → f.corr = [] → Machine.Inv s →
      ∃ t, exec (.bar4Write h off data ide f) s = .next t
        ∧ (∀ k (hk : k < data.length), t.byte (a + k) = data[k]) ∧ (∀ x, x < a ∨ a + data.length ≤ x → t.byte x = s.byte x)
        ∧ t.jobs = s.jobs ∧ t.hostA = s.hostA ∧ t.hostB = s.hostB ∧ t.events = s.events)
  ∧ (∀ (h : HostId) (off : BitVec 48) (len : BitVec 13) (ide : Bool) (f : Faults) (s : State) (a : Nat), s.bar0Up h = true → s.ready = true → s.ideOk h ide = true → s.barAddr h off.toNat = some a →
      len.toNat ≠ 0 → len.toNat ≤ 4096 → s.barReach h a = false →
      ∃ t, exec (.bar4Read h off len ide f) s = .next t
        ∧ (t.host h).rd = some (List.replicate len.toNat 0xFF#8, false)
        ∧ t.nextSeq = s.nextSeq + 1)

/-! ### Attestation, link encryption keys, the debug port -/

/-- Each SPDM request is answered on its own transport; the message layouts are the model's (log 26). -/
def Obligations.AttestationRequestsAnswer : Prop :=
  (∀ t m s, Asks s t m 0x84 → ∃ u, exec (.getVersion t m) s = .next (spdmReply u t [0x10, 0x04, 0, 0, 0, 1, 0x00, 0x12])
    ∧ (u.conn t).ver = true ∧ (u.conn t).caps = false ∧ (u.conn t).session = none)
  ∧ (∀ t m s, Asks s t m 0xE1 → (s.conn t).ver = true → (s.conn t).caps = false → m.length = 20 →
      ∃ u r, exec (.getCapabilities t m) s = .next (spdmReply u t r) ∧ r.take 2 = [0x12, 0x61] ∧ r.length = 20
        ∧ (u.conn t).caps = true)
  ∧ (∀ t m s, Asks s t m 0xE3 → (s.conn t).caps = true → (s.conn t).algs = false → fld m 4 2 = m.length →
      32 + 4 * fld m 2 1 ≤ m.length →
      ∃ u r, exec (.negotiateAlgorithms t m) s = .next (spdmReply u t r) ∧ r.take 2 = [0x12, 0x63]
        ∧ r.length = 36 + 4 * fld m 2 1 ∧ (u.conn t).algs = true)
  ∧ (∀ t m s, Asks s t m 0x81 → (s.conn t).algs = true →
      ∃ u, exec (.getDigests t m) s = .next (spdmReply u t
        ([0x12, 0x01, 0, Byte.of (b2n s.slot0)] ++ (if s.slot0 then sha512 s.spdmChain else []))))
  ∧ (∀ t m s d, Asks s t m 0x82 → (s.conn t).algs = true → s.slot0 = true → fld m 2 1 % 16 = 0 → 8 ≤ m.length →
      fld m 4 2 ≤ s.spdmChain.length → d = (s.spdmChain.drop (fld m 4 2)).take (min (fld m 6 2) 4088) →
      ∃ u, exec (.getCertificate t m) s = .next (spdmReply u t
        ([0x12, 0x02, 0, 0] ++ toLE 2 d.length ++ toLE 2 (s.spdmChain.length - fld m 4 2 - d.length) ++ d)))
  ∧ (∀ t m s, Asks s t m 0x83 → (s.conn t).algs = true → s.slot0 = true → fld m 2 1 % 16 = 0 → 36 ≤ m.length →
      ∃ u body sig, exec (.spdmChallenge t m) s = .next (spdmReply u t (body ++ sig))
        ∧ body = [0x12, 0x03, 0, 0x01] ++ sha512 s.spdmChain ++ s.rand32.1 ++ s.measSummary (fld m 3 1) ++ zeros 2
        ∧ sig = s.spdmSign ctxAuth ((s.conn t).vca ++ (s.conn t).msgB ++ m ++ body) ∧ (u.conn t).msgB = [])
  ∧ (∀ t m s, Asks s t m 0xE0 → (s.conn t).algs = true → bit (fld m 2 1) 0 = false →
      (fld m 3 1 = 0 → ∃ u, exec (.getMeasurements t m) s = .next (spdmReply u t
        ([0x12, 0x60, 12, 0, 0, 0, 0, 0] ++ s.rand32.1 ++ zeros 2)))
      ∧ (∀ k, k < 12 → fld m 3 1 = k + 1 → ∃ u, exec (.getMeasurements t m) s = .next (spdmReply u t
        ([0x12, 0x60, 0, 0, 1] ++ toLE 3 (nth s.measurements k).length ++ nth s.measurements k ++ s.rand32.1 ++ zeros 2))))
  ∧ (∀ t m s, (∀ h, t ≠ .attest h) → Asks s t m 0xE4 → (s.conn t).algs = true → (s.conn t).session = none →
      fld m 3 1 % 16 = 0 → 138 ≤ m.length →
      ∃ u r id k, exec (.keyExchange t m) s = .next (spdmReply u t r) ∧ r.take 2 = [0x12, 0x64]
        ∧ (u.conn t).session = some (id, false, k))
  ∧ (∀ h m s, Asks s (.attest h) m 0xE4 →
      exec (.keyExchange (.attest h) m) s = .next (spdmReply s (.attest h) [0x12, 0x7F, 0x07, 0xE4]))
  ∧ (∀ t m s id k, Asks s t m 0xE5 → (s.conn t).session = some (id, false, k) →
      ((m.drop 4).take 64 = hmac512 (toLE 48 k.toNat) (m.take 4) →
        ∃ u, exec (.finish t m) s = .next (spdmReply u t [0x12, 0x65, 0, 0]) ∧ (u.conn t).session = some (id, true, k))
      ∧ ((m.drop 4).take 64 ≠ hmac512 (toLE 48 k.toNat) (m.take 4) →
        ∃ u, exec (.finish t m) s = .next (spdmReply u t [0x12, 0x7F, 0x06, 0]) ∧ (u.conn t).session = none))
  ∧ (∀ t m s id k, Asks s t m 0xEC → (s.conn t).session = some (id, true, k) →
      ∃ u, exec (.endSession t m) s = .next (spdmReply u t [0x12, 0x6C, 0, 0]) ∧ (u.conn t).session = none)
  ∧ (∀ t m s, s.spdmUp t = true → s.upd.act.any (fun p => p.1 == ActPhase.paused) = false →
      spdmCodes.contains (fld m 1 1) = false →
      exec (.spdmUnsupportedRequest t m) s = .next (spdmReply s t [0x12, 0x7F, 0x07, Byte.of (fld m 1 1)]))

/-- The IDE key messages of a port's own secured session program, start and stop the key sets of at most four streams; in the
pause of an activation each is answered with the error Busy. -/
def Obligations.LinkKeyCommandsComplete : Prop :=
  ∀ h s, s.ideSession h = true →
    (s.upd.act.any (fun p => p.1 == ActPhase.paused) = true → ∀ n set dir sub key iv t,
      t = spdmReply s (.doe h) [0x12, 0x7F, 0x03, 0] →
      exec (.ideKmQuery h) s = .next t ∧ exec (.ideKmKeyProg h n set dir sub key iv) s = .next t
      ∧ exec (.ideKmKSetGo h n set dir sub) s = .next t ∧ exec (.ideKmKSetStop h n set dir sub) s = .next t)
    ∧ (s.upd.act.any (fun p => p.1 == ActPhase.paused) = false →
    exec (.ideKmQuery h) s = .next (s.ideAnswer h 0x01 (zeros 4 ++ toLE 1 4 ++ toLE 1 (s.host h).streams.length))
    ∧ (∀ n set dir sub key iv,
        (mget (s.host h).streams n.toNat = none → 4 ≤ (s.host h).streams.length →
          exec (.ideKmKeyProg h n set dir sub key iv) s = .next (s.ideAnswer h 0x03 [Byte.of n.toNat, 0x04]))
        ∧ (mget (s.host h).streams n.toNat = none → (s.host h).streams.length < 4 →
          exec (.ideKmKeyProg h n set dir sub key iv) s = .next ((s.setHost h { s.host h with
            streams := mset (s.host h).streams n.toNat ⟨[(ideSlot set dir sub, key)], [(ideSlot set dir sub, iv)], []⟩
            }).ideAnswer h 0x03 [Byte.of n.toNat, 0]))
        ∧ (∀ st, mget (s.host h).streams n.toNat = some st →
          exec (.ideKmKeyProg h n set dir sub key iv) s = .next ((s.setHost h { s.host h with
            streams := mset (s.host h).streams n.toNat
              ⟨mset st.keys (ideSlot set dir sub) key, mset st.ivs (ideSlot set dir sub) iv, st.go⟩
            }).ideAnswer h 0x03 [Byte.of n.toNat, 0])))
    ∧ (∀ n set dir sub st, mget (s.host h).streams n.toNat = some st →
        (mget st.keys (ideSlot set dir sub)).isSome = true →
        exec (.ideKmKSetGo h n set dir sub) s = .next ((s.setHost h { s.host h with
          streams := mset (s.host h).streams n.toNat ⟨st.keys, st.ivs, mset st.go (ideSlot set dir sub) true⟩
          }).ideAnswer h 0x06 [Byte.of n.toNat, 0])
        ∧ exec (.ideKmKSetStop h n set dir sub) s = .next ((s.setHost h { s.host h with
          streams := mset (s.host h).streams n.toNat ⟨st.keys, st.ivs, mset st.go (ideSlot set dir sub) false⟩
          }).ideAnswer h 0x06 [Byte.of n.toNat, 0])))

/-- The debug transfers queue requests in order and give the oldest unread response; a full queue is the model's choice
(log 37). -/
def Obligations.DebugTransfersComplete : Prop :=
  ∀ s : State, s.dbgUp = true →
    (∀ q, reqOp q = 0 → exec (.dbgXferUpdate q) s = .next { s with dbg := { s.dbg with ir := 0x20, dr := q } })
    ∧ (∀ q, reqOp q ≠ 0 → s.dbg.reqs.length < 16 → exec (.dbgXferUpdate q) s
        = .next { s with dbg := { s.dbg with ir := 0x20, dr := q, reqs := s.dbg.reqs ++ [q] } })
    ∧ (s.dbg.resps = [] → exec .dbgXferCapture s = .next { s with dbg := { s.dbg with ir := 0x20, dr := 0 } })
    ∧ (∀ r rest, s.dbg.resps = r :: rest →
        exec .dbgXferCapture s = .next { s with dbg := { s.dbg with ir := 0x20, dr := r, resps := rest } })
    ∧ (∀ q rest, s.dbg.reqs = q :: rest → dbgOps.contains (reqOp q) = false →
        exec .dbgReservedOp s = .next (({ s with dbg := { s.dbg with reqs := rest } } : State).answer q 0x0003 0 []))

/-- Each debug request of its own level ends with its answer queued. -/
def Obligations.DebugRequestsComplete : Prop :=
  (∀ s q b, Requests s q ⟨0x01, 0, 0, false, false⟩ b → exec .dbgStatus s = .next (b.answer q 0
    (b.dbg.level + 4 * b2n b.dbg.replay.isSome + 8 * b2n b.anyHalted + b.devState % 256 * 2 ^ 8 + b.dbg.fails % 256 * 2 ^ 16) []))
  ∧ (∀ s q b, Requests s q ⟨0x02, 0, 0, false, false⟩ b →
      (8 ≤ b.dbg.fails → exec .dbgChallenge s = .next (b.answer q 0x0016 0 []))
      ∧ (b.dbg.fails < 8 → ∃ n u, exec .dbgChallenge s = .next (State.answer u q 0 b.serial (toLE 32 (BitVec.toNat n)))
          ∧ u.dbg.nonce = some n ∧ u.dbg.pieces = [] ∧ u.dbg.level = b.dbg.level ∧ u.mem = b.mem))
  ∧ (∀ s q b m n lv ps u, Requests s q ⟨0x03, 0, 0x30F, false, true⟩ b → lv = bits (reqArg q) 8 2 →
      ps = mset b.dbg.pieces (bits (reqArg q) 0 4) (reqData q) → b.setting 5 ≠ 0 → (lv = 1 ∨ lv = 2) → b.unlockKey = some m →
      b.dbg.nonce = some n → b.dbg.pieceLevel = lv →
      u = { b with dbg := { b.dbg with pieces := [], pieceLevel := 0, nonce := none } } →
      (ps.length < 16 → exec .dbgUnlockPiece s = .next (State.answer { b with dbg := { b.dbg with pieces := ps } } q 0 b.dbg.level []))
      ∧ (16 ≤ ps.length → rsaVerify (beNat (m.rootKey.take 512)) (beNat (m.rootKey.drop 512)) (unlockMessage b.serial n lv)
          (ps.flatMap (fun p => p.2)) = false → exec .dbgUnlockPiece s
          = .next (State.answer { u with dbg := { u.dbg with fails := b.dbg.fails + 1 } } q 0x0013 b.dbg.level []))
      ∧ (16 ≤ ps.length → rsaVerify (beNat (m.rootKey.take 512)) (beNat (m.rootKey.drop 512)) (unlockMessage b.serial n lv)
          (ps.flatMap (fun p => p.2)) = true → exec .dbgUnlockPiece s = .next ((u.setLevel lv).answer q 0 lv [])))
  ∧ (∀ s q b, Requests s q ⟨0x04, 1, 0, false, false⟩ b → b.dbg.replay = none →
      exec .dbgLock s = .next ((b.setLevel 0).answer q 0 0 []))
  ∧ (∀ f s q b, Requests s q ⟨0x10, 1, 0x3F, true, false⟩ b → accessOk q = true → b.dbgReach (reqAddr q) (reqArg q) = true →
      (regionOf b.part (reqAddr q) = .regs → exec (.dbgRead f) s = .next (b.answer q 0 0
        ((List.range (reqArg q / 4)).flatMap (fun k => toLE 4 (b.regRead (reqAddr q + 4 * k))))))
      ∧ (regionOf b.part (reqAddr q) ≠ .regs → badLines b f (linesOf (reqAddr q) (reqArg q)) = [] → f.corr = [] →
        exec (.dbgRead f) s = .next (b.answer q 0 0 (b.bytes (reqAddr q) (reqArg q)))))
  ∧ (∀ f s q b, Requests s q ⟨0x11, 2, 0x3F, true, true⟩ b → accessOk q = true → b.dbgReach (reqAddr q) (reqArg q) = true →
      regionOf b.part (reqAddr q) ≠ .regs →
      exec (.dbgWrite f) s = .next ((b.put dbgReader f (reqAddr q) ((reqData q).take (reqArg q))).answer q 0 0 []))
  ∧ (∀ s q b u, Requests s q ⟨0x20, 2, 0x7FF, false, false⟩ b → b.target (reqArg q) = some (u, true) →
      exec .dbgHalt s = .next ((b.halt u).answer q 0 0 []))
  ∧ (∀ s q b u, Requests s q ⟨0x21, 2, 0x7FF, false, false⟩ b → b.target (reqArg q) = some (u, true) → b.halted u = true →
      u ≠ .all →
      (u = .cvr → exec .dbgStep s
        = .next (State.answer { b with dbg := { b.dbg with cvrSteps := b.dbg.cvrSteps + 1 } } q 0 0 []))
      ∧ (u ≠ .cvr → b.granted u = false → exec .dbgStep s
        = .next (State.answer { b with dbg := { b.dbg with grants := b.dbg.grants ++ [u.code] } } q 0 0 [])))
  ∧ (∀ s q b u, Requests s q ⟨0x22, 2, 0x7FF, false, false⟩ b → b.target (reqArg q) = some (u, true) →
      exec .dbgResume s = .next ((b.unhalt u).answer q 0 0 []))
  ∧ (∀ s q b, Requests s q ⟨0x23, 1, 0, false, false⟩ b → exec .dbgHaltStatus s = .next (b.answer q 0 0
      (toLE 16 b.dbg.haltCores.toNat ++ toLE 1 b.dbg.haltC.toNat ++ toLE 1 b.dbg.haltS.toNat ++ toLE 1 (b2n b.dbg.haltCvr))))
  ∧ (∀ s q b p, Requests s q ⟨0x30, 2, 0x7, false, true⟩ b → parseBp (reqData q) = some p →
      exec .dbgBpSet s = .next (State.answer { b with dbg := { b.dbg with bps := mset b.dbg.bps (reqArg q) p } } q 0 0 []))
  ∧ (∀ s q b, Requests s q ⟨0x31, 2, 0x7, false, false⟩ b →
      exec .dbgBpClear s = .next (State.answer { b with dbg := { b.dbg with bps := merase b.dbg.bps (reqArg q) } } q 0 0 []))
  ∧ (∀ s q b p, Requests s q ⟨0x32, 1, 0x7, false, false⟩ b → mget b.dbg.bps (reqArg q) = some p →
      exec .dbgBpHit s = .next (b.answer q 0 p.hits (toLE 8 p.hitTime.stage ++ toLE 4 p.hitTime.offset ++ toLE 4 p.hitSrc
        ++ toLE 4 p.hitTask ++ zeros 4 ++ toLE 8 p.hitAddr)))
  ∧ (∀ s q b j jb, Requests s q ⟨0x40, 2, 0xFFFFF, true, false⟩ b → reqAddr q < 2 ^ 44 → bits (reqArg q) 0 4 = j →
      b.jobs = [(j, jb)] → jb.queue = [] → jb.run = none → b.dom.joined = false → b.dbg.replay = none →
      exec .dbgReplayEnter s = .next (State.answer
        { b with dbg := { b.dbg with replay := some (.enter j (reqAddr q) (bits (reqArg q) 4 16)) } } q 0 0 []))
  ∧ (∀ s q b r, Requests s q ⟨0x41, 2, 0, false, false⟩ b → b.dbg.replay = some r → r.running = false →
      exec .dbgReplayExit s = .next (State.answer { b with dbg := { b.dbg with replay := none } } q 0 0 []))
  ∧ (∀ s q b r, Requests s q ⟨0x42, 1, 0, false, false⟩ b → b.dbg.replay = some r →
      exec .dbgReplayStatus s = .next (b.answer q 0 0 r.status))

/-! ### Firmware update -/

/-- The update requests over MCTP take pieces, answer the delivery's state, start an activation and confirm a trial; behind
a flash write each waits for its turn. -/
def Obligations.UpdateRequestsAnswer : Prop :=
  (∀ total piece data s, TakesUpdate s → total.toNat ≤ 65536 → pieceOk total.toNat piece.toNat data = true →
    s.upd.pieceTotal = total.toNat →
    (allPieces total.toNat (mset s.upd.pieces piece.toNat data) = false → exec (.updManifestPiece total piece data) s
      = .next (State.mctpAnswer { s with upd := { s.upd with pieces := mset s.upd.pieces piece.toNat data } } (toLE 2 0)))
    ∧ (∀ u bytes, u = { s with upd := { s.upd with pieceTotal := 0, pieces := [] } } →
      allPieces total.toNat (mset s.upd.pieces piece.toNat data) = true →
      bytes = joinPieces total.toNat (mset s.upd.pieces piece.toNat data) →
      (s.upd.flashQ ≠ [] ∨ (s.upd.trial = false ∧ manifestStatus u bytes = 0
        ∧ ∀ d, s.flash.delivery = some d → d.sha ≠ sha512 bytes)) →
      exec (.updManifestPiece total piece data) s = .next (u.queueFlash (.manifest bytes) .mctp)))
  ∧ (∀ chunk piece data s d m, TakesUpdate s → s.flash.delivery = some d → s.deliveryManifest = some m →
      chunk.toNat < d.chunks → pieceOk (m.chunkLen chunk.toNat) piece.toNat data = true → s.upd.chunkNo = chunk.toNat →
      (allPieces (m.chunkLen chunk.toNat) (mset s.upd.chunkPieces piece.toNat data) = false →
        exec (.updChunkPiece chunk piece data) s = .next (State.mctpAnswer
          { s with upd := { s.upd with chunkPieces := mset s.upd.chunkPieces piece.toNat data } } (toLE 2 0)))
      ∧ (∀ u bytes, u = { s with upd := { s.upd with chunkPieces := [] } } →
        allPieces (m.chunkLen chunk.toNat) (mset s.upd.chunkPieces piece.toNat data) = true →
        bytes = joinPieces (m.chunkLen chunk.toNat) (mset s.upd.chunkPieces piece.toNat data) →
        (s.upd.flashQ ≠ [] ∨ (sha512 bytes = nth m.hashes chunk.toNat ∧ d.held.contains chunk.toNat = false)) →
        exec (.updChunkPiece chunk piece data) s = .next (u.queueFlash (.chunk chunk.toNat bytes) .mctp)))
  ∧ (∀ o s, TakesUpdate s →
      (s.upd.flashQ ≠ [] → exec (.updStatus o) s = .next (s.queueFlash (.statusFrom (BitVec.toNat o)) .mctp))
      ∧ (s.upd.flashQ = [] → s.flash.delivery = none →
        exec (.updStatus o) s = .next (s.mctpAnswer (toLE 2 0 ++ (toLE 4 0 ++ toLE 4 0))))
      ∧ (∀ d, s.upd.flashQ = [] → s.flash.delivery = some d → exec (.updStatus o) s = .next (s.mctpAnswer
          (toLE 2 0 ++ (toLE 4 d.held.length ++ toLE 4 d.chunks ++ (d.bitmap.drop o.toNat).take 64)))))
  ∧ (∀ s, TakesUpdate s → s.setting 4 = 1 →
      (s.upd.flashQ ≠ [] → exec .updActivate s = .next (s.queueFlash .activate .mctp))
      ∧ (s.upd.flashQ = [] → s.activateStatus = 0 →
        exec .updActivate s = .next { s with upd := { s.upd with act := some (.verify, .mctp) } }))
  ∧ (∀ s, TakesUpdate s → s.setting 4 = 1 → s.upd.fallback = false →
      (s.upd.flashQ ≠ [] → exec .updConfirm s = .next (s.queueFlash .confirm .mctp))
      ∧ (s.upd.flashQ = [] → s.upd.trial = true →
        exec .updConfirm s = .next (State.mctpAnswer (State.burnSvn { s with
          upd := { s.upd with trial := false }
          flash := { s.flash.writeRecord { s.flash.recordD with confirmed := s.upd.running, trial := false } with
            delivery := none } }) (toLE 2 0)))
      ∧ (s.upd.flashQ = [] → s.upd.trial = false → exec .updConfirm s = .next (s.mctpAnswer (toLE 2 0x0015))))

/-- UPDATE_ACTIVATE checks a running trial first, then the delivery, then an open reshard or restore. -/
def Obligations.ActivationPreconditions : Prop :=
  ∀ h c s b, Runs specUpdateActivate h c s b → b.upd.flashQ = [] → b.updBusy = false → b.anyHalted = false →
    b.dbg.replay = none →
    ∀ st, (b.upd.trial = true ∧ st = 0x0016)
        ∨ (b.upd.trial = false ∧ (b.flash.delivery = none ∨ ∃ d, b.flash.delivery = some d ∧ d.held.length < d.chunks)
          ∧ st = 0x0015)
        ∨ (b.upd.trial = false ∧ (∃ d, b.flash.delivery = some d ∧ d.chunks ≤ d.held.length) ∧ b.reshardOpen = true
          ∧ st = 0x0001) →
      exec (.updateActivate h c) s = .next (b.record h 0 c.hsn.toNat 0x0604 c.job.toNat st b.stage 0)

/-- A flash write ends and the requests that waited take their turns; an activation verifies, pauses and resumes; the confirm
window ends in a fallback; a takeover switches. -/
def Obligations.ActivationCommandsComplete : Prop :=
  (∀ s op a r, s.pwrok = true → s.upd.flashQ = (op, a) :: r →
    exec (.flashProgramDone true) s = .next (State.settleUpd r.length
      ((({ s with upd := { s.upd with flashQ := r } } : State).flashed op).tell a 0))
    ∧ exec (.flashProgramDone false) s
      = .next (State.settleUpd r.length (State.tell { s with upd := { s.upd with flashQ := r } } a 0x000E))
    ∧ (r = [] → exec (.flashProgramDone true) s
        = .next ((({ s with upd := { s.upd with flashQ := [] } } : State).flashed op).tell a 0)
      ∧ exec (.flashProgramDone false) s = .next (State.tell { s with upd := { s.upd with flashQ := [] } } a 0x000E)))
  ∧ (∀ s a m, s.cvrWorks = true → s.upd.act = some (.verify, a) → s.deliveryManifest = some m →
      (∀ k ∈ m.comps, (s.flash.bank (!s.upd.running)).compOk k = true) →
      exec (.activationVerifyDone []) s
        = .next { s with upd := { s.upd with act := some (.armed, a), armedAt := s.stage } })
  ∧ (∀ s a, s.cvrWorks = true → s.upd.act = some (.armed, a) → s.upd.armedAt < s.stage →
      exec .activationPause s = .next (State.checkSettings { s with
        paused := true, flash := s.flash.writeRecord { s.flash.recordD with trial := true }
        upd := { s.upd with act := some (.paused, a), fallback := false } }))
  ∧ (∀ s a, s.cvrWorks = true → s.upd.act = some (.paused, a) → s.upd.fallback = false →
      ∃ t, exec (.activationResume true) s = .next t ∧ t.paused = false ∧ t.upd.act = none ∧ t.upd.trial = true
        ∧ t.upd.running = !s.upd.running ∧ t.upd.windowEnd = s.now + s.setting 2 * minuteCycles ∧ t.jobs = s.jobs)
  ∧ (∀ s, s.cvrWorks = true → s.upd.trial = true → s.upd.act = none → s.upd.windowEnd ≤ s.now →
      exec .confirmWindowExpiry s = .next (State.checkSettings { s with
        paused := true, flash := s.flash.writeRecord { s.flash.recordD with trial := false }
        upd := { s.upd with act := some (.paused, .mctp), fallback := true } }))
  ∧ (∀ s, s.live = true → s.takeover = 2 →
      ∃ t, exec .takeoverSwitch s = .next t ∧ t.cvrSide = (!s.cvrSide) ∧ t.takeover = 3 ∧ t.jobs = s.jobs
        ∧ (∀ h, ∀ o ∈ (t.host h).openCmds, o ∈ (s.host h).openCmds ∧ o.kind ≠ .takeover))

/-! ### Media, reliability -/

/-- The media intake takes the next sample of an open submission, or drops one whose entry it cannot read; a decoder slot starts
the next part; a part that has decoded is packed, or its sample is dropped; a late sample is dropped. -/
def Obligations.MediaEventsComplete : Prop :=
  (∀ n f s ch h o jb half u e, mget s.chans (BitVec.toNat n) = some ch → s.submitOf n.toNat = some (h, o) →
    s.job ch.job = some jb → s.cvrWorks = true → ch.samples.length < ch.inflight → half = s.pickHalf ch →
    s.mediaRead f half ch.job jb.pt (o.cmd.par 0x10 0 44 + ch.taken * (64 * (1 + ch.outs))) (64 * (1 + ch.outs)) = (u, e) →
    ch.taken + 1 < o.cmd.par 0x18 0 13 →
    (e = none → exec (.mediaSampleTake n f) s = .next (u.setChan n.toNat { ch with
        nextPos := ch.nextPos + 1, taken := ch.taken + 1, samples := ch.samples.filter (fun y => y.pos != ch.nextPos)
        drops := ch.drops ++ [⟨ch.nextPos, 0, 0, half, 5, 0, 0, s.stage⟩] }))
    ∧ (∀ b l v, e = some b → fld b 6 2 = 0 → zeroBytes b 0x0C 0x40 = true →
      u.readParts f half ch.job jb.pt 0 (((ch.recipes.zip (chunksOf 64 (b.drop 64))).zip ch.planes).map
        (fun p => (p.1.1, p.1.2, p.2))) = (v, .ok l) →
      exec (.mediaSampleTake n f) s = .next (v.setChan n.toNat { ch with
        nextPos := ch.nextPos + 1, taken := ch.taken + 1
        samples := ch.samples ++ [⟨ch.nextPos, bits (fld b 0 8) 0 48, fld b 8 4, half, chunksOf 64 (b.drop 64), l, 0, [], false, 0,
          false, none⟩] })))
  ∧ (∀ half s c m ch, s.live = true → s.part.mediaHalves.testBit (BitVec.toNat half) = true → s.slotsUsed half.toNat < 128 →
      s.nextSlot half.toNat = some (c, m) → mget s.chans c = some ch →
      exec (.mediaDecodeStart half) s = .next { (s.setChan c (ch.setSample { m with started := m.started + 1 })) with
        rrHalf := mset s.rrHalf half.toNat c })
  ∧ (∀ n pos f s ch m jb k q p u raw, mget s.chans (BitVec.toNat n) = some ch →
      ch.samples.find? (fun m => m.pos == BitVec.toNat pos) = some m → s.job ch.job = some jb → s.live = true →
      m.packed < m.started → k = m.finishing s.free.1 → parseRecipe (nth m.recipes k).recipe = some q →
      parsePart (nth m.parts k) q = some p → s.free.2.partBytes f m.half ch.job jb.pt p = (u, raw) →
      (raw = none → exec (.mediaDecodeDone n pos f) s = .next (u.setChan n.toNat { ch with
        samples := ch.samples.filter (fun y => y.pos != m.pos)
        drops := ch.drops ++ [⟨m.pos, m.idx, m.tag, m.half, 5, k, 0, s.stage⟩] }))
      ∧ (∀ b r, raw = some b →
        r = (if q.media = 3 then textPart q (nth b 0) else finishPart s.mediaFw q p (nth m.recipes k)
          (fun st dn => mediaDraw jb.seed ch.salt m.idx k st dn) (decodePart s.mediaFw q p b)) →
        (∀ w, r = .error w → exec (.mediaDecodeDone n pos f) s = .next (u.setChan n.toNat { ch with
          samples := ch.samples.filter (fun y => y.pos != m.pos)
          drops := ch.drops ++ [⟨m.pos, m.idx, m.tag, m.half, w.reason, k, w.detail, s.stage⟩] }))
        ∧ (∀ x clamp, r = .ok (x, clamp) → exec (.mediaDecodeDone n pos f) s = .next (u.setChan n.toNat (ch.setSample { m with
          done := mset m.done k x, clamp := m.clamp || clamp, doneStage := s.stage })))))
  ∧ (∀ n pos s ch m, mget s.chans (BitVec.toNat n) = some ch →
      ch.samples.find? (fun m => m.pos == BitVec.toNat pos) = some m → s.live = true → ch.isLate s.stage m = true →
      m.complete = false → s.replayOf ch.job = none →
      exec (.lateDrop n pos) s = .next (s.setChan n.toNat { ch with
        samples := ch.samples.filter (fun y => y.pos != m.pos)
        drops := ch.drops ++ [⟨m.pos, m.idx, m.tag, m.half, 4, 0, 0, s.stage⟩] }))

/-- Scrub, link replay, link failure and the restart of a drover. -/
def Obligations.ReliabilityEventsComplete : Prop :=
  (∀ a s, s.pwrok = true → s.ready = true → (regionOf s.part (lineOf (BitVec.toNat a))).isMem = true →
    (s.marked.contains (lineOf a.toNat) = false →
      exec (.scrubLine a .clean) s = .next s
      ∧ exec (.scrubLine a .corrected) s = .next (s.corrected 0xFF 0xFFFFFFFF (lineOf a.toNat))
      ∧ exec (.scrubLine a .uncorrectable) s = .next (s.scrubBad (lineOf a.toNat)))
    ∧ (∀ o, s.marked.contains (lineOf a.toNat) = true → exec (.scrubLine a o) s = .next (s.scrubBad (lineOf a.toNat))))
  ∧ (∀ l s, s.live = true → linkPresent s.part l = true →
      ∃ t, exec (.linkFlitReplay l) s = .next t ∧ t.fatal = false
        ∧ mgetD t.linkRun (linkCode l) 0 = mgetD s.linkRun (linkCode l) 0 + 1
        ∧ mgetD t.linkStage (linkCode l) 0 = mgetD s.linkStage (linkCode l) 0 + 1
        ∧ (∀ k, k ≠ linkCode l → mgetD t.linkRun k 0 = mgetD s.linkRun k 0) ∧ t.jobs = s.jobs)
  ∧ (∀ l s, s.live = true → linkPresent s.part l = true → 16 ≤ mgetD s.linkRun (linkCode l) 0 →
      ∃ t, exec (.linkFail l) s = .next t ∧ t.fatal = true)
  ∧ (∀ d s st, mgetD s.drovers (dieCode d) .init = st → s.live = true → diePresent s.part d = true → 2 ≤ st.missed →
      (∀ g, st.lastRestart = some g → s.stage < g + 1000 → ∃ t, exec (.droverRestart d) s = .next t ∧ t.fatal = true)
      ∧ (s.jobsOn d = [] → (∀ g, st.lastRestart = some g → g + 1000 ≤ s.stage) →
        exec (.droverRestart d) s = .next (State.post { s with drovers := mset s.drovers (dieCode d) ⟨0, some s.stage⟩ }
          { s.ev 0x0107 with cls := 2, srcType := (dieSrc d).1, srcIndex := (dieSrc d).2, arg0 := dieCode d })))

/-! ### Stages, legs and tasks -/

/-- A tick begins the next stage with the period in force, on a device that is READY; a fatal device keeps its stages and
nothing else. -/
def Obligations.TickBeginsAStage : Prop :=
  ∀ (i : TickIn) (s : State), s.pwrok = true → s.ready = true →
    (s.fatal = true → ∃ t, exec (.tick i) s = .next t ∧ t.stage = s.nextStage ∧ t.offset = 0 ∧ t.ticking = true
      ∧ t.mem = s.mem ∧ t.jobs = s.jobs ∧ t.period = s.period)
    ∧ (s.fatal = false → exec (.tick i) s = .next (((s.newStage.takePeriod).slew).tickUnits i (!s.ticking) s.period)
      ∧ s.newStage.stage = s.nextStage ∧ s.newStage.offset = 0
      ∧ s.newStage.now = s.now + (if s.ticking then ((850 * s.period : Int) - s.offset - s.dom.stepErr).toNat else 0))
    ∧ s.nextStage = (if s.ticking then (s.stage + 1) % 2 ^ 48 else 0)

/-- On a free group that places, a page that waits for its digest gets a service leg first; else the first candidate that may
start gets its leg, and where no task waits nothing starts. A leg is suspended at the first tile boundary after the tick, and
held off after its fourth overrun in a row; an aborted one ends. Overruns, holds, and a gather's fill limit. -/
def Obligations.LegEventsComplete : Prop :=
  (∀ g f s core j d, s.placing = true → s.groupFree g = true → s.svcFor g = some (core, (j, d)) →
    ∃ t, exec (.startLeg g f) s = .next t ∧ mget t.svc core = some ⟨j, d.group, d.page⟩ ∧ (t.core core).la = []
      ∧ t.stage = s.stage)
  ∧ (∀ g f s u, s.placing = true → s.groupFree g = true → s.svcFor g = none → u = s.fillQueues → u.cands g = [] →
      exec (.startLeg g f) s = .next u)
  ∧ (∀ g f s u c rest jb x r v jv t w z y, s.placing = true → s.groupFree g = true → s.svcFor g = none → u = s.fillQueues →
      u.cands g = c :: rest → u.mayStart g c = true → u.job c.j = some jb → u.engOf c.j c.t.hdr.id = some x →
      jb.run = some r → u.bpLegs c.j x.id (if c.pos < 2 ^ 17 then jb.hdrAddr r c.pos else none)
        (c.j, r.q.step, x.id, x.t.legs) = [] → u.placeFirst f x = .go v → v.job c.j = some jv →
      v.taskOf c.j c.t.hdr.id = some t → t.spilled = none →
      w = (match g with
        | .coll _ => v
        | .mover _ _ => v
        | _ => (v.spillOthers ((groupCore g).getD t.hdr.core) c.j t).restoreTask ((groupCore g).getD t.hdr.core) t) →
      z = ((w.useGrants g c.j c.t.hdr.id).modTask c.j c.t.hdr.id (fun (y : TaskRun) => { y with
        st := .running, legs := y.legs + 1, spilled := none
        hdr := { y.hdr with core := (groupCore g).getD t.hdr.core }
        leg := some ⟨g, w.stage, w.now, y.arrays, false, jv.pt, y.hdr.kind == 0x05, false⟩ })).markTurn g c.j →
      z.engOf c.j c.t.hdr.id = some y →
      exec (.startLeg g f) s = .next (z.legBegin y (t.legs == 0) f)
      ∧ (∀ m, t.legs ≠ 0 → y.t.eng = .mov m → exec (.startLeg g f) s = .next z))
  ∧ (∀ l s x g n u, s.engOf (BitVec.toNat l.job) l.task.toNat = some x → x.t.leg = some g → s.live = true →
      x.t.st = .running → x.t.midTile = false →
      (x.jb.abort.isSome = true →
        exec (.legSuspend l) s = .next ((s.endAborted l.job.toNat x.t.hdr.id).taskOver l.job.toNat x.t))
      ∧ (x.jb.abort = none → x.t.fail = none → x.t.finished = false → g.startStage < s.stage →
        n = (if g.overran then x.t.overruns + 1 else 0) → u = (s.matClock x).collClock x →
        (¬(x.jb.backhaul = true ∧ n = 4) → exec (.legSuspend l) s = .next (State.legOver
          (u.modTask l.job.toNat x.t.hdr.id (fun (t : TaskRun) => { t with
            st := .suspended, leg := none, overruns := n })) (some g)))
        ∧ (x.jb.backhaul = true → n = 4 → ∀ v,
          v = u.modTask l.job.toNat x.t.hdr.id (fun (t : TaskRun) => { t with
            st := .suspended, leg := none, overruns := 0, heldUntil := some (u.stage + 64) }) →
          exec (.legSuspend l) s = .next (State.legOver (v.post { v.ev 0x0102 with
            job := l.job.toNat, task := x.t.hdr.id, srcType := x.t.src.1, srcIndex := x.t.src.2, arg0 := 64 }) (some g)))))
  ∧ (∀ l s jb t g u v, s.job (BitVec.toNat l.job) = some jb → s.taskOf l.job.toNat l.task.toNat = some t → t.leg = some g →
      s.live = true → t.st = .running → g.overran = false →
      s.budgetOf jb t ≤ (s.stage + 1 - g.startStage) * s.periodCycles →
      u = s.modTask l.job.toNat t.hdr.id (fun (t : TaskRun) => { t with leg := some { g with overran := true } }) →
      v = u.post { u.ev 0x0101 with
        job := l.job.toNat, task := t.hdr.id, srcType := t.src.1, srcIndex := t.src.2
        arg0 := s.budgetOf jb t, arg1 := s.budgetOf jb t } →
      (groupCore g.group = none ∨ jb.backhaul = true → exec (.stageOverrun l) s = .next v)
      ∧ (∀ c, groupCore g.group = some c → jb.backhaul = false → (v.core c).holdEnd = none →
        ((v.core c).overruns = [] → exec (.stageOverrun l) s
          = .next (v.setCore c { v.core c with overruns := [v.stage] }))
        ∧ (∀ q, (v.core c).overruns = [q] → q < v.stage → v.stage ≤ q + 3 → exec (.stageOverrun l) s
          = .next (v.setCore c { v.core c with overruns := [], holdEnd := some (v.stage + 16) }))))
  ∧ (∀ core s e, s.live = true → (s.core (BitVec.toNat core)).holdEnd = some e → e < s.stage →
      exec (.leadHoldEnd core) s = .next (s.setCore core.toNat { s.core core.toNat with holdEnd := none }))
  ∧ (∀ l s t e, s.live = true → s.taskOf (BitVec.toNat l.job) l.task.toNat = some t → t.heldUntil = some e → e < s.stage →
      exec (.backhaulHoldEnd l) s
        = .next (s.modTask l.job.toNat l.task.toNat (fun (t : TaskRun) => { t with heldUntil := none })))
  ∧ (∀ l s r t c s0, s.live = true → s.runOf (BitVec.toNat l.job) = some r → s.taskOf l.job.toNat l.task.toNat = some t →
      t.gatherCtl = some c → mget r.seen c.fillCtr = some s0 → t.st = .ready → t.fillHit = false → s0 + c.fillLimit ≤ s.stage →
      exec (.gatherFillLimit l) s = .next (s.modTask l.job.toNat t.hdr.id (fun (t : TaskRun) => { t with fillHit := true })))

/-- A finished task of kinds other than halo convolution, collective and update leg ends with its record and its signal; a
failed one ends with its failure; an aborted job is released from its stage on; a step that is over posts its notice and
leaves the job. -/
def Obligations.TaskAndStepEndsComplete : Prop :=
  (∀ l f s x, s.engOf (BitVec.toNat l.job) l.task.toNat = some x → s.live = true → (x.t.st = .running ∨ x.t.st = .suspended) →
    x.t.finished = true → x.t.fail = none → x.jb.abort = none → x.t.hdr.kind ∈ [0x01, 0x02, 0x03, 0x04, 0x05] →
    exec (.taskComplete l f) s = .next ((State.wakeTasks
      ((s.kvReturn l.job.toNat x.t.hdr.id).endDone l.job.toNat x.t.hdr.id) f l.job.toNat).taskOver l.job.toNat x.t))
  ∧ (∀ l s jb t, s.job (BitVec.toNat l.job) = some jb → s.taskOf l.job.toNat l.task.toNat = some t → s.live = true →
      t.fail.isSome = true → (t.st = .running ∨ t.st = .suspended ∨ t.st = .ready) → jb.abort = none →
      (t.hdr.kind ≠ updKind → exec (.taskFail l) s
        = .next (((s.kvReturn l.job.toNat t.hdr.id).endFailed l.job.toNat t.hdr.id).taskOver l.job.toNat t))
      ∧ (t.hdr.kind = updKind → exec (.taskFail l) s
        = .next ((s.updFailed l.job.toNat t.hdr.id).taskOver l.job.toNat t)))
  ∧ (∀ j s jb g, s.job (BitVec.toNat j) = some jb → jb.abort = some g → s.cvrWorks = true → s.ticking = true → g ≤ s.stage →
      exec (.jobRelease j) s = .next (s.releaseJob j.toNat))
  ∧ (∀ j s jb r u v, s.job (BitVec.toNat j) = some jb → jb.run = some r → s.cvrWorks = true → jb.stepOver r = true →
      u = (s.logStep j.toNat (fun (c : Chan) i => i * c.layout.2)).replayEnd j.toNat →
      ((∀ t ∈ r.tasks, t.st ≠ .notRun) → v = u) →
      ((∃ t ∈ r.tasks, t.st = .notRun) → v = u.addReport { jobReport u j.toNat r 0x0208 1 r.firstFail with time := r.firstAt }) →
      exec (.stepComplete j) s = .next (((v.freeSets j.toNat r.q.chans).notice j.toNat r.q r.status r.lost).modJob j.toNat
        (fun (b : Job) => { b with run := none, readies := b.readies.filter (fun (y : ReadyRec) => y.step != r.q.step) })))

/-! ### Training, resharding, cache moves -/

/-- A group settles when its counter reaches its value; the step closes when every update leg has ended; the poison tally
takes its total; the replica tally compares the roots of a group, and goes on where they differ. -/
def Obligations.StepCloseEventsComplete : Prop :=
  (∀ j id f s jb r t g n u, s.job (BitVec.toNat j) = some jb → jb.run = some r → jb.train = some t →
    t.group (BitVec.toNat id) = some g → s.live = true → r.q.update = true → r.close = 0 → jb.abort = none → g.inStep = true →
    g.settled = false → g.g.settleVal ≤ mgetD jb.ctrs g.g.settleCtr 0 → n = t.elems g.g →
    u = State.setGroup (s.meet (s.cmdReader j.toNat) f (jobLines jb.pt (g.g.grad + g.g.gradScale n) (cdiv n 32))) j.toNat
      { g with settled := true, settleAt := s.now, gradPoison := gradPoisoned s f jb.pt g.g n } →
    ((n = 0 ∨ g.g.tier = 2) → exec (.groupSettle j id f) s = .next u)
    ∧ (n ≠ 0 → g.g.tier ≠ 2 → exec (.groupSettle j id f) s = .next (u.modRun j.toNat (fun (q : RunStep) => { q with
        upds := q.upds.filter (fun y => !t.settledAfter s.now g.g.id y)
          ++ [TaskRun.init (fwHdr (updId g.g.id) g.g.homeCore) .ready]
          ++ q.upds.filter (t.settledAfter s.now g.g.id) }))))
  ∧ (∀ j s jb r t, s.job (BitVec.toNat j) = some jb → jb.run = some r → jb.train = some t → s.cvrWorks = true →
      jb.closable r t = true →
      exec (.stepClose j) s = .next (((t.unsettled.foldl (fun (x : State) g => x.post { x.ev 0x0401 with
          job := j.toNat, arg0 := g.g.id }) s).shareValue (jb.tallyPeers t) (t.deviceTally r)).modJob j.toNat
        (fun (b : Job) => { b with
          run := some { r with close := 1, devTally := t.deviceTally r }
          way := b.way.map (fun (w : Way) => if w.open_.isSome then { w with waitFrom := some s.stage } else w) })))
  ∧ (∀ j total s jb r t, s.job (BitVec.toNat j) = some jb → jb.run = some r → jb.train = some t → s.cvrWorks = true →
      r.close = 1 → jb.abort = none → (∀ w, jb.way = some w → w.open_ = none) → r.devTally ≤ BitVec.toNat total →
      exec (.poisonTally j total) s = .next ((s.tallyTotal j.toNat r.devTally total.toNat).2.applyTally j.toNat jb r t
        (s.tallyTotal j.toNat r.devTally total.toNat).1))
  ∧ (∀ j id roots s jb r t g own u, s.job (BitVec.toNat j) = some jb → jb.run = some r → jb.train = some t →
      t.replicas.find? (fun g => g.g.id == BitVec.toNat id) = some g → s.cvrWorks = true → r.close = 2 → jb.abort = none →
      t.tallied.contains g.g.id = false → List.length roots = t.dpSize → t.digested g.g.id = true →
      own = t.digOf g.g.id 0 (t.bankPages g) → u = s.shareValue (jb.dataGroup t) own →
      (agree (t.withOwn roots own) = true → exec (.replicaTally j id roots) s = .next (State.tallyStep (u.modTrain j.toNat (fun _ =>
        ({ t with tallied := t.tallied ++ [g.g.id] } : Train).cleanAt s jb.pt g.g.id)) j.toNat))
      ∧ (agree (t.withOwn roots own) = false → exec (.replicaTally j id roots) s = .next (State.tallyStep (u.modTrain j.toNat (fun _ =>
        { t with tallied := t.tallied ++ [g.g.id],
                 bisect := t.bisect ++ [(g.g.id, 0, t.bankPages g, t.withOwn roots own)] })) j.toNat)))
  ∧ (∀ j id lower logs s jb r t g mine u z v, s.job (BitVec.toNat j) = some jb → jb.run = some r → jb.train = some t →
      t.group (BitVec.toNat id) = some g → s.cvrWorks = true → r.close = 2 → jb.abort = none →
      mine = t.bisect.filter (fun (q : OpenRange) => q.1 == g.g.id) → mine ≠ [] → t.digested g.g.id = true →
      u = mine.foldl (fun (x : State) q => x.shareValue (jb.dataGroup t) (t.digOf q.1 q.2.1 (max 1 (cdiv q.2.2.1 2)))) s →
      z = (mine.zipIdx).foldl (fun (z : Round) q => t.roundRange z (q.1, List.getD lower q.2 [])) ⟨[], [], false⟩ →
      v = u.modTrain j.toNat (fun _ => { t with
        bisect := t.bisect.filter (fun (q : OpenRange) => q.1 != g.g.id) ++ z.ranges, rollback := t.rollback || z.failed }) →
      exec (.tallyBisectRound j id lower logs) s = .next (State.tallyStep (((z.singles.zipIdx).foldl
          (fun (x : State) q => x.repairPage j.toNat g (q.1, List.getD logs q.2 [])) v).modTrain j.toNat (fun (y : Train) =>
        if y.rollback || y.bisect.any (fun (q : OpenRange) => q.1 == g.g.id) then y else y.cleanAt u jb.pt g.g.id)) j.toNat)
      ∧ (∀ q, z.singles = [q] → z.ranges = [] → z.failed = false → v.job j.toNat = some { jb with train := some { t with
            bisect := t.bisect.filter (fun (q : OpenRange) => q.1 != g.g.id), rollback := t.rollback } } →
        (∀ k < t.dpSize, (if k = t.dpRank then v.pageEvent jb.pt t g q.2.1 else (List.getD logs 0 []).getD k false) = true) →
        ∃ y, exec (.tallyBisectRound j id lower logs) s = .next (State.tallyStep y j.toNat)
          ∧ (y.job j.toNat).bind Job.train = some { t with
            bisect := t.bisect.filter (fun (q : OpenRange) => q.1 != g.g.id), rollback := true }))

/-- A tier-2 part that owes an image writes it back. A part whose state is here takes the valid slots of the steps before it, or
with none its working values alone: the new working values stand in the other bank, the new master and moments in the staging
buffer; poison asks for a rollback; a record or program that cannot run is counted. -/
def Obligations.SlowTierEventsComplete : Prop :=
  (∀ j id part s f jb t g p bytes, s.job (BitVec.toNat j) = some jb → jb.train = some t → t.group (BitVec.toNat id) = some g →
    g.owed = some (p, bytes) → s.live = true → p = BitVec.toNat part → jb.abort = none →
    s.jobReach jb.pt g.g.hostAddr (g.g.hostPlanes (t.elems g.g)).2 = true →
    exec (.slowTierWriteback j id part f) s = .next (s.slowBack f j.toNat jb t g p bytes))
  ∧ (∀ j id part s f jb r t g n p base, s.job (BitVec.toNat j) = some jb → jb.run = some r → jb.train = some t →
      t.group (BitVec.toNat id) = some g → n = t.elems g.g → p = BitVec.toNat part → s.live = true → r.q.update = true →
      r.close = 0 → jb.abort = none → g.inStep = true → g.g.tier = 2 → g.applied = none → p = t.ordinal % g.g.delay →
      p < g.g.delay → (g.g.part n p).2 ≠ 0 → g.owed = none →
      s.jobReach jb.pt g.g.hostAddr (g.g.hostPlanes n).2 = true →
      base = (if g.partBank.getLsbD p then g.g.bank0 else g.g.bank1) → s.jobReach jb.pt base (g.g.bank n).2 = true →
      (s.optProg jb t jb.pt g.g = none →
        exec (.slowTierFetchDone j id part f) s = .next (State.modTrain (s.setGroup j.toNat { g with applied := some p }) j.toNat
          (fun (t : Train) => { t with extra := t.extra + 1 })))
      ∧ (∀ prog z x u, s.optProg jb t jb.pt g.g = some prog → x = slowRun j.toNat jb g r.q.step jb.pt →
        (g.dueSlots t.ordinal = [] → z = ⟨{ s with mem := ((workOnly s f x t g p).1.foldl
          (fun (m : NMap Byte) b => memPut m b.1 b.2) s.mem) }, (workOnly s f x t g p).2.1, (workOnly s f x t g p).2.2, .init, false⟩) →
        (g.dueSlots t.ordinal ≠ [] → z = (g.dueSlots t.ordinal).foldl (applySlot f x t g p prog) (.init s)) →
        u = s.meet (s.cmdReader j.toNat) f z.lines →
        (z.broken = true → exec (.slowTierFetchDone j id part f) s = .next (State.modTrain
          (u.setGroup j.toNat { g with applied := some p }) j.toNat (fun (t : Train) => { t with extra := t.extra + 1 })))
        ∧ (z.broken = false → z.pois ≠ 0 → exec (.slowTierFetchDone j id part f) s = .next (State.modTrain
          ((u.setGroup j.toNat { g with applied := some p }).post { u.ev 0x0404 with job := j.toNat, arg0 := g.g.id, arg1 := p })
          j.toNat (fun (t : Train) => { t with rollback := true })))
        ∧ (∀ wk b v, z.broken = false → z.pois = 0 → wk = planeAt false base (g.g.bank n).1 0 n →
          b = 32 * (wk.ty.width / 8) →
          v = (u.jobPut j.toNat (wk.data + b * (g.g.part n p).1)
              (jobBytes z.st jb.pt (wk.data + b * (g.g.part n p).1) (b * (g.g.part n p).2))).jobPut j.toNat
            (wk.scale + (g.g.part n p).1) (jobBytes z.st jb.pt (wk.scale + (g.g.part n p).1) (g.g.part n p).2) →
          exec (.slowTierFetchDone j id part f) s = .next (State.setGroup
            (if g.dueSlots t.ordinal = [] then v else v.updBounds x prog z.run) j.toNat { g with
              applied := some p, staged := (partBytesOf z.st jb.pt g.g n p).map Prod.snd }))))

/-- A reshard empties its ledger and moves the blocks at its stage, and switches at the tick after the confirmation; each step may
fail, and the command then completes with the failure. -/
def Obligations.ReshardEventsComplete : Prop :=
  (∀ j recv img f s jb r, s.job (BitVec.toNat j) = some jb → jb.reshard = some r → s.cvrWorks = true → r.moved = false →
    r.stage ≤ s.stage → jb.run = none → jb.abort = none →
    (jb.train.isSome = true → ((jb.reshardMode r ≠ 1 ∧ s.flushLedger j.toNat = none) ∨ (jb.reshardMode r = 1 ∧ img = none)) →
      exec (.reshardStart j ⟨recv, img, f⟩) s = .next (s.reshardFail j.toNat 1))
    ∧ (∀ src base u table g,
      ((jb.train = none ∧ src = none ∧ base = s)
        ∨ (jb.train.isSome = true ∧ jb.reshardMode r ≠ 1 ∧ ∃ z t, s.flushLedger j.toNat = some z
            ∧ (z.job j.toNat).bind Job.train = some t ∧ src = some (z, t)
            ∧ base = z.meet (z.cmdReader j.toNat) f (t.shardLines jb.pt))
        ∨ (jb.train.isSome = true ∧ jb.reshardMode r = 1 ∧ ∃ w z t, img = some w
            ∧ (s.wayIn j.toNat (jb.ownImage w)).flushLedger j.toNat = some z
            ∧ (z.job j.toNat).bind Job.train = some t ∧ src = some (z, t) ∧ base = s.takeHost j.toNat jb t z)) →
      base.cmdJobRead f j.toNat jb.pt r.segs (16 * r.entries) = (u, some table) → mget jb.groups r.group = some g →
      (base.reshardMove (if jb.reshardMode r = 1 then noFaults else f) j.toNat jb r g src table recv = none →
        exec (.reshardStart j ⟨recv, img, f⟩) s
          = .next ((if jb.reshardMode r = 1 then s else base).reshardFail j.toNat 2))
      ∧ (∀ v, base.reshardMove (if jb.reshardMode r = 1 then noFaults else f) j.toNat jb r g src table recv = some v →
        exec (.reshardStart j ⟨recv, img, f⟩) s = .next ((v.modJob j.toNat (fun (b : Job) => { b with reshard := some { r with
          moved := true, movedAt := s.stage, carry := src.map (fun p => p.2.carry jb)
          counts := if jb.reshardMode r = 1 then (src.map (fun p => p.2.groups.map (fun g => (g.g.id, (g.updates, g.lastStep))))).getD []
            else [] } })).shareValue g.members 1))))
  ∧ (∀ j s jb r, s.job (BitVec.toNat j) = some jb → jb.reshard = some r → s.cvrWorks = true → r.moved = true →
      r.movedAt < s.stage → jb.abort = none →
      exec (.reshardSwitch j none) s = .next (s.reshardFail j.toNat 3)
      ∧ (∀ c bare, bare = { jb with
          train := none, map := none, reshard := none, pt := (jb.train.map (fun t => t.unmapKeep jb.pt)).getD jb.pt
          ptNext := (jb.train.map (fun t => t.unmapKeep jb.ptNext)).getD jb.ptNext } →
        (r.leaving = true → exec (.reshardSwitch j (some c)) s = .next ((s.setJob j.toNat bare).endReshard j.toNat 0))
        ∧ (r.leaving = false → (s.setJob j.toNat bare).allocJob jb.hbms (r.train.need r.newGroups r.keepPages) = none →
          exec (.reshardSwitch j (some c)) s = .next (s.reshardFail j.toNat 4))
        ∧ (∀ pages t u, r.leaving = false →
          (s.setJob j.toNat bare).allocJob jb.hbms (r.train.need r.newGroups r.keepPages) = some pages →
          t = r.switched pages (r.carry.getD c) →
          u = State.loadTier0 (s.setJob j.toNat { bare with
            train := some t, map := some r.map, variants := (r.carry.getD c).variants }) noFaults j.toNat bare.pt t →
          exec (.reshardSwitch j (some c)) s
            = .next ((if jb.reshardMode r = 1 then u.jobPut j.toNat t.statusAddr t.status else u).endReshard j.toNat 0))))

/-- A sequence that a need chooses goes to the ferry and is posted; a wanted sequence comes back and is posted. -/
def Obligations.CacheMovesComplete : Prop :=
  (∀ j id f s jb p q t p1 q1, s.job (BitVec.toNat j) = some jb → s.kvPool j.toNat = some p →
    ((s.kvNeeds f j.toNat).filterMap (fun n => p.victim n.1 (match n.2 with
      | some q => q.yields
      | none => fun _ => true))).find? (fun q => q.id == BitVec.toNat id) = some q →
    s.cvrWorks = true → s.paused = false → s.jobReach jb.pt p.ferry (p.ferryPages * 2 ^ 21) = true →
    s.moveSeq f j.toNat jb.pt false p q = some (t, p1, q1) →
    exec (.kvPreempt j id f) s = .next (State.post (t.setKv j.toNat (p1.setSeq { q1 with ferried := true }))
      { t.ev 0x0302 with job := j.toNat, arg0 := q.id, arg1 := q.bales }))
  ∧ (∀ j id f s jb p q, s.job (BitVec.toNat j) = some jb → s.kvPool j.toNat = some p →
      (s.wanted j.toNat).find? (fun q => q.id == BitVec.toNat id) = some q → s.cvrWorks = true → s.paused = false →
      s.jobReach jb.pt p.ferry (p.ferryPages * 2 ^ 21) = true →
      (s.moveSeq f j.toNat jb.pt true p q = none → exec (.kvFerryBack j id f) s = .next s)
      ∧ (∀ t p1 q1, s.moveSeq f j.toNat jb.pt true p q = some (t, p1, q1) → t.hostA.openCmds = [] → t.hostB.openCmds = [] →
        ∃ u, exec (.kvFerryBack j id f) s = .next u ∧ u.stage = t.stage
          ∧ u.jobs = (t.setKv j.toNat (p1.setSeq { q1 with ferried := false })).jobs))

/-! ### Engines -/

/-- The array group: one tile loads the stationary operand and swaps it in, adds into the accumulators of its core and moves the
task on; after a tick or an abort the leg ends at this boundary, and no further tile starts. The output stage drains the oldest
finished chunk, and writes the bound records after the last; halo stamps are seen and rows are published. -/
def Obligations.ArrayGroupEventsComplete : Prop :=
  (∀ core f s x b m p v k1 r m1 u, s.engine (.array core) = some x → (x.t.hdr.kind = 0x01 ∨ x.t.hdr.kind = 0x06) →
    x.t.leg.any Leg.ended = false → x.matJob = some b → x.t.eng = .mat m → b.mayStart m = true → p = b.loop m.tile →
    v = s.accFault x f →
    (b.skipped m.taken m.tile = true → k1 = v.core x.core) →
    (b.skipped m.taken m.tile = false → k1 = { v.core x.core with
      active := b.loadTile v f x m.taken m.tile, shadow := (v.core x.core).active }) →
    r = (List.range b.streams).foldl (fun (z : NMap Int × List OutSum × List Nat) k =>
      ((b.stream v f x k1.active m k z.1).1, setNth z.2.1 k ((nth z.2.1 k).flag (b.stream v f x k1.active m k z.1).2.1),
        dedup (z.2.2 ++ (b.stream v f x k1.active m k z.1).2.2))) ((v.core x.core).acc, m.sums, b.loadLines x m.taken m.tile) →
    m1 = { b.clock v.now m with
      tile := m.tile + 1, sums := r.2.1
      freed := if b.ctl.ring then m.freed.map (fun _ => (m.tile + 1) % 2 ^ 32) else m.freed
      skipped := if b.skipped m.taken m.tile then m.skipped + 1 else m.skipped
      drain := if p.2.2 + 1 = b.tilesPer then m.drain ++ [(p.1, p.2.1)] else m.drain } →
    u = State.modEng ((v.readMeet x f r.2.2).setCore x.core { k1 with acc := r.1 }) x
      (fun t => { t with eng := .mat m1, progress := b.progress m1 }) →
    exec (.matrixTile core f) s = .next (u.boundary x.j x.id))
  ∧ (∀ core f s x b m g j rest v last r m1 fr u, s.engine (.array core) = some x →
      (x.t.hdr.kind = 0x01 ∨ x.t.hdr.kind = 0x06) → x.matJob = some b → x.t.eng = .mat m → m.drain = (g, j) :: rest →
      v = s.accFault x f → last = decide (m.drained + 1 = b.groups * b.chunks) →
      r = (List.range b.streams).foldl (fun (z : Writes × List OutSum × List Nat) k =>
        ((b.drainSet v f x m k g j z.1).1, setNth z.2.1 k (b.drainSet v f x m k g j z.1).2.1,
          dedup (z.2.2 ++ (b.drainSet v f x m k g j z.1).2.2))) (([] : Writes), m.sums, []) →
      m1 = { b.clock v.now m with drain := rest, drained := m.drained + 1, sums := r.2.1 } →
      fr = (v.readMeet x f r.2.2).freeIn (tileAt x.core) m.undef (b.holdScale x last r.1) →
      u = State.modEng (fr.1.engWrite x f fr.2) x (fun t => { t with
        eng := .mat m1, progress := b.progress m1, finished := b.complete m1 }) →
      (last = false → exec (.outputDrain core f) s = .next u)
      ∧ (last = true → exec (.outputDrain core f) s
        = .next ((b.sets.zip r.2.1).foldl (fun (t : State) p => t.writeBound x p.1.maxe p.2.maxByte) u)))
  ∧ (∀ core f s x b m l at_ u, s.engine (.array core) = some x → x.t.hdr.kind = 0x06 → x.matJob = some (.conv b) →
      x.t.eng = .mat m → haloSeen s x (.conv b) m = l → l ≠ [] →
      at_ = (fun side => (b.halo.map (fun h => if side = 0 then h.topStamp else h.botStamp)).getD 0) →
      u = s.ctlMeet x.j x.t f (l.map (fun side => tileAt x.core + at_ side)) → u.sound x = true →
      exec (.haloStampSeen core f) s = .next (u.setEng x (.mat { (MatJob.conv b).clock s.now m with haloIn := m.haloIn ++ l })))
  ∧ (∀ core f s x q m h p u, s.engine (.array core) = some x → x.t.hdr.kind = 0x06 → x.matJob = some (.conv q) →
      x.t.eng = .mat m → q.halo = some h →
      q.pubs.find? (fun p => !m.haloOut.contains p.side && p.ready q m
        && (h.pubSeq == 1 || decide (h.pubSeq ≤ stampSeq s (tileAt p.core + p.stamp + 0x40) x.step + 1))) = some p →
      u = (if h.pubSeq = 1 then s else s.ctlMeet x.j x.t f [tileAt p.core + p.stamp + 64]) → u.sound x = true →
      exec (.haloPublish core f) s = .next (State.modEng (State.engWrite (u.engWrite x f (p.writes s x q)) x f
          (((toLE 4 x.step ++ toLE 4 h.pubSeq ++ zeros 56).zipIdx).foldl
            (fun (w : Writes) v => mset w (tileAt p.core + p.stamp + v.2) v.1) [])) x
          (fun t => { t with
            eng := .mat { (MatJob.conv q).clock s.now m with haloOut := m.haloOut ++ [p.side] }
            finished := (MatJob.conv q).complete { (MatJob.conv q).clock s.now m with haloOut := m.haloOut ++ [p.side] } })))

/-- The vector group finishes one iteration of an element program, of a tap sweep or of an update leg: its lanes run, its blocks are
written, and the last iteration writes the bound records; after a tick or an abort the leg ends here. A service digest leg adds 512
words of its page and ends with the page. -/
def Obligations.VectorGroupEventsComplete : Prop :=
  (∀ core f s x b e n ls r0 w0 w1 e1 fr last u, s.engine (.vector core) = some x → mget s.svc (BitVec.toNat core) = none →
    x.t.hdr.kind = 0x02 → x.t.leg.any Leg.ended = false → parseElem x.t.body x.jb.tsBase x.jb.tsBytes = some b →
    x.t.eng = .elem e → n = e.iter → n < b.iters → ls = runLanes s f x b e n →
    r0 = (b.reds.zipIdx).foldl (fun a q => redStep s f x b n a q.2 q.1) (e, ([] : Writes), ls) →
    w0 = (b.outs[0]?.map (fun p => writeOut s x e ls n p (r0.2.1, e.o0))).getD (r0.2.1, e.o0) →
    w1 = (b.outs[1]?.map (fun p => writeOut s x e ls n p (w0.1, e.o1))).getD (w0.1, e.o1) →
    e1 = { r0.1.flagsOf r0.2.2 with
      iter := n + 1, o0 := w0.2, o1 := w1.2, sat := (r0.1.flagsOf r0.2.2).sat || w0.2.sat || w1.2.sat } →
    fr = (s.readMeet x f (laneLines x b r0.2.2)).freeIn (tileAt x.core) (b.undef (e.tabs.map List.length)) w1.1 →
    last = decide (n + 1 = b.iters) →
    u = State.modEng
      ((fr.1.engWrite x f fr.2).setCore x.core { (fr.1.engWrite x f fr.2).core x.core with
        la := laAfter ((fr.1.engWrite x f fr.2).core x.core).la ls }) x
      (fun t => { t with eng := .elem e1, progress := some n, finished := last }) →
    (last = false → exec (.elementIteration core f) s = .next (u.boundary x.j x.id))
    ∧ (last = true → exec (.elementIteration core f) s = .next (((b.outs.zip [e1.o0, e1.o1]).foldl
        (fun (t : State) q => t.writeBound x q.1.1.maxe q.2.maxByte) u).boundary x.j x.id)))
  ∧ (∀ core f s x y t g p r u, s.engine (.vector core) = some x → mget s.svc (BitVec.toNat core) = none →
      x.t.hdr.kind = updKind → x.t.leg.any Leg.ended = false → x.t.eng = .upd y → x.group = some (t, g) →
      s.optProg x.jb t x.pt g.g = some p → y.iter < cdiv (cdiv (t.elems g.g) 32) 16 →
      r = updIter s f x (updJobOf t g x.step) p y.iter (.init y.run (s.core x.core).la) →
      u = State.modEng (((s.readMeet x f r.lines).engWrite x f r.w).setCore x.core
        { ((s.readMeet x f r.lines).engWrite x f r.w).core x.core with la := r.la }) x (fun z => { z with
          eng := .upd ⟨true, y.iter + 1, y.poisoned + r.pois, r.run⟩, progress := some y.iter
          finished := decide (y.iter + 1 = cdiv (cdiv (t.elems g.g) 32) 16) }) →
      (y.iter + 1 ≠ cdiv (cdiv (t.elems g.g) 32) 16 → exec (.elementIteration core f) s = .next (u.boundary x.j x.id))
      ∧ (y.iter + 1 = cdiv (cdiv (t.elems g.g) 32) 16 →
        exec (.elementIteration core f) s = .next ((u.updBounds x p r.run).boundary x.j x.id)))
  ∧ (∀ core f s v jb t g d hi ws ends u, mget s.svc (BitVec.toNat core) = some v → s.live = true → s.job v.job = some jb →
      jb.train = some t → t.group v.group = some g →
      t.digs.find? (fun d => d.group == v.group && d.page == v.page && d.st == 1) = some d →
      hi = min (d.next + 512) (t.pageWords g d.page).2 → ws = (List.range (hi - d.next)).map (fun i => d.next + i) →
      ends = (decide ((t.pageWords g d.page).2 ≤ hi) || jb.abort.isSome) →
      u = State.modTrain (s.meet ⟨1, core.toNat, v.job, 0xFFFFFFFF, 1⟩ f
          (dedup (ws.filterMap (fun l => (t.bankAddr jb.pt g (4 * l)).map lineOf)))) v.job
        (fun r => r.modDig v.group v.page (fun e => { e with
          next := hi, sum := ws.foldl (fun a l => (a + wordTerm s f jb.pt t g l) % 2 ^ 64) d.sum, st := if ends then 2 else 1 })) →
      (ends = false → exec (.elementIteration core f) s = .next u)
      ∧ (ends = true → exec (.elementIteration core f) s = .next (u.svcOver core.toNat)))
  ∧ (∀ core f s x b e sums w e1 fr last u, s.engine (.vector core) = some x → x.t.hdr.kind = 0x03 →
      x.t.leg.any Leg.ended = false → parseTap x.t.body x.jb.tsBase x.jb.tsBytes = some b → x.t.eng = .elem e →
      e.iter < b.iters → sums = (b.outsAt e.iter).map (fun l => l.map (fun o => (o, tapSum s f x b o))) →
      w = sums.foldl (fun (a : Writes × OutSum) l => putBlock s x.pt x.core b.out ⟨b.o.auto, b.o.given⟩ b.sTap false
        (l.map (fun p => (p.1, accCell p.2.1 (x.rand b.out p.1)))) a) (([] : Writes), e.o0) →
      e1 = { e with
        iter := e.iter + 1, o0 := w.2, sat := e.sat || w.2.sat || sums.flatten.any (fun p => p.2.2.2)
        isat := e.isat || sums.flatten.any (fun p => p.2.2.2), psn := e.psn || sums.flatten.any (fun p => p.2.2.1) } →
      fr = (s.readMeet x f ((b.outsAt e.iter).flatten.flatMap (tapLines x b))).freeIn (tileAt x.core)
        (overlaps b.out.planes (b.x.planes ++ b.w.planes)) w.1 →
      last = decide (e.iter + 1 = b.iters) →
      u = State.modEng (fr.1.engWrite x f fr.2) x (fun t => { t with
        eng := .elem e1, progress := some e.iter, finished := last }) →
      (last = false → exec (.tapSweepIteration core f) s = .next (u.boundary x.j x.id))
      ∧ (last = true → exec (.tapSweepIteration core f) s = .next ((u.writeBound x b.o.maxe e1.o0.maxByte).boundary x.j x.id)))

/-- A mover carries out its next piece of 4,096 bytes: a byte copy between reachable ends, a copy over the fabric whose requests go out
together, a conversion of the units of a box, or a ring fill where a slot is free. -/
def Obligations.MoverPieceCompletes : Prop :=
  (∀ core mv f s x o n a c m ls here, s.engine (.mover core mv) = some x → x.t.hdr.kind = 0x04 → x.t.leg.any Leg.ended = false →
    parseMover x.t.body = some (.copy o n a c) → x.t.eng = .mov m → m.issued = false →
    (∀ p q, a ≠ .fabric p q) → (∀ p q, c ≠ .fabric p q) → here = min 4096 (n - 4096 * m.piece) →
    (∀ v, (a = .job v ∨ c = .job v) → s.jobReach x.pt (v + 4096 * m.piece) here = true) →
    ls = copyLines x n a c m.piece →
    exec (.moverPiece core mv f) s = .next (State.boundary (State.pieceDone (State.moveWrite (s.readMeet x f (ls.map Prod.fst)) x f
      (ls.foldl (fun (w : Writes) q => ((s.bytes q.1 64).zipIdx).foldl (fun (w : Writes) v => mset w (q.2 + v.2) v.1) w) [])
      ((ls.filter (fun q => badLine s f q.1)).map Prod.snd)) x
      { m with psn := m.psn || !(ls.filter (fun q => badLine s f q.1)).isEmpty } m.piece (decide (n ≤ 4096 * (m.piece + 1)))) x.j x.id))
  ∧ (∀ core mv f s x o n a c m wr b off p own reqs ls t, s.engine (.mover core mv) = some x → x.t.hdr.kind = 0x04 →
      x.t.leg.any Leg.ended = false → parseMover x.t.body = some (.copy o n a c) → x.t.eng = .mov m → m.issued = false →
      ((wr = true ∧ a = .ts b own ∧ c = .fabric p off) ∨ (wr = false ∧ a = .fabric p off ∧ c = .ts b own)) →
      (mget x.jb.peers p).isSome = true → reqs = fabricReqs s f x o wr (tileAt x.core + own) p off n m.piece →
      s.dmaRoom x.core reqs.length = true → s.issueAll reqs = .sent t →
      ls = (if wr then linesOf (tileAt x.core + own + 4096 * m.piece) (min 4096 (n - 4096 * m.piece)) else []) →
      exec (.moverPiece core mv f) s = .next (State.boundary (State.modEng (t.readMeet x f ls) x (fun k => { k with
        eng := .mov { m with
          piece := m.piece + 1, owed := m.owed + reqs.length, issued := decide (n ≤ 4096 * (m.piece + 1))
          psn := m.psn || ls.any (badLine s f) } })) x.j x.id))
  ∧ (∀ core mv f s x k so dO ext a d m q last r, s.engine (.mover core mv) = some x → x.t.hdr.kind = 0x04 →
      x.t.leg.any Leg.ended = false → parseMover x.t.body = some (.box k so dO ext a d) → x.t.eng = .mov m → m.issued = false →
      q = BoxAt.mk so.i0 so.i1 so dO ext → boxUnreach s x a d q (unitsOf ext d m.piece) = none →
      last = decide (m.piece + 1 = boxPieces ext d) →
      (last = false → r = boxPiece s f x a d q m.piece) → (last = true → r = b0Scale s f x a d (boxPiece s f x a d q m.piece)) →
      exec (.moverPiece core mv f) s = .next (State.boundary (State.pieceDone (State.moveWrite (s.readMeet x f r.lines) x f r.w r.bad) x
        { m with sat := m.sat || r.sat, psn := m.psn || r.psn, nan := m.nan || r.nan
                 poisoned := m.poisoned + r.poisoned, saturated := m.saturated + r.saturated } m.piece last) x.j x.id))
  ∧ (∀ core mv f s x o so ext a id strm st m rt b rm d k q r m1 t, s.engine (.mover core mv) = some x → x.t.hdr.kind = 0x04 →
      x.t.leg.any Leg.ended = false →
      parseMover x.t.body = some (.ring o so ext a id strm st.fills st.wrap st.a0 st.a1 st.b0 st.b1) → x.t.eng = .mov m →
      m.issued = false → ringOf s x id strm = some (rt, b, some rm) → rt.spilled = none → d = b.wDesc strm (nth rm.filled strm) →
      k = m.piece % boxPieces ext d → q = RingSteps.box st so ext m.fill →
      (m.piece = 0 → ringTaken s x id strm = false ∧ st.fits so ext a d = true ∧ st.unreach s x so ext a d = none) →
      (m.piece ≠ 0 → boxUnreach s x a d q (unitsOf ext d k) = none) →
      (k = 0 → ringAhead (nth rm.filled strm) (nth rm.freed strm) < b.ctl.slots) → r = boxPiece s f x a d q k →
      t = State.moveWrite (s.readMeet x f r.lines) x f r.w r.bad →
      m1 = { m with
        fill := if k + 1 = boxPieces ext d then m.fill + 1 else m.fill, sat := m.sat || r.sat, psn := m.psn || r.psn
        nan := m.nan || r.nan, poisoned := m.poisoned + r.poisoned, saturated := m.saturated + r.saturated } →
      (k + 1 ≠ boxPieces ext d → exec (.moverPiece core mv f) s = .next ((t.pieceDone x m1 m.piece false).boundary x.j x.id))
      ∧ (k + 1 = boxPieces ext d → exec (.moverPiece core mv f) s = .next (State.boundary (State.pieceDone
          (t.modTask x.j id (fun (y : TaskRun) => match y.eng with
            | .mat z => { y with eng := .mat { (if y.st = .running then b.clock s.now z else z) with
                filled := setNth z.filled strm ((nth rm.filled strm + 1) % 2 ^ 32) } }
            | _ => y)) x m1 m.piece (decide (m.fill + 1 = st.fills))) x.j x.id)))

/-- An attention task skips a pair with no live position, or runs one, forward or backward; finishes are written in order, the bound
records after the last; new tokens enter the saddlebag, up to 32 at a time, which is flushed when it is full. -/
def Obligations.AttentionEventsComplete : Prop :=
  (∀ core f s x b a0 p v row a groups n present live put, s.engine (.array core) = some x → x.t.hdr.kind = 0x05 →
    x.t.leg.any Leg.ended = false → v = s.accFault x f → parseAtt x.t.body = some b → x.t.eng = .att a0 → x.jb.kv = some p →
    a0.begun = true → b.appDone a0 = true → b.c.phase ≠ 2 → a0.row < b.c.rows → b.mayPair a0 = true →
    row = nth a0.rows a0.row → groups = attGroups p b row → n = min row.q (a0.blk * b.c.qb + b.c.qb) - a0.blk * b.c.qb →
    a = (if a0.opened then a0 else { a0 with opened := true, cols := List.replicate (n * b.c.g) ⟨none, 0, false⟩ }) →
    present = (List.range 4).filter (fun k => decide (4 * a.grp + k < (attDir p b row).positions)) →
    live = present.filter (fun k => arrayLive b.c row (a0.blk * b.c.qb) n (4 * a.grp + k)) →
    put = (fun (t : State) (m : NMap Int) (z : AttSt) => State.boundary (State.modEng
      (t.setCore x.core { t.core x.core with acc := m }) x (fun t => { t with eng := .att z, progress := z.mark })) x.j x.id) →
    (groups = 0 → exec (.attentionPair core f) s
      = .next (put v (b.openBanks a0 (v.core x.core).acc) (b.advance a 0)))
    ∧ (groups ≠ 0 → live = [] → exec (.attentionPair core f) s = .next (put v (b.openBanks a0 (v.core x.core).acc)
        (b.advance { a with tiles := a.tiles + (if b.c.phase = 1 then 5 else 2), skip := a.skip + 1 } groups)))
    ∧ (∀ s1 slots staged pr a1 q u, groups ≠ 0 → live ≠ [] →
      v.stageAll f x b p (attDir p b row) a.row a.grp a.slots present = .ok (s1, slots, staged) →
      pr = Pair.mk b p.d row (b.colBase a.rows a.row) (b.tokens a0.rows a0.row).1 (a0.blk * b.c.qb) n a.grp
        (staged.filter (fun q => live.contains q.1)) →
      a1 = { a with tiles := a.tiles + (if b.c.phase = 1 then 5 else 2), run := a.run + 1, slots := slots } →
      b.q = some (q, u) →
      (∀ r, b.dOut = none → r = pr.forward s1 f x a1 q (if a1.blk % 2 = 0 then 1 else 3) (b.openBanks a0 (v.core x.core).acc) →
        exec (.attentionPair core f) s = .next (put (s1.readMeet x f (pr.lines x true [q] [])) r.acc
          (b.advance ({ a1 with cols := r.cols }.flag r.fl) groups)))
      ∧ (∀ r dO lse dl, b.dOut = some dO → b.lseIn = some lse → b.delta = some dl →
        r = pr.backward s1 f x a1 q dO lse dl (b.openBanks a0 (v.core x.core).acc) →
        exec (.attentionPair core f) s = .next (put ((s1.readMeet x f (pr.lines x true [q, dO] [lse, dl])).engWrite x f r.2.1) r.1
          (b.advance (a1.flag r.2.2) groups)))))
  ∧ (∀ core s x b a p e rest r u, s.engine (.array core) = some x → x.t.hdr.kind = 0x05 → parseAtt x.t.body = some b →
      x.t.eng = .att a → x.jb.kv = some p → a.fin = e :: rest →
      (∀ l, b.lse = some l → r = attFinFwd s x b p { a with fin := rest } e (nth b.outs 0) l) →
      (b.lse = none → r = attFinBwd s x b p { a with fin := rest } e noFaults) →
      u = State.modEng (s.moveWrite x noFaults r.1 []) x (fun t => { t with
        eng := .att r.2, progress := r.2.mark, finished := b.complete r.2 }) →
      (b.complete r.2 = false → exec (.attentionFinish core) s = .next u)
      ∧ (b.complete r.2 = true → exec (.attentionFinish core) s
        = .next ((b.outs.zip r.2.outs).foldl (fun (t : State) q => t.writeBound x q.1.1.maxe q.2.maxByte) u)))
  ∧ (∀ core f s x b a p dk dv row q d n base w ls d1 p1 a1 r, s.engine (.array core) = some x → x.t.hdr.kind = 0x05 →
      x.t.leg.any Leg.ended = false → parseAtt x.t.body = some b → x.t.eng = .att a → x.jb.kv = some p → b.newK = some dk →
      b.newV = some dv → a.begun = true → b.appDone a = false → nth a.rows a.appRow = row → p.seqAt row.seqRec = some q →
      q.dir b.c.cache = d → n = min (min (32 - a.appended % 32) (row.q - a.appTok)) (128 - d.sbFill) → n ≠ 0 →
      base = newBase a.rows a.appRow + a.appTok →
      w = (List.range n).foldl (fun (m : Writes) i =>
        tokenWrites s f x dv d.sbOff p.d d.sbCore (base + i) (d.sbFill + i) true
          (tokenWrites s f x dk d.sbOff p.d d.sbCore (base + i) (d.sbFill + i) false m)) [] →
      ls = (List.range n).flatMap (fun i => (List.range (p.d / 32)).flatMap (fun k =>
        Desc.linesAt x.pt x.core dk ⟨32 * k, base + i, 0, 0⟩ ++ Desc.linesAt x.pt x.core dv ⟨32 * k, base + i, 0, 0⟩)) →
      d1 = { d with
        len := d.len + n, sbFill := d.sbFill + n, used := p.nextOrder
        kmax := (List.range n).foldl (fun m i => tokenMax s f x dk p.d (base + i) m) d.kmax
        vmax := (List.range n).foldl (fun m i => tokenMax s f x dv p.d (base + i) m) d.vmax } →
      p1 = { p.setSeq { q with dirs := mset q.dirs b.c.cache d1 } with nextOrder := p.nextOrder + 1 } →
      a1 = { a with
        appTok := a.appTok + n, appended := a.appended + n
        psn := a.psn || (List.range n).any (fun i => tokenLost s f x dk p.d (base + i) || tokenLost s f x dv p.d (base + i)) } →
      r = State.appRowDone ((s.readMeet x f ls).engWrite x f w) x b p1 a1 →
      exec (.appendTokens core f) s = .next ((r.1.appPut x b p1 r.2).boundary x.j x.id))
  ∧ (∀ core f s x b a p row q d bale rest dst more d1 p1 u, s.engine (.array core) = some x → x.t.hdr.kind = 0x05 →
      parseAtt x.t.body = some b → x.t.eng = .att a → x.jb.kv = some p → a.begun = true → b.appDone a = false →
      nth a.rows a.appRow = row → p.seqAt row.seqRec = some q → a.bales = bale :: rest → q.dir b.c.cache = d →
      d.sbFill = 128 → xlate x.pt bale = some dst → more = d.morePages 1 →
      d1 = { d with list := d.list ++ [(bale, 128)], pages := d.pages ++ a.listPages.take more, sbFill := 0 } →
      p1 = p.setSeq { q with dirs := mset q.dirs b.c.cache d1 } →
      u = State.appRowDone ((s.carry x.reader f x.j x.pt (tileAt d.sbCore + d.sbOff) dst (264 * p.d)).writeList x.pt d1
        d.list.length) x b p1 { a with bales := rest, listPages := a.listPages.drop more, flushed := a.flushed + 1 } →
      exec (.saddlebagFlush core f) s = .next (u.1.appPut x b p1 u.2))

/-! ### Collectives and the fabric -/

/-- A collective leg runs its next chunk-step with its frames, fails when a peer is silent for TIMEOUT stages, holds granted data and
refuses data of no task here, keeps grants, takes answers, and fails when a header disagrees or a member aborts. -/
def Obligations.CollectiveEventsComplete : Prop :=
  (∀ n l f s x c q i t r, s.collLeg l = some (x, c, q) → c.b.serai = BitVec.toNat n → x.t.leg.any Leg.ended = false →
    c.next q = some (i, t) → (c.touches t).findSome? (fun p => s.unreachIn c.x.pt p.1 p.2) = none → r = s.collWork c f q i t →
    (c.gives t = none → exec (.collectiveChunkStep n l f) s = .next ((r.1.collDone c i 0 0).boundary x.j x.id))
    ∧ (∀ m u, c.gives t = some m → r.1.issueAll (c.frames t m r.2) = .sent u →
      exec (.collectiveChunkStep n l f) s = .next ((u.collDone c i r.2.length (c.frames t m r.2).length).boundary x.j x.id)))
  ∧ (∀ l peer s x c q, s.collLeg l = some (x, c, q) → c.next q = none → q.lastStage + c.timeout ≤ s.stage →
      q.heardAt (BitVec.toNat peer) + c.timeout ≤ s.stage → (c.awaits q).contains (BitVec.toNat peer) = true →
      exec (.collectivePeerTimeout l peer) s = .next (s.collFail c peer.toNat 0x01 0))
  ∧ (∀ fr s b h, Received s fr b → fr.typ = 8 → h = collHdr fr.payload → h.sub = 0 →
      (fr.tag = 0 → exec (.collectiveData fr) s
        = .next (b.reply fr 8 0 false ((fr.payload.take 64).set 1 (Byte.of (bits (fld fr.payload 1 1) 2 6 * 4 + 2)))))
      ∧ (fr.tag ≠ 0 → b.tagged fr.tag.toNat = none → exec (.collectiveData fr) s = .next (b.nack fr 1))
      ∧ (∀ j jb, fr.tag ≠ 0 → b.tagged fr.tag.toNat = some (j, jb) → b.collTask j jb h = none →
        exec (.collectiveData fr) s = .next (b.nack fr 1)))
  ∧ (∀ fr s b j jb c q t i h, Received s fr b → CollMessage b fr 0 j jb c → h = collHdr fr.payload → b.collOf c.x = some q →
      (c.steps.zipIdx).find? (fun t => c.takes t.1 == some ⟨h.src, h.phase, h.ring, h.chunk⟩) = some (t, i) →
      (h.sig ≠ c.sig → exec (.collectiveData fr) s = .next (b.collFail c h.src 0x03 0))
      ∧ (h.sig = c.sig → h.len ≠ c.lenOf t → exec (.collectiveData fr) s = .next (b.collFail c h.src 0x03 0))
      ∧ (h.sig = c.sig → h.len = c.lenOf t → q.granted.contains i = true → q.done.contains i = false →
        fr.offset.toNat ≤ c.chunkLen t →
        exec (.collectiveData fr) s = .next (State.reply (State.modColl (b.collArrive c h.src) c.x (fun (q : CollSt) => { q with
          received := q.received + ((fr.payload.drop 64).take (c.chunkLen t - fr.offset.toNat)).length
          staged := mset q.staged i (mset (mgetD q.staged i []) fr.offset.toNat
            ((fr.payload.drop 64).take (c.chunkLen t - fr.offset.toNat))) })) fr 8 fr.offset.toNat false
          (c.header 2 ⟨h.src, h.phase, h.ring, h.chunk⟩ h.len 0))))
  ∧ (∀ fr s b j jb h v y u, Received s fr b → fr.typ = 8 → fr.tag ≠ 0 → h = collHdr fr.payload → h.sub = 1 →
      b.tagged fr.tag.toNat = some (j, jb) → (b.collTask j jb h = none → v = b) →
      (∀ c, b.collTask j jb h = some c → v = b.collArrive c h.src) →
      y = ReadyRec.mk h.group h.step h.seq h.src h.phase h.ring h.chunk h.sig h.len →
      u = v.modJob j (fun (k : Job) => { k with readies := k.readies ++ [y] }) →
      ((∀ c, (u.job j).bind (fun k => u.collTask j k h) = some c → u.collOf c.x = none ∨ c.badReady = none) →
        exec (.collectiveReady fr) s = .next u)
      ∧ (∀ c z, (u.job j).bind (fun k => u.collTask j k h) = some c → (u.collOf c.x).isSome = true → c.badReady = some z →
        exec (.collectiveReady fr) s = .next (u.collFail c z.src 0x03 0)))
  ∧ (∀ fr s b x u, Received s fr b → fr.typ = 8 → (collHdr fr.payload).sub = 2 → b.endTxn fr = some (x, u) →
      (∀ j t, x.use_ = .coll j t → exec (.collectiveAck fr) s = .next (u.collAnswered j t))
      ∧ ((∀ j t, x.use_ ≠ .coll j t) → exec (.collectiveAck fr) s = .next u))
  ∧ (∀ fr s b j jb c, Received s fr b → CollMessage b fr 3 j jb c →
      exec (.collectiveAbort fr) s = .next (b.collFail c (collHdr fr.payload).src 0x04 (collHdr fr.payload).reason))

/-- Each request frame for this device is done or refused with its reason and answered on its port; each answer ends its
transaction; a service frame of a job and a reserved type are counted as refused; a transit frame goes on. -/
def Obligations.FabricFramesComplete : Prop :=
  (∀ fr s b, Received s fr b → fr.typ = 0 →
    (∀ j jb va, fr.tag ≠ 0 → b.fabTarget fr fr.payload.length Window.write = .ok (j, jb, va) →
      (fr.poison = false → exec (.frameWrite fr) s = .next ((b.jobPut j va fr.payload).reply fr 1 0 false (zeros 64)))
      ∧ (fr.poison = true → exec (.frameWrite fr) s = .next (State.reply ((jobLines jb.pt va fr.payload.length).foldl
          (fun (t : State) l => t.mark l) (b.jobPut j va fr.payload)) fr 1 0 false (zeros 64))))
    ∧ (∀ e, fr.tag ≠ 0 → b.fabTarget fr fr.payload.length Window.write = .error e →
      exec (.frameWrite fr) s = .next (b.nack fr e))
    ∧ (fr.tag = 0 → b.hostsImages fr.src.toNat = true → exec (.frameWrite fr) s = .next (b.reply fr 1 0 false (zeros 64)))
    ∧ (fr.tag = 0 → b.hostsImages fr.src.toNat = false → exec (.frameWrite fr) s = .next (b.nack fr 1)))
  ∧ (∀ fr f s b n, Received s fr b → fr.typ = 2 → n = fld fr.payload 0 2 →
      (∀ j jb va bad, n ≠ 0 → n ≤ 8 → b.fabTarget fr (64 * n) Window.read = .ok (j, jb, va) →
        bad = !(badLines b f (jobLines jb.pt va (64 * n))).isEmpty →
        exec (.frameRead fr f) s = .next (State.reply
          (b.meet ⟨3, fr.port.toNat / 16, j, 0xFFFFFFFF, 1⟩ f (jobLines jb.pt va (64 * n))) fr 3 0 bad
          (if bad then zeros (64 * n) else jobBytes b jb.pt va (64 * n))))
      ∧ (∀ e, n ≠ 0 → n ≤ 8 → b.fabTarget fr (64 * n) Window.read = .error e → exec (.frameRead fr f) s = .next (b.nack fr e))
      ∧ ((n = 0 ∨ 8 < n) → exec (.frameRead fr f) s = .next (b.nack fr 3)))
  ∧ (∀ fr s b, Received s fr b → fr.typ = 4 →
      (b.tagged fr.tag.toNat = none → exec (.frameSignal fr) s = .next (b.nack fr 1))
      ∧ (∀ j jb, b.tagged fr.tag.toNat = some (j, jb) →
        (mget jb.windows fr.window.toNat = none → exec (.frameSignal fr) s = .next (b.nack fr 2))
        ∧ (∀ w, mget jb.windows fr.window.toNat = some w →
          (w.signal = true → exec (.frameSignal fr) s
            = .next ((b.bump noFaults j (fr.offset.toNat % 4096)).reply fr 5 0 false (zeros 64)))
          ∧ (w.signal = false → exec (.frameSignal fr) s = .next (b.nack fr 4)))))
  ∧ (∀ fr s b x u, Received s fr b → b.endTxn fr = some (x, u) →
      (∀ j t, fr.typ = 1 → x.use_ = .write j t → exec (.frameWriteAck fr) s = .next (u.movAnswered j t))
      ∧ (∀ j n, fr.typ = 1 → x.use_ = .way j n → exec (.frameWriteAck fr) s = .next (u.wayAnswered j n))
      ∧ (fr.typ = 5 → exec (.frameSignalAck fr) s = .next u)
      ∧ (fr.typ = 6 → exec (.frameTxnNack fr) s
        = .next (u.txnFail x { u.ev 0x0509 with arg0 := x.dest, arg1 := fr.offset.toNat }))
      ∧ (∀ j t a n e w v, fr.typ = 3 → x.use_ = .read j t a n → u.engOf j t = some e →
        w = ((fitBytes n fr.payload).zipIdx).map (fun p => (a + p.2, p.1)) →
        v = u.moveWrite e noFaults w (if fr.poison then linesOf a n else []) →
        (fr.poison = false → exec (.frameReadData fr) s = .next (v.movAnswered j t))
        ∧ (fr.poison = true → exec (.frameReadData fr) s = .next (State.movAnswered (v.modTask j t (fun (y : TaskRun) =>
          match y.eng with
          | .mov m => { y with eng := .mov { m with psn := true } }
          | _ => y)) j t))))
  ∧ (∀ fr s b, Received s fr b → fr.typ = 10 →
      (fr.tag = 0 → exec (.frameService fr) s = .next b)
      ∧ (fr.tag ≠ 0 → exec (.frameService fr) s = .next (b.reject fr.port.toNat)))
  ∧ (∀ fr s b, Received s { fr with dest := BitVec.ofNat 16 s.dom.deviceId } b → (fr.typ = 7 ∨ 11 ≤ fr.typ.toNat) →
      exec (.frameReservedType fr) s = .next (b.reject fr.port.toNat))
  ∧ (∀ fr s b p, s.port (BitVec.toNat fr.port) = p → s.live = true → s.dom.joined = true → p.st = .up →
      s.keyHeld fr.port.toNat fr.kgen = true → fr.typ = 0 → fr.dest.toNat ≠ s.dom.deviceId →
      b = s.setPort fr.port.toNat { p with
        rxSeq := p.rxSeq + 1, rxBytes := p.rxBytes + fr.payload.length, ctlOut := merase p.ctlOut 2 } →
      (∀ k sw, s.dom.route fr.epoch fr.dest.toNat fr.src.toNat fr.flow.toNat = some (k, sw) →
        exec (.frameWrite fr) s = .next (b.sendBy k fr.vl { fr with vl := fr.vl || sw }))
      ∧ (s.dom.route fr.epoch fr.dest.toNat fr.src.toNat fr.flow.toNat = none →
        exec (.frameWrite fr) s
          = .next ((b.reject fr.port.toNat).returnCredits fr.port.toNat (frameLane fr) (frameCredits fr))))

/-- Each control frame: released numbers leave the port, a NAK has the rest sent again and releases none, credits fill the reserve
first, a narrowing request is answered with the set that both ends take. -/
def Obligations.ControlFramesComplete : Prop :=
  (∀ c s b k p, ReceivedCtl s c b → k = BitVec.toNat c.port → b.port k = p →
    exec (.ctrlIdle c) s = .next b
    ∧ exec (.ctrlAck c) s = .next (b.modPort k (fun p =>
        if p.st = .training then { p with peerAck := true }
        else if p.txSeq ≤ c.value.toNat then p
        else { p with unacked := p.unacked.filter (fun u => decide (c.value.toNat < u.1)) }))
    ∧ exec (.ctrlNak c) s = .next (b.modPort k (fun p =>
        if p.st = .training ∨ p.txSeq < c.value.toNat then p else { p with
          unacked := p.unacked.map (fun u => if c.value.toNat ≤ u.1 then (u.1, b.leaving u.2) else u)
          t1 := (p.unacked.filter (fun u => decide (c.value.toNat ≤ u.1))).foldl (fun t u => b.departed { p with t1 := t } u.2) p.t1
          retrans := cap32 (p.retrans + (p.unacked.filter (fun u => decide (c.value.toNat ≤ u.1))).length) }))
    ∧ (c.cls = 3 → exec (.ctrlCredit c) s = .next b)
    ∧ (∀ key d r, c.cls ≠ 3 → key = laneKey c.cls.toNat c.vl →
      d = (fun (q : Port) => (c.value.toNat + 2 ^ 64 - mgetD q.creditIn key 0 % 2 ^ 64) % 2 ^ 64) →
      r = (fun (q : Port) => mgetD q.reserve key 0) →
      exec (.ctrlCredit c) s = .next (State.pump (b.modPort k (fun q => { q with
        creditIn := mset q.creditIn key c.value.toNat, reserve := mset q.reserve key (r q + min (d q) (256 - r q))
        shared := q.shared + (d q - min (d q) (256 - r q)) })) k))
    ∧ (p.st = .narrowing → c.lambdaNew ≠ 0 → c.reply = true → p.narrowTries ≠ 0 → p.narrowTo = c.lambdaNew →
      exec (.ctrlNarrow c) s = .next (b.modPort k (fun p => { p with narrowAgreed := true })))
    ∧ (p.st = .up → c.lambdaNew ≠ 0 → c.reply = false →
      exec (.ctrlNarrow c) s = .next (State.sendCtl ((b.narrow k c.lambdaNew 0).modPort k
        (fun q => { q with lambdaOk := p.okAfter c.lambdaNew c.lambdaNew, narrowAgreed := true })) k 4 0 false true c.lambdaNew 0))
    ∧ (∀ set u, p.st = .narrowing → p.narrowTries ≠ 0 → c.lambdaNew ≠ 0 → c.reply = false →
      set = lambdaPick (p.narrowTo &&& c.lambdaNew) →
      (set = 0 → exec (.ctrlNarrow c) s = .next (b.portTo k .down))
      ∧ (set ≠ 0 → (p.narrowTo ≠ set → u = b.narrow k set p.narrowTries) → (p.narrowTo = set → u = b) →
        exec (.ctrlNarrow c) s = .next (State.sendCtl (u.modPort k
          (fun q => { q with lambdaOk := p.okAfter c.lambdaNew set })) k 4 0 false true set 0))))
  ∧ (∀ k s n p, n = BitVec.toNat k → s.live = true → s.port n = p → (p.st = .up ∨ p.st = .narrowing) →
      exec (.controlFrameResend k 1) s = .next (s.sendCtl n 1 0 false false 0 ((p.rxSeq + 2 ^ 64 - 1) % 2 ^ 64))
      ∧ ((mget p.ctlOut 2).isSome = true → exec (.controlFrameResend k 2) s = .next (s.sendCtl n 2 0 false false 0 p.rxSeq))
      ∧ exec (.controlFrameResend k 3) s = .next (p.creditOut.foldl
        (fun (t : State) y => t.sendCtl n 3 (y.1 / 2) (y.1 % 2 == 1) false 0 (y.2 % 2 ^ 64)) s)
      ∧ (p.st = .narrowing → p.narrowTries ≠ 0 → p.narrowAgreed = false →
        (p.narrowTries < 8 → exec (.controlFrameResend k 4) s = .next (State.sendCtl
          (s.modPort n (fun p => { p with narrowTries := p.narrowTries + 1 })) n 4 0 false false p.narrowTo 0))
        ∧ (8 ≤ p.narrowTries → exec (.controlFrameResend k 4) s = .next (s.portTo n .down)))
      ∧ (p.st = .up → exec (.dataFrameReceiveFail k false) s = .next (s.sendCtl n 2 0 false false 0 p.rxSeq))
      ∧ (p.st = .up → exec (.dataFrameReceiveFail k true) s
        = .next (State.sendNak (s.modPort n (fun p => { p with
            authFails := cap32 (p.authFails + 1), tagStage := p.tagStage + 1 })) n))
      ∧ exec (.controlFrameDiscard k false) s = .next (s.modPort n (fun p => { p with rejects := cap32 (p.rejects + 1) }))
      ∧ exec (.controlFrameDiscard k true) s = .next (s.modPort n (fun p => { p with
          authFails := cap32 (p.authFails + 1), tagStage := p.tagStage + 1 })))

/-- What happens to a port: a codeword, a wavelength, the end of narrowing, tag failures, a port that stays down for a second, a frame
that waits for credits for ten stages, a transaction with no answer for two seconds. -/
def Obligations.PortEventsComplete : Prop :=
  (∀ k w s p, s.port (BitVec.toNat k) = p → s.live = true → (p.st = .up ∨ p.st = .narrowing) →
    p.lambdaUsed.getLsbD (BitVec.toNat w) = true →
    exec (.codewordUncorrectable k w) s = .next (s.setPort k.toNat { p with
      fecUnc := cap32 (p.fecUnc + 1), uncStage := mset p.uncStage w.toNat (mgetD p.uncStage w.toNat 0 + 1) }))
  ∧ (∀ k w s p ok used u, s.port (BitVec.toNat k) = p → s.live = true → (p.st = .up ∨ p.st = .narrowing) →
      p.lambdaOk.getLsbD (BitVec.toNat w) = true → ok = p.lambdaOk &&& ~~~(BitVec.ofNat 4 (2 ^ w.toNat)) →
      (p.st = .up → used = p.lambdaUsed) → (p.st = .narrowing → used = p.narrowTo) →
      u = s.setPort k.toNat { p with lambdaOk := ok } →
      (used.getLsbD w.toNat = false → exec (.wavelengthFail k w) s = .next u)
      ∧ (used.getLsbD w.toNat = true → lambdaPick ok = 0 → exec (.wavelengthFail k w) s = .next (u.portTo k.toNat .down))
      ∧ (used.getLsbD w.toNat = true → lambdaPick ok ≠ 0 → exec (.wavelengthFail k w) s
        = .next (State.sendCtl (u.narrow k.toNat (lambdaPick ok) 1) k.toNat 4 0 false false (lambdaPick ok) 0)))
  ∧ (∀ k s p, s.port (BitVec.toNat k) = p → s.live = true → p.st = .narrowing → p.narrowAgreed = true →
      exec (.narrowComplete k) s = .next (State.pump (State.sendNak (State.portTo (s.setPort k.toNat { p with
        lambdaUsed := p.narrowTo, narrowTo := 0, narrowTries := 0, narrowAgreed := false }) k.toNat .up) k.toNat) k.toNat))
  ∧ (∀ k s p, s.port (BitVec.toNat k) = p → s.live = true → (p.st = .up ∨ p.st = .narrowing) → 64 < p.tagStage →
      p.uncStage = [] → exec (.portAuthDown k) s = .next (State.post (s.portTo k.toNat .down)
        { (s.portTo k.toNat .down).portEv 0x0503 k.toNat with arg0 := p.tagStage }))
  ∧ (∀ k s p g, s.port (BitVec.toNat k) = p → s.live = true → p.downAt = some g → g + secondCycles < s.now →
      exec (.portDownDiscard k) s = .next (p.waiting.foldl (fun (t : State) w => t.freeIngress w.2.1 w.2.2)
        (s.setPort k.toNat { p with waiting := [], unacked := [], stallFrom := none, creditStall := p.stalledTo s.now })))
  ∧ (∀ k cls vl s w g, s.live = true → w ∈ (s.port (BitVec.toNat k)).waiting → w.2.2.cls = cls → w.2.2.vl = vl →
      w.1 = some g → g + 10 ≤ s.stage →
      exec (.fabricStallDetect k cls vl) s
        = .next (s.post { s.portEv 0x0506 k.toNat with arg0 := BitVec.toNat cls, arg1 := b2n vl }))
  ∧ (∀ n s x u, s.dom.txns.find? (fun (x : Txn) => x.tag == BitVec.toNat n) = some x → s.live = true →
      x.at_ + 2 * secondCycles ≤ s.now →
      u = { s with dom := { s.dom with
        txns := s.dom.txns.filter (fun (y : Txn) => y.tag != x.tag)
        quarantine := mset s.dom.quarantine x.tag (s.now + 2 * secondCycles) } } →
      exec (.transactionTimeout n) s = .next (State.txnFail u x { State.ev u 0x0508 with arg0 := x.dest, arg1 := x.tag }))

/-- A dark, refused or down port trains; each phase of training leads to the next with what this end sends, or to the state that the
manual gives a failure; the peer's training message is checked, remembered and answered. -/
def Obligations.PortTrainingComplete : Prop :=
  (∀ k s p, s.port (BitVec.toNat k) = p → s.live = true →
    (p.st = .dark → exec (.portLightSample k true) s = .next (s.portTrain k.toNat))
    ∧ exec (.portLightSample k false) s = .next s
    ∧ (p.st = .refused → p.since + 10 * secondCycles ≤ s.now → exec (.refusedRetry k) s = .next (s.portTrain k.toNat))
    ∧ (p.st = .down → p.since + secondCycles / 1000 ≤ s.now → exec (.downRetrain k) s = .next (s.portTrain k.toNat)))
  ∧ (∀ k s p, s.port (BitVec.toNat k) = p → s.live = true → p.st = .training →
      (p.phase = 4 → p.phaseAt + 850000 < s.now → exec (.trainingTimeout k) s = .next (s.portRefuse k.toNat 2))
      ∧ (∀ lim, (p.phase, lim) ∈ [(1, 8500000), (2, 17000000), (3, 1700000), (5, 85000)] → p.phaseAt + lim < s.now →
        exec (.trainingTimeout k) s = .next (s.portTo k.toNat .dark))
      ∧ (∀ ok, p.phase = 1 → exec (.trainingPhaseDone k ok) s = .next (s.setPort k.toNat { p with phase := 2, phaseAt := s.now }))
      ∧ (∀ ok, p.phase = 2 → exec (.trainingPhaseDone k ok) s
        = .next (s.setPort k.toNat { p with phase := 3, phaseAt := s.now, lambdaOk := ok }))
      ∧ (∀ ok, p.phase = 3 → lambdaPick ok = 0 → exec (.trainingPhaseDone k ok) s
        = .next ((s.setPort k.toNat { p with lambdaOk := ok }).portTo k.toNat .down))
      ∧ (∀ ok u, p.phase = 3 → lambdaPick ok ≠ 0 →
        u = s.setPort k.toNat { p with phase := 4, phaseAt := s.now, lambdaOk := ok, lambdaUsed := lambdaPick ok } →
        (s.dom.joined = false → exec (.trainingPhaseDone k ok) s = .next (u.portRefuse k.toNat 4))
        ∧ (s.dom.joined = true → s.dom.key s.dom.kgen = none → exec (.trainingPhaseDone k ok) s = .next (u.portRefuse k.toNat 2))
        ∧ (s.dom.joined = true → (s.dom.key s.dom.kgen).isSome = true → exec (.trainingPhaseDone k ok) s
          = .next (u.modPort k.toNat (fun q => { q with txMsg := u.trainingMsg k.toNat }))))
      ∧ (∀ ok, p.phase = 4 → p.peerOk = true → p.peerNonce.isSome = true →
        exec (.trainingPhaseDone k ok) s = .next (State.sendAck (State.deriveKeys (s.setPort k.toNat (Port.initCredits
          { p with phase := 5, phaseAt := s.now, ctlTx := 0, ctlRx := 0, ctlOut := [] })) k.toNat s.dom.kgen) k.toNat))
      ∧ (∀ ok, p.phase = 5 → p.peerAck = true → exec (.trainingPhaseDone k ok) s = .next (s.portUp k.toNat)))
  ∧ (∀ k m s p, s.port (BitVec.toNat k) = p → s.live = true → p.st = .training → (p.phase = 4 ∨ p.phase = 5) →
      List.length m = 128 → fld m 0 4 = 0x49545A50 → fld m 0x7C 4 = crc32 (m.take 124) →
      (bits (fld m 4 4) 0 8 ≠ 1 → exec (.trainingMessage k m) s = .next (s.portRefuse k.toNat 5))
      ∧ (bits (fld m 4 4) 0 8 = 1 → (bit (fld m 4 4) 8 = false ∨ fld m 8 4 ≠ s.dom.domainId) →
        exec (.trainingMessage k m) s = .next (s.portRefuse k.toNat 1))
      ∧ (∀ u, bits (fld m 4 4) 0 8 = 1 → bit (fld m 4 4) 8 = true → fld m 8 4 = s.dom.domainId →
        bits (fld m 0x0C 2) 0 13 = s.dom.deviceId → u = s.portRefuse k.toNat 3 →
        exec (.trainingMessage k m) s = .next (u.post { u.portEv 0x0505 k.toNat with arg0 := s.dom.deviceId }))
      ∧ (∀ u, bits (fld m 4 4) 0 8 = 1 → bit (fld m 4 4) 8 = true → fld m 8 4 = s.dom.domainId →
        bits (fld m 0x0C 2) 0 13 ≠ s.dom.deviceId →
        u = State.sendTraining (s.setPort k.toNat { p with
          peerId := bits (fld m 0x0C 2) 0 13, peerPort := fld m 0x0E 1
          peerNonce := some (BitVec.ofNat 128 (fld m 0x10 16))
          resume := if bit (fld m 4 4) 11 && (m.drop 0x20).take 3 == endId s.dom.deviceId k.toNat then some (fld m 0x28 8)
            else none }) k.toNat →
        (bit (fld m 4 4) 10 = false → exec (.trainingMessage k m) s = .next u)
        ∧ (bit (fld m 4 4) 10 = true → s.dom.key s.dom.kgen = none → exec (.trainingMessage k m) s = .next (u.portRefuse k.toNat 2))
        ∧ (∀ key proof, bit (fld m 4 4) 10 = true → s.dom.key s.dom.kgen = some key →
          proof = linkProof key s.dom.domainId s.dom.deviceId k.toNat (bits (fld m 0x0C 2) 0 13) (fld m 0x0E 1) p.nonce
            (BitVec.ofNat 128 (fld m 0x10 16))
            (if lowerEnd s.dom.deviceId k.toNat (bits (fld m 0x0C 2) 0 13) (fld m 0x0E 1) then 1 else 0) →
          ((m.drop 0x30).take 16 = proof → exec (.trainingMessage k m) s
            = .next (u.modPort k.toNat (fun q => { q with peerOk := true })))
          ∧ ((m.drop 0x30).take 16 ≠ proof → exec (.trainingMessage k m) s = .next (u.portRefuse k.toNat 2)))))

/-- Time frames, and the switches that a domain makes at a stage. -/
def Obligations.DomainEventsComplete : Prop :=
  (∀ fr s b, Received s fr b → fr.typ = 9 → fld fr.payload 0 1 = 1 →
    exec (.timeRequest fr) s
      = .next ((b.hearLock fr).sendTime fr.port.toNat (b.timePayload 2 (fld fr.payload 4 4) b.stamp.bytes)))
  ∧ (∀ fr s b k p t1 m u, Received s fr b → fr.typ = 9 → fld fr.payload 0 1 = 2 → k = fr.port.toNat → b.port k = p →
      p.t1 = some t1 → b.follower = true → b.dom.timePorts.contains k = true → fld fr.payload 4 4 = p.exchange →
      m = b.measure t1 fr.payload →
      u = State.chooseTime (State.hearLock (b.setPort k { p with t1 := none, rttNs := cap32 (m.1 * 1000 / 850) }) fr) →
      (u.dom.inUse ≠ some k → exec (.timeResponse fr) s = .next u)
      ∧ (u.dom.inUse = some k → exec (.timeResponse fr) s = .next (u.follow fr.payload m.2.1 m.2.2)))
  ∧ (∀ g us s k u, s.live = true → s.follower = true → s.dom.renumber = true → s.dom.locked = true → s.dom.inUse = some k →
      (s.port k).st = .up → s.jobs = [] → 25 ≤ BitVec.toNat us → us.toNat ≤ 10000 →
      u = { s with
        stage := BitVec.toNat g, offset := 0, period := us.toNat, periodWas := s.period, periodFrom := g.toNat
        dom := { s.dom with renumber := false }
        ports := s.ports.map (fun (p : Nat × Port) => (p.1, { p.2 with t1 := none })) } →
      exec (.stageRenumber g us) s = .next (State.post u { State.ev u 0x0103 with arg0 := s.stage, arg1 := g.toNat }))
  ∧ (∀ us g s, s.live = true → s.dom.joined = true → s.dom.announce = some (us, g) → g ≤ s.stage →
      exec .periodChange s = .next (State.completeBoth
        { s with period := us, periodWas := s.period, periodFrom := s.stage, dom := { s.dom with announce := none } }
        (fun (o : OpenCmd) => if o.kind = OpenKind.period then some (0, 0) else none)))
  ∧ (∀ g s up u, s.live = true → s.dom.keyAt = some g → g ≤ s.stage →
      up = (s.ports.filter (fun (p : Nat × Port) => p.2.st == .up || p.2.st == .narrowing)).map Prod.fst →
      u = { s with dom := { s.dom with kgen := !s.dom.kgen, keyAt := none, eraseAt := some (g + 2) } } →
      ((s.dom.key (!s.dom.kgen)).isSome = true → exec .keySwitch s = .next (State.endSwitch (up.foldl (fun (t : State) n =>
        (t.modPort n (fun p => { p with rxOld := p.rxKey })).deriveKeys n (!s.dom.kgen)) u) 0x0504))
      ∧ (s.dom.key (!s.dom.kgen) = none →
        exec .keySwitch s = .next (State.endSwitch (up.foldl (fun (t : State) n => t.portRefuse n 2) u) 0x0504)))
  ∧ (∀ g s, s.live = true → s.dom.eraseAt = some g → g ≤ s.stage →
      exec .keyOldErase s = .next { s with
        dom := if s.dom.kgen then { s.dom with eraseAt := none, key0 := none } else { s.dom with eraseAt := none, key1 := none }
        ports := s.ports.map (fun (p : Nat × Port) => (p.1, { p.2 with rxOld := [] })) })
  ∧ (∀ g s, s.live = true → s.dom.routeAt = some g → g ≤ s.stage →
      exec .routeSwitch s = .next (State.endSwitch
        { s with dom := { s.dom with epoch := !s.dom.epoch, routeAt := none } } 0x0507))
  ∧ (∀ tk tps g s, s.live = true → s.dom.tkAt = some (tk, tps, g) →
      (g ≤ s.stage → exec .timekeeperSwitch s = .next ((s.newTimekeeper tk tps).endSwitch 0x0508))
      ∧ (s.stage < g → exec .timekeeperSwitch s = .next (s.endSwitch 0x0508)))
  ∧ (∀ s, s.live = true → s.dom.tkAt = none → exec .timekeeperSwitch s = .next (s.endSwitch 0x0508))

/-! ### Numbers, events, marks -/

/-- Requantisation with a given scale: each element is narrowed once, rounded where the scale is at or above the exponent
of the values and shifted exactly where it is below. -/
def Obligations.GivenScaleNarrowsEachElement : Prop :=
  (∀ (xs : List (Int × Nat)) (E e : Int) (w mode k : Nat) (x : Int) (u : Nat), xs[k]? = some (x, u) →
    (e ≥ E → (requantGiven xs E e w mode).qs[k]? = some (narrow w (roundShift x (e - E) mode u)))
    ∧ (e < E → (requantGiven xs E e w mode).qs[k]? = some (narrow w (x * 2 ^ (E - e).toNat)))
    ∧ (e < E → -2 ^ (w - 1) ≤ x * 2 ^ (E - e).toNat → x * 2 ^ (E - e).toNat ≤ 2 ^ (w - 1) - 1 →
      (requantGiven xs E e w mode).qs[k]? = some (x * 2 ^ (E - e).toNat)))
  ∧ (∀ (xs : List (Int × Nat)) (E e : Int) (w mode : Nat),
      (requantGiven xs E e w mode).qs.length = xs.length ∧ (requantGiven xs E e w mode).e = e)
  ∧ (∀ (w : Nat) (x : Int), narrow w x = max (-2 ^ (w - 1)) (min (2 ^ (w - 1) - 1) x))

/-- Rounding is to the nearest value with ties to even, towards zero, or up or down by less than one unit; a shift by no
bits or to the left is exact. -/
def Obligations.RoundingIsFaithful : Prop :=
  ∀ (x : Int) (n u : Nat), u < 2 ^ 32 →
    (∀ mode, roundShift x 0 mode u = x ∧ roundShift x (-(n : Int)) mode u = x * 2 ^ n)
    ∧ (0 < n → 2 * Int.natAbs (roundShift x n 0 u * 2 ^ n - x) ≤ 2 ^ n)
    ∧ (0 < n → 2 * Int.natAbs (roundShift x n 0 u * 2 ^ n - x) = 2 ^ n → roundShift x n 0 u % 2 = 0)
    ∧ (0 < n → Int.natAbs (roundShift x n 1 u) * 2 ^ n ≤ x.natAbs ∧ x.natAbs < (Int.natAbs (roundShift x n 1 u) + 1) * 2 ^ n)
    ∧ (0 < n → Int.natAbs (roundShift x n 2 u * 2 ^ n - x) < 2 ^ n)
    ∧ (0 < n → ∀ mode, x % 2 ^ n = 0 → roundShift x n mode u * 2 ^ n = x)

/-- With an automatic scale no element is clamped unless the exponent has reached 127: every element is the one rounding of
its own value at the exponent that is returned, and fits its type. -/
def Obligations.AutomaticScaleFits : Prop :=
  ∀ (xs : List (Int × Nat)) (E : Int) (w mode : Nat) (r : Block), 2 ≤ w → (∀ p ∈ xs, p.2 < 2 ^ 32) → -127 ≤ E → E ≤ 127 →
    r = requantAuto xs E w mode →
    -127 ≤ r.e ∧ r.e ≤ 127 ∧ (r.sat = true → r.e = 127)
    ∧ (r.sat = false → r.qs = xs.map (fun p => roundShift p.1 (r.e - E) mode p.2))
    ∧ (∀ q ∈ r.qs, -2 ^ (w - 1) ≤ q ∧ q ≤ 2 ^ (w - 1) - 1)

/-- An event takes the next sequence number and the time, and is written to its slot of the device log; below host memory
no other byte changes, and no job does. -/
def Obligations.EventIsWrittenToTheLog : Prop :=
  ∀ (s : State) (e r : EventRec), Machine.Inv s → s.pwrok = true → (e.srcType ≠ 0 ∨ (s.dbg.haltCvr = false ∧ s.cvrIntact = true)) →
    r = { e with seq := s.nextSeq, time := ⟨s.stage, s.offset⟩ } →
    (s.post e).events = s.events ++ [r] ∧ (s.post e).nextSeq = s.nextSeq + 1 ∧ (s.post e).jobs = s.jobs
    ∧ (∀ k < 64, (s.post e).byte (0x0011FFC00000 + 64 * (s.nextSeq % 65536) + k) = r.bytes.getD k 0)
    ∧ (∀ a < hostABase, a < 0x0011FFC00000 + 64 * (s.nextSeq % 65536) ∨ 0x0011FFC00000 + 64 * (s.nextSeq % 65536) + 64 ≤ a →
      (s.post e).byte a = s.byte a)

/-- A write of a whole line replaces its mark, a write of part of it keeps it; a marked line reads uncorrectable whatever
it holds; marking changes no byte. -/
def Obligations.LineMarks : Prop :=
  (∀ (s : State) (a l : Nat) (d : List Byte),
    l ∈ (s.store a d).marked ↔ l ∈ s.marked ∧ ¬(a ≤ l ∧ l + 64 ≤ a + d.length))
  ∧ (∀ (s : State) (f : Faults) (l : Nat), l ∈ s.marked → badLine s f l = true)
  ∧ (∀ (s : State) (l : Nat), (regionOf s.part l).isMem = true → l ∈ (s.mark l).marked ∧ ∀ a, (s.mark l).byte a = s.byte a)
  ∧ (∀ (s : State) (a : Nat) (d : List Byte), Machine.Inv s →
      (∀ k (h : k < d.length), (s.store a d).byte (a + k) = d[k])
      ∧ ∀ x, x < a ∨ a + d.length ≤ x → (s.store a d).byte x = s.byte x)
end

