-- ==== Sys2Proof/Laws/State.lean ====
section
/-! SUPPORT. What each record update leaves: one lemma for each field and update, so that no later proof unfolds a record
update. -/
namespace Sys2Proof.Machine

/-! ### A host's port -/

@[simp] theorem State.setHost_host (s : State) (h : HostId) (p : HostPort) : (s.setHost h p).host h = p := by
  cases h <;> rfl

theorem State.setHost_host_ne (s : State) (h k : HostId) (p : HostPort) (e : k ≠ h) :
    (s.setHost h p).host k = s.host k := by
  cases h <;> cases k <;> first | rfl | exact absurd rfl e

@[simp] theorem State.setHost_part (s : State) (h : HostId) (p : HostPort) :
    (s.setHost h p).part = s.part := match h with | .a => rfl | .b => rfl
@[simp] theorem State.setHost_serial (s : State) (h : HostId) (p : HostPort) :
    (s.setHost h p).serial = s.serial := match h with | .a => rfl | .b => rfl
@[simp] theorem State.setHost_stepping (s : State) (h : HostId) (p : HostPort) :
    (s.setHost h p).stepping = s.stepping := match h with | .a => rfl | .b => rfl
@[simp] theorem State.setHost_fuses (s : State) (h : HostId) (p : HostPort) :
    (s.setHost h p).fuses = s.fuses := match h with | .a => rfl | .b => rfl
@[simp] theorem State.setHost_flash (s : State) (h : HostId) (p : HostPort) :
    (s.setHost h p).flash = s.flash := match h with | .a => rfl | .b => rfl
@[simp] theorem State.setHost_pwrok (s : State) (h : HostId) (p : HostPort) :
    (s.setHost h p).pwrok = s.pwrok := match h with | .a => rfl | .b => rfl
@[simp] theorem State.setHost_strapRecovery (s : State) (h : HostId) (p : HostPort) :
    (s.setHost h p).strapRecovery = s.strapRecovery := match h with | .a => rfl | .b => rfl
@[simp] theorem State.setHost_strapSpiSlow (s : State) (h : HostId) (p : HostPort) :
    (s.setHost h p).strapSpiSlow = s.strapSpiSlow := match h with | .a => rfl | .b => rfl
@[simp] theorem State.setHost_strapSmb (s : State) (h : HostId) (p : HostPort) :
    (s.setHost h p).strapSmb = s.strapSmb := match h with | .a => rfl | .b => rfl
@[simp] theorem State.setHost_phase (s : State) (h : HostId) (p : HostPort) :
    (s.setHost h p).phase = s.phase := match h with | .a => rfl | .b => rfl
@[simp] theorem State.setHost_failCode (s : State) (h : HostId) (p : HostPort) :
    (s.setHost h p).failCode = s.failCode := match h with | .a => rfl | .b => rfl
@[simp] theorem State.setHost_phaseReached (s : State) (h : HostId) (p : HostPort) :
    (s.setHost h p).phaseReached = s.phaseReached := match h with | .a => rfl | .b => rfl
@[simp] theorem State.setHost_thermtrip (s : State) (h : HostId) (p : HostPort) :
    (s.setHost h p).thermtrip = s.thermtrip := match h with | .a => rfl | .b => rfl
@[simp] theorem State.setHost_faultN (s : State) (h : HostId) (p : HostPort) :
    (s.setHost h p).faultN = s.faultN := match h with | .a => rfl | .b => rfl
@[simp] theorem State.setHost_faultNEnd (s : State) (h : HostId) (p : HostPort) :
    (s.setHost h p).faultNEnd = s.faultNEnd := match h with | .a => rfl | .b => rfl
@[simp] theorem State.setHost_cfgActive (s : State) (h : HostId) (p : HostPort) :
    (s.setHost h p).cfgActive = s.cfgActive := match h with | .a => rfl | .b => rfl
@[simp] theorem State.setHost_ready (s : State) (h : HostId) (p : HostPort) :
    (s.setHost h p).ready = s.ready := match h with | .a => rfl | .b => rfl
@[simp] theorem State.setHost_fatal (s : State) (h : HostId) (p : HostPort) :
    (s.setHost h p).fatal = s.fatal := match h with | .a => rfl | .b => rfl
@[simp] theorem State.setHost_paused (s : State) (h : HostId) (p : HostPort) :
    (s.setHost h p).paused = s.paused := match h with | .a => rfl | .b => rfl
@[simp] theorem State.setHost_cvrSide (s : State) (h : HostId) (p : HostPort) :
    (s.setHost h p).cvrSide = s.cvrSide := match h with | .a => rfl | .b => rfl
@[simp] theorem State.setHost_cvrIntact (s : State) (h : HostId) (p : HostPort) :
    (s.setHost h p).cvrIntact = s.cvrIntact := match h with | .a => rfl | .b => rfl
@[simp] theorem State.setHost_fallbackNote (s : State) (h : HostId) (p : HostPort) :
    (s.setHost h p).fallbackNote = s.fallbackNote := match h with | .a => rfl | .b => rfl
@[simp] theorem State.setHost_settingsNote (s : State) (h : HostId) (p : HostPort) :
    (s.setHost h p).settingsNote = s.settingsNote := match h with | .a => rfl | .b => rfl
@[simp] theorem State.setHost_ticking (s : State) (h : HostId) (p : HostPort) :
    (s.setHost h p).ticking = s.ticking := match h with | .a => rfl | .b => rfl
@[simp] theorem State.setHost_stage (s : State) (h : HostId) (p : HostPort) :
    (s.setHost h p).stage = s.stage := match h with | .a => rfl | .b => rfl
@[simp] theorem State.setHost_offset (s : State) (h : HostId) (p : HostPort) :
    (s.setHost h p).offset = s.offset := match h with | .a => rfl | .b => rfl
@[simp] theorem State.setHost_now (s : State) (h : HostId) (p : HostPort) :
    (s.setHost h p).now = s.now := match h with | .a => rfl | .b => rfl
@[simp] theorem State.setHost_period (s : State) (h : HostId) (p : HostPort) :
    (s.setHost h p).period = s.period := match h with | .a => rfl | .b => rfl
@[simp] theorem State.setHost_periodAt (s : State) (h : HostId) (p : HostPort) :
    (s.setHost h p).periodAt = s.periodAt := match h with | .a => rfl | .b => rfl
@[simp] theorem State.setHost_periodWas (s : State) (h : HostId) (p : HostPort) :
    (s.setHost h p).periodWas = s.periodWas := match h with | .a => rfl | .b => rfl
@[simp] theorem State.setHost_periodFrom (s : State) (h : HostId) (p : HostPort) :
    (s.setHost h p).periodFrom = s.periodFrom := match h with | .a => rfl | .b => rfl
@[simp] theorem State.setHost_devCtl (s : State) (h : HostId) (p : HostPort) :
    (s.setHost h p).devCtl = s.devCtl := match h with | .a => rfl | .b => rfl
@[simp] theorem State.setHost_devApply (s : State) (h : HostId) (p : HostPort) :
    (s.setHost h p).devApply = s.devApply := match h with | .a => rfl | .b => rfl
@[simp] theorem State.setHost_devLast (s : State) (h : HostId) (p : HostPort) :
    (s.setHost h p).devLast = s.devLast := match h with | .a => rfl | .b => rfl
@[simp] theorem State.setHost_perrDev (s : State) (h : HostId) (p : HostPort) :
    (s.setHost h p).perrDev = s.perrDev := match h with | .a => rfl | .b => rfl
@[simp] theorem State.setHost_vrb (s : State) (h : HostId) (p : HostPort) :
    (s.setHost h p).vrb = s.vrb := match h with | .a => rfl | .b => rfl
@[simp] theorem State.setHost_blks (s : State) (h : HostId) (p : HostPort) :
    (s.setHost h p).blks = s.blks := match h with | .a => rfl | .b => rfl
@[simp] theorem State.setHost_turn (s : State) (h : HostId) (p : HostPort) :
    (s.setHost h p).turn = s.turn := match h with | .a => rfl | .b => rfl
@[simp] theorem State.setHost_grantCores (s : State) (h : HostId) (p : HostPort) :
    (s.setHost h p).grantCores = s.grantCores := match h with | .a => rfl | .b => rfl
@[simp] theorem State.setHost_grantStacks (s : State) (h : HostId) (p : HostPort) :
    (s.setHost h p).grantStacks = s.grantStacks := match h with | .a => rfl | .b => rfl
@[simp] theorem State.setHost_grantHalves (s : State) (h : HostId) (p : HostPort) :
    (s.setHost h p).grantHalves = s.grantHalves := match h with | .a => rfl | .b => rfl
@[simp] theorem State.setHost_mem (s : State) (h : HostId) (p : HostPort) :
    (s.setHost h p).mem = s.mem := match h with | .a => rfl | .b => rfl
@[simp] theorem State.setHost_marked (s : State) (h : HostId) (p : HostPort) :
    (s.setHost h p).marked = s.marked := match h with | .a => rfl | .b => rfl
@[simp] theorem State.setHost_pageRecs (s : State) (h : HostId) (p : HostPort) :
    (s.setHost h p).pageRecs = s.pageRecs := match h with | .a => rfl | .b => rfl
@[simp] theorem State.setHost_worn (s : State) (h : HostId) (p : HostPort) :
    (s.setHost h p).worn = s.worn := match h with | .a => rfl | .b => rfl
@[simp] theorem State.setHost_held (s : State) (h : HostId) (p : HostPort) :
    (s.setHost h p).held = s.held := match h with | .a => rfl | .b => rfl
@[simp] theorem State.setHost_events (s : State) (h : HostId) (p : HostPort) :
    (s.setHost h p).events = s.events := match h with | .a => rfl | .b => rfl
@[simp] theorem State.setHost_nextSeq (s : State) (h : HostId) (p : HostPort) :
    (s.setHost h p).nextSeq = s.nextSeq := match h with | .a => rfl | .b => rfl
@[simp] theorem State.setHost_reports (s : State) (h : HostId) (p : HostPort) :
    (s.setHost h p).reports = s.reports := match h with | .a => rfl | .b => rfl
@[simp] theorem State.setHost_nextReport (s : State) (h : HostId) (p : HostPort) :
    (s.setHost h p).nextReport = s.nextReport := match h with | .a => rfl | .b => rfl
@[simp] theorem State.setHost_linkRun (s : State) (h : HostId) (p : HostPort) :
    (s.setHost h p).linkRun = s.linkRun := match h with | .a => rfl | .b => rfl
@[simp] theorem State.setHost_linkStage (s : State) (h : HostId) (p : HostPort) :
    (s.setHost h p).linkStage = s.linkStage := match h with | .a => rfl | .b => rfl
@[simp] theorem State.setHost_drovers (s : State) (h : HostId) (p : HostPort) :
    (s.setHost h p).drovers = s.drovers := match h with | .a => rfl | .b => rfl
@[simp] theorem State.setHost_takeover (s : State) (h : HostId) (p : HostPort) :
    (s.setHost h p).takeover = s.takeover := match h with | .a => rfl | .b => rfl
@[simp] theorem State.setHost_power (s : State) (h : HostId) (p : HostPort) :
    (s.setHost h p).power = s.power := match h with | .a => rfl | .b => rfl
@[simp] theorem State.setHost_rrPrev (s : State) (h : HostId) (p : HostPort) :
    (s.setHost h p).rrPrev = s.rrPrev := match h with | .a => rfl | .b => rfl
@[simp] theorem State.setHost_rrCur (s : State) (h : HostId) (p : HostPort) :
    (s.setHost h p).rrCur = s.rrCur := match h with | .a => rfl | .b => rfl
@[simp] theorem State.setHost_jobs (s : State) (h : HostId) (p : HostPort) :
    (s.setHost h p).jobs = s.jobs := match h with | .a => rfl | .b => rfl
@[simp] theorem State.setHost_cores (s : State) (h : HostId) (p : HostPort) :
    (s.setHost h p).cores = s.cores := match h with | .a => rfl | .b => rfl
@[simp] theorem State.setHost_svc (s : State) (h : HostId) (p : HostPort) :
    (s.setHost h p).svc = s.svc := match h with | .a => rfl | .b => rfl
@[simp] theorem State.setHost_chans (s : State) (h : HostId) (p : HostPort) :
    (s.setHost h p).chans = s.chans := match h with | .a => rfl | .b => rfl
@[simp] theorem State.setHost_rrHalf (s : State) (h : HostId) (p : HostPort) :
    (s.setHost h p).rrHalf = s.rrHalf := match h with | .a => rfl | .b => rfl
@[simp] theorem State.setHost_ways (s : State) (h : HostId) (p : HostPort) :
    (s.setHost h p).ways = s.ways := match h with | .a => rfl | .b => rfl
@[simp] theorem State.setHost_ports (s : State) (h : HostId) (p : HostPort) :
    (s.setHost h p).ports = s.ports := match h with | .a => rfl | .b => rfl
@[simp] theorem State.setHost_dom (s : State) (h : HostId) (p : HostPort) :
    (s.setHost h p).dom = s.dom := match h with | .a => rfl | .b => rfl
@[simp] theorem State.setHost_upd (s : State) (h : HostId) (p : HostPort) :
    (s.setHost h p).upd = s.upd := match h with | .a => rfl | .b => rfl
@[simp] theorem State.setHost_doeA (s : State) (h : HostId) (p : HostPort) :
    (s.setHost h p).doeA = s.doeA := match h with | .a => rfl | .b => rfl
@[simp] theorem State.setHost_doeB (s : State) (h : HostId) (p : HostPort) :
    (s.setHost h p).doeB = s.doeB := match h with | .a => rfl | .b => rfl
@[simp] theorem State.setHost_attA (s : State) (h : HostId) (p : HostPort) :
    (s.setHost h p).attA = s.attA := match h with | .a => rfl | .b => rfl
@[simp] theorem State.setHost_attB (s : State) (h : HostId) (p : HostPort) :
    (s.setHost h p).attB = s.attB := match h with | .a => rfl | .b => rfl
@[simp] theorem State.setHost_mctpConn (s : State) (h : HostId) (p : HostPort) :
    (s.setHost h p).mctpConn = s.mctpConn := match h with | .a => rfl | .b => rfl
@[simp] theorem State.setHost_mctp (s : State) (h : HostId) (p : HostPort) :
    (s.setHost h p).mctp = s.mctp := match h with | .a => rfl | .b => rfl
@[simp] theorem State.setHost_dbg (s : State) (h : HostId) (p : HostPort) :
    (s.setHost h p).dbg = s.dbg := match h with | .a => rfl | .b => rfl
@[simp] theorem State.setHost_freeCtr (s : State) (h : HostId) (p : HostPort) :
    (s.setHost h p).freeCtr = s.freeCtr := match h with | .a => rfl | .b => rfl
@[simp] theorem State.setHost_pending (s : State) (h : HostId) (p : HostPort) :
    (s.setHost h p).pending = s.pending := match h with | .a => rfl | .b => rfl

/-! ### setJob -/

@[simp] theorem State.setJob_part (s : State) (j : Nat) (v : Job) : (s.setJob j v).part = s.part := rfl
@[simp] theorem State.setJob_serial (s : State) (j : Nat) (v : Job) : (s.setJob j v).serial = s.serial := rfl
@[simp] theorem State.setJob_stepping (s : State) (j : Nat) (v : Job) : (s.setJob j v).stepping = s.stepping := rfl
@[simp] theorem State.setJob_fuses (s : State) (j : Nat) (v : Job) : (s.setJob j v).fuses = s.fuses := rfl
@[simp] theorem State.setJob_flash (s : State) (j : Nat) (v : Job) : (s.setJob j v).flash = s.flash := rfl
@[simp] theorem State.setJob_pwrok (s : State) (j : Nat) (v : Job) : (s.setJob j v).pwrok = s.pwrok := rfl
@[simp] theorem State.setJob_strapRecovery (s : State) (j : Nat) (v : Job) :
    (s.setJob j v).strapRecovery = s.strapRecovery := rfl
@[simp] theorem State.setJob_strapSpiSlow (s : State) (j : Nat) (v : Job) :
    (s.setJob j v).strapSpiSlow = s.strapSpiSlow := rfl
@[simp] theorem State.setJob_strapSmb (s : State) (j : Nat) (v : Job) : (s.setJob j v).strapSmb = s.strapSmb := rfl
@[simp] theorem State.setJob_phase (s : State) (j : Nat) (v : Job) : (s.setJob j v).phase = s.phase := rfl
@[simp] theorem State.setJob_failCode (s : State) (j : Nat) (v : Job) : (s.setJob j v).failCode = s.failCode := rfl
@[simp] theorem State.setJob_phaseReached (s : State) (j : Nat) (v : Job) :
    (s.setJob j v).phaseReached = s.phaseReached := rfl
@[simp] theorem State.setJob_thermtrip (s : State) (j : Nat) (v : Job) : (s.setJob j v).thermtrip = s.thermtrip := rfl
@[simp] theorem State.setJob_faultN (s : State) (j : Nat) (v : Job) : (s.setJob j v).faultN = s.faultN := rfl
@[simp] theorem State.setJob_faultNEnd (s : State) (j : Nat) (v : Job) : (s.setJob j v).faultNEnd = s.faultNEnd := rfl
@[simp] theorem State.setJob_cfgActive (s : State) (j : Nat) (v : Job) : (s.setJob j v).cfgActive = s.cfgActive := rfl
@[simp] theorem State.setJob_ready (s : State) (j : Nat) (v : Job) : (s.setJob j v).ready = s.ready := rfl
@[simp] theorem State.setJob_fatal (s : State) (j : Nat) (v : Job) : (s.setJob j v).fatal = s.fatal := rfl
@[simp] theorem State.setJob_paused (s : State) (j : Nat) (v : Job) : (s.setJob j v).paused = s.paused := rfl
@[simp] theorem State.setJob_cvrSide (s : State) (j : Nat) (v : Job) : (s.setJob j v).cvrSide = s.cvrSide := rfl
@[simp] theorem State.setJob_cvrIntact (s : State) (j : Nat) (v : Job) : (s.setJob j v).cvrIntact = s.cvrIntact := rfl
@[simp] theorem State.setJob_fallbackNote (s : State) (j : Nat) (v : Job) :
    (s.setJob j v).fallbackNote = s.fallbackNote := rfl
@[simp] theorem State.setJob_settingsNote (s : State) (j : Nat) (v : Job) :
    (s.setJob j v).settingsNote = s.settingsNote := rfl
@[simp] theorem State.setJob_ticking (s : State) (j : Nat) (v : Job) : (s.setJob j v).ticking = s.ticking := rfl
@[simp] theorem State.setJob_stage (s : State) (j : Nat) (v : Job) : (s.setJob j v).stage = s.stage := rfl
@[simp] theorem State.setJob_offset (s : State) (j : Nat) (v : Job) : (s.setJob j v).offset = s.offset := rfl
@[simp] theorem State.setJob_now (s : State) (j : Nat) (v : Job) : (s.setJob j v).now = s.now := rfl
@[simp] theorem State.setJob_period (s : State) (j : Nat) (v : Job) : (s.setJob j v).period = s.period := rfl
@[simp] theorem State.setJob_periodAt (s : State) (j : Nat) (v : Job) : (s.setJob j v).periodAt = s.periodAt := rfl
@[simp] theorem State.setJob_periodWas (s : State) (j : Nat) (v : Job) : (s.setJob j v).periodWas = s.periodWas := rfl
@[simp] theorem State.setJob_periodFrom (s : State) (j : Nat) (v : Job) : (s.setJob j v).periodFrom = s.periodFrom := rfl
@[simp] theorem State.setJob_devCtl (s : State) (j : Nat) (v : Job) : (s.setJob j v).devCtl = s.devCtl := rfl
@[simp] theorem State.setJob_devApply (s : State) (j : Nat) (v : Job) : (s.setJob j v).devApply = s.devApply := rfl
@[simp] theorem State.setJob_devLast (s : State) (j : Nat) (v : Job) : (s.setJob j v).devLast = s.devLast := rfl
@[simp] theorem State.setJob_perrDev (s : State) (j : Nat) (v : Job) : (s.setJob j v).perrDev = s.perrDev := rfl
@[simp] theorem State.setJob_vrb (s : State) (j : Nat) (v : Job) : (s.setJob j v).vrb = s.vrb := rfl
@[simp] theorem State.setJob_blks (s : State) (j : Nat) (v : Job) : (s.setJob j v).blks = s.blks := rfl
@[simp] theorem State.setJob_hostA (s : State) (j : Nat) (v : Job) : (s.setJob j v).hostA = s.hostA := rfl
@[simp] theorem State.setJob_hostB (s : State) (j : Nat) (v : Job) : (s.setJob j v).hostB = s.hostB := rfl
@[simp] theorem State.setJob_turn (s : State) (j : Nat) (v : Job) : (s.setJob j v).turn = s.turn := rfl
@[simp] theorem State.setJob_grantCores (s : State) (j : Nat) (v : Job) : (s.setJob j v).grantCores = s.grantCores := rfl
@[simp] theorem State.setJob_grantStacks (s : State) (j : Nat) (v : Job) : (s.setJob j v).grantStacks = s.grantStacks := rfl
@[simp] theorem State.setJob_grantHalves (s : State) (j : Nat) (v : Job) : (s.setJob j v).grantHalves = s.grantHalves := rfl
@[simp] theorem State.setJob_mem (s : State) (j : Nat) (v : Job) : (s.setJob j v).mem = s.mem := rfl
@[simp] theorem State.setJob_marked (s : State) (j : Nat) (v : Job) : (s.setJob j v).marked = s.marked := rfl
@[simp] theorem State.setJob_pageRecs (s : State) (j : Nat) (v : Job) : (s.setJob j v).pageRecs = s.pageRecs := rfl
@[simp] theorem State.setJob_worn (s : State) (j : Nat) (v : Job) : (s.setJob j v).worn = s.worn := rfl
@[simp] theorem State.setJob_held (s : State) (j : Nat) (v : Job) : (s.setJob j v).held = s.held := rfl
@[simp] theorem State.setJob_events (s : State) (j : Nat) (v : Job) : (s.setJob j v).events = s.events := rfl
@[simp] theorem State.setJob_nextSeq (s : State) (j : Nat) (v : Job) : (s.setJob j v).nextSeq = s.nextSeq := rfl
@[simp] theorem State.setJob_reports (s : State) (j : Nat) (v : Job) : (s.setJob j v).reports = s.reports := rfl
@[simp] theorem State.setJob_nextReport (s : State) (j : Nat) (v : Job) : (s.setJob j v).nextReport = s.nextReport := rfl
@[simp] theorem State.setJob_linkRun (s : State) (j : Nat) (v : Job) : (s.setJob j v).linkRun = s.linkRun := rfl
@[simp] theorem State.setJob_linkStage (s : State) (j : Nat) (v : Job) : (s.setJob j v).linkStage = s.linkStage := rfl
@[simp] theorem State.setJob_drovers (s : State) (j : Nat) (v : Job) : (s.setJob j v).drovers = s.drovers := rfl
@[simp] theorem State.setJob_takeover (s : State) (j : Nat) (v : Job) : (s.setJob j v).takeover = s.takeover := rfl
@[simp] theorem State.setJob_power (s : State) (j : Nat) (v : Job) : (s.setJob j v).power = s.power := rfl
@[simp] theorem State.setJob_rrPrev (s : State) (j : Nat) (v : Job) : (s.setJob j v).rrPrev = s.rrPrev := rfl
@[simp] theorem State.setJob_rrCur (s : State) (j : Nat) (v : Job) : (s.setJob j v).rrCur = s.rrCur := rfl
@[simp] theorem State.setJob_jobs (s : State) (j : Nat) (v : Job) : (s.setJob j v).jobs = mset s.jobs j v := rfl
@[simp] theorem State.setJob_cores (s : State) (j : Nat) (v : Job) : (s.setJob j v).cores = s.cores := rfl
@[simp] theorem State.setJob_svc (s : State) (j : Nat) (v : Job) : (s.setJob j v).svc = s.svc := rfl
@[simp] theorem State.setJob_chans (s : State) (j : Nat) (v : Job) : (s.setJob j v).chans = s.chans := rfl
@[simp] theorem State.setJob_rrHalf (s : State) (j : Nat) (v : Job) : (s.setJob j v).rrHalf = s.rrHalf := rfl
@[simp] theorem State.setJob_ways (s : State) (j : Nat) (v : Job) : (s.setJob j v).ways = s.ways := rfl
@[simp] theorem State.setJob_ports (s : State) (j : Nat) (v : Job) : (s.setJob j v).ports = s.ports := rfl
@[simp] theorem State.setJob_dom (s : State) (j : Nat) (v : Job) : (s.setJob j v).dom = s.dom := rfl
@[simp] theorem State.setJob_upd (s : State) (j : Nat) (v : Job) : (s.setJob j v).upd = s.upd := rfl
@[simp] theorem State.setJob_doeA (s : State) (j : Nat) (v : Job) : (s.setJob j v).doeA = s.doeA := rfl
@[simp] theorem State.setJob_doeB (s : State) (j : Nat) (v : Job) : (s.setJob j v).doeB = s.doeB := rfl
@[simp] theorem State.setJob_attA (s : State) (j : Nat) (v : Job) : (s.setJob j v).attA = s.attA := rfl
@[simp] theorem State.setJob_attB (s : State) (j : Nat) (v : Job) : (s.setJob j v).attB = s.attB := rfl
@[simp] theorem State.setJob_mctpConn (s : State) (j : Nat) (v : Job) : (s.setJob j v).mctpConn = s.mctpConn := rfl
@[simp] theorem State.setJob_mctp (s : State) (j : Nat) (v : Job) : (s.setJob j v).mctp = s.mctp := rfl
@[simp] theorem State.setJob_dbg (s : State) (j : Nat) (v : Job) : (s.setJob j v).dbg = s.dbg := rfl
@[simp] theorem State.setJob_freeCtr (s : State) (j : Nat) (v : Job) : (s.setJob j v).freeCtr = s.freeCtr := rfl
@[simp] theorem State.setJob_pending (s : State) (j : Nat) (v : Job) : (s.setJob j v).pending = s.pending := rfl
@[simp] theorem State.setJob_host (s : State) (j : Nat) (v : Job) (h : HostId) :
    (s.setJob j v).host h = s.host h := match h with | .a => rfl | .b => rfl

/-! ### modJob -/

@[simp] theorem State.modJob_part (s : State) (j : Nat) (g : Job → Job) : (s.modJob j g).part = s.part := rfl
@[simp] theorem State.modJob_serial (s : State) (j : Nat) (g : Job → Job) : (s.modJob j g).serial = s.serial := rfl
@[simp] theorem State.modJob_stepping (s : State) (j : Nat) (g : Job → Job) : (s.modJob j g).stepping = s.stepping := rfl
@[simp] theorem State.modJob_fuses (s : State) (j : Nat) (g : Job → Job) : (s.modJob j g).fuses = s.fuses := rfl
@[simp] theorem State.modJob_flash (s : State) (j : Nat) (g : Job → Job) : (s.modJob j g).flash = s.flash := rfl
@[simp] theorem State.modJob_pwrok (s : State) (j : Nat) (g : Job → Job) : (s.modJob j g).pwrok = s.pwrok := rfl
@[simp] theorem State.modJob_strapRecovery (s : State) (j : Nat) (g : Job → Job) :
    (s.modJob j g).strapRecovery = s.strapRecovery := rfl
@[simp] theorem State.modJob_strapSpiSlow (s : State) (j : Nat) (g : Job → Job) :
    (s.modJob j g).strapSpiSlow = s.strapSpiSlow := rfl
@[simp] theorem State.modJob_strapSmb (s : State) (j : Nat) (g : Job → Job) : (s.modJob j g).strapSmb = s.strapSmb := rfl
@[simp] theorem State.modJob_phase (s : State) (j : Nat) (g : Job → Job) : (s.modJob j g).phase = s.phase := rfl
@[simp] theorem State.modJob_failCode (s : State) (j : Nat) (g : Job → Job) : (s.modJob j g).failCode = s.failCode := rfl
@[simp] theorem State.modJob_phaseReached (s : State) (j : Nat) (g : Job → Job) :
    (s.modJob j g).phaseReached = s.phaseReached := rfl
@[simp] theorem State.modJob_thermtrip (s : State) (j : Nat) (g : Job → Job) : (s.modJob j g).thermtrip = s.thermtrip := rfl
@[simp] theorem State.modJob_faultN (s : State) (j : Nat) (g : Job → Job) : (s.modJob j g).faultN = s.faultN := rfl
@[simp] theorem State.modJob_faultNEnd (s : State) (j : Nat) (g : Job → Job) : (s.modJob j g).faultNEnd = s.faultNEnd := rfl
@[simp] theorem State.modJob_cfgActive (s : State) (j : Nat) (g : Job → Job) : (s.modJob j g).cfgActive = s.cfgActive := rfl
@[simp] theorem State.modJob_ready (s : State) (j : Nat) (g : Job → Job) : (s.modJob j g).ready = s.ready := rfl
@[simp] theorem State.modJob_fatal (s : State) (j : Nat) (g : Job → Job) : (s.modJob j g).fatal = s.fatal := rfl
@[simp] theorem State.modJob_paused (s : State) (j : Nat) (g : Job → Job) : (s.modJob j g).paused = s.paused := rfl
@[simp] theorem State.modJob_cvrSide (s : State) (j : Nat) (g : Job → Job) : (s.modJob j g).cvrSide = s.cvrSide := rfl
@[simp] theorem State.modJob_cvrIntact (s : State) (j : Nat) (g : Job → Job) : (s.modJob j g).cvrIntact = s.cvrIntact := rfl
@[simp] theorem State.modJob_fallbackNote (s : State) (j : Nat) (g : Job → Job) :
    (s.modJob j g).fallbackNote = s.fallbackNote := rfl
@[simp] theorem State.modJob_settingsNote (s : State) (j : Nat) (g : Job → Job) :
    (s.modJob j g).settingsNote = s.settingsNote := rfl
@[simp] theorem State.modJob_ticking (s : State) (j : Nat) (g : Job → Job) : (s.modJob j g).ticking = s.ticking := rfl
@[simp] theorem State.modJob_stage (s : State) (j : Nat) (g : Job → Job) : (s.modJob j g).stage = s.stage := rfl
@[simp] theorem State.modJob_offset (s : State) (j : Nat) (g : Job → Job) : (s.modJob j g).offset = s.offset := rfl
@[simp] theorem State.modJob_now (s : State) (j : Nat) (g : Job → Job) : (s.modJob j g).now = s.now := rfl
@[simp] theorem State.modJob_period (s : State) (j : Nat) (g : Job → Job) : (s.modJob j g).period = s.period := rfl
@[simp] theorem State.modJob_periodAt (s : State) (j : Nat) (g : Job → Job) : (s.modJob j g).periodAt = s.periodAt := rfl
@[simp] theorem State.modJob_periodWas (s : State) (j : Nat) (g : Job → Job) : (s.modJob j g).periodWas = s.periodWas := rfl
@[simp] theorem State.modJob_periodFrom (s : State) (j : Nat) (g : Job → Job) :
    (s.modJob j g).periodFrom = s.periodFrom := rfl
@[simp] theorem State.modJob_devCtl (s : State) (j : Nat) (g : Job → Job) : (s.modJob j g).devCtl = s.devCtl := rfl
@[simp] theorem State.modJob_devApply (s : State) (j : Nat) (g : Job → Job) : (s.modJob j g).devApply = s.devApply := rfl
@[simp] theorem State.modJob_devLast (s : State) (j : Nat) (g : Job → Job) : (s.modJob j g).devLast = s.devLast := rfl
@[simp] theorem State.modJob_perrDev (s : State) (j : Nat) (g : Job → Job) : (s.modJob j g).perrDev = s.perrDev := rfl
@[simp] theorem State.modJob_vrb (s : State) (j : Nat) (g : Job → Job) : (s.modJob j g).vrb = s.vrb := rfl
@[simp] theorem State.modJob_blks (s : State) (j : Nat) (g : Job → Job) : (s.modJob j g).blks = s.blks := rfl
@[simp] theorem State.modJob_hostA (s : State) (j : Nat) (g : Job → Job) : (s.modJob j g).hostA = s.hostA := rfl
@[simp] theorem State.modJob_hostB (s : State) (j : Nat) (g : Job → Job) : (s.modJob j g).hostB = s.hostB := rfl
@[simp] theorem State.modJob_turn (s : State) (j : Nat) (g : Job → Job) : (s.modJob j g).turn = s.turn := rfl
@[simp] theorem State.modJob_grantCores (s : State) (j : Nat) (g : Job → Job) :
    (s.modJob j g).grantCores = s.grantCores := rfl
@[simp] theorem State.modJob_grantStacks (s : State) (j : Nat) (g : Job → Job) :
    (s.modJob j g).grantStacks = s.grantStacks := rfl
@[simp] theorem State.modJob_grantHalves (s : State) (j : Nat) (g : Job → Job) :
    (s.modJob j g).grantHalves = s.grantHalves := rfl
@[simp] theorem State.modJob_mem (s : State) (j : Nat) (g : Job → Job) : (s.modJob j g).mem = s.mem := rfl
@[simp] theorem State.modJob_marked (s : State) (j : Nat) (g : Job → Job) : (s.modJob j g).marked = s.marked := rfl
@[simp] theorem State.modJob_pageRecs (s : State) (j : Nat) (g : Job → Job) : (s.modJob j g).pageRecs = s.pageRecs := rfl
@[simp] theorem State.modJob_worn (s : State) (j : Nat) (g : Job → Job) : (s.modJob j g).worn = s.worn := rfl
@[simp] theorem State.modJob_held (s : State) (j : Nat) (g : Job → Job) : (s.modJob j g).held = s.held := rfl
@[simp] theorem State.modJob_events (s : State) (j : Nat) (g : Job → Job) : (s.modJob j g).events = s.events := rfl
@[simp] theorem State.modJob_nextSeq (s : State) (j : Nat) (g : Job → Job) : (s.modJob j g).nextSeq = s.nextSeq := rfl
@[simp] theorem State.modJob_reports (s : State) (j : Nat) (g : Job → Job) : (s.modJob j g).reports = s.reports := rfl
@[simp] theorem State.modJob_nextReport (s : State) (j : Nat) (g : Job → Job) :
    (s.modJob j g).nextReport = s.nextReport := rfl
@[simp] theorem State.modJob_linkRun (s : State) (j : Nat) (g : Job → Job) : (s.modJob j g).linkRun = s.linkRun := rfl
@[simp] theorem State.modJob_linkStage (s : State) (j : Nat) (g : Job → Job) : (s.modJob j g).linkStage = s.linkStage := rfl
@[simp] theorem State.modJob_drovers (s : State) (j : Nat) (g : Job → Job) : (s.modJob j g).drovers = s.drovers := rfl
@[simp] theorem State.modJob_takeover (s : State) (j : Nat) (g : Job → Job) : (s.modJob j g).takeover = s.takeover := rfl
@[simp] theorem State.modJob_power (s : State) (j : Nat) (g : Job → Job) : (s.modJob j g).power = s.power := rfl
@[simp] theorem State.modJob_rrPrev (s : State) (j : Nat) (g : Job → Job) : (s.modJob j g).rrPrev = s.rrPrev := rfl
@[simp] theorem State.modJob_rrCur (s : State) (j : Nat) (g : Job → Job) : (s.modJob j g).rrCur = s.rrCur := rfl
@[simp] theorem State.modJob_jobs (s : State) (j : Nat) (g : Job → Job) : (s.modJob j g).jobs = mmodify s.jobs j g := rfl
@[simp] theorem State.modJob_cores (s : State) (j : Nat) (g : Job → Job) : (s.modJob j g).cores = s.cores := rfl
@[simp] theorem State.modJob_svc (s : State) (j : Nat) (g : Job → Job) : (s.modJob j g).svc = s.svc := rfl
@[simp] theorem State.modJob_chans (s : State) (j : Nat) (g : Job → Job) : (s.modJob j g).chans = s.chans := rfl
@[simp] theorem State.modJob_rrHalf (s : State) (j : Nat) (g : Job → Job) : (s.modJob j g).rrHalf = s.rrHalf := rfl
@[simp] theorem State.modJob_ways (s : State) (j : Nat) (g : Job → Job) : (s.modJob j g).ways = s.ways := rfl
@[simp] theorem State.modJob_ports (s : State) (j : Nat) (g : Job → Job) : (s.modJob j g).ports = s.ports := rfl
@[simp] theorem State.modJob_dom (s : State) (j : Nat) (g : Job → Job) : (s.modJob j g).dom = s.dom := rfl
@[simp] theorem State.modJob_upd (s : State) (j : Nat) (g : Job → Job) : (s.modJob j g).upd = s.upd := rfl
@[simp] theorem State.modJob_doeA (s : State) (j : Nat) (g : Job → Job) : (s.modJob j g).doeA = s.doeA := rfl
@[simp] theorem State.modJob_doeB (s : State) (j : Nat) (g : Job → Job) : (s.modJob j g).doeB = s.doeB := rfl
@[simp] theorem State.modJob_attA (s : State) (j : Nat) (g : Job → Job) : (s.modJob j g).attA = s.attA := rfl
@[simp] theorem State.modJob_attB (s : State) (j : Nat) (g : Job → Job) : (s.modJob j g).attB = s.attB := rfl
@[simp] theorem State.modJob_mctpConn (s : State) (j : Nat) (g : Job → Job) : (s.modJob j g).mctpConn = s.mctpConn := rfl
@[simp] theorem State.modJob_mctp (s : State) (j : Nat) (g : Job → Job) : (s.modJob j g).mctp = s.mctp := rfl
@[simp] theorem State.modJob_dbg (s : State) (j : Nat) (g : Job → Job) : (s.modJob j g).dbg = s.dbg := rfl
@[simp] theorem State.modJob_freeCtr (s : State) (j : Nat) (g : Job → Job) : (s.modJob j g).freeCtr = s.freeCtr := rfl
@[simp] theorem State.modJob_pending (s : State) (j : Nat) (g : Job → Job) : (s.modJob j g).pending = s.pending := rfl
@[simp] theorem State.modJob_host (s : State) (j : Nat) (g : Job → Job) (h : HostId) :
    (s.modJob j g).host h = s.host h := match h with | .a => rfl | .b => rfl

/-! ### setCore -/

@[simp] theorem State.setCore_part (s : State) (c : Nat) (v : CoreSt) : (s.setCore c v).part = s.part := rfl
@[simp] theorem State.setCore_serial (s : State) (c : Nat) (v : CoreSt) : (s.setCore c v).serial = s.serial := rfl
@[simp] theorem State.setCore_stepping (s : State) (c : Nat) (v : CoreSt) : (s.setCore c v).stepping = s.stepping := rfl
@[simp] theorem State.setCore_fuses (s : State) (c : Nat) (v : CoreSt) : (s.setCore c v).fuses = s.fuses := rfl
@[simp] theorem State.setCore_flash (s : State) (c : Nat) (v : CoreSt) : (s.setCore c v).flash = s.flash := rfl
@[simp] theorem State.setCore_pwrok (s : State) (c : Nat) (v : CoreSt) : (s.setCore c v).pwrok = s.pwrok := rfl
@[simp] theorem State.setCore_strapRecovery (s : State) (c : Nat) (v : CoreSt) :
    (s.setCore c v).strapRecovery = s.strapRecovery := rfl
@[simp] theorem State.setCore_strapSpiSlow (s : State) (c : Nat) (v : CoreSt) :
    (s.setCore c v).strapSpiSlow = s.strapSpiSlow := rfl
@[simp] theorem State.setCore_strapSmb (s : State) (c : Nat) (v : CoreSt) : (s.setCore c v).strapSmb = s.strapSmb := rfl
@[simp] theorem State.setCore_phase (s : State) (c : Nat) (v : CoreSt) : (s.setCore c v).phase = s.phase := rfl
@[simp] theorem State.setCore_failCode (s : State) (c : Nat) (v : CoreSt) : (s.setCore c v).failCode = s.failCode := rfl
@[simp] theorem State.setCore_phaseReached (s : State) (c : Nat) (v : CoreSt) :
    (s.setCore c v).phaseReached = s.phaseReached := rfl
@[simp] theorem State.setCore_thermtrip (s : State) (c : Nat) (v : CoreSt) : (s.setCore c v).thermtrip = s.thermtrip := rfl
@[simp] theorem State.setCore_faultN (s : State) (c : Nat) (v : CoreSt) : (s.setCore c v).faultN = s.faultN := rfl
@[simp] theorem State.setCore_faultNEnd (s : State) (c : Nat) (v : CoreSt) : (s.setCore c v).faultNEnd = s.faultNEnd := rfl
@[simp] theorem State.setCore_cfgActive (s : State) (c : Nat) (v : CoreSt) : (s.setCore c v).cfgActive = s.cfgActive := rfl
@[simp] theorem State.setCore_ready (s : State) (c : Nat) (v : CoreSt) : (s.setCore c v).ready = s.ready := rfl
@[simp] theorem State.setCore_fatal (s : State) (c : Nat) (v : CoreSt) : (s.setCore c v).fatal = s.fatal := rfl
@[simp] theorem State.setCore_paused (s : State) (c : Nat) (v : CoreSt) : (s.setCore c v).paused = s.paused := rfl
@[simp] theorem State.setCore_cvrSide (s : State) (c : Nat) (v : CoreSt) : (s.setCore c v).cvrSide = s.cvrSide := rfl
@[simp] theorem State.setCore_cvrIntact (s : State) (c : Nat) (v : CoreSt) : (s.setCore c v).cvrIntact = s.cvrIntact := rfl
@[simp] theorem State.setCore_fallbackNote (s : State) (c : Nat) (v : CoreSt) :
    (s.setCore c v).fallbackNote = s.fallbackNote := rfl
@[simp] theorem State.setCore_settingsNote (s : State) (c : Nat) (v : CoreSt) :
    (s.setCore c v).settingsNote = s.settingsNote := rfl
@[simp] theorem State.setCore_ticking (s : State) (c : Nat) (v : CoreSt) : (s.setCore c v).ticking = s.ticking := rfl
@[simp] theorem State.setCore_stage (s : State) (c : Nat) (v : CoreSt) : (s.setCore c v).stage = s.stage := rfl
@[simp] theorem State.setCore_offset (s : State) (c : Nat) (v : CoreSt) : (s.setCore c v).offset = s.offset := rfl
@[simp] theorem State.setCore_now (s : State) (c : Nat) (v : CoreSt) : (s.setCore c v).now = s.now := rfl
@[simp] theorem State.setCore_period (s : State) (c : Nat) (v : CoreSt) : (s.setCore c v).period = s.period := rfl
@[simp] theorem State.setCore_periodAt (s : State) (c : Nat) (v : CoreSt) : (s.setCore c v).periodAt = s.periodAt := rfl
@[simp] theorem State.setCore_periodWas (s : State) (c : Nat) (v : CoreSt) : (s.setCore c v).periodWas = s.periodWas := rfl
@[simp] theorem State.setCore_periodFrom (s : State) (c : Nat) (v : CoreSt) :
    (s.setCore c v).periodFrom = s.periodFrom := rfl
@[simp] theorem State.setCore_devCtl (s : State) (c : Nat) (v : CoreSt) : (s.setCore c v).devCtl = s.devCtl := rfl
@[simp] theorem State.setCore_devApply (s : State) (c : Nat) (v : CoreSt) : (s.setCore c v).devApply = s.devApply := rfl
@[simp] theorem State.setCore_devLast (s : State) (c : Nat) (v : CoreSt) : (s.setCore c v).devLast = s.devLast := rfl
@[simp] theorem State.setCore_perrDev (s : State) (c : Nat) (v : CoreSt) : (s.setCore c v).perrDev = s.perrDev := rfl
@[simp] theorem State.setCore_vrb (s : State) (c : Nat) (v : CoreSt) : (s.setCore c v).vrb = s.vrb := rfl
@[simp] theorem State.setCore_blks (s : State) (c : Nat) (v : CoreSt) : (s.setCore c v).blks = s.blks := rfl
@[simp] theorem State.setCore_hostA (s : State) (c : Nat) (v : CoreSt) : (s.setCore c v).hostA = s.hostA := rfl
@[simp] theorem State.setCore_hostB (s : State) (c : Nat) (v : CoreSt) : (s.setCore c v).hostB = s.hostB := rfl
@[simp] theorem State.setCore_turn (s : State) (c : Nat) (v : CoreSt) : (s.setCore c v).turn = s.turn := rfl
@[simp] theorem State.setCore_grantCores (s : State) (c : Nat) (v : CoreSt) :
    (s.setCore c v).grantCores = s.grantCores := rfl
@[simp] theorem State.setCore_grantStacks (s : State) (c : Nat) (v : CoreSt) :
    (s.setCore c v).grantStacks = s.grantStacks := rfl
@[simp] theorem State.setCore_grantHalves (s : State) (c : Nat) (v : CoreSt) :
    (s.setCore c v).grantHalves = s.grantHalves := rfl
@[simp] theorem State.setCore_mem (s : State) (c : Nat) (v : CoreSt) : (s.setCore c v).mem = s.mem := rfl
@[simp] theorem State.setCore_marked (s : State) (c : Nat) (v : CoreSt) : (s.setCore c v).marked = s.marked := rfl
@[simp] theorem State.setCore_pageRecs (s : State) (c : Nat) (v : CoreSt) : (s.setCore c v).pageRecs = s.pageRecs := rfl
@[simp] theorem State.setCore_worn (s : State) (c : Nat) (v : CoreSt) : (s.setCore c v).worn = s.worn := rfl
@[simp] theorem State.setCore_held (s : State) (c : Nat) (v : CoreSt) : (s.setCore c v).held = s.held := rfl
@[simp] theorem State.setCore_events (s : State) (c : Nat) (v : CoreSt) : (s.setCore c v).events = s.events := rfl
@[simp] theorem State.setCore_nextSeq (s : State) (c : Nat) (v : CoreSt) : (s.setCore c v).nextSeq = s.nextSeq := rfl
@[simp] theorem State.setCore_reports (s : State) (c : Nat) (v : CoreSt) : (s.setCore c v).reports = s.reports := rfl
@[simp] theorem State.setCore_nextReport (s : State) (c : Nat) (v : CoreSt) :
    (s.setCore c v).nextReport = s.nextReport := rfl
@[simp] theorem State.setCore_linkRun (s : State) (c : Nat) (v : CoreSt) : (s.setCore c v).linkRun = s.linkRun := rfl
@[simp] theorem State.setCore_linkStage (s : State) (c : Nat) (v : CoreSt) : (s.setCore c v).linkStage = s.linkStage := rfl
@[simp] theorem State.setCore_drovers (s : State) (c : Nat) (v : CoreSt) : (s.setCore c v).drovers = s.drovers := rfl
@[simp] theorem State.setCore_takeover (s : State) (c : Nat) (v : CoreSt) : (s.setCore c v).takeover = s.takeover := rfl
@[simp] theorem State.setCore_power (s : State) (c : Nat) (v : CoreSt) : (s.setCore c v).power = s.power := rfl
@[simp] theorem State.setCore_rrPrev (s : State) (c : Nat) (v : CoreSt) : (s.setCore c v).rrPrev = s.rrPrev := rfl
@[simp] theorem State.setCore_rrCur (s : State) (c : Nat) (v : CoreSt) : (s.setCore c v).rrCur = s.rrCur := rfl
@[simp] theorem State.setCore_jobs (s : State) (c : Nat) (v : CoreSt) : (s.setCore c v).jobs = s.jobs := rfl
@[simp] theorem State.setCore_cores (s : State) (c : Nat) (v : CoreSt) : (s.setCore c v).cores = mset s.cores c v := rfl
@[simp] theorem State.setCore_svc (s : State) (c : Nat) (v : CoreSt) : (s.setCore c v).svc = s.svc := rfl
@[simp] theorem State.setCore_chans (s : State) (c : Nat) (v : CoreSt) : (s.setCore c v).chans = s.chans := rfl
@[simp] theorem State.setCore_rrHalf (s : State) (c : Nat) (v : CoreSt) : (s.setCore c v).rrHalf = s.rrHalf := rfl
@[simp] theorem State.setCore_ways (s : State) (c : Nat) (v : CoreSt) : (s.setCore c v).ways = s.ways := rfl
@[simp] theorem State.setCore_ports (s : State) (c : Nat) (v : CoreSt) : (s.setCore c v).ports = s.ports := rfl
@[simp] theorem State.setCore_dom (s : State) (c : Nat) (v : CoreSt) : (s.setCore c v).dom = s.dom := rfl
@[simp] theorem State.setCore_upd (s : State) (c : Nat) (v : CoreSt) : (s.setCore c v).upd = s.upd := rfl
@[simp] theorem State.setCore_doeA (s : State) (c : Nat) (v : CoreSt) : (s.setCore c v).doeA = s.doeA := rfl
@[simp] theorem State.setCore_doeB (s : State) (c : Nat) (v : CoreSt) : (s.setCore c v).doeB = s.doeB := rfl
@[simp] theorem State.setCore_attA (s : State) (c : Nat) (v : CoreSt) : (s.setCore c v).attA = s.attA := rfl
@[simp] theorem State.setCore_attB (s : State) (c : Nat) (v : CoreSt) : (s.setCore c v).attB = s.attB := rfl
@[simp] theorem State.setCore_mctpConn (s : State) (c : Nat) (v : CoreSt) : (s.setCore c v).mctpConn = s.mctpConn := rfl
@[simp] theorem State.setCore_mctp (s : State) (c : Nat) (v : CoreSt) : (s.setCore c v).mctp = s.mctp := rfl
@[simp] theorem State.setCore_dbg (s : State) (c : Nat) (v : CoreSt) : (s.setCore c v).dbg = s.dbg := rfl
@[simp] theorem State.setCore_freeCtr (s : State) (c : Nat) (v : CoreSt) : (s.setCore c v).freeCtr = s.freeCtr := rfl
@[simp] theorem State.setCore_pending (s : State) (c : Nat) (v : CoreSt) : (s.setCore c v).pending = s.pending := rfl
@[simp] theorem State.setCore_host (s : State) (c : Nat) (v : CoreSt) (h : HostId) :
    (s.setCore c v).host h = s.host h := match h with | .a => rfl | .b => rfl

/-! ### setBlk -/

@[simp] theorem State.setBlk_part (s : State) (i : Nat) (b : Blk) : (s.setBlk i b).part = s.part := rfl
@[simp] theorem State.setBlk_serial (s : State) (i : Nat) (b : Blk) : (s.setBlk i b).serial = s.serial := rfl
@[simp] theorem State.setBlk_stepping (s : State) (i : Nat) (b : Blk) : (s.setBlk i b).stepping = s.stepping := rfl
@[simp] theorem State.setBlk_fuses (s : State) (i : Nat) (b : Blk) : (s.setBlk i b).fuses = s.fuses := rfl
@[simp] theorem State.setBlk_flash (s : State) (i : Nat) (b : Blk) : (s.setBlk i b).flash = s.flash := rfl
@[simp] theorem State.setBlk_pwrok (s : State) (i : Nat) (b : Blk) : (s.setBlk i b).pwrok = s.pwrok := rfl
@[simp] theorem State.setBlk_strapRecovery (s : State) (i : Nat) (b : Blk) :
    (s.setBlk i b).strapRecovery = s.strapRecovery := rfl
@[simp] theorem State.setBlk_strapSpiSlow (s : State) (i : Nat) (b : Blk) :
    (s.setBlk i b).strapSpiSlow = s.strapSpiSlow := rfl
@[simp] theorem State.setBlk_strapSmb (s : State) (i : Nat) (b : Blk) : (s.setBlk i b).strapSmb = s.strapSmb := rfl
@[simp] theorem State.setBlk_phase (s : State) (i : Nat) (b : Blk) : (s.setBlk i b).phase = s.phase := rfl
@[simp] theorem State.setBlk_failCode (s : State) (i : Nat) (b : Blk) : (s.setBlk i b).failCode = s.failCode := rfl
@[simp] theorem State.setBlk_phaseReached (s : State) (i : Nat) (b : Blk) :
    (s.setBlk i b).phaseReached = s.phaseReached := rfl
@[simp] theorem State.setBlk_thermtrip (s : State) (i : Nat) (b : Blk) : (s.setBlk i b).thermtrip = s.thermtrip := rfl
@[simp] theorem State.setBlk_faultN (s : State) (i : Nat) (b : Blk) : (s.setBlk i b).faultN = s.faultN := rfl
@[simp] theorem State.setBlk_faultNEnd (s : State) (i : Nat) (b : Blk) : (s.setBlk i b).faultNEnd = s.faultNEnd := rfl
@[simp] theorem State.setBlk_cfgActive (s : State) (i : Nat) (b : Blk) : (s.setBlk i b).cfgActive = s.cfgActive := rfl
@[simp] theorem State.setBlk_ready (s : State) (i : Nat) (b : Blk) : (s.setBlk i b).ready = s.ready := rfl
@[simp] theorem State.setBlk_fatal (s : State) (i : Nat) (b : Blk) : (s.setBlk i b).fatal = s.fatal := rfl
@[simp] theorem State.setBlk_paused (s : State) (i : Nat) (b : Blk) : (s.setBlk i b).paused = s.paused := rfl
@[simp] theorem State.setBlk_cvrSide (s : State) (i : Nat) (b : Blk) : (s.setBlk i b).cvrSide = s.cvrSide := rfl
@[simp] theorem State.setBlk_cvrIntact (s : State) (i : Nat) (b : Blk) : (s.setBlk i b).cvrIntact = s.cvrIntact := rfl
@[simp] theorem State.setBlk_fallbackNote (s : State) (i : Nat) (b : Blk) :
    (s.setBlk i b).fallbackNote = s.fallbackNote := rfl
@[simp] theorem State.setBlk_settingsNote (s : State) (i : Nat) (b : Blk) :
    (s.setBlk i b).settingsNote = s.settingsNote := rfl
@[simp] theorem State.setBlk_ticking (s : State) (i : Nat) (b : Blk) : (s.setBlk i b).ticking = s.ticking := rfl
@[simp] theorem State.setBlk_stage (s : State) (i : Nat) (b : Blk) : (s.setBlk i b).stage = s.stage := rfl
@[simp] theorem State.setBlk_offset (s : State) (i : Nat) (b : Blk) : (s.setBlk i b).offset = s.offset := rfl
@[simp] theorem State.setBlk_now (s : State) (i : Nat) (b : Blk) : (s.setBlk i b).now = s.now := rfl
@[simp] theorem State.setBlk_period (s : State) (i : Nat) (b : Blk) : (s.setBlk i b).period = s.period := rfl
@[simp] theorem State.setBlk_periodAt (s : State) (i : Nat) (b : Blk) : (s.setBlk i b).periodAt = s.periodAt := rfl
@[simp] theorem State.setBlk_periodWas (s : State) (i : Nat) (b : Blk) : (s.setBlk i b).periodWas = s.periodWas := rfl
@[simp] theorem State.setBlk_periodFrom (s : State) (i : Nat) (b : Blk) : (s.setBlk i b).periodFrom = s.periodFrom := rfl
@[simp] theorem State.setBlk_devCtl (s : State) (i : Nat) (b : Blk) : (s.setBlk i b).devCtl = s.devCtl := rfl
@[simp] theorem State.setBlk_devApply (s : State) (i : Nat) (b : Blk) : (s.setBlk i b).devApply = s.devApply := rfl
@[simp] theorem State.setBlk_devLast (s : State) (i : Nat) (b : Blk) : (s.setBlk i b).devLast = s.devLast := rfl
@[simp] theorem State.setBlk_perrDev (s : State) (i : Nat) (b : Blk) : (s.setBlk i b).perrDev = s.perrDev := rfl
@[simp] theorem State.setBlk_vrb (s : State) (i : Nat) (b : Blk) : (s.setBlk i b).vrb = s.vrb := rfl
@[simp] theorem State.setBlk_blks (s : State) (i : Nat) (b : Blk) : (s.setBlk i b).blks = mset s.blks i b := rfl
@[simp] theorem State.setBlk_hostA (s : State) (i : Nat) (b : Blk) : (s.setBlk i b).hostA = s.hostA := rfl
@[simp] theorem State.setBlk_hostB (s : State) (i : Nat) (b : Blk) : (s.setBlk i b).hostB = s.hostB := rfl
@[simp] theorem State.setBlk_turn (s : State) (i : Nat) (b : Blk) : (s.setBlk i b).turn = s.turn := rfl
@[simp] theorem State.setBlk_grantCores (s : State) (i : Nat) (b : Blk) : (s.setBlk i b).grantCores = s.grantCores := rfl
@[simp] theorem State.setBlk_grantStacks (s : State) (i : Nat) (b : Blk) : (s.setBlk i b).grantStacks = s.grantStacks := rfl
@[simp] theorem State.setBlk_grantHalves (s : State) (i : Nat) (b : Blk) : (s.setBlk i b).grantHalves = s.grantHalves := rfl
@[simp] theorem State.setBlk_mem (s : State) (i : Nat) (b : Blk) : (s.setBlk i b).mem = s.mem := rfl
@[simp] theorem State.setBlk_marked (s : State) (i : Nat) (b : Blk) : (s.setBlk i b).marked = s.marked := rfl
@[simp] theorem State.setBlk_pageRecs (s : State) (i : Nat) (b : Blk) : (s.setBlk i b).pageRecs = s.pageRecs := rfl
@[simp] theorem State.setBlk_worn (s : State) (i : Nat) (b : Blk) : (s.setBlk i b).worn = s.worn := rfl
@[simp] theorem State.setBlk_held (s : State) (i : Nat) (b : Blk) : (s.setBlk i b).held = s.held := rfl
@[simp] theorem State.setBlk_events (s : State) (i : Nat) (b : Blk) : (s.setBlk i b).events = s.events := rfl
@[simp] theorem State.setBlk_nextSeq (s : State) (i : Nat) (b : Blk) : (s.setBlk i b).nextSeq = s.nextSeq := rfl
@[simp] theorem State.setBlk_reports (s : State) (i : Nat) (b : Blk) : (s.setBlk i b).reports = s.reports := rfl
@[simp] theorem State.setBlk_nextReport (s : State) (i : Nat) (b : Blk) : (s.setBlk i b).nextReport = s.nextReport := rfl
@[simp] theorem State.setBlk_linkRun (s : State) (i : Nat) (b : Blk) : (s.setBlk i b).linkRun = s.linkRun := rfl
@[simp] theorem State.setBlk_linkStage (s : State) (i : Nat) (b : Blk) : (s.setBlk i b).linkStage = s.linkStage := rfl
@[simp] theorem State.setBlk_drovers (s : State) (i : Nat) (b : Blk) : (s.setBlk i b).drovers = s.drovers := rfl
@[simp] theorem State.setBlk_takeover (s : State) (i : Nat) (b : Blk) : (s.setBlk i b).takeover = s.takeover := rfl
@[simp] theorem State.setBlk_power (s : State) (i : Nat) (b : Blk) : (s.setBlk i b).power = s.power := rfl
@[simp] theorem State.setBlk_rrPrev (s : State) (i : Nat) (b : Blk) : (s.setBlk i b).rrPrev = s.rrPrev := rfl
@[simp] theorem State.setBlk_rrCur (s : State) (i : Nat) (b : Blk) : (s.setBlk i b).rrCur = s.rrCur := rfl
@[simp] theorem State.setBlk_jobs (s : State) (i : Nat) (b : Blk) : (s.setBlk i b).jobs = s.jobs := rfl
@[simp] theorem State.setBlk_cores (s : State) (i : Nat) (b : Blk) : (s.setBlk i b).cores = s.cores := rfl
@[simp] theorem State.setBlk_svc (s : State) (i : Nat) (b : Blk) : (s.setBlk i b).svc = s.svc := rfl
@[simp] theorem State.setBlk_chans (s : State) (i : Nat) (b : Blk) : (s.setBlk i b).chans = s.chans := rfl
@[simp] theorem State.setBlk_rrHalf (s : State) (i : Nat) (b : Blk) : (s.setBlk i b).rrHalf = s.rrHalf := rfl
@[simp] theorem State.setBlk_ways (s : State) (i : Nat) (b : Blk) : (s.setBlk i b).ways = s.ways := rfl
@[simp] theorem State.setBlk_ports (s : State) (i : Nat) (b : Blk) : (s.setBlk i b).ports = s.ports := rfl
@[simp] theorem State.setBlk_dom (s : State) (i : Nat) (b : Blk) : (s.setBlk i b).dom = s.dom := rfl
@[simp] theorem State.setBlk_upd (s : State) (i : Nat) (b : Blk) : (s.setBlk i b).upd = s.upd := rfl
@[simp] theorem State.setBlk_doeA (s : State) (i : Nat) (b : Blk) : (s.setBlk i b).doeA = s.doeA := rfl
@[simp] theorem State.setBlk_doeB (s : State) (i : Nat) (b : Blk) : (s.setBlk i b).doeB = s.doeB := rfl
@[simp] theorem State.setBlk_attA (s : State) (i : Nat) (b : Blk) : (s.setBlk i b).attA = s.attA := rfl
@[simp] theorem State.setBlk_attB (s : State) (i : Nat) (b : Blk) : (s.setBlk i b).attB = s.attB := rfl
@[simp] theorem State.setBlk_mctpConn (s : State) (i : Nat) (b : Blk) : (s.setBlk i b).mctpConn = s.mctpConn := rfl
@[simp] theorem State.setBlk_mctp (s : State) (i : Nat) (b : Blk) : (s.setBlk i b).mctp = s.mctp := rfl
@[simp] theorem State.setBlk_dbg (s : State) (i : Nat) (b : Blk) : (s.setBlk i b).dbg = s.dbg := rfl
@[simp] theorem State.setBlk_freeCtr (s : State) (i : Nat) (b : Blk) : (s.setBlk i b).freeCtr = s.freeCtr := rfl
@[simp] theorem State.setBlk_pending (s : State) (i : Nat) (b : Blk) : (s.setBlk i b).pending = s.pending := rfl
@[simp] theorem State.setBlk_host (s : State) (i : Nat) (b : Blk) (h : HostId) :
    (s.setBlk i b).host h = s.host h := match h with | .a => rfl | .b => rfl

/-! ### setPort -/

@[simp] theorem State.setPort_part (s : State) (k : Nat) (p : Port) : (s.setPort k p).part = s.part := rfl
@[simp] theorem State.setPort_serial (s : State) (k : Nat) (p : Port) : (s.setPort k p).serial = s.serial := rfl
@[simp] theorem State.setPort_stepping (s : State) (k : Nat) (p : Port) : (s.setPort k p).stepping = s.stepping := rfl
@[simp] theorem State.setPort_fuses (s : State) (k : Nat) (p : Port) : (s.setPort k p).fuses = s.fuses := rfl
@[simp] theorem State.setPort_flash (s : State) (k : Nat) (p : Port) : (s.setPort k p).flash = s.flash := rfl
@[simp] theorem State.setPort_pwrok (s : State) (k : Nat) (p : Port) : (s.setPort k p).pwrok = s.pwrok := rfl
@[simp] theorem State.setPort_strapRecovery (s : State) (k : Nat) (p : Port) :
    (s.setPort k p).strapRecovery = s.strapRecovery := rfl
@[simp] theorem State.setPort_strapSpiSlow (s : State) (k : Nat) (p : Port) :
    (s.setPort k p).strapSpiSlow = s.strapSpiSlow := rfl
@[simp] theorem State.setPort_strapSmb (s : State) (k : Nat) (p : Port) : (s.setPort k p).strapSmb = s.strapSmb := rfl
@[simp] theorem State.setPort_phase (s : State) (k : Nat) (p : Port) : (s.setPort k p).phase = s.phase := rfl
@[simp] theorem State.setPort_failCode (s : State) (k : Nat) (p : Port) : (s.setPort k p).failCode = s.failCode := rfl
@[simp] theorem State.setPort_phaseReached (s : State) (k : Nat) (p : Port) :
    (s.setPort k p).phaseReached = s.phaseReached := rfl
@[simp] theorem State.setPort_thermtrip (s : State) (k : Nat) (p : Port) : (s.setPort k p).thermtrip = s.thermtrip := rfl
@[simp] theorem State.setPort_faultN (s : State) (k : Nat) (p : Port) : (s.setPort k p).faultN = s.faultN := rfl
@[simp] theorem State.setPort_faultNEnd (s : State) (k : Nat) (p : Port) : (s.setPort k p).faultNEnd = s.faultNEnd := rfl
@[simp] theorem State.setPort_cfgActive (s : State) (k : Nat) (p : Port) : (s.setPort k p).cfgActive = s.cfgActive := rfl
@[simp] theorem State.setPort_ready (s : State) (k : Nat) (p : Port) : (s.setPort k p).ready = s.ready := rfl
@[simp] theorem State.setPort_fatal (s : State) (k : Nat) (p : Port) : (s.setPort k p).fatal = s.fatal := rfl
@[simp] theorem State.setPort_paused (s : State) (k : Nat) (p : Port) : (s.setPort k p).paused = s.paused := rfl
@[simp] theorem State.setPort_cvrSide (s : State) (k : Nat) (p : Port) : (s.setPort k p).cvrSide = s.cvrSide := rfl
@[simp] theorem State.setPort_cvrIntact (s : State) (k : Nat) (p : Port) : (s.setPort k p).cvrIntact = s.cvrIntact := rfl
@[simp] theorem State.setPort_fallbackNote (s : State) (k : Nat) (p : Port) :
    (s.setPort k p).fallbackNote = s.fallbackNote := rfl
@[simp] theorem State.setPort_settingsNote (s : State) (k : Nat) (p : Port) :
    (s.setPort k p).settingsNote = s.settingsNote := rfl
@[simp] theorem State.setPort_ticking (s : State) (k : Nat) (p : Port) : (s.setPort k p).ticking = s.ticking := rfl
@[simp] theorem State.setPort_stage (s : State) (k : Nat) (p : Port) : (s.setPort k p).stage = s.stage := rfl
@[simp] theorem State.setPort_offset (s : State) (k : Nat) (p : Port) : (s.setPort k p).offset = s.offset := rfl
@[simp] theorem State.setPort_now (s : State) (k : Nat) (p : Port) : (s.setPort k p).now = s.now := rfl
@[simp] theorem State.setPort_period (s : State) (k : Nat) (p : Port) : (s.setPort k p).period = s.period := rfl
@[simp] theorem State.setPort_periodAt (s : State) (k : Nat) (p : Port) : (s.setPort k p).periodAt = s.periodAt := rfl
@[simp] theorem State.setPort_periodWas (s : State) (k : Nat) (p : Port) : (s.setPort k p).periodWas = s.periodWas := rfl
@[simp] theorem State.setPort_periodFrom (s : State) (k : Nat) (p : Port) : (s.setPort k p).periodFrom = s.periodFrom := rfl
@[simp] theorem State.setPort_devCtl (s : State) (k : Nat) (p : Port) : (s.setPort k p).devCtl = s.devCtl := rfl
@[simp] theorem State.setPort_devApply (s : State) (k : Nat) (p : Port) : (s.setPort k p).devApply = s.devApply := rfl
@[simp] theorem State.setPort_devLast (s : State) (k : Nat) (p : Port) : (s.setPort k p).devLast = s.devLast := rfl
@[simp] theorem State.setPort_perrDev (s : State) (k : Nat) (p : Port) : (s.setPort k p).perrDev = s.perrDev := rfl
@[simp] theorem State.setPort_vrb (s : State) (k : Nat) (p : Port) : (s.setPort k p).vrb = s.vrb := rfl
@[simp] theorem State.setPort_blks (s : State) (k : Nat) (p : Port) : (s.setPort k p).blks = s.blks := rfl
@[simp] theorem State.setPort_hostA (s : State) (k : Nat) (p : Port) : (s.setPort k p).hostA = s.hostA := rfl
@[simp] theorem State.setPort_hostB (s : State) (k : Nat) (p : Port) : (s.setPort k p).hostB = s.hostB := rfl
@[simp] theorem State.setPort_turn (s : State) (k : Nat) (p : Port) : (s.setPort k p).turn = s.turn := rfl
@[simp] theorem State.setPort_grantCores (s : State) (k : Nat) (p : Port) : (s.setPort k p).grantCores = s.grantCores := rfl
@[simp] theorem State.setPort_grantStacks (s : State) (k : Nat) (p : Port) :
    (s.setPort k p).grantStacks = s.grantStacks := rfl
@[simp] theorem State.setPort_grantHalves (s : State) (k : Nat) (p : Port) :
    (s.setPort k p).grantHalves = s.grantHalves := rfl
@[simp] theorem State.setPort_mem (s : State) (k : Nat) (p : Port) : (s.setPort k p).mem = s.mem := rfl
@[simp] theorem State.setPort_marked (s : State) (k : Nat) (p : Port) : (s.setPort k p).marked = s.marked := rfl
@[simp] theorem State.setPort_pageRecs (s : State) (k : Nat) (p : Port) : (s.setPort k p).pageRecs = s.pageRecs := rfl
@[simp] theorem State.setPort_worn (s : State) (k : Nat) (p : Port) : (s.setPort k p).worn = s.worn := rfl
@[simp] theorem State.setPort_held (s : State) (k : Nat) (p : Port) : (s.setPort k p).held = s.held := rfl
@[simp] theorem State.setPort_events (s : State) (k : Nat) (p : Port) : (s.setPort k p).events = s.events := rfl
@[simp] theorem State.setPort_nextSeq (s : State) (k : Nat) (p : Port) : (s.setPort k p).nextSeq = s.nextSeq := rfl
@[simp] theorem State.setPort_reports (s : State) (k : Nat) (p : Port) : (s.setPort k p).reports = s.reports := rfl
@[simp] theorem State.setPort_nextReport (s : State) (k : Nat) (p : Port) : (s.setPort k p).nextReport = s.nextReport := rfl
@[simp] theorem State.setPort_linkRun (s : State) (k : Nat) (p : Port) : (s.setPort k p).linkRun = s.linkRun := rfl
@[simp] theorem State.setPort_linkStage (s : State) (k : Nat) (p : Port) : (s.setPort k p).linkStage = s.linkStage := rfl
@[simp] theorem State.setPort_drovers (s : State) (k : Nat) (p : Port) : (s.setPort k p).drovers = s.drovers := rfl
@[simp] theorem State.setPort_takeover (s : State) (k : Nat) (p : Port) : (s.setPort k p).takeover = s.takeover := rfl
@[simp] theorem State.setPort_power (s : State) (k : Nat) (p : Port) : (s.setPort k p).power = s.power := rfl
@[simp] theorem State.setPort_rrPrev (s : State) (k : Nat) (p : Port) : (s.setPort k p).rrPrev = s.rrPrev := rfl
@[simp] theorem State.setPort_rrCur (s : State) (k : Nat) (p : Port) : (s.setPort k p).rrCur = s.rrCur := rfl
@[simp] theorem State.setPort_jobs (s : State) (k : Nat) (p : Port) : (s.setPort k p).jobs = s.jobs := rfl
@[simp] theorem State.setPort_cores (s : State) (k : Nat) (p : Port) : (s.setPort k p).cores = s.cores := rfl
@[simp] theorem State.setPort_svc (s : State) (k : Nat) (p : Port) : (s.setPort k p).svc = s.svc := rfl
@[simp] theorem State.setPort_chans (s : State) (k : Nat) (p : Port) : (s.setPort k p).chans = s.chans := rfl
@[simp] theorem State.setPort_rrHalf (s : State) (k : Nat) (p : Port) : (s.setPort k p).rrHalf = s.rrHalf := rfl
@[simp] theorem State.setPort_ways (s : State) (k : Nat) (p : Port) : (s.setPort k p).ways = s.ways := rfl
@[simp] theorem State.setPort_ports (s : State) (k : Nat) (p : Port) : (s.setPort k p).ports = mset s.ports k p := rfl
@[simp] theorem State.setPort_dom (s : State) (k : Nat) (p : Port) : (s.setPort k p).dom = s.dom := rfl
@[simp] theorem State.setPort_upd (s : State) (k : Nat) (p : Port) : (s.setPort k p).upd = s.upd := rfl
@[simp] theorem State.setPort_doeA (s : State) (k : Nat) (p : Port) : (s.setPort k p).doeA = s.doeA := rfl
@[simp] theorem State.setPort_doeB (s : State) (k : Nat) (p : Port) : (s.setPort k p).doeB = s.doeB := rfl
@[simp] theorem State.setPort_attA (s : State) (k : Nat) (p : Port) : (s.setPort k p).attA = s.attA := rfl
@[simp] theorem State.setPort_attB (s : State) (k : Nat) (p : Port) : (s.setPort k p).attB = s.attB := rfl
@[simp] theorem State.setPort_mctpConn (s : State) (k : Nat) (p : Port) : (s.setPort k p).mctpConn = s.mctpConn := rfl
@[simp] theorem State.setPort_mctp (s : State) (k : Nat) (p : Port) : (s.setPort k p).mctp = s.mctp := rfl
@[simp] theorem State.setPort_dbg (s : State) (k : Nat) (p : Port) : (s.setPort k p).dbg = s.dbg := rfl
@[simp] theorem State.setPort_freeCtr (s : State) (k : Nat) (p : Port) : (s.setPort k p).freeCtr = s.freeCtr := rfl
@[simp] theorem State.setPort_pending (s : State) (k : Nat) (p : Port) : (s.setPort k p).pending = s.pending := rfl
@[simp] theorem State.setPort_host (s : State) (k : Nat) (p : Port) (h : HostId) :
    (s.setPort k p).host h = s.host h := match h with | .a => rfl | .b => rfl

/-! ### modPort -/

@[simp] theorem State.modPort_part (s : State) (k : Nat) (g : Port → Port) : (s.modPort k g).part = s.part := rfl
@[simp] theorem State.modPort_serial (s : State) (k : Nat) (g : Port → Port) : (s.modPort k g).serial = s.serial := rfl
@[simp] theorem State.modPort_stepping (s : State) (k : Nat) (g : Port → Port) : (s.modPort k g).stepping = s.stepping := rfl
@[simp] theorem State.modPort_fuses (s : State) (k : Nat) (g : Port → Port) : (s.modPort k g).fuses = s.fuses := rfl
@[simp] theorem State.modPort_flash (s : State) (k : Nat) (g : Port → Port) : (s.modPort k g).flash = s.flash := rfl
@[simp] theorem State.modPort_pwrok (s : State) (k : Nat) (g : Port → Port) : (s.modPort k g).pwrok = s.pwrok := rfl
@[simp] theorem State.modPort_strapRecovery (s : State) (k : Nat) (g : Port → Port) :
    (s.modPort k g).strapRecovery = s.strapRecovery := rfl
@[simp] theorem State.modPort_strapSpiSlow (s : State) (k : Nat) (g : Port → Port) :
    (s.modPort k g).strapSpiSlow = s.strapSpiSlow := rfl
@[simp] theorem State.modPort_strapSmb (s : State) (k : Nat) (g : Port → Port) : (s.modPort k g).strapSmb = s.strapSmb := rfl
@[simp] theorem State.modPort_phase (s : State) (k : Nat) (g : Port → Port) : (s.modPort k g).phase = s.phase := rfl
@[simp] theorem State.modPort_failCode (s : State) (k : Nat) (g : Port → Port) : (s.modPort k g).failCode = s.failCode := rfl
@[simp] theorem State.modPort_phaseReached (s : State) (k : Nat) (g : Port → Port) :
    (s.modPort k g).phaseReached = s.phaseReached := rfl
@[simp] theorem State.modPort_thermtrip (s : State) (k : Nat) (g : Port → Port) :
    (s.modPort k g).thermtrip = s.thermtrip := rfl
@[simp] theorem State.modPort_faultN (s : State) (k : Nat) (g : Port → Port) : (s.modPort k g).faultN = s.faultN := rfl
@[simp] theorem State.modPort_faultNEnd (s : State) (k : Nat) (g : Port → Port) :
    (s.modPort k g).faultNEnd = s.faultNEnd := rfl
@[simp] theorem State.modPort_cfgActive (s : State) (k : Nat) (g : Port → Port) :
    (s.modPort k g).cfgActive = s.cfgActive := rfl
@[simp] theorem State.modPort_ready (s : State) (k : Nat) (g : Port → Port) : (s.modPort k g).ready = s.ready := rfl
@[simp] theorem State.modPort_fatal (s : State) (k : Nat) (g : Port → Port) : (s.modPort k g).fatal = s.fatal := rfl
@[simp] theorem State.modPort_paused (s : State) (k : Nat) (g : Port → Port) : (s.modPort k g).paused = s.paused := rfl
@[simp] theorem State.modPort_cvrSide (s : State) (k : Nat) (g : Port → Port) : (s.modPort k g).cvrSide = s.cvrSide := rfl
@[simp] theorem State.modPort_cvrIntact (s : State) (k : Nat) (g : Port → Port) :
    (s.modPort k g).cvrIntact = s.cvrIntact := rfl
@[simp] theorem State.modPort_fallbackNote (s : State) (k : Nat) (g : Port → Port) :
    (s.modPort k g).fallbackNote = s.fallbackNote := rfl
@[simp] theorem State.modPort_settingsNote (s : State) (k : Nat) (g : Port → Port) :
    (s.modPort k g).settingsNote = s.settingsNote := rfl
@[simp] theorem State.modPort_ticking (s : State) (k : Nat) (g : Port → Port) : (s.modPort k g).ticking = s.ticking := rfl
@[simp] theorem State.modPort_stage (s : State) (k : Nat) (g : Port → Port) : (s.modPort k g).stage = s.stage := rfl
@[simp] theorem State.modPort_offset (s : State) (k : Nat) (g : Port → Port) : (s.modPort k g).offset = s.offset := rfl
@[simp] theorem State.modPort_now (s : State) (k : Nat) (g : Port → Port) : (s.modPort k g).now = s.now := rfl
@[simp] theorem State.modPort_period (s : State) (k : Nat) (g : Port → Port) : (s.modPort k g).period = s.period := rfl
@[simp] theorem State.modPort_periodAt (s : State) (k : Nat) (g : Port → Port) : (s.modPort k g).periodAt = s.periodAt := rfl
@[simp] theorem State.modPort_periodWas (s : State) (k : Nat) (g : Port → Port) :
    (s.modPort k g).periodWas = s.periodWas := rfl
@[simp] theorem State.modPort_periodFrom (s : State) (k : Nat) (g : Port → Port) :
    (s.modPort k g).periodFrom = s.periodFrom := rfl
@[simp] theorem State.modPort_devCtl (s : State) (k : Nat) (g : Port → Port) : (s.modPort k g).devCtl = s.devCtl := rfl
@[simp] theorem State.modPort_devApply (s : State) (k : Nat) (g : Port → Port) : (s.modPort k g).devApply = s.devApply := rfl
@[simp] theorem State.modPort_devLast (s : State) (k : Nat) (g : Port → Port) : (s.modPort k g).devLast = s.devLast := rfl
@[simp] theorem State.modPort_perrDev (s : State) (k : Nat) (g : Port → Port) : (s.modPort k g).perrDev = s.perrDev := rfl
@[simp] theorem State.modPort_vrb (s : State) (k : Nat) (g : Port → Port) : (s.modPort k g).vrb = s.vrb := rfl
@[simp] theorem State.modPort_blks (s : State) (k : Nat) (g : Port → Port) : (s.modPort k g).blks = s.blks := rfl
@[simp] theorem State.modPort_hostA (s : State) (k : Nat) (g : Port → Port) : (s.modPort k g).hostA = s.hostA := rfl
@[simp] theorem State.modPort_hostB (s : State) (k : Nat) (g : Port → Port) : (s.modPort k g).hostB = s.hostB := rfl
@[simp] theorem State.modPort_turn (s : State) (k : Nat) (g : Port → Port) : (s.modPort k g).turn = s.turn := rfl
@[simp] theorem State.modPort_grantCores (s : State) (k : Nat) (g : Port → Port) :
    (s.modPort k g).grantCores = s.grantCores := rfl
@[simp] theorem State.modPort_grantStacks (s : State) (k : Nat) (g : Port → Port) :
    (s.modPort k g).grantStacks = s.grantStacks := rfl
@[simp] theorem State.modPort_grantHalves (s : State) (k : Nat) (g : Port → Port) :
    (s.modPort k g).grantHalves = s.grantHalves := rfl
@[simp] theorem State.modPort_mem (s : State) (k : Nat) (g : Port → Port) : (s.modPort k g).mem = s.mem := rfl
@[simp] theorem State.modPort_marked (s : State) (k : Nat) (g : Port → Port) : (s.modPort k g).marked = s.marked := rfl
@[simp] theorem State.modPort_pageRecs (s : State) (k : Nat) (g : Port → Port) : (s.modPort k g).pageRecs = s.pageRecs := rfl
@[simp] theorem State.modPort_worn (s : State) (k : Nat) (g : Port → Port) : (s.modPort k g).worn = s.worn := rfl
@[simp] theorem State.modPort_held (s : State) (k : Nat) (g : Port → Port) : (s.modPort k g).held = s.held := rfl
@[simp] theorem State.modPort_events (s : State) (k : Nat) (g : Port → Port) : (s.modPort k g).events = s.events := rfl
@[simp] theorem State.modPort_nextSeq (s : State) (k : Nat) (g : Port → Port) : (s.modPort k g).nextSeq = s.nextSeq := rfl
@[simp] theorem State.modPort_reports (s : State) (k : Nat) (g : Port → Port) : (s.modPort k g).reports = s.reports := rfl
@[simp] theorem State.modPort_nextReport (s : State) (k : Nat) (g : Port → Port) :
    (s.modPort k g).nextReport = s.nextReport := rfl
@[simp] theorem State.modPort_linkRun (s : State) (k : Nat) (g : Port → Port) : (s.modPort k g).linkRun = s.linkRun := rfl
@[simp] theorem State.modPort_linkStage (s : State) (k : Nat) (g : Port → Port) :
    (s.modPort k g).linkStage = s.linkStage := rfl
@[simp] theorem State.modPort_drovers (s : State) (k : Nat) (g : Port → Port) : (s.modPort k g).drovers = s.drovers := rfl
@[simp] theorem State.modPort_takeover (s : State) (k : Nat) (g : Port → Port) : (s.modPort k g).takeover = s.takeover := rfl
@[simp] theorem State.modPort_power (s : State) (k : Nat) (g : Port → Port) : (s.modPort k g).power = s.power := rfl
@[simp] theorem State.modPort_rrPrev (s : State) (k : Nat) (g : Port → Port) : (s.modPort k g).rrPrev = s.rrPrev := rfl
@[simp] theorem State.modPort_rrCur (s : State) (k : Nat) (g : Port → Port) : (s.modPort k g).rrCur = s.rrCur := rfl
@[simp] theorem State.modPort_jobs (s : State) (k : Nat) (g : Port → Port) : (s.modPort k g).jobs = s.jobs := rfl
@[simp] theorem State.modPort_cores (s : State) (k : Nat) (g : Port → Port) : (s.modPort k g).cores = s.cores := rfl
@[simp] theorem State.modPort_svc (s : State) (k : Nat) (g : Port → Port) : (s.modPort k g).svc = s.svc := rfl
@[simp] theorem State.modPort_chans (s : State) (k : Nat) (g : Port → Port) : (s.modPort k g).chans = s.chans := rfl
@[simp] theorem State.modPort_rrHalf (s : State) (k : Nat) (g : Port → Port) : (s.modPort k g).rrHalf = s.rrHalf := rfl
@[simp] theorem State.modPort_ways (s : State) (k : Nat) (g : Port → Port) : (s.modPort k g).ways = s.ways := rfl
@[simp] theorem State.modPort_ports (s : State) (k : Nat) (g : Port → Port) :
    (s.modPort k g).ports = mmodify s.ports k g := rfl
@[simp] theorem State.modPort_dom (s : State) (k : Nat) (g : Port → Port) : (s.modPort k g).dom = s.dom := rfl
@[simp] theorem State.modPort_upd (s : State) (k : Nat) (g : Port → Port) : (s.modPort k g).upd = s.upd := rfl
@[simp] theorem State.modPort_doeA (s : State) (k : Nat) (g : Port → Port) : (s.modPort k g).doeA = s.doeA := rfl
@[simp] theorem State.modPort_doeB (s : State) (k : Nat) (g : Port → Port) : (s.modPort k g).doeB = s.doeB := rfl
@[simp] theorem State.modPort_attA (s : State) (k : Nat) (g : Port → Port) : (s.modPort k g).attA = s.attA := rfl
@[simp] theorem State.modPort_attB (s : State) (k : Nat) (g : Port → Port) : (s.modPort k g).attB = s.attB := rfl
@[simp] theorem State.modPort_mctpConn (s : State) (k : Nat) (g : Port → Port) : (s.modPort k g).mctpConn = s.mctpConn := rfl
@[simp] theorem State.modPort_mctp (s : State) (k : Nat) (g : Port → Port) : (s.modPort k g).mctp = s.mctp := rfl
@[simp] theorem State.modPort_dbg (s : State) (k : Nat) (g : Port → Port) : (s.modPort k g).dbg = s.dbg := rfl
@[simp] theorem State.modPort_freeCtr (s : State) (k : Nat) (g : Port → Port) : (s.modPort k g).freeCtr = s.freeCtr := rfl
@[simp] theorem State.modPort_pending (s : State) (k : Nat) (g : Port → Port) : (s.modPort k g).pending = s.pending := rfl
@[simp] theorem State.modPort_host (s : State) (k : Nat) (g : Port → Port) (h : HostId) :
    (s.modPort k g).host h = s.host h := match h with | .a => rfl | .b => rfl

/-! ### setChan -/

@[simp] theorem State.setChan_part (s : State) (c : Nat) (v : Chan) : (s.setChan c v).part = s.part := rfl
@[simp] theorem State.setChan_serial (s : State) (c : Nat) (v : Chan) : (s.setChan c v).serial = s.serial := rfl
@[simp] theorem State.setChan_stepping (s : State) (c : Nat) (v : Chan) : (s.setChan c v).stepping = s.stepping := rfl
@[simp] theorem State.setChan_fuses (s : State) (c : Nat) (v : Chan) : (s.setChan c v).fuses = s.fuses := rfl
@[simp] theorem State.setChan_flash (s : State) (c : Nat) (v : Chan) : (s.setChan c v).flash = s.flash := rfl
@[simp] theorem State.setChan_pwrok (s : State) (c : Nat) (v : Chan) : (s.setChan c v).pwrok = s.pwrok := rfl
@[simp] theorem State.setChan_strapRecovery (s : State) (c : Nat) (v : Chan) :
    (s.setChan c v).strapRecovery = s.strapRecovery := rfl
@[simp] theorem State.setChan_strapSpiSlow (s : State) (c : Nat) (v : Chan) :
    (s.setChan c v).strapSpiSlow = s.strapSpiSlow := rfl
@[simp] theorem State.setChan_strapSmb (s : State) (c : Nat) (v : Chan) : (s.setChan c v).strapSmb = s.strapSmb := rfl
@[simp] theorem State.setChan_phase (s : State) (c : Nat) (v : Chan) : (s.setChan c v).phase = s.phase := rfl
@[simp] theorem State.setChan_failCode (s : State) (c : Nat) (v : Chan) : (s.setChan c v).failCode = s.failCode := rfl
@[simp] theorem State.setChan_phaseReached (s : State) (c : Nat) (v : Chan) :
    (s.setChan c v).phaseReached = s.phaseReached := rfl
@[simp] theorem State.setChan_thermtrip (s : State) (c : Nat) (v : Chan) : (s.setChan c v).thermtrip = s.thermtrip := rfl
@[simp] theorem State.setChan_faultN (s : State) (c : Nat) (v : Chan) : (s.setChan c v).faultN = s.faultN := rfl
@[simp] theorem State.setChan_faultNEnd (s : State) (c : Nat) (v : Chan) : (s.setChan c v).faultNEnd = s.faultNEnd := rfl
@[simp] theorem State.setChan_cfgActive (s : State) (c : Nat) (v : Chan) : (s.setChan c v).cfgActive = s.cfgActive := rfl
@[simp] theorem State.setChan_ready (s : State) (c : Nat) (v : Chan) : (s.setChan c v).ready = s.ready := rfl
@[simp] theorem State.setChan_fatal (s : State) (c : Nat) (v : Chan) : (s.setChan c v).fatal = s.fatal := rfl
@[simp] theorem State.setChan_paused (s : State) (c : Nat) (v : Chan) : (s.setChan c v).paused = s.paused := rfl
@[simp] theorem State.setChan_cvrSide (s : State) (c : Nat) (v : Chan) : (s.setChan c v).cvrSide = s.cvrSide := rfl
@[simp] theorem State.setChan_cvrIntact (s : State) (c : Nat) (v : Chan) : (s.setChan c v).cvrIntact = s.cvrIntact := rfl
@[simp] theorem State.setChan_fallbackNote (s : State) (c : Nat) (v : Chan) :
    (s.setChan c v).fallbackNote = s.fallbackNote := rfl
@[simp] theorem State.setChan_settingsNote (s : State) (c : Nat) (v : Chan) :
    (s.setChan c v).settingsNote = s.settingsNote := rfl
@[simp] theorem State.setChan_ticking (s : State) (c : Nat) (v : Chan) : (s.setChan c v).ticking = s.ticking := rfl
@[simp] theorem State.setChan_stage (s : State) (c : Nat) (v : Chan) : (s.setChan c v).stage = s.stage := rfl
@[simp] theorem State.setChan_offset (s : State) (c : Nat) (v : Chan) : (s.setChan c v).offset = s.offset := rfl
@[simp] theorem State.setChan_now (s : State) (c : Nat) (v : Chan) : (s.setChan c v).now = s.now := rfl
@[simp] theorem State.setChan_period (s : State) (c : Nat) (v : Chan) : (s.setChan c v).period = s.period := rfl
@[simp] theorem State.setChan_periodAt (s : State) (c : Nat) (v : Chan) : (s.setChan c v).periodAt = s.periodAt := rfl
@[simp] theorem State.setChan_periodWas (s : State) (c : Nat) (v : Chan) : (s.setChan c v).periodWas = s.periodWas := rfl
@[simp] theorem State.setChan_periodFrom (s : State) (c : Nat) (v : Chan) : (s.setChan c v).periodFrom = s.periodFrom := rfl
@[simp] theorem State.setChan_devCtl (s : State) (c : Nat) (v : Chan) : (s.setChan c v).devCtl = s.devCtl := rfl
@[simp] theorem State.setChan_devApply (s : State) (c : Nat) (v : Chan) : (s.setChan c v).devApply = s.devApply := rfl
@[simp] theorem State.setChan_devLast (s : State) (c : Nat) (v : Chan) : (s.setChan c v).devLast = s.devLast := rfl
@[simp] theorem State.setChan_perrDev (s : State) (c : Nat) (v : Chan) : (s.setChan c v).perrDev = s.perrDev := rfl
@[simp] theorem State.setChan_vrb (s : State) (c : Nat) (v : Chan) : (s.setChan c v).vrb = s.vrb := rfl
@[simp] theorem State.setChan_blks (s : State) (c : Nat) (v : Chan) : (s.setChan c v).blks = s.blks := rfl
@[simp] theorem State.setChan_hostA (s : State) (c : Nat) (v : Chan) : (s.setChan c v).hostA = s.hostA := rfl
@[simp] theorem State.setChan_hostB (s : State) (c : Nat) (v : Chan) : (s.setChan c v).hostB = s.hostB := rfl
@[simp] theorem State.setChan_turn (s : State) (c : Nat) (v : Chan) : (s.setChan c v).turn = s.turn := rfl
@[simp] theorem State.setChan_grantCores (s : State) (c : Nat) (v : Chan) : (s.setChan c v).grantCores = s.grantCores := rfl
@[simp] theorem State.setChan_grantStacks (s : State) (c : Nat) (v : Chan) :
    (s.setChan c v).grantStacks = s.grantStacks := rfl
@[simp] theorem State.setChan_grantHalves (s : State) (c : Nat) (v : Chan) :
    (s.setChan c v).grantHalves = s.grantHalves := rfl
@[simp] theorem State.setChan_mem (s : State) (c : Nat) (v : Chan) : (s.setChan c v).mem = s.mem := rfl
@[simp] theorem State.setChan_marked (s : State) (c : Nat) (v : Chan) : (s.setChan c v).marked = s.marked := rfl
@[simp] theorem State.setChan_pageRecs (s : State) (c : Nat) (v : Chan) : (s.setChan c v).pageRecs = s.pageRecs := rfl
@[simp] theorem State.setChan_worn (s : State) (c : Nat) (v : Chan) : (s.setChan c v).worn = s.worn := rfl
@[simp] theorem State.setChan_held (s : State) (c : Nat) (v : Chan) : (s.setChan c v).held = s.held := rfl
@[simp] theorem State.setChan_events (s : State) (c : Nat) (v : Chan) : (s.setChan c v).events = s.events := rfl
@[simp] theorem State.setChan_nextSeq (s : State) (c : Nat) (v : Chan) : (s.setChan c v).nextSeq = s.nextSeq := rfl
@[simp] theorem State.setChan_reports (s : State) (c : Nat) (v : Chan) : (s.setChan c v).reports = s.reports := rfl
@[simp] theorem State.setChan_nextReport (s : State) (c : Nat) (v : Chan) : (s.setChan c v).nextReport = s.nextReport := rfl
@[simp] theorem State.setChan_linkRun (s : State) (c : Nat) (v : Chan) : (s.setChan c v).linkRun = s.linkRun := rfl
@[simp] theorem State.setChan_linkStage (s : State) (c : Nat) (v : Chan) : (s.setChan c v).linkStage = s.linkStage := rfl
@[simp] theorem State.setChan_drovers (s : State) (c : Nat) (v : Chan) : (s.setChan c v).drovers = s.drovers := rfl
@[simp] theorem State.setChan_takeover (s : State) (c : Nat) (v : Chan) : (s.setChan c v).takeover = s.takeover := rfl
@[simp] theorem State.setChan_power (s : State) (c : Nat) (v : Chan) : (s.setChan c v).power = s.power := rfl
@[simp] theorem State.setChan_rrPrev (s : State) (c : Nat) (v : Chan) : (s.setChan c v).rrPrev = s.rrPrev := rfl
@[simp] theorem State.setChan_rrCur (s : State) (c : Nat) (v : Chan) : (s.setChan c v).rrCur = s.rrCur := rfl
@[simp] theorem State.setChan_jobs (s : State) (c : Nat) (v : Chan) : (s.setChan c v).jobs = s.jobs := rfl
@[simp] theorem State.setChan_cores (s : State) (c : Nat) (v : Chan) : (s.setChan c v).cores = s.cores := rfl
@[simp] theorem State.setChan_svc (s : State) (c : Nat) (v : Chan) : (s.setChan c v).svc = s.svc := rfl
@[simp] theorem State.setChan_chans (s : State) (c : Nat) (v : Chan) : (s.setChan c v).chans = mset s.chans c v := rfl
@[simp] theorem State.setChan_rrHalf (s : State) (c : Nat) (v : Chan) : (s.setChan c v).rrHalf = s.rrHalf := rfl
@[simp] theorem State.setChan_ways (s : State) (c : Nat) (v : Chan) : (s.setChan c v).ways = s.ways := rfl
@[simp] theorem State.setChan_ports (s : State) (c : Nat) (v : Chan) : (s.setChan c v).ports = s.ports := rfl
@[simp] theorem State.setChan_dom (s : State) (c : Nat) (v : Chan) : (s.setChan c v).dom = s.dom := rfl
@[simp] theorem State.setChan_upd (s : State) (c : Nat) (v : Chan) : (s.setChan c v).upd = s.upd := rfl
@[simp] theorem State.setChan_doeA (s : State) (c : Nat) (v : Chan) : (s.setChan c v).doeA = s.doeA := rfl
@[simp] theorem State.setChan_doeB (s : State) (c : Nat) (v : Chan) : (s.setChan c v).doeB = s.doeB := rfl
@[simp] theorem State.setChan_attA (s : State) (c : Nat) (v : Chan) : (s.setChan c v).attA = s.attA := rfl
@[simp] theorem State.setChan_attB (s : State) (c : Nat) (v : Chan) : (s.setChan c v).attB = s.attB := rfl
@[simp] theorem State.setChan_mctpConn (s : State) (c : Nat) (v : Chan) : (s.setChan c v).mctpConn = s.mctpConn := rfl
@[simp] theorem State.setChan_mctp (s : State) (c : Nat) (v : Chan) : (s.setChan c v).mctp = s.mctp := rfl
@[simp] theorem State.setChan_dbg (s : State) (c : Nat) (v : Chan) : (s.setChan c v).dbg = s.dbg := rfl
@[simp] theorem State.setChan_freeCtr (s : State) (c : Nat) (v : Chan) : (s.setChan c v).freeCtr = s.freeCtr := rfl
@[simp] theorem State.setChan_pending (s : State) (c : Nat) (v : Chan) : (s.setChan c v).pending = s.pending := rfl
@[simp] theorem State.setChan_host (s : State) (c : Nat) (v : Chan) (h : HostId) :
    (s.setChan c v).host h = s.host h := match h with | .a => rfl | .b => rfl

/-! ### store -/

@[simp] theorem State.store_part (s : State) (a : Nat) (d : List Byte) : (s.store a d).part = s.part := rfl
@[simp] theorem State.store_serial (s : State) (a : Nat) (d : List Byte) : (s.store a d).serial = s.serial := rfl
@[simp] theorem State.store_stepping (s : State) (a : Nat) (d : List Byte) : (s.store a d).stepping = s.stepping := rfl
@[simp] theorem State.store_fuses (s : State) (a : Nat) (d : List Byte) : (s.store a d).fuses = s.fuses := rfl
@[simp] theorem State.store_flash (s : State) (a : Nat) (d : List Byte) : (s.store a d).flash = s.flash := rfl
@[simp] theorem State.store_pwrok (s : State) (a : Nat) (d : List Byte) : (s.store a d).pwrok = s.pwrok := rfl
@[simp] theorem State.store_strapRecovery (s : State) (a : Nat) (d : List Byte) :
    (s.store a d).strapRecovery = s.strapRecovery := rfl
@[simp] theorem State.store_strapSpiSlow (s : State) (a : Nat) (d : List Byte) :
    (s.store a d).strapSpiSlow = s.strapSpiSlow := rfl
@[simp] theorem State.store_strapSmb (s : State) (a : Nat) (d : List Byte) : (s.store a d).strapSmb = s.strapSmb := rfl
@[simp] theorem State.store_phase (s : State) (a : Nat) (d : List Byte) : (s.store a d).phase = s.phase := rfl
@[simp] theorem State.store_failCode (s : State) (a : Nat) (d : List Byte) : (s.store a d).failCode = s.failCode := rfl
@[simp] theorem State.store_phaseReached (s : State) (a : Nat) (d : List Byte) :
    (s.store a d).phaseReached = s.phaseReached := rfl
@[simp] theorem State.store_thermtrip (s : State) (a : Nat) (d : List Byte) : (s.store a d).thermtrip = s.thermtrip := rfl
@[simp] theorem State.store_faultN (s : State) (a : Nat) (d : List Byte) : (s.store a d).faultN = s.faultN := rfl
@[simp] theorem State.store_faultNEnd (s : State) (a : Nat) (d : List Byte) : (s.store a d).faultNEnd = s.faultNEnd := rfl
@[simp] theorem State.store_cfgActive (s : State) (a : Nat) (d : List Byte) : (s.store a d).cfgActive = s.cfgActive := rfl
@[simp] theorem State.store_ready (s : State) (a : Nat) (d : List Byte) : (s.store a d).ready = s.ready := rfl
@[simp] theorem State.store_fatal (s : State) (a : Nat) (d : List Byte) : (s.store a d).fatal = s.fatal := rfl
@[simp] theorem State.store_paused (s : State) (a : Nat) (d : List Byte) : (s.store a d).paused = s.paused := rfl
@[simp] theorem State.store_cvrSide (s : State) (a : Nat) (d : List Byte) : (s.store a d).cvrSide = s.cvrSide := rfl
@[simp] theorem State.store_cvrIntact (s : State) (a : Nat) (d : List Byte) : (s.store a d).cvrIntact = s.cvrIntact := rfl
@[simp] theorem State.store_fallbackNote (s : State) (a : Nat) (d : List Byte) :
    (s.store a d).fallbackNote = s.fallbackNote := rfl
@[simp] theorem State.store_settingsNote (s : State) (a : Nat) (d : List Byte) :
    (s.store a d).settingsNote = s.settingsNote := rfl
@[simp] theorem State.store_ticking (s : State) (a : Nat) (d : List Byte) : (s.store a d).ticking = s.ticking := rfl
@[simp] theorem State.store_stage (s : State) (a : Nat) (d : List Byte) : (s.store a d).stage = s.stage := rfl
@[simp] theorem State.store_offset (s : State) (a : Nat) (d : List Byte) : (s.store a d).offset = s.offset := rfl
@[simp] theorem State.store_now (s : State) (a : Nat) (d : List Byte) : (s.store a d).now = s.now := rfl
@[simp] theorem State.store_period (s : State) (a : Nat) (d : List Byte) : (s.store a d).period = s.period := rfl
@[simp] theorem State.store_periodAt (s : State) (a : Nat) (d : List Byte) : (s.store a d).periodAt = s.periodAt := rfl
@[simp] theorem State.store_periodWas (s : State) (a : Nat) (d : List Byte) : (s.store a d).periodWas = s.periodWas := rfl
@[simp] theorem State.store_periodFrom (s : State) (a : Nat) (d : List Byte) : (s.store a d).periodFrom = s.periodFrom := rfl
@[simp] theorem State.store_devCtl (s : State) (a : Nat) (d : List Byte) : (s.store a d).devCtl = s.devCtl := rfl
@[simp] theorem State.store_devApply (s : State) (a : Nat) (d : List Byte) : (s.store a d).devApply = s.devApply := rfl
@[simp] theorem State.store_devLast (s : State) (a : Nat) (d : List Byte) : (s.store a d).devLast = s.devLast := rfl
@[simp] theorem State.store_perrDev (s : State) (a : Nat) (d : List Byte) : (s.store a d).perrDev = s.perrDev := rfl
@[simp] theorem State.store_vrb (s : State) (a : Nat) (d : List Byte) : (s.store a d).vrb = s.vrb := rfl
@[simp] theorem State.store_blks (s : State) (a : Nat) (d : List Byte) : (s.store a d).blks = s.blks := rfl
@[simp] theorem State.store_hostA (s : State) (a : Nat) (d : List Byte) : (s.store a d).hostA = s.hostA := rfl
@[simp] theorem State.store_hostB (s : State) (a : Nat) (d : List Byte) : (s.store a d).hostB = s.hostB := rfl
@[simp] theorem State.store_turn (s : State) (a : Nat) (d : List Byte) : (s.store a d).turn = s.turn := rfl
@[simp] theorem State.store_grantCores (s : State) (a : Nat) (d : List Byte) : (s.store a d).grantCores = s.grantCores := rfl
@[simp] theorem State.store_grantStacks (s : State) (a : Nat) (d : List Byte) :
    (s.store a d).grantStacks = s.grantStacks := rfl
@[simp] theorem State.store_grantHalves (s : State) (a : Nat) (d : List Byte) :
    (s.store a d).grantHalves = s.grantHalves := rfl
@[simp] theorem State.store_mem (s : State) (a : Nat) (d : List Byte) : (s.store a d).mem = memPuts s.mem a d := rfl
theorem State.store_marked (s : State) (a : Nat) (d : List Byte) :
    (s.store a d).marked = s.marked.filter (fun l => !decide (a ≤ l ∧ l + 64 ≤ a + d.length)) := rfl
@[simp] theorem State.store_pageRecs (s : State) (a : Nat) (d : List Byte) : (s.store a d).pageRecs = s.pageRecs := rfl
@[simp] theorem State.store_worn (s : State) (a : Nat) (d : List Byte) : (s.store a d).worn = s.worn := rfl
@[simp] theorem State.store_held (s : State) (a : Nat) (d : List Byte) : (s.store a d).held = s.held := rfl
@[simp] theorem State.store_events (s : State) (a : Nat) (d : List Byte) : (s.store a d).events = s.events := rfl
@[simp] theorem State.store_nextSeq (s : State) (a : Nat) (d : List Byte) : (s.store a d).nextSeq = s.nextSeq := rfl
@[simp] theorem State.store_reports (s : State) (a : Nat) (d : List Byte) : (s.store a d).reports = s.reports := rfl
@[simp] theorem State.store_nextReport (s : State) (a : Nat) (d : List Byte) : (s.store a d).nextReport = s.nextReport := rfl
@[simp] theorem State.store_linkRun (s : State) (a : Nat) (d : List Byte) : (s.store a d).linkRun = s.linkRun := rfl
@[simp] theorem State.store_linkStage (s : State) (a : Nat) (d : List Byte) : (s.store a d).linkStage = s.linkStage := rfl
@[simp] theorem State.store_drovers (s : State) (a : Nat) (d : List Byte) : (s.store a d).drovers = s.drovers := rfl
@[simp] theorem State.store_takeover (s : State) (a : Nat) (d : List Byte) : (s.store a d).takeover = s.takeover := rfl
@[simp] theorem State.store_power (s : State) (a : Nat) (d : List Byte) : (s.store a d).power = s.power := rfl
@[simp] theorem State.store_rrPrev (s : State) (a : Nat) (d : List Byte) : (s.store a d).rrPrev = s.rrPrev := rfl
@[simp] theorem State.store_rrCur (s : State) (a : Nat) (d : List Byte) : (s.store a d).rrCur = s.rrCur := rfl
@[simp] theorem State.store_jobs (s : State) (a : Nat) (d : List Byte) : (s.store a d).jobs = s.jobs := rfl
@[simp] theorem State.store_cores (s : State) (a : Nat) (d : List Byte) : (s.store a d).cores = s.cores := rfl
@[simp] theorem State.store_svc (s : State) (a : Nat) (d : List Byte) : (s.store a d).svc = s.svc := rfl
@[simp] theorem State.store_chans (s : State) (a : Nat) (d : List Byte) : (s.store a d).chans = s.chans := rfl
@[simp] theorem State.store_rrHalf (s : State) (a : Nat) (d : List Byte) : (s.store a d).rrHalf = s.rrHalf := rfl
@[simp] theorem State.store_ways (s : State) (a : Nat) (d : List Byte) : (s.store a d).ways = s.ways := rfl
@[simp] theorem State.store_ports (s : State) (a : Nat) (d : List Byte) : (s.store a d).ports = s.ports := rfl
@[simp] theorem State.store_dom (s : State) (a : Nat) (d : List Byte) : (s.store a d).dom = s.dom := rfl
@[simp] theorem State.store_upd (s : State) (a : Nat) (d : List Byte) : (s.store a d).upd = s.upd := rfl
@[simp] theorem State.store_doeA (s : State) (a : Nat) (d : List Byte) : (s.store a d).doeA = s.doeA := rfl
@[simp] theorem State.store_doeB (s : State) (a : Nat) (d : List Byte) : (s.store a d).doeB = s.doeB := rfl
@[simp] theorem State.store_attA (s : State) (a : Nat) (d : List Byte) : (s.store a d).attA = s.attA := rfl
@[simp] theorem State.store_attB (s : State) (a : Nat) (d : List Byte) : (s.store a d).attB = s.attB := rfl
@[simp] theorem State.store_mctpConn (s : State) (a : Nat) (d : List Byte) : (s.store a d).mctpConn = s.mctpConn := rfl
@[simp] theorem State.store_mctp (s : State) (a : Nat) (d : List Byte) : (s.store a d).mctp = s.mctp := rfl
@[simp] theorem State.store_dbg (s : State) (a : Nat) (d : List Byte) : (s.store a d).dbg = s.dbg := rfl
@[simp] theorem State.store_freeCtr (s : State) (a : Nat) (d : List Byte) : (s.store a d).freeCtr = s.freeCtr := rfl
@[simp] theorem State.store_pending (s : State) (a : Nat) (d : List Byte) : (s.store a d).pending = s.pending := rfl
@[simp] theorem State.store_host (s : State) (a : Nat) (d : List Byte) (h : HostId) :
    (s.store a d).host h = s.host h := match h with | .a => rfl | .b => rfl

/-! ### Taking and accepting a command -/

@[simp] theorem State.take_part (s : State) (h : HostId) (op : Nat) (c : CmdRec) :
    (s.take h op c).part = s.part := State.setHost_part s h _
@[simp] theorem State.take_serial (s : State) (h : HostId) (op : Nat) (c : CmdRec) :
    (s.take h op c).serial = s.serial := State.setHost_serial s h _
@[simp] theorem State.take_stepping (s : State) (h : HostId) (op : Nat) (c : CmdRec) :
    (s.take h op c).stepping = s.stepping := State.setHost_stepping s h _
@[simp] theorem State.take_fuses (s : State) (h : HostId) (op : Nat) (c : CmdRec) :
    (s.take h op c).fuses = s.fuses := State.setHost_fuses s h _
@[simp] theorem State.take_flash (s : State) (h : HostId) (op : Nat) (c : CmdRec) :
    (s.take h op c).flash = s.flash := State.setHost_flash s h _
@[simp] theorem State.take_pwrok (s : State) (h : HostId) (op : Nat) (c : CmdRec) :
    (s.take h op c).pwrok = s.pwrok := State.setHost_pwrok s h _
@[simp] theorem State.take_strapRecovery (s : State) (h : HostId) (op : Nat) (c : CmdRec) :
    (s.take h op c).strapRecovery = s.strapRecovery := State.setHost_strapRecovery s h _
@[simp] theorem State.take_strapSpiSlow (s : State) (h : HostId) (op : Nat) (c : CmdRec) :
    (s.take h op c).strapSpiSlow = s.strapSpiSlow := State.setHost_strapSpiSlow s h _
@[simp] theorem State.take_strapSmb (s : State) (h : HostId) (op : Nat) (c : CmdRec) :
    (s.take h op c).strapSmb = s.strapSmb := State.setHost_strapSmb s h _
@[simp] theorem State.take_phase (s : State) (h : HostId) (op : Nat) (c : CmdRec) :
    (s.take h op c).phase = s.phase := State.setHost_phase s h _
@[simp] theorem State.take_failCode (s : State) (h : HostId) (op : Nat) (c : CmdRec) :
    (s.take h op c).failCode = s.failCode := State.setHost_failCode s h _
@[simp] theorem State.take_phaseReached (s : State) (h : HostId) (op : Nat) (c : CmdRec) :
    (s.take h op c).phaseReached = s.phaseReached := State.setHost_phaseReached s h _
@[simp] theorem State.take_thermtrip (s : State) (h : HostId) (op : Nat) (c : CmdRec) :
    (s.take h op c).thermtrip = s.thermtrip := State.setHost_thermtrip s h _
@[simp] theorem State.take_faultN (s : State) (h : HostId) (op : Nat) (c : CmdRec) :
    (s.take h op c).faultN = s.faultN := State.setHost_faultN s h _
@[simp] theorem State.take_faultNEnd (s : State) (h : HostId) (op : Nat) (c : CmdRec) :
    (s.take h op c).faultNEnd = s.faultNEnd := State.setHost_faultNEnd s h _
@[simp] theorem State.take_cfgActive (s : State) (h : HostId) (op : Nat) (c : CmdRec) :
    (s.take h op c).cfgActive = s.cfgActive := State.setHost_cfgActive s h _
@[simp] theorem State.take_ready (s : State) (h : HostId) (op : Nat) (c : CmdRec) :
    (s.take h op c).ready = s.ready := State.setHost_ready s h _
@[simp] theorem State.take_fatal (s : State) (h : HostId) (op : Nat) (c : CmdRec) :
    (s.take h op c).fatal = s.fatal := State.setHost_fatal s h _
@[simp] theorem State.take_paused (s : State) (h : HostId) (op : Nat) (c : CmdRec) :
    (s.take h op c).paused = s.paused := State.setHost_paused s h _
@[simp] theorem State.take_cvrSide (s : State) (h : HostId) (op : Nat) (c : CmdRec) :
    (s.take h op c).cvrSide = s.cvrSide := State.setHost_cvrSide s h _
@[simp] theorem State.take_cvrIntact (s : State) (h : HostId) (op : Nat) (c : CmdRec) :
    (s.take h op c).cvrIntact = s.cvrIntact := State.setHost_cvrIntact s h _
@[simp] theorem State.take_fallbackNote (s : State) (h : HostId) (op : Nat) (c : CmdRec) :
    (s.take h op c).fallbackNote = s.fallbackNote := State.setHost_fallbackNote s h _
@[simp] theorem State.take_settingsNote (s : State) (h : HostId) (op : Nat) (c : CmdRec) :
    (s.take h op c).settingsNote = s.settingsNote := State.setHost_settingsNote s h _
@[simp] theorem State.take_ticking (s : State) (h : HostId) (op : Nat) (c : CmdRec) :
    (s.take h op c).ticking = s.ticking := State.setHost_ticking s h _
@[simp] theorem State.take_stage (s : State) (h : HostId) (op : Nat) (c : CmdRec) :
    (s.take h op c).stage = s.stage := State.setHost_stage s h _
@[simp] theorem State.take_offset (s : State) (h : HostId) (op : Nat) (c : CmdRec) :
    (s.take h op c).offset = s.offset := State.setHost_offset s h _
@[simp] theorem State.take_now (s : State) (h : HostId) (op : Nat) (c : CmdRec) :
    (s.take h op c).now = s.now := State.setHost_now s h _
@[simp] theorem State.take_period (s : State) (h : HostId) (op : Nat) (c : CmdRec) :
    (s.take h op c).period = s.period := State.setHost_period s h _
@[simp] theorem State.take_periodAt (s : State) (h : HostId) (op : Nat) (c : CmdRec) :
    (s.take h op c).periodAt = s.periodAt := State.setHost_periodAt s h _
@[simp] theorem State.take_periodWas (s : State) (h : HostId) (op : Nat) (c : CmdRec) :
    (s.take h op c).periodWas = s.periodWas := State.setHost_periodWas s h _
@[simp] theorem State.take_periodFrom (s : State) (h : HostId) (op : Nat) (c : CmdRec) :
    (s.take h op c).periodFrom = s.periodFrom := State.setHost_periodFrom s h _
@[simp] theorem State.take_devCtl (s : State) (h : HostId) (op : Nat) (c : CmdRec) :
    (s.take h op c).devCtl = s.devCtl := State.setHost_devCtl s h _
@[simp] theorem State.take_devApply (s : State) (h : HostId) (op : Nat) (c : CmdRec) :
    (s.take h op c).devApply = s.devApply := State.setHost_devApply s h _
@[simp] theorem State.take_devLast (s : State) (h : HostId) (op : Nat) (c : CmdRec) :
    (s.take h op c).devLast = s.devLast := State.setHost_devLast s h _
@[simp] theorem State.take_perrDev (s : State) (h : HostId) (op : Nat) (c : CmdRec) :
    (s.take h op c).perrDev = s.perrDev := State.setHost_perrDev s h _
@[simp] theorem State.take_vrb (s : State) (h : HostId) (op : Nat) (c : CmdRec) :
    (s.take h op c).vrb = s.vrb := State.setHost_vrb s h _
@[simp] theorem State.take_blks (s : State) (h : HostId) (op : Nat) (c : CmdRec) :
    (s.take h op c).blks = s.blks := State.setHost_blks s h _
@[simp] theorem State.take_grantCores (s : State) (h : HostId) (op : Nat) (c : CmdRec) :
    (s.take h op c).grantCores = s.grantCores := State.setHost_grantCores s h _
@[simp] theorem State.take_grantStacks (s : State) (h : HostId) (op : Nat) (c : CmdRec) :
    (s.take h op c).grantStacks = s.grantStacks := State.setHost_grantStacks s h _
@[simp] theorem State.take_grantHalves (s : State) (h : HostId) (op : Nat) (c : CmdRec) :
    (s.take h op c).grantHalves = s.grantHalves := State.setHost_grantHalves s h _
@[simp] theorem State.take_mem (s : State) (h : HostId) (op : Nat) (c : CmdRec) :
    (s.take h op c).mem = s.mem := State.setHost_mem s h _
@[simp] theorem State.take_marked (s : State) (h : HostId) (op : Nat) (c : CmdRec) :
    (s.take h op c).marked = s.marked := State.setHost_marked s h _
@[simp] theorem State.take_pageRecs (s : State) (h : HostId) (op : Nat) (c : CmdRec) :
    (s.take h op c).pageRecs = s.pageRecs := State.setHost_pageRecs s h _
@[simp] theorem State.take_worn (s : State) (h : HostId) (op : Nat) (c : CmdRec) :
    (s.take h op c).worn = s.worn := State.setHost_worn s h _
@[simp] theorem State.take_held (s : State) (h : HostId) (op : Nat) (c : CmdRec) :
    (s.take h op c).held = s.held := State.setHost_held s h _
@[simp] theorem State.take_events (s : State) (h : HostId) (op : Nat) (c : CmdRec) :
    (s.take h op c).events = s.events := State.setHost_events s h _
@[simp] theorem State.take_nextSeq (s : State) (h : HostId) (op : Nat) (c : CmdRec) :
    (s.take h op c).nextSeq = s.nextSeq := State.setHost_nextSeq s h _
@[simp] theorem State.take_reports (s : State) (h : HostId) (op : Nat) (c : CmdRec) :
    (s.take h op c).reports = s.reports := State.setHost_reports s h _
@[simp] theorem State.take_nextReport (s : State) (h : HostId) (op : Nat) (c : CmdRec) :
    (s.take h op c).nextReport = s.nextReport := State.setHost_nextReport s h _
@[simp] theorem State.take_linkRun (s : State) (h : HostId) (op : Nat) (c : CmdRec) :
    (s.take h op c).linkRun = s.linkRun := State.setHost_linkRun s h _
@[simp] theorem State.take_linkStage (s : State) (h : HostId) (op : Nat) (c : CmdRec) :
    (s.take h op c).linkStage = s.linkStage := State.setHost_linkStage s h _
@[simp] theorem State.take_drovers (s : State) (h : HostId) (op : Nat) (c : CmdRec) :
    (s.take h op c).drovers = s.drovers := State.setHost_drovers s h _
@[simp] theorem State.take_takeover (s : State) (h : HostId) (op : Nat) (c : CmdRec) :
    (s.take h op c).takeover = s.takeover := State.setHost_takeover s h _
@[simp] theorem State.take_power (s : State) (h : HostId) (op : Nat) (c : CmdRec) :
    (s.take h op c).power = s.power := State.setHost_power s h _
@[simp] theorem State.take_rrPrev (s : State) (h : HostId) (op : Nat) (c : CmdRec) :
    (s.take h op c).rrPrev = s.rrPrev := State.setHost_rrPrev s h _
@[simp] theorem State.take_rrCur (s : State) (h : HostId) (op : Nat) (c : CmdRec) :
    (s.take h op c).rrCur = s.rrCur := State.setHost_rrCur s h _
@[simp] theorem State.take_jobs (s : State) (h : HostId) (op : Nat) (c : CmdRec) :
    (s.take h op c).jobs = s.jobs := State.setHost_jobs s h _
@[simp] theorem State.take_cores (s : State) (h : HostId) (op : Nat) (c : CmdRec) :
    (s.take h op c).cores = s.cores := State.setHost_cores s h _
@[simp] theorem State.take_svc (s : State) (h : HostId) (op : Nat) (c : CmdRec) :
    (s.take h op c).svc = s.svc := State.setHost_svc s h _
@[simp] theorem State.take_chans (s : State) (h : HostId) (op : Nat) (c : CmdRec) :
    (s.take h op c).chans = s.chans := State.setHost_chans s h _
@[simp] theorem State.take_rrHalf (s : State) (h : HostId) (op : Nat) (c : CmdRec) :
    (s.take h op c).rrHalf = s.rrHalf := State.setHost_rrHalf s h _
@[simp] theorem State.take_ways (s : State) (h : HostId) (op : Nat) (c : CmdRec) :
    (s.take h op c).ways = s.ways := State.setHost_ways s h _
@[simp] theorem State.take_ports (s : State) (h : HostId) (op : Nat) (c : CmdRec) :
    (s.take h op c).ports = s.ports := State.setHost_ports s h _
@[simp] theorem State.take_dom (s : State) (h : HostId) (op : Nat) (c : CmdRec) :
    (s.take h op c).dom = s.dom := State.setHost_dom s h _
@[simp] theorem State.take_upd (s : State) (h : HostId) (op : Nat) (c : CmdRec) :
    (s.take h op c).upd = s.upd := State.setHost_upd s h _
@[simp] theorem State.take_doeA (s : State) (h : HostId) (op : Nat) (c : CmdRec) :
    (s.take h op c).doeA = s.doeA := State.setHost_doeA s h _
@[simp] theorem State.take_doeB (s : State) (h : HostId) (op : Nat) (c : CmdRec) :
    (s.take h op c).doeB = s.doeB := State.setHost_doeB s h _
@[simp] theorem State.take_attA (s : State) (h : HostId) (op : Nat) (c : CmdRec) :
    (s.take h op c).attA = s.attA := State.setHost_attA s h _
@[simp] theorem State.take_attB (s : State) (h : HostId) (op : Nat) (c : CmdRec) :
    (s.take h op c).attB = s.attB := State.setHost_attB s h _
@[simp] theorem State.take_mctpConn (s : State) (h : HostId) (op : Nat) (c : CmdRec) :
    (s.take h op c).mctpConn = s.mctpConn := State.setHost_mctpConn s h _
@[simp] theorem State.take_mctp (s : State) (h : HostId) (op : Nat) (c : CmdRec) :
    (s.take h op c).mctp = s.mctp := State.setHost_mctp s h _
@[simp] theorem State.take_dbg (s : State) (h : HostId) (op : Nat) (c : CmdRec) :
    (s.take h op c).dbg = s.dbg := State.setHost_dbg s h _
@[simp] theorem State.take_freeCtr (s : State) (h : HostId) (op : Nat) (c : CmdRec) :
    (s.take h op c).freeCtr = s.freeCtr := State.setHost_freeCtr s h _
@[simp] theorem State.take_pending (s : State) (h : HostId) (op : Nat) (c : CmdRec) :
    (s.take h op c).pending = s.pending := State.setHost_pending s h _
@[simp] theorem State.accept_part (s : State) (h : HostId) : (s.accept h).part = s.part := State.setHost_part s h _
@[simp] theorem State.accept_serial (s : State) (h : HostId) : (s.accept h).serial = s.serial := State.setHost_serial s h _
@[simp] theorem State.accept_stepping (s : State) (h : HostId) :
    (s.accept h).stepping = s.stepping := State.setHost_stepping s h _
@[simp] theorem State.accept_fuses (s : State) (h : HostId) : (s.accept h).fuses = s.fuses := State.setHost_fuses s h _
@[simp] theorem State.accept_flash (s : State) (h : HostId) : (s.accept h).flash = s.flash := State.setHost_flash s h _
@[simp] theorem State.accept_pwrok (s : State) (h : HostId) : (s.accept h).pwrok = s.pwrok := State.setHost_pwrok s h _
@[simp] theorem State.accept_strapRecovery (s : State) (h : HostId) :
    (s.accept h).strapRecovery = s.strapRecovery := State.setHost_strapRecovery s h _
@[simp] theorem State.accept_strapSpiSlow (s : State) (h : HostId) :
    (s.accept h).strapSpiSlow = s.strapSpiSlow := State.setHost_strapSpiSlow s h _
@[simp] theorem State.accept_strapSmb (s : State) (h : HostId) :
    (s.accept h).strapSmb = s.strapSmb := State.setHost_strapSmb s h _
@[simp] theorem State.accept_phase (s : State) (h : HostId) : (s.accept h).phase = s.phase := State.setHost_phase s h _
@[simp] theorem State.accept_failCode (s : State) (h : HostId) :
    (s.accept h).failCode = s.failCode := State.setHost_failCode s h _
@[simp] theorem State.accept_phaseReached (s : State) (h : HostId) :
    (s.accept h).phaseReached = s.phaseReached := State.setHost_phaseReached s h _
@[simp] theorem State.accept_thermtrip (s : State) (h : HostId) :
    (s.accept h).thermtrip = s.thermtrip := State.setHost_thermtrip s h _
@[simp] theorem State.accept_faultN (s : State) (h : HostId) : (s.accept h).faultN = s.faultN := State.setHost_faultN s h _
@[simp] theorem State.accept_faultNEnd (s : State) (h : HostId) :
    (s.accept h).faultNEnd = s.faultNEnd := State.setHost_faultNEnd s h _
@[simp] theorem State.accept_cfgActive (s : State) (h : HostId) :
    (s.accept h).cfgActive = s.cfgActive := State.setHost_cfgActive s h _
@[simp] theorem State.accept_ready (s : State) (h : HostId) : (s.accept h).ready = s.ready := State.setHost_ready s h _
@[simp] theorem State.accept_fatal (s : State) (h : HostId) : (s.accept h).fatal = s.fatal := State.setHost_fatal s h _
@[simp] theorem State.accept_paused (s : State) (h : HostId) : (s.accept h).paused = s.paused := State.setHost_paused s h _
@[simp] theorem State.accept_cvrSide (s : State) (h : HostId) :
    (s.accept h).cvrSide = s.cvrSide := State.setHost_cvrSide s h _
@[simp] theorem State.accept_cvrIntact (s : State) (h : HostId) :
    (s.accept h).cvrIntact = s.cvrIntact := State.setHost_cvrIntact s h _
@[simp] theorem State.accept_fallbackNote (s : State) (h : HostId) :
    (s.accept h).fallbackNote = s.fallbackNote := State.setHost_fallbackNote s h _
@[simp] theorem State.accept_settingsNote (s : State) (h : HostId) :
    (s.accept h).settingsNote = s.settingsNote := State.setHost_settingsNote s h _
@[simp] theorem State.accept_ticking (s : State) (h : HostId) :
    (s.accept h).ticking = s.ticking := State.setHost_ticking s h _
@[simp] theorem State.accept_stage (s : State) (h : HostId) : (s.accept h).stage = s.stage := State.setHost_stage s h _
@[simp] theorem State.accept_offset (s : State) (h : HostId) : (s.accept h).offset = s.offset := State.setHost_offset s h _
@[simp] theorem State.accept_now (s : State) (h : HostId) : (s.accept h).now = s.now := State.setHost_now s h _
@[simp] theorem State.accept_period (s : State) (h : HostId) : (s.accept h).period = s.period := State.setHost_period s h _
@[simp] theorem State.accept_periodAt (s : State) (h : HostId) :
    (s.accept h).periodAt = s.periodAt := State.setHost_periodAt s h _
@[simp] theorem State.accept_periodWas (s : State) (h : HostId) :
    (s.accept h).periodWas = s.periodWas := State.setHost_periodWas s h _
@[simp] theorem State.accept_periodFrom (s : State) (h : HostId) :
    (s.accept h).periodFrom = s.periodFrom := State.setHost_periodFrom s h _
@[simp] theorem State.accept_devCtl (s : State) (h : HostId) : (s.accept h).devCtl = s.devCtl := State.setHost_devCtl s h _
@[simp] theorem State.accept_devApply (s : State) (h : HostId) :
    (s.accept h).devApply = s.devApply := State.setHost_devApply s h _
@[simp] theorem State.accept_devLast (s : State) (h : HostId) :
    (s.accept h).devLast = s.devLast := State.setHost_devLast s h _
@[simp] theorem State.accept_perrDev (s : State) (h : HostId) :
    (s.accept h).perrDev = s.perrDev := State.setHost_perrDev s h _
@[simp] theorem State.accept_vrb (s : State) (h : HostId) : (s.accept h).vrb = s.vrb := State.setHost_vrb s h _
@[simp] theorem State.accept_blks (s : State) (h : HostId) : (s.accept h).blks = s.blks := State.setHost_blks s h _
@[simp] theorem State.accept_turn (s : State) (h : HostId) : (s.accept h).turn = s.turn := State.setHost_turn s h _
@[simp] theorem State.accept_grantCores (s : State) (h : HostId) :
    (s.accept h).grantCores = s.grantCores := State.setHost_grantCores s h _
@[simp] theorem State.accept_grantStacks (s : State) (h : HostId) :
    (s.accept h).grantStacks = s.grantStacks := State.setHost_grantStacks s h _
@[simp] theorem State.accept_grantHalves (s : State) (h : HostId) :
    (s.accept h).grantHalves = s.grantHalves := State.setHost_grantHalves s h _
@[simp] theorem State.accept_mem (s : State) (h : HostId) : (s.accept h).mem = s.mem := State.setHost_mem s h _
@[simp] theorem State.accept_marked (s : State) (h : HostId) : (s.accept h).marked = s.marked := State.setHost_marked s h _
@[simp] theorem State.accept_pageRecs (s : State) (h : HostId) :
    (s.accept h).pageRecs = s.pageRecs := State.setHost_pageRecs s h _
@[simp] theorem State.accept_worn (s : State) (h : HostId) : (s.accept h).worn = s.worn := State.setHost_worn s h _
@[simp] theorem State.accept_held (s : State) (h : HostId) : (s.accept h).held = s.held := State.setHost_held s h _
@[simp] theorem State.accept_events (s : State) (h : HostId) : (s.accept h).events = s.events := State.setHost_events s h _
@[simp] theorem State.accept_nextSeq (s : State) (h : HostId) :
    (s.accept h).nextSeq = s.nextSeq := State.setHost_nextSeq s h _
@[simp] theorem State.accept_reports (s : State) (h : HostId) :
    (s.accept h).reports = s.reports := State.setHost_reports s h _
@[simp] theorem State.accept_nextReport (s : State) (h : HostId) :
    (s.accept h).nextReport = s.nextReport := State.setHost_nextReport s h _
@[simp] theorem State.accept_linkRun (s : State) (h : HostId) :
    (s.accept h).linkRun = s.linkRun := State.setHost_linkRun s h _
@[simp] theorem State.accept_linkStage (s : State) (h : HostId) :
    (s.accept h).linkStage = s.linkStage := State.setHost_linkStage s h _
@[simp] theorem State.accept_drovers (s : State) (h : HostId) :
    (s.accept h).drovers = s.drovers := State.setHost_drovers s h _
@[simp] theorem State.accept_takeover (s : State) (h : HostId) :
    (s.accept h).takeover = s.takeover := State.setHost_takeover s h _
@[simp] theorem State.accept_power (s : State) (h : HostId) : (s.accept h).power = s.power := State.setHost_power s h _
@[simp] theorem State.accept_rrPrev (s : State) (h : HostId) : (s.accept h).rrPrev = s.rrPrev := State.setHost_rrPrev s h _
@[simp] theorem State.accept_rrCur (s : State) (h : HostId) : (s.accept h).rrCur = s.rrCur := State.setHost_rrCur s h _
@[simp] theorem State.accept_jobs (s : State) (h : HostId) : (s.accept h).jobs = s.jobs := State.setHost_jobs s h _
@[simp] theorem State.accept_cores (s : State) (h : HostId) : (s.accept h).cores = s.cores := State.setHost_cores s h _
@[simp] theorem State.accept_svc (s : State) (h : HostId) : (s.accept h).svc = s.svc := State.setHost_svc s h _
@[simp] theorem State.accept_chans (s : State) (h : HostId) : (s.accept h).chans = s.chans := State.setHost_chans s h _
@[simp] theorem State.accept_rrHalf (s : State) (h : HostId) : (s.accept h).rrHalf = s.rrHalf := State.setHost_rrHalf s h _
@[simp] theorem State.accept_ways (s : State) (h : HostId) : (s.accept h).ways = s.ways := State.setHost_ways s h _
@[simp] theorem State.accept_ports (s : State) (h : HostId) : (s.accept h).ports = s.ports := State.setHost_ports s h _
@[simp] theorem State.accept_dom (s : State) (h : HostId) : (s.accept h).dom = s.dom := State.setHost_dom s h _
@[simp] theorem State.accept_upd (s : State) (h : HostId) : (s.accept h).upd = s.upd := State.setHost_upd s h _
@[simp] theorem State.accept_doeA (s : State) (h : HostId) : (s.accept h).doeA = s.doeA := State.setHost_doeA s h _
@[simp] theorem State.accept_doeB (s : State) (h : HostId) : (s.accept h).doeB = s.doeB := State.setHost_doeB s h _
@[simp] theorem State.accept_attA (s : State) (h : HostId) : (s.accept h).attA = s.attA := State.setHost_attA s h _
@[simp] theorem State.accept_attB (s : State) (h : HostId) : (s.accept h).attB = s.attB := State.setHost_attB s h _
@[simp] theorem State.accept_mctpConn (s : State) (h : HostId) :
    (s.accept h).mctpConn = s.mctpConn := State.setHost_mctpConn s h _
@[simp] theorem State.accept_mctp (s : State) (h : HostId) : (s.accept h).mctp = s.mctp := State.setHost_mctp s h _
@[simp] theorem State.accept_dbg (s : State) (h : HostId) : (s.accept h).dbg = s.dbg := State.setHost_dbg s h _
@[simp] theorem State.accept_freeCtr (s : State) (h : HostId) :
    (s.accept h).freeCtr = s.freeCtr := State.setHost_freeCtr s h _
@[simp] theorem State.accept_pending (s : State) (h : HostId) :
    (s.accept h).pending = s.pending := State.setHost_pending s h _
@[simp] theorem State.begun_part (s : State) (op : Nat) (h : HostId) (c : CmdRec) :
    (s.begun op h c).part = s.part := (State.accept_part _ h).trans (State.take_part s h op c)
@[simp] theorem State.begun_serial (s : State) (op : Nat) (h : HostId) (c : CmdRec) :
    (s.begun op h c).serial = s.serial := (State.accept_serial _ h).trans (State.take_serial s h op c)
@[simp] theorem State.begun_stepping (s : State) (op : Nat) (h : HostId) (c : CmdRec) :
    (s.begun op h c).stepping = s.stepping := (State.accept_stepping _ h).trans (State.take_stepping s h op c)
@[simp] theorem State.begun_fuses (s : State) (op : Nat) (h : HostId) (c : CmdRec) :
    (s.begun op h c).fuses = s.fuses := (State.accept_fuses _ h).trans (State.take_fuses s h op c)
@[simp] theorem State.begun_flash (s : State) (op : Nat) (h : HostId) (c : CmdRec) :
    (s.begun op h c).flash = s.flash := (State.accept_flash _ h).trans (State.take_flash s h op c)
@[simp] theorem State.begun_pwrok (s : State) (op : Nat) (h : HostId) (c : CmdRec) :
    (s.begun op h c).pwrok = s.pwrok := (State.accept_pwrok _ h).trans (State.take_pwrok s h op c)
@[simp] theorem State.begun_strapRecovery (s : State) (op : Nat) (h : HostId) (c : CmdRec) :
    (s.begun op h c).strapRecovery = s.strapRecovery := (State.accept_strapRecovery _ h).trans (State.take_strapRecovery s h op c)
@[simp] theorem State.begun_strapSpiSlow (s : State) (op : Nat) (h : HostId) (c : CmdRec) :
    (s.begun op h c).strapSpiSlow = s.strapSpiSlow := (State.accept_strapSpiSlow _ h).trans (State.take_strapSpiSlow s h op c)
@[simp] theorem State.begun_strapSmb (s : State) (op : Nat) (h : HostId) (c : CmdRec) :
    (s.begun op h c).strapSmb = s.strapSmb := (State.accept_strapSmb _ h).trans (State.take_strapSmb s h op c)
@[simp] theorem State.begun_phase (s : State) (op : Nat) (h : HostId) (c : CmdRec) :
    (s.begun op h c).phase = s.phase := (State.accept_phase _ h).trans (State.take_phase s h op c)
@[simp] theorem State.begun_failCode (s : State) (op : Nat) (h : HostId) (c : CmdRec) :
    (s.begun op h c).failCode = s.failCode := (State.accept_failCode _ h).trans (State.take_failCode s h op c)
@[simp] theorem State.begun_phaseReached (s : State) (op : Nat) (h : HostId) (c : CmdRec) :
    (s.begun op h c).phaseReached = s.phaseReached := (State.accept_phaseReached _ h).trans (State.take_phaseReached s h op c)
@[simp] theorem State.begun_thermtrip (s : State) (op : Nat) (h : HostId) (c : CmdRec) :
    (s.begun op h c).thermtrip = s.thermtrip := (State.accept_thermtrip _ h).trans (State.take_thermtrip s h op c)
@[simp] theorem State.begun_faultN (s : State) (op : Nat) (h : HostId) (c : CmdRec) :
    (s.begun op h c).faultN = s.faultN := (State.accept_faultN _ h).trans (State.take_faultN s h op c)
@[simp] theorem State.begun_faultNEnd (s : State) (op : Nat) (h : HostId) (c : CmdRec) :
    (s.begun op h c).faultNEnd = s.faultNEnd := (State.accept_faultNEnd _ h).trans (State.take_faultNEnd s h op c)
@[simp] theorem State.begun_cfgActive (s : State) (op : Nat) (h : HostId) (c : CmdRec) :
    (s.begun op h c).cfgActive = s.cfgActive := (State.accept_cfgActive _ h).trans (State.take_cfgActive s h op c)
@[simp] theorem State.begun_ready (s : State) (op : Nat) (h : HostId) (c : CmdRec) :
    (s.begun op h c).ready = s.ready := (State.accept_ready _ h).trans (State.take_ready s h op c)
@[simp] theorem State.begun_fatal (s : State) (op : Nat) (h : HostId) (c : CmdRec) :
    (s.begun op h c).fatal = s.fatal := (State.accept_fatal _ h).trans (State.take_fatal s h op c)
@[simp] theorem State.begun_paused (s : State) (op : Nat) (h : HostId) (c : CmdRec) :
    (s.begun op h c).paused = s.paused := (State.accept_paused _ h).trans (State.take_paused s h op c)
@[simp] theorem State.begun_cvrSide (s : State) (op : Nat) (h : HostId) (c : CmdRec) :
    (s.begun op h c).cvrSide = s.cvrSide := (State.accept_cvrSide _ h).trans (State.take_cvrSide s h op c)
@[simp] theorem State.begun_cvrIntact (s : State) (op : Nat) (h : HostId) (c : CmdRec) :
    (s.begun op h c).cvrIntact = s.cvrIntact := (State.accept_cvrIntact _ h).trans (State.take_cvrIntact s h op c)
@[simp] theorem State.begun_fallbackNote (s : State) (op : Nat) (h : HostId) (c : CmdRec) :
    (s.begun op h c).fallbackNote = s.fallbackNote := (State.accept_fallbackNote _ h).trans (State.take_fallbackNote s h op c)
@[simp] theorem State.begun_settingsNote (s : State) (op : Nat) (h : HostId) (c : CmdRec) :
    (s.begun op h c).settingsNote = s.settingsNote := (State.accept_settingsNote _ h).trans (State.take_settingsNote s h op c)
@[simp] theorem State.begun_ticking (s : State) (op : Nat) (h : HostId) (c : CmdRec) :
    (s.begun op h c).ticking = s.ticking := (State.accept_ticking _ h).trans (State.take_ticking s h op c)
@[simp] theorem State.begun_stage (s : State) (op : Nat) (h : HostId) (c : CmdRec) :
    (s.begun op h c).stage = s.stage := (State.accept_stage _ h).trans (State.take_stage s h op c)
@[simp] theorem State.begun_offset (s : State) (op : Nat) (h : HostId) (c : CmdRec) :
    (s.begun op h c).offset = s.offset := (State.accept_offset _ h).trans (State.take_offset s h op c)
@[simp] theorem State.begun_now (s : State) (op : Nat) (h : HostId) (c : CmdRec) :
    (s.begun op h c).now = s.now := (State.accept_now _ h).trans (State.take_now s h op c)
@[simp] theorem State.begun_period (s : State) (op : Nat) (h : HostId) (c : CmdRec) :
    (s.begun op h c).period = s.period := (State.accept_period _ h).trans (State.take_period s h op c)
@[simp] theorem State.begun_periodAt (s : State) (op : Nat) (h : HostId) (c : CmdRec) :
    (s.begun op h c).periodAt = s.periodAt := (State.accept_periodAt _ h).trans (State.take_periodAt s h op c)
@[simp] theorem State.begun_periodWas (s : State) (op : Nat) (h : HostId) (c : CmdRec) :
    (s.begun op h c).periodWas = s.periodWas := (State.accept_periodWas _ h).trans (State.take_periodWas s h op c)
@[simp] theorem State.begun_periodFrom (s : State) (op : Nat) (h : HostId) (c : CmdRec) :
    (s.begun op h c).periodFrom = s.periodFrom := (State.accept_periodFrom _ h).trans (State.take_periodFrom s h op c)
@[simp] theorem State.begun_devCtl (s : State) (op : Nat) (h : HostId) (c : CmdRec) :
    (s.begun op h c).devCtl = s.devCtl := (State.accept_devCtl _ h).trans (State.take_devCtl s h op c)
@[simp] theorem State.begun_devApply (s : State) (op : Nat) (h : HostId) (c : CmdRec) :
    (s.begun op h c).devApply = s.devApply := (State.accept_devApply _ h).trans (State.take_devApply s h op c)
@[simp] theorem State.begun_devLast (s : State) (op : Nat) (h : HostId) (c : CmdRec) :
    (s.begun op h c).devLast = s.devLast := (State.accept_devLast _ h).trans (State.take_devLast s h op c)
@[simp] theorem State.begun_perrDev (s : State) (op : Nat) (h : HostId) (c : CmdRec) :
    (s.begun op h c).perrDev = s.perrDev := (State.accept_perrDev _ h).trans (State.take_perrDev s h op c)
@[simp] theorem State.begun_vrb (s : State) (op : Nat) (h : HostId) (c : CmdRec) :
    (s.begun op h c).vrb = s.vrb := (State.accept_vrb _ h).trans (State.take_vrb s h op c)
@[simp] theorem State.begun_blks (s : State) (op : Nat) (h : HostId) (c : CmdRec) :
    (s.begun op h c).blks = s.blks := (State.accept_blks _ h).trans (State.take_blks s h op c)
@[simp] theorem State.begun_grantCores (s : State) (op : Nat) (h : HostId) (c : CmdRec) :
    (s.begun op h c).grantCores = s.grantCores := (State.accept_grantCores _ h).trans (State.take_grantCores s h op c)
@[simp] theorem State.begun_grantStacks (s : State) (op : Nat) (h : HostId) (c : CmdRec) :
    (s.begun op h c).grantStacks = s.grantStacks := (State.accept_grantStacks _ h).trans (State.take_grantStacks s h op c)
@[simp] theorem State.begun_grantHalves (s : State) (op : Nat) (h : HostId) (c : CmdRec) :
    (s.begun op h c).grantHalves = s.grantHalves := (State.accept_grantHalves _ h).trans (State.take_grantHalves s h op c)
@[simp] theorem State.begun_mem (s : State) (op : Nat) (h : HostId) (c : CmdRec) :
    (s.begun op h c).mem = s.mem := (State.accept_mem _ h).trans (State.take_mem s h op c)
@[simp] theorem State.begun_marked (s : State) (op : Nat) (h : HostId) (c : CmdRec) :
    (s.begun op h c).marked = s.marked := (State.accept_marked _ h).trans (State.take_marked s h op c)
@[simp] theorem State.begun_pageRecs (s : State) (op : Nat) (h : HostId) (c : CmdRec) :
    (s.begun op h c).pageRecs = s.pageRecs := (State.accept_pageRecs _ h).trans (State.take_pageRecs s h op c)
@[simp] theorem State.begun_worn (s : State) (op : Nat) (h : HostId) (c : CmdRec) :
    (s.begun op h c).worn = s.worn := (State.accept_worn _ h).trans (State.take_worn s h op c)
@[simp] theorem State.begun_held (s : State) (op : Nat) (h : HostId) (c : CmdRec) :
    (s.begun op h c).held = s.held := (State.accept_held _ h).trans (State.take_held s h op c)
@[simp] theorem State.begun_events (s : State) (op : Nat) (h : HostId) (c : CmdRec) :
    (s.begun op h c).events = s.events := (State.accept_events _ h).trans (State.take_events s h op c)
@[simp] theorem State.begun_nextSeq (s : State) (op : Nat) (h : HostId) (c : CmdRec) :
    (s.begun op h c).nextSeq = s.nextSeq := (State.accept_nextSeq _ h).trans (State.take_nextSeq s h op c)
@[simp] theorem State.begun_reports (s : State) (op : Nat) (h : HostId) (c : CmdRec) :
    (s.begun op h c).reports = s.reports := (State.accept_reports _ h).trans (State.take_reports s h op c)
@[simp] theorem State.begun_nextReport (s : State) (op : Nat) (h : HostId) (c : CmdRec) :
    (s.begun op h c).nextReport = s.nextReport := (State.accept_nextReport _ h).trans (State.take_nextReport s h op c)
@[simp] theorem State.begun_linkRun (s : State) (op : Nat) (h : HostId) (c : CmdRec) :
    (s.begun op h c).linkRun = s.linkRun := (State.accept_linkRun _ h).trans (State.take_linkRun s h op c)
@[simp] theorem State.begun_linkStage (s : State) (op : Nat) (h : HostId) (c : CmdRec) :
    (s.begun op h c).linkStage = s.linkStage := (State.accept_linkStage _ h).trans (State.take_linkStage s h op c)
@[simp] theorem State.begun_drovers (s : State) (op : Nat) (h : HostId) (c : CmdRec) :
    (s.begun op h c).drovers = s.drovers := (State.accept_drovers _ h).trans (State.take_drovers s h op c)
@[simp] theorem State.begun_takeover (s : State) (op : Nat) (h : HostId) (c : CmdRec) :
    (s.begun op h c).takeover = s.takeover := (State.accept_takeover _ h).trans (State.take_takeover s h op c)
@[simp] theorem State.begun_power (s : State) (op : Nat) (h : HostId) (c : CmdRec) :
    (s.begun op h c).power = s.power := (State.accept_power _ h).trans (State.take_power s h op c)
@[simp] theorem State.begun_rrPrev (s : State) (op : Nat) (h : HostId) (c : CmdRec) :
    (s.begun op h c).rrPrev = s.rrPrev := (State.accept_rrPrev _ h).trans (State.take_rrPrev s h op c)
@[simp] theorem State.begun_rrCur (s : State) (op : Nat) (h : HostId) (c : CmdRec) :
    (s.begun op h c).rrCur = s.rrCur := (State.accept_rrCur _ h).trans (State.take_rrCur s h op c)
@[simp] theorem State.begun_jobs (s : State) (op : Nat) (h : HostId) (c : CmdRec) :
    (s.begun op h c).jobs = s.jobs := (State.accept_jobs _ h).trans (State.take_jobs s h op c)
@[simp] theorem State.begun_cores (s : State) (op : Nat) (h : HostId) (c : CmdRec) :
    (s.begun op h c).cores = s.cores := (State.accept_cores _ h).trans (State.take_cores s h op c)
@[simp] theorem State.begun_svc (s : State) (op : Nat) (h : HostId) (c : CmdRec) :
    (s.begun op h c).svc = s.svc := (State.accept_svc _ h).trans (State.take_svc s h op c)
@[simp] theorem State.begun_chans (s : State) (op : Nat) (h : HostId) (c : CmdRec) :
    (s.begun op h c).chans = s.chans := (State.accept_chans _ h).trans (State.take_chans s h op c)
@[simp] theorem State.begun_rrHalf (s : State) (op : Nat) (h : HostId) (c : CmdRec) :
    (s.begun op h c).rrHalf = s.rrHalf := (State.accept_rrHalf _ h).trans (State.take_rrHalf s h op c)
@[simp] theorem State.begun_ways (s : State) (op : Nat) (h : HostId) (c : CmdRec) :
    (s.begun op h c).ways = s.ways := (State.accept_ways _ h).trans (State.take_ways s h op c)
@[simp] theorem State.begun_ports (s : State) (op : Nat) (h : HostId) (c : CmdRec) :
    (s.begun op h c).ports = s.ports := (State.accept_ports _ h).trans (State.take_ports s h op c)
@[simp] theorem State.begun_dom (s : State) (op : Nat) (h : HostId) (c : CmdRec) :
    (s.begun op h c).dom = s.dom := (State.accept_dom _ h).trans (State.take_dom s h op c)
@[simp] theorem State.begun_upd (s : State) (op : Nat) (h : HostId) (c : CmdRec) :
    (s.begun op h c).upd = s.upd := (State.accept_upd _ h).trans (State.take_upd s h op c)
@[simp] theorem State.begun_doeA (s : State) (op : Nat) (h : HostId) (c : CmdRec) :
    (s.begun op h c).doeA = s.doeA := (State.accept_doeA _ h).trans (State.take_doeA s h op c)
@[simp] theorem State.begun_doeB (s : State) (op : Nat) (h : HostId) (c : CmdRec) :
    (s.begun op h c).doeB = s.doeB := (State.accept_doeB _ h).trans (State.take_doeB s h op c)
@[simp] theorem State.begun_attA (s : State) (op : Nat) (h : HostId) (c : CmdRec) :
    (s.begun op h c).attA = s.attA := (State.accept_attA _ h).trans (State.take_attA s h op c)
@[simp] theorem State.begun_attB (s : State) (op : Nat) (h : HostId) (c : CmdRec) :
    (s.begun op h c).attB = s.attB := (State.accept_attB _ h).trans (State.take_attB s h op c)
@[simp] theorem State.begun_mctpConn (s : State) (op : Nat) (h : HostId) (c : CmdRec) :
    (s.begun op h c).mctpConn = s.mctpConn := (State.accept_mctpConn _ h).trans (State.take_mctpConn s h op c)
@[simp] theorem State.begun_mctp (s : State) (op : Nat) (h : HostId) (c : CmdRec) :
    (s.begun op h c).mctp = s.mctp := (State.accept_mctp _ h).trans (State.take_mctp s h op c)
@[simp] theorem State.begun_dbg (s : State) (op : Nat) (h : HostId) (c : CmdRec) :
    (s.begun op h c).dbg = s.dbg := (State.accept_dbg _ h).trans (State.take_dbg s h op c)
@[simp] theorem State.begun_freeCtr (s : State) (op : Nat) (h : HostId) (c : CmdRec) :
    (s.begun op h c).freeCtr = s.freeCtr := (State.accept_freeCtr _ h).trans (State.take_freeCtr s h op c)
@[simp] theorem State.begun_pending (s : State) (op : Nat) (h : HostId) (c : CmdRec) :
    (s.begun op h c).pending = s.pending := (State.accept_pending _ h).trans (State.take_pending s h op c)

@[simp] theorem State.record_mem (s : State) (h : HostId) (k n o j st g r : Nat) :
    (s.record h k n o j st g r).mem = s.mem := by
  cases h <;> rfl

end Sys2Proof.Machine
end

