-- ==== Sys2Proof/Laws/Command.lean ====
section
/-! SUPPORT. Everything that a mailbox command can do, said once: it waits, is out of sequence, fails a common check, or
runs its own part (R360, R362, R364, R370). -/
namespace Sys2Proof.Machine

@[simp] theorem State.take_hostA_openCmds (s : State) (h : HostId) (op : Nat) (c : CmdRec) :
    (s.take h op c).hostA.openCmds = s.hostA.openCmds := match h with
  | .a => rfl
  | .b => rfl

@[simp] theorem State.take_expHsn (s : State) (h : HostId) (op : Nat) (c : CmdRec) :
    ((s.take h op c).host h).expHsn = (s.host h).expHsn := match h with
  | .a => rfl
  | .b => rfl

@[simp] theorem State.accept_hostA_openCmds (s : State) (h : HostId) :
    (s.accept h).hostA.openCmds = s.hostA.openCmds := match h with
  | .a => rfl
  | .b => rfl

@[simp] theorem State.begun_hostA_openCmds (s : State) (op : Nat) (h : HostId) (c : CmdRec) :
    (s.begun op h c).hostA.openCmds = s.hostA.openCmds := by
  simp [State.begun]

/-- What taking and accepting leave of a port: its ring, its head and its expected HSN move, nothing else. -/
theorem State.begun_host (s : State) (op : Nat) (h : HostId) (c : CmdRec) :
    (s.begun op h c).host h = { s.host h with
      cmdRing := mset (s.host h).cmdRing ((s.host h).cmdHead.toNat % 1024) (c.slot op)
      cmdHead := (s.host h).cmdHead + 1
      lastHsn := (s.host h).expHsn
      expHsn := if (s.host h).expHsn = 0xFFFFFFFF then 1 else (s.host h).expHsn + 1 } := match h with
  | .a => rfl
  | .b => rfl

@[simp] theorem State.begun_turn (s : State) (op : Nat) (h : HostId) (c : CmdRec) : (s.begun op h c).turn = some h :=
  match h with
  | .a => rfl
  | .b => rfl

@[simp] theorem State.begun_destroyedByA (s : State) (op : Nat) (h : HostId) (c : CmdRec) (j : Nat) :
    (s.begun op h c).destroyedByA j = s.destroyedByA j := by
  simp only [State.destroyedByA, State.begun_hostA_openCmds]

/-- The common checks read nothing that taking and accepting change. -/
@[simp] theorem cmdCheck_begun (sp : CmdSpec) (h : HostId) (c : CmdRec) (s : State) (op : Nat) :
    cmdCheck sp h c (s.begun op h c) = cmdCheck sp h c s := by
  simp only [cmdCheck, State.begun_destroyedByA, State.begun_fatal, State.begun_jobs]

/-- A command that is not at the front of its ring, or whose host's turn it is not, waits. -/
theorem State.command_waits {s : State} {h : HostId} (w : (s.mayTake h && s.turnOf h) = false) (sp : CmdSpec)
    (c : CmdRec) (body : State → CmdRes) : s.command sp h c body = s := by
  simp [State.command, w]

/-- An HSN out of sequence. -/
theorem State.command_outOfSequence {s : State} {h : HostId} {c : CmdRec} (t : s.mayTake h = true)
    (u : s.turnOf h = true) (n : c.hsn.toNat ≠ (s.host h).expHsn) (sp : CmdSpec) (body : State → CmdRes) :
    s.command sp h c body =
      (s.take h sp.op c).record h 0 c.hsn.toNat sp.op c.job.toNat 0x0006 s.stage (s.host h).expHsn := by
  simp [State.command, t, u, n]

/-- A command in sequence that a common check rejects. -/
theorem State.command_rejected {s : State} {h : HostId} {c : CmdRec} {sp : CmdSpec} (t : s.mayTake h = true)
    (u : s.turnOf h = true) (n : c.hsn.toNat = (s.host h).expHsn) (k : cmdCheck sp h c s ≠ 0) (body : State → CmdRes) :
    s.command sp h c body =
      (s.begun sp.op h c).record h 0 c.hsn.toNat sp.op c.job.toNat (cmdCheck sp h c s) s.stage 0 := by
  simp [State.command, t, u, n, k]

/-- A command whose own part runs. -/
theorem State.command_runs {s : State} {sp : CmdSpec} {h : HostId} {c : CmdRec} (r : s.runs sp h c = true)
    (body : State → CmdRes) :
    s.command sp h c body = cmdAnswer sp.op h c (body (s.begun sp.op h c)) := by
  simp only [State.runs, Bool.and_eq_true, beq_iff_eq] at r
  simp [State.command, r.1.1.1, r.1.1.2, r.1.2, r.2]

end Sys2Proof.Machine
end

