-- ==== Sys2Proof/Laws/Map.lean ====
section
/-! SUPPORT. Laws of finite maps and of byte memory: reading after writing, and the canonical form. -/
namespace Sys2Proof.Machine

@[simp] theorem mget_mset_same {α : Type} (m : NMap α) (k : Nat) (v : α) : mget (mset m k v) k = some v := by
  induction m with
  | nil => simp [mset, mget]
  | cons p r ih =>
    obtain ⟨a, w⟩ := p
    simp only [mset]
    split
    · simp [mget]
    · split
      · simp [mget]
      · rename_i h
        simp [mget, ih, Ne.symm h]

@[simp] theorem mget_mset_ne {α : Type} (m : NMap α) (k k' : Nat) (v : α) (h : k' ≠ k) :
    mget (mset m k v) k' = mget m k' := by
  induction m with
  | nil => simp [mset, mget, Ne.symm h]
  | cons p r ih =>
    obtain ⟨a, w⟩ := p
    simp only [mset]
    split
    · simp [mget, Ne.symm h]
    · split
      · rename_i e
        subst e
        simp [mget, Ne.symm h]
      · simp [mget, ih]

theorem mgetD_mset {α : Type} (m : NMap α) (k k' : Nat) (v d : α) :
    mgetD (mset m k v) k' d = if k' = k then v else mgetD m k' d := by
  by_cases h : k' = k
  · subst h
    simp [mgetD]
  · simp [mgetD, h]

theorem mget_merase_ne {α : Type} (m : NMap α) (k k' : Nat) (h : k' ≠ k) : mget (merase m k) k' = mget m k' := by
  induction m with
  | nil => rfl
  | cons p r ih =>
    obtain ⟨a, w⟩ := p
    simp only [merase]
    split
    · rename_i e
      subst e
      simp [mget, Ne.symm h]
    · simp [mget, ih]

/-- A map whose keys start at `lo` holds nothing below. -/
theorem mget_below {α : Type} {lo : Nat} {m : NMap α} (hs : msorted lo m = true) {k : Nat} (hk : k < lo) :
    mget m k = none := by
  induction m generalizing lo with
  | nil => rfl
  | cons p r ih =>
    obtain ⟨a, w⟩ := p
    simp only [msorted, Bool.and_eq_true, decide_eq_true_eq] at hs
    have : a ≠ k := by omega
    simp only [mget, this, if_false]
    exact ih hs.2 (by omega)

theorem mget_merase_same {α : Type} {lo : Nat} {m : NMap α} (hs : msorted lo m = true) (k : Nat) :
    mget (merase m k) k = none := by
  induction m generalizing lo with
  | nil => rfl
  | cons p r ih =>
    obtain ⟨a, w⟩ := p
    simp only [msorted, Bool.and_eq_true, decide_eq_true_eq] at hs
    simp only [merase]
    split
    · rename_i e
      subst e
      exact mget_below hs.2 (by omega)
    · rename_i e
      simp [mget, Ne.symm e, ih hs.2]

theorem msorted_mono {α : Type} {lo lo' : Nat} {m : NMap α} (h : lo' ≤ lo) (hs : msorted lo m = true) :
    msorted lo' m = true := by
  cases m with
  | nil => rfl
  | cons p r =>
    obtain ⟨a, w⟩ := p
    simp only [msorted, Bool.and_eq_true, decide_eq_true_eq] at hs ⊢
    exact ⟨by omega, hs.2⟩

theorem msorted_mset {α : Type} {lo : Nat} {m : NMap α} (hs : msorted lo m = true) {k : Nat} (hk : lo ≤ k) (v : α) :
    msorted lo (mset m k v) = true := by
  induction m generalizing lo with
  | nil => simp [mset, msorted, hk]
  | cons p r ih =>
    obtain ⟨a, w⟩ := p
    simp only [msorted, Bool.and_eq_true, decide_eq_true_eq] at hs
    simp only [mset]
    split
    · simp only [msorted, Bool.and_eq_true, decide_eq_true_eq]
      exact ⟨hk, by omega, hs.2⟩
    · split
      · rename_i e
        subst e
        simp only [msorted, Bool.and_eq_true, decide_eq_true_eq]
        exact ⟨hk, hs.2⟩
      · simp only [msorted, Bool.and_eq_true, decide_eq_true_eq]
        exact ⟨hs.1, ih hs.2 (by omega)⟩

theorem msorted_merase {α : Type} {lo : Nat} {m : NMap α} (hs : msorted lo m = true) (k : Nat) :
    msorted lo (merase m k) = true := by
  induction m generalizing lo with
  | nil => rfl
  | cons p r ih =>
    obtain ⟨a, w⟩ := p
    simp only [msorted, Bool.and_eq_true, decide_eq_true_eq] at hs
    simp only [merase]
    split
    · exact msorted_mono (by omega) hs.2
    · simp only [msorted, Bool.and_eq_true, decide_eq_true_eq]
      exact ⟨hs.1, ih hs.2⟩

theorem msorted_filter {α : Type} {lo : Nat} {m : NMap α} (hs : msorted lo m = true) (f : Nat × α → Bool) :
    msorted lo (m.filter f) = true := by
  induction m generalizing lo with
  | nil => rfl
  | cons p r ih =>
    obtain ⟨a, w⟩ := p
    simp only [msorted, Bool.and_eq_true, decide_eq_true_eq] at hs
    simp only [List.filter_cons]
    split
    · simp only [msorted, Bool.and_eq_true, decide_eq_true_eq]
      exact ⟨hs.1, ih hs.2⟩
    · exact msorted_mono (by omega) (ih hs.2)

theorem mem_mset {α : Type} {m : NMap α} {k : Nat} {v : α} {p : Nat × α} (h : p ∈ mset m k v) : p = (k, v) ∨ p ∈ m := by
  induction m with
  | nil => simpa [mset] using h
  | cons q r ih =>
    obtain ⟨a, w⟩ := q
    simp only [mset] at h
    split at h
    · simpa using h
    · split at h
      · simp only [List.mem_cons] at h ⊢
        tauto
      · simp only [List.mem_cons] at h ⊢
        rcases h with h | h
        · exact .inr (.inl h)
        · rcases ih h with h | h
          · exact .inl h
          · exact .inr (.inr h)

theorem mem_merase {α : Type} {m : NMap α} {k : Nat} {p : Nat × α} (h : p ∈ merase m k) : p ∈ m := by
  induction m with
  | nil => exact h
  | cons q r ih =>
    obtain ⟨a, w⟩ := q
    simp only [merase] at h
    split at h
    · exact List.mem_cons_of_mem _ h
    · simp only [List.mem_cons] at h ⊢
      rcases h with h | h
      · exact .inl h
      · exact .inr (ih h)

/-! ### Memory -/

theorem Memory.wf_iff (m : NMap Byte) :
    Memory.wf m = true ↔ msorted 0 m = true ∧ ∀ p ∈ m, p.2 ≠ memDefault := by
  simp [Memory.wf, List.all_eq_true]

@[simp] theorem Memory.wf_nil : Memory.wf [] = true := rfl

/-- Writing one byte keeps the canonical form. -/
theorem Memory.wf_memPut {m : NMap Byte} (h : Memory.wf m = true) (a : Nat) (b : Byte) :
    Memory.wf (memPut m a b) = true := by
  rw [Memory.wf_iff] at h ⊢
  unfold memPut
  split
  · exact ⟨msorted_merase h.1 a, fun p hp => h.2 p (mem_merase hp)⟩
  · rename_i hb
    refine ⟨msorted_mset h.1 (Nat.zero_le a) b, fun p hp => ?_⟩
    rcases mem_mset hp with rfl | hp
    · exact hb
    · exact h.2 p hp

/-- Writing bytes keeps the canonical form. -/
theorem Memory.wf_memPuts {m : NMap Byte} (h : Memory.wf m = true) (a : Nat) (d : List Byte) :
    Memory.wf (memPuts m a d) = true := by
  induction d generalizing m a with
  | nil => exact h
  | cons b r ih => exact ih (Memory.wf_memPut h a b) (a + 1)

/-- Taking entries out keeps the canonical form. -/
theorem Memory.wf_filter {m : NMap Byte} (h : Memory.wf m = true) (f : Nat × Byte → Bool) :
    Memory.wf (m.filter f) = true := by
  rw [Memory.wf_iff] at h ⊢
  exact ⟨msorted_filter h.1 f, fun p hp => h.2 p (List.mem_of_mem_filter hp)⟩

/-- A store keeps the canonical form. -/
theorem State.wf_store {s : State} (h : Memory.wf s.mem = true) (a : Nat) (d : List Byte) :
    Memory.wf (s.store a d).mem = true := Memory.wf_memPuts h a d

/-- One byte reads after a write as written, every other byte as before. -/
theorem memByte_memPut {m : NMap Byte} (h : Memory.wf m = true) (a x : Nat) (b : Byte) :
    memByte (memPut m a b) x = if x = a then b else memByte m x := by
  rw [Memory.wf_iff] at h
  unfold memPut
  by_cases hx : x = a
  · subst hx
    split
    · rename_i hb
      simp [memByte, mgetD, mget_merase_same h.1, hb]
    · simp [memByte, mgetD]
  · split
    · simp [memByte, mgetD, mget_merase_ne _ _ _ hx]
    · simp [memByte, mgetD, hx]

/-- Bytes read after a write as written, every other byte as before. -/
theorem memByte_memPuts {m : NMap Byte} (h : Memory.wf m = true) (a x : Nat) (d : List Byte) :
    memByte (memPuts m a d) x = if a ≤ x ∧ x < a + d.length then d.getD (x - a) memDefault else memByte m x := by
  induction d generalizing m a with
  | nil => simp [memPuts]
  | cons b r ih =>
    rw [memPuts, ih (Memory.wf_memPut h a b), memByte_memPut h]
    by_cases h1 : x = a
    · subst h1
      simp
    · by_cases h2 : a ≤ x ∧ x < a + (b :: r).length
      · have h3 : a + 1 ≤ x ∧ x < a + 1 + r.length := by simp at h2; omega
        have h4 : x - a = (x - (a + 1)) + 1 := by omega
        simp only [h2, h3, and_self, if_true, h4, List.getD_cons_succ]
      · have h3 : ¬(a + 1 ≤ x ∧ x < a + 1 + r.length) := by simp at h2; omega
        simp only [h2, h3, if_false, h1]

/-- A store read back. -/
theorem State.byte_store {s : State} (h : Memory.wf s.mem = true) (a x : Nat) (d : List Byte) :
    (s.store a d).byte x = if a ≤ x ∧ x < a + d.length then d.getD (x - a) memDefault else s.byte x :=
  memByte_memPuts h a x d

/-- Bytes read back where they were stored. -/
theorem State.bytes_store {s : State} (h : Memory.wf s.mem = true) (a : Nat) (d : List Byte) :
    (s.store a d).bytes a d.length = d := by
  apply List.ext_getElem
  · simp [State.bytes, memBytes]
  · intro k h1 h2
    have e := State.byte_store h a (a + k) d
    simp only [State.byte] at e
    simp only [State.bytes, memBytes, List.getElem_map, List.getElem_range, e]
    simp [h2]

end Sys2Proof.Machine
end

