-- ==== Sys2Proof/Laws/Memory.lean ====
section
/-! SUPPORT. What the shared operations do to memory, said once for each: they leave it, or they keep its canonical form
(`Inv`). -/
namespace Sys2Proof.Machine

/-! ### How invariants pass through folds and equal memories -/

/-- A fold keeps what each of its steps keeps. -/
theorem foldl_keeps {α β : Type} (P : β → Prop) (f : β → α → β) (l : List α) (b : β)
    (h : ∀ x a, P x → P (f x a)) (hb : P b) : P (l.foldl f b) := by
  induction l generalizing b with
  | nil => exact hb
  | cons a r ih => exact ih (f b a) (h b a hb)

/-- Two states with one memory both meet the invariant or neither does. -/
theorem inv_congr {s t : State} (h : t.mem = s.mem) : Inv t ↔ Inv s := by
  unfold Inv
  rw [h]

theorem inv_of_mem {s t : State} (h : t.mem = s.mem) (i : Inv s) : Inv t := (inv_congr h).2 i

/-- A choice between two states that meet the invariant. -/
theorem inv_ite {c : Prop} [Decidable c] {s t : State} (i : Inv s) (k : Inv t) : Inv (if c then s else t) := by
  split
  · exact i
  · exact k

/-- A fold over states leaves memory where each of its steps does. -/
theorem foldl_mem {α : Type} (f : State → α → State) (l : List α) (s : State) (h : ∀ t a, (f t a).mem = t.mem) :
    (l.foldl f s).mem = s.mem :=
  foldl_keeps (fun t => t.mem = s.mem) f l s (fun t a e => (h t a).trans e) rfl

/-! ### Operations that leave memory -/

@[simp] theorem State.signal_mem (s : State) (h : HostId) (v : Nat) : (s.signal h v).mem = s.mem := State.setHost_mem s h _

@[simp] theorem State.addReport_mem (s : State) (r : Report) : (s.addReport r).mem = s.mem := by
  unfold State.addReport
  rfl

@[simp] theorem State.putReport_mem (s : State) (r : Report) : (s.putReport r).mem = s.mem := by
  unfold State.putReport
  rfl

@[simp] theorem State.fatalReports_mem (s : State) (c n : Nat) : (s.fatalReports c n).mem = s.mem := by
  unfold State.fatalReports
  refine foldl_mem _ _ _ (fun t p => ?_)
  split <;> rfl

@[simp] theorem State.mark_mem (s : State) (l : Nat) : (s.mark l).mem = s.mem := by
  unfold State.mark
  split <;> rfl

@[simp] theorem State.countUnc_mem (s : State) (l : Nat) : (s.countUnc l).mem = s.mem := by
  unfold State.countUnc
  split <;> rfl

@[simp] theorem State.completeWhere_mem (s : State) (h : HostId) (f : OpenCmd → Option (Nat × Nat)) :
    (s.completeWhere h f).mem = s.mem :=
  (foldl_mem _ _ _ (fun t _ => State.record_mem t _ _ _ _ _ _ _ _)).trans (State.setHost_mem s h _)

@[simp] theorem State.completeBoth_mem (s : State) (f : OpenCmd → Option (Nat × Nat)) : (s.completeBoth f).mem = s.mem :=
  (State.completeWhere_mem _ _ _).trans (State.completeWhere_mem _ _ _)

@[simp] theorem State.modRun_mem (s : State) (j : Nat) (f : RunStep → RunStep) : (s.modRun j f).mem = s.mem := rfl

@[simp] theorem State.modTask_mem (s : State) (j id : Nat) (f : TaskRun → TaskRun) : (s.modTask j id f).mem = s.mem := rfl

@[simp] theorem State.modTrain_mem (s : State) (j : Nat) (f : Train → Train) : (s.modTrain j f).mem = s.mem := rfl

@[simp] theorem State.modEng_mem (s : State) (x : EngRun) (f : TaskRun → TaskRun) : (s.modEng x f).mem = s.mem := rfl

@[simp] theorem State.setEng_mem (s : State) (x : EngRun) (e : Eng) : (s.setEng x e).mem = s.mem := rfl

@[simp] theorem State.resolveNotRun_mem (s : State) (j : Nat) : (s.resolveNotRun j).mem = s.mem := by
  unfold State.resolveNotRun
  split <;> rfl

@[simp] theorem State.incCtr_mem (s : State) (j c : Nat) : (s.incCtr j c).1.mem = s.mem := by
  unfold State.incCtr
  split
  · rfl
  · dsimp only
    split <;> rfl

@[simp] theorem State.refine_mem (s : State) (j : Nat) (t : TaskRun) : (s.refine j t).mem = s.mem := by
  unfold State.refine
  split <;> rfl

@[simp] theorem State.notice_mem (s : State) (j : Nat) (q : QStep) (st n : Nat) : (s.notice j q st n).mem = s.mem :=
  (State.record_mem _ _ _ _ _ _ _ _ _).trans (State.setHost_mem s _ _)

@[simp] theorem State.halt_mem (s : State) (u : HaltUnit) : (s.halt u).mem = s.mem := by
  unfold State.halt
  cases u <;> rfl

@[simp] theorem State.bpHit_mem (s : State) (n : Nat) (u : HaltUnit) (t a : Nat) (l : Option (Nat × Nat × Nat × Nat)) :
    (s.bpHit n u t a l).mem = s.mem := by
  unfold State.bpHit
  split
  · rfl
  · dsimp only
    split
    · rfl
    · exact State.halt_mem _ _

@[simp] theorem State.bpMem_mem (s : State) (u : HaltUnit) (n : Nat) (w : Bool) (ls : List Nat) :
    (s.bpMem u n w ls).mem = s.mem := by
  unfold State.bpMem
  split
  · rfl
  · refine foldl_mem _ _ _ (fun t p => ?_)
    have g : ∀ o : Option Nat, (match o with
        | some l => t.bpHit p.1 u n l none
        | none => t).mem = t.mem := fun o => by
      cases o with
      | none => rfl
      | some l => exact State.bpHit_mem _ _ _ _ _ _
    by_cases c : p.2.kind = 4 ∧ (if w = true then p.2.writes else p.2.reads) = true
    · rw [if_pos c]
      exact g _
    · rw [if_neg c]

@[simp] theorem State.free_mem (s : State) : s.free.2.mem = s.mem := rfl

@[simp] theorem State.draw_mem (s : State) : s.draw.2.mem = s.mem := rfl

@[simp] theorem State.freeIn_mem (s : State) (b : Nat) (rs : List (Nat × Nat)) (w : Writes) : (s.freeIn b rs w).1.mem = s.mem := by
  unfold State.freeIn
  split
  · rfl
  · refine foldl_keeps (fun (p : State × Writes) => p.1.mem = s.mem) _ _ _ (fun p b h => ?_) rfl
    dsimp only
    split
    · exact (State.free_mem p.1).trans h
    · exact h

@[simp] theorem State.freeIngress_mem (s : State) (l : Bool) (f : Frame) : (s.freeIngress l f).mem = s.mem := by
  unfold State.freeIngress
  split <;> rfl

@[simp] theorem State.transmit_mem (s : State) (k : Nat) (p : Port) (l : Bool) (f : Frame) : (s.transmit k p l f).mem = s.mem :=
  State.freeIngress_mem _ _ _

@[simp] theorem State.sendBy_mem (s : State) (k : Nat) (l : Bool) (f : Frame) : (s.sendBy k l f).mem = s.mem := by
  unfold State.sendBy
  dsimp only
  split
  · split
    · exact State.transmit_mem _ _ _ _ _
    · rfl
  · rfl

theorem State.pumpN_mem (k n : Nat) (b : List Nat) (s : State) : (State.pumpN k n b s).mem = s.mem := by
  induction n generalizing b s with
  | zero => rfl
  | succ n ih =>
    unfold State.pumpN
    dsimp only
    split
    · rfl
    · split
      · exact ih _ _
      · exact (ih _ _).trans (State.transmit_mem _ _ _ _ _)

@[simp] theorem State.pump_mem (s : State) (k : Nat) : (s.pump k).mem = s.mem := State.pumpN_mem k _ _ s

@[simp] theorem State.forward_mem (s : State) (f : Frame) : (s.forward f).mem = s.mem := by
  unfold State.forward
  split
  · rfl
  · exact State.sendBy_mem _ _ _ _

@[simp] theorem State.reply_mem (s : State) (f : Frame) (t o : Nat) (p : Bool) (d : List Byte) :
    (s.reply f t o p d).mem = s.mem := by
  unfold State.reply
  split
  · rfl
  · exact State.sendBy_mem _ _ _ _

@[simp] theorem State.reject_mem (s : State) (k : Nat) : (s.reject k).mem = s.mem := rfl

@[simp] theorem State.nack_mem (s : State) (f : Frame) (r : Nat) : (s.nack f r).mem = s.mem := State.reply_mem _ _ _ _ _ _

@[simp] theorem State.sendCtl_mem (s : State) (k c n : Nat) (v r : Bool) (l : BitVec 4) (x : Nat) :
    (s.sendCtl k c n v r l x).mem = s.mem := rfl

@[simp] theorem State.deriveKeys_mem (s : State) (k : Nat) (g : Bool) : (s.deriveKeys k g).mem = s.mem := by
  unfold State.deriveKeys
  split <;> rfl

/-! ### Operations that write memory -/

theorem State.inv_store {s : State} (i : Inv s) (a : Nat) (d : List Byte) : Inv (s.store a d) := State.wf_store i a d

/-- A record in a mirror. -/
theorem State.inv_mirror {s : State} (i : Inv s) (h : HostId) (e : EventRec) : Inv (s.mirror h e) := by
  unfold State.mirror
  dsimp only
  split
  · exact inv_of_mem (State.setHost_mem _ _ _) (State.inv_store i _ _)
  · exact i

/-- An event: its record in the log and in the mirrors (R378, R379). -/
theorem State.inv_post {s : State} (i : Inv s) (e : EventRec) : Inv (s.post e) := by
  unfold State.post
  split
  · exact i
  · have a : Inv ({ (s.store (logBase + 64 * (s.nextSeq % 65536)) ({ e with seq := s.nextSeq, time := s.stamp } : EventRec).bytes) with
      nextSeq := s.nextSeq + 1, events := s.events ++ [{ e with seq := s.nextSeq, time := s.stamp }] } : State) :=
      inv_of_mem rfl (State.inv_store i _ _)
    dsimp only
    split
    · exact State.inv_mirror (State.inv_mirror a .a _) .b _
    · exact State.inv_mirror a .a _

/-- An event that may be absent. -/
theorem State.inv_postMaybe {s : State} (i : Inv s) (c : Option EventRec) : Inv ((c.map s.post).getD s) := by
  cases c with
  | none => exact i
  | some e => exact State.inv_post i e

/-- A device-fatal error (R408). -/
theorem State.inv_deviceFatal {s : State} (i : Inv s) (c : Option EventRec) (a b : Nat) : Inv (s.deviceFatal c a b) := by
  unfold State.deviceFatal
  split
  · exact i
  · split
    · exact State.inv_postMaybe i c
    · dsimp only
      refine inv_of_mem ((State.signal_mem _ _ _).trans (State.signal_mem _ _ _)) ?_
      have h : ∀ r, Inv ((c.map (fun (e : EventRec) => s.post { e with report := r })).getD s) := fun r => by
        cases c with
        | none => exact i
        | some e => exact State.inv_post i _
      have k : ∀ (b : Bool) (t u : State), Inv t → Inv u → Inv (if b = true then t else u) := fun b t u x y => by
        split
        · exact x
        · exact y
      exact k _ _ _ (State.inv_post (inv_of_mem (State.fatalReports_mem _ _ _) (h _)) _) (h _)

/-- A page wears (R403). -/
theorem State.inv_wear {s : State} (i : Inv s) (l r : Nat) : Inv (s.wear l r) := by
  unfold State.wear
  split
  · split
    · exact i
    · refine State.inv_post ?_ _
      exact i
  · exact i

/-- A corrected line is counted (R402). -/
theorem State.inv_corrected {s : State} (i : Inv s) (j t l : Nat) : Inv (s.corrected j t l) := by
  unfold State.corrected
  split
  · exact i
  · have h : ∀ (q : NMap PageRec) (p : Bool) (e : EventRec),
        Inv (if p then ({ s with pageRecs := q } : State).post e else { s with pageRecs := q }) := fun q p e => by
      split
      · refine State.inv_post ?_ _
        exact i
      · exact i
    dsimp only
    split
    · exact State.inv_wear (h _ _ _) _ _
    · exact h _ _ _

/-- An uncorrectable line is met (R406). -/
theorem State.inv_uncorrectable {s : State} (i : Inv s) (r : Reader) (l : Nat) : Inv (s.uncorrectable r l) := by
  have h : Inv ((s.mark l).countUnc l) := inv_of_mem ((State.countUnc_mem _ _).trans (State.mark_mem _ _)) i
  unfold State.uncorrectable
  dsimp only
  split
  · exact State.inv_wear (State.inv_deviceFatal h _ _ _) _ _
  · exact State.inv_wear (State.inv_post h _) _ _

/-- Lines are read. -/
theorem State.inv_meet {s : State} (i : Inv s) (r : Reader) (f : Faults) (ls : List Nat) : Inv (s.meet r f ls) := by
  unfold State.meet
  refine foldl_keeps Inv _ _ _ (fun t l h => ?_) i
  split
  · exact State.inv_uncorrectable h _ _
  · split
    · exact State.inv_corrected h _ _ _
    · exact h

/-- Lines are read for a write in part (R395). -/
theorem State.inv_merge {s : State} (i : Inv s) (r : Reader) (f : Faults) (ls : List Nat) : Inv (s.merge r f ls) := by
  unfold State.merge
  refine foldl_keeps Inv _ _ _ (fun t l h => ?_) i
  split
  · exact inv_of_mem (State.mark_mem _ _) h
  · split
    · exact State.inv_corrected h _ _ _
    · exact h

/-- A write that may cover lines in part. -/
theorem State.inv_put {s : State} (i : Inv s) (r : Reader) (f : Faults) (a : Nat) (d : List Byte) : Inv (s.put r f a d) :=
  State.inv_store (State.inv_merge i _ _ _) _ _

/-- A write to host memory. -/
theorem State.inv_hostWrite {s t : State} (i : Inv s) {h : HostId} {a : Nat} {d : List Byte} (e : s.hostWrite h a d = some t) :
    Inv t := by
  unfold State.hostWrite at e
  split at e
  · cases e
    exact State.inv_store i _ _
  · cases e

/-- A write at a job address. -/
theorem State.inv_jobStore {s : State} (i : Inv s) (pt : NMap Nat) (va : Nat) (d : List Byte) : Inv (s.jobStore pt va d) := by
  unfold State.jobStore
  refine foldl_keeps Inv _ _ _ (fun t l h => ?_) i
  dsimp only
  split
  · exact State.inv_store h _ _
  · exact h

/-- A write at a job address that takes lines off the lost-line list (R400). -/
theorem State.inv_jobPut {s : State} (i : Inv s) (j va : Nat) (d : List Byte) : Inv (s.jobPut j va d) := by
  unfold State.jobPut
  split
  · exact i
  · exact inv_of_mem (State.modJob_mem _ _ _) (State.inv_jobStore i _ _ _)

/-- A completion record is written (R409). -/
theorem State.inv_writeRecord {s t : State} (i : Inv s) {j : Nat} {x : TaskRun} {n : Nat} (e : s.writeRecord j x n = some t) :
    Inv t := by
  unfold State.writeRecord at e
  split at e
  · cases e
  · dsimp only at e
    split at e
    · cases e
      exact State.inv_jobPut i _ _ _
    · cases e

/-- A task meets its first failure (R407). -/
theorem State.inv_taskFault {s : State} (i : Inv s) (j id st : Nat) (c : Option EventRec) : Inv (s.taskFault j id st c) := by
  unfold State.taskFault
  split
  · exact i
  · split
    · exact State.inv_postMaybe i c
    · dsimp only
      refine inv_of_mem (State.modTask_mem _ _ _ _) ?_
      split
      · refine State.inv_post ?_ _
        exact i
      · exact i

/-- A failed task ends (R407, R409). -/
theorem State.inv_endFailedAs {s : State} (i : Inv s) (n : Bool) (j id : Nat) : Inv (s.endFailedAs n j id) := by
  unfold State.endFailedAs
  split
  · split
    · exact i
    · have g : ∀ (w : TaskRun) (m : Nat) (e : EventRec), Inv (match s.writeRecord j w m with
          | some z => z
          | none => if n then s else s.post e) := fun w m e => by
        split
        next z h => exact State.inv_writeRecord i h
        next => exact inv_ite i (State.inv_post i e)
      have k : ∀ {u : State}, Inv u → ∀ f r q, Inv (((u.modTask j id f).putReport r).modRun j q) := fun v f r q =>
        inv_of_mem (State.modRun_mem _ _ _) (inv_of_mem (State.putReport_mem _ _) (inv_of_mem (State.modTask_mem _ _ _ _) v))
      dsimp only
      exact inv_ite (inv_of_mem (State.refine_mem _ _ _) (k (State.inv_post (g _ _ _) _) _ _ _))
        (inv_of_mem (State.resolveNotRun_mem _ _) (k (State.inv_post (g _ _ _) _) _ _ _))
  · exact i

theorem State.inv_endFailed {s : State} (i : Inv s) (j id : Nat) : Inv (s.endFailed j id) := State.inv_endFailedAs i _ _ _

/-- A task completes (R68, R409). -/
theorem State.inv_endDone {s : State} (i : Inv s) (j id : Nat) : Inv (s.endDone j id) := by
  unfold State.endDone
  split
  · dsimp only
    split
    · rename_i e
      have h := fun (f : TaskRun → TaskRun) =>
        inv_of_mem (State.modTask_mem _ j id f) (State.inv_writeRecord i e)
      have k := fun (f : TaskRun → TaskRun) (c : Nat) => inv_of_mem (State.incCtr_mem _ j c) (h f)
      refine inv_ite ?_ (inv_of_mem (State.resolveNotRun_mem _ _) ?_)
      · split
        · exact k _ _
        · exact h _
      · split
        · exact k _ _
        · exact h _
    · exact State.inv_endFailedAs (State.inv_taskFault i _ _ _ _) _ _ _
  · exact i

/-- A started task is stopped by an abort (R412). -/
theorem State.inv_endAborted {s : State} (i : Inv s) (j id : Nat) : Inv (s.endAborted j id) := by
  unfold State.endAborted
  split
  · dsimp only
    have h := fun (f : TaskRun → TaskRun) => inv_of_mem (State.modTask_mem s j id f) i
    split
    · rename_i e
      exact inv_of_mem (State.refine_mem _ _ _) (State.inv_writeRecord (h _) e)
    · exact inv_ite (inv_of_mem (State.refine_mem _ _ _) (State.inv_post (h _) _))
        (State.inv_endFailedAs (State.inv_taskFault i _ _ _ _) _ _ _)
  · exact i

/-- A job is aborted (R66). -/
theorem State.inv_abortJob {s : State} (i : Inv s) (j : Nat) : Inv (s.abortJob j) := by
  unfold State.abortJob
  split
  · exact i
  · split
    · exact i
    · refine inv_of_mem (State.completeBoth_mem _ _) (inv_of_mem rfl ?_)
      refine inv_of_mem (foldl_mem _ _ _ (fun t q => State.notice_mem _ _ _ _ _)) ?_
      exact foldl_keeps Inv _ _ _ (fun t k h => State.inv_endAborted h _ _) (inv_of_mem rfl i)

/-- A job-fatal error (R66, R411). -/
theorem State.inv_jobFatal {s : State} (i : Inv s) (j : Nat) (c : Option EventRec) (n : Nat) : Inv (s.jobFatal j c n) := by
  unfold State.jobFatal
  split
  · exact State.inv_postMaybe i c
  · split
    · exact State.inv_postMaybe i c
    · have h : ∀ r, Inv ((c.map (fun (e : EventRec) => s.post { e with report := r })).getD s) := fun r => by
        cases c with
        | none => exact i
        | some e => exact State.inv_post i _
      dsimp only
      have g := fun (r : Report) (e : EventRec) (n : Nat) => State.inv_post (inv_of_mem (State.addReport_mem _ r) (h n)) e
      refine State.inv_abortJob (inv_of_mem (State.modJob_mem _ _ _) (inv_ite ?_ (g _ _ _))) _
      exact g _ _ _

/-- An aborted job is released (R66). -/
theorem State.inv_releaseJob {s : State} (i : Inv s) (j : Nat) : Inv (s.releaseJob j) := by
  unfold State.releaseJob
  split
  · exact i
  · dsimp only
    refine inv_of_mem (State.completeBoth_mem _ _) (inv_of_mem rfl ?_)
    have h := foldl_keeps Inv (fun (t : State) k => t.endAborted j k) (Job.tasksIn ‹Job› .running) s
      (fun t k h => State.inv_endAborted h _ _) i
    split
    · exact inv_of_mem (State.notice_mem _ _ _ _ _) h
    · exact h

/-! ### What a task reads and writes -/

theorem State.inv_badBody {s : State} (i : Inv s) (x : EngRun) : Inv (s.badBody x) := State.inv_taskFault i _ _ _ _

theorem State.inv_badAddr {s : State} (i : Inv s) (x : EngRun) (a : Nat) : Inv (s.badAddr x a) := State.inv_taskFault i _ _ _ _

/-- Tensor data is read (R406). -/
theorem State.inv_dataMeet {s : State} (i : Inv s) (j : Nat) (t : TaskRun) (f : Faults) (ls : List Nat) :
    Inv (s.dataMeet j t f ls) := inv_of_mem (State.bpMem_mem _ _ _ _ _) (State.inv_meet i _ _ _)

theorem State.inv_readMeet {s : State} (i : Inv s) (x : EngRun) (f : Faults) (ls : List Nat) : Inv (s.readMeet x f ls) :=
  State.inv_dataMeet i _ _ _ _

/-- Control data is read (R406). -/
theorem State.inv_ctlMeet {s : State} (i : Inv s) (j : Nat) (t : TaskRun) (f : Faults) (ls : List Nat) :
    Inv (s.ctlMeet j t f ls) := by
  unfold State.ctlMeet
  refine inv_of_mem (State.bpMem_mem _ _ _ _ _) (foldl_keeps Inv _ _ _ (fun u l h => ?_) i)
  dsimp only
  split
  · exact State.inv_wear (State.inv_taskFault (inv_of_mem ((State.countUnc_mem _ _).trans (State.mark_mem _ _)) h) _ _ _ _) _ _
  · split
    · exact State.inv_corrected h _ _ _
    · exact h

/-- One step's writes land (R395, R398). -/
theorem State.inv_engWrite {s : State} (i : Inv s) (x : EngRun) (f : Faults) (w : Writes) : Inv (s.engWrite x f w) :=
  inv_of_mem (State.bpMem_mem _ _ _ _ _) (foldl_keeps Inv _ _ _ (fun _ _ h => State.inv_put h _ _ _ _) i)

/-- A line becomes lost to a job (R400). -/
theorem State.inv_addLost {s : State} (i : Inv s) (j va : Nat) : Inv (s.addLost j va) := by
  unfold State.addLost
  split
  · exact i
  · split
    · exact i
    · split
      · exact State.inv_jobFatal i _ _ _
      · exact inv_of_mem rfl i

/-- A transfer's writes land (R399, R400). -/
theorem State.inv_moveWrite {s : State} (i : Inv s) (x : EngRun) (f : Faults) (w : Writes) (bad : List Nat) :
    Inv (s.moveWrite x f w bad) := by
  unfold State.moveWrite
  dsimp only
  refine foldl_keeps Inv _ _ _ (fun t l h => ?_) (foldl_keeps Inv _ _ _ (fun t l h => ?_) (State.inv_engWrite i _ _ _))
  · split
    · have g := foldl_keeps Inv (fun (t : State) (p : Nat × List Byte) => t.store p.1 (zeros p.2.length)) (runsOf (lineBytes w l)) t
        (fun u p h => State.inv_store h _ _) h
      split
      · exact State.inv_addLost g _ _
      · exact g
    · exact inv_of_mem (State.mark_mem _ _) h
  · split
    · exact inv_of_mem (State.modJob_mem _ _ _) h
    · exact h

/-- Whole lines are copied (R399, R400). -/
theorem State.inv_carry {s : State} (i : Inv s) (r : Reader) (f : Faults) (j : Nat) (pt : NMap Nat) (a b n : Nat) :
    Inv (s.carry r f j pt a b n) := by
  unfold State.carry
  refine foldl_keeps Inv _ _ _ (fun t k h => ?_) i
  have g := State.inv_meet h r f [a + 64 * k]
  dsimp only
  split
  · split
    · split
      · exact State.inv_addLost (State.inv_store g _ _) _ _
      · exact inv_of_mem (State.modJob_mem _ _ _) (State.inv_store g _ _)
    · exact State.inv_store g _ _
  · split
    · exact inv_of_mem (State.mark_mem _ _) g
    · exact State.inv_store g _ _

/-- A leg writes at a job address. -/
theorem State.inv_legPut {s : State} (i : Inv s) (x : EngRun) (f : Faults) (va : Nat) (d : List Byte) : Inv (s.legPut x f va d) :=
  inv_of_mem (State.bpMem_mem _ _ _ _ _) (inv_of_mem (State.modJob_mem _ _ _) (State.inv_jobStore (State.inv_merge i _ _ _) _ _ _))

/-- A bound record is written (R131). -/
theorem State.inv_writeBound {s : State} (i : Inv s) (x : EngRun) (a m : Nat) : Inv (s.writeBound x a m) := by
  unfold State.writeBound
  split
  · exact i
  · split
    · exact State.inv_legPut i _ _ _ _
    · exact State.inv_badAddr i _ _

/-- A task becomes ready (R68, R484). -/
theorem State.inv_becomeReady {s : State} (i : Inv s) (f : Faults) (j : Nat) (t : TaskRun) : Inv (s.becomeReady f j t) := by
  have e : ∀ {u : State} (o : Option TaskRun), Inv u → Inv (match o with
      | some t2 => if t2.fail.isSome then u.endFailed j t.hdr.id else u
      | none => u) := fun o h => by
    cases o with
    | none => exact h
    | some _ => exact inv_ite (State.inv_endFailed h _ _) h
  have m := fun (h : TaskRun → TaskRun) => inv_of_mem (State.modTask_mem s j t.hdr.id h) i
  unfold State.becomeReady
  split
  · exact i
  · refine inv_ite (State.inv_endFailed (State.inv_taskFault (m _) _ _ _ _) _ _) ?_
    exact e _ (State.inv_ctlMeet (m _) j t f _)

/-- The waiting tasks of a job wake (R68). -/
theorem State.inv_wakeTasks {s : State} (i : Inv s) (f : Faults) (j : Nat) : Inv (s.wakeTasks f j) := by
  unfold State.wakeTasks
  split
  · exact i
  · split
    · exact i
    · refine foldl_keeps Inv _ _ _ (fun t k h => ?_) i
      split
      · split
        · exact State.inv_becomeReady h _ _ _
        · exact h
      · exact h

/-- An outside increment of a counter (R68). -/
theorem State.inv_bump {s : State} (i : Inv s) (f : Faults) (j c : Nat) : Inv (s.bump f j c) :=
  State.inv_wakeTasks (inv_of_mem (State.incCtr_mem _ _ _) i) _ _

/-- A step of the engine that a unit runs keeps what its own part keeps. -/
theorem State.inv_onEngine {s : State} (i : Inv s) (g : GroupId) (f : EngRun → State) (h : ∀ x, s.engine g = some x → Inv (f x)) :
    Inv (s.onEngine g f) := by
  unfold State.onEngine
  split
  · rename_i e
    exact h _ e
  · exact i

/-! ### Commands, requests and frames -/

/-- The memory that an answer leaves is that of the command's own part. -/
@[simp] theorem cmdAnswer_mem (op : Nat) (h : HostId) (c : CmdRec) (r : CmdRes) :
    (cmdAnswer op h c r).mem = (match r with
      | .done t _ _ => t
      | .doneAt t _ _ _ => t
      | .later t _ => t).mem := by
  cases r with
  | done t st n => exact State.record_mem _ _ _ _ _ _ _ _ _
  | doneAt t st n g => exact State.record_mem _ _ _ _ _ _ _ _ _
  | later t k => exact State.setHost_mem _ _ _

/-- A mailbox command keeps what its own part keeps. -/
theorem State.inv_command {s : State} (i : Inv s) (sp : CmdSpec) (h : HostId) (c : CmdRec) (body : State → CmdRes)
    (b : ∀ t, Inv t → Inv (match body t with
      | .done u _ _ => u
      | .doneAt u _ _ _ => u
      | .later u _ => u)) : Inv (s.command sp h c body) := by
  unfold State.command
  split
  · exact i
  · dsimp only
    split
    · exact inv_of_mem ((State.record_mem _ _ _ _ _ _ _ _ _).trans (State.take_mem _ _ _ _)) i
    · split
      · exact inv_of_mem ((State.record_mem _ _ _ _ _ _ _ _ _).trans (State.begun_mem _ _ _ _)) i
      · exact inv_of_mem (cmdAnswer_mem _ _ _ _) (b _ (inv_of_mem (State.begun_mem _ _ _ _) i))

/-- The debug controller's answer leaves memory. -/
@[simp] theorem State.answer_mem (s : State) (q : BitVec 512) (st r : Nat) (d : List Byte) : (s.answer q st r d).mem = s.mem := rfl

/-- A debug request keeps what its own part keeps. -/
theorem State.inv_request {s : State} (i : Inv s) (d : DbgSpec) (body : BitVec 512 → State → DbgRes)
    (b : ∀ q t, Inv t → Inv (body q t).1) : Inv (s.request d body) := by
  unfold State.request
  split
  · exact i
  · split
    · exact i
    · dsimp only
      split
      · exact inv_of_mem (State.answer_mem _ _ _ _ _) (inv_of_mem rfl i)
      · exact inv_of_mem (State.answer_mem _ _ _ _ _) (b _ _ (inv_of_mem rfl i))

/-- A data frame keeps what its own part keeps. -/
theorem State.inv_receive {s : State} (i : Inv s) (fr : Frame) (f : State → State) (h : ∀ t, Inv t → Inv (f t)) :
    Inv (s.receive fr f) := by
  unfold State.receive
  dsimp only
  split
  · exact i
  · split
    · exact inv_of_mem rfl i
    · split
      · exact h _ (inv_of_mem rfl i)
      · exact inv_of_mem (State.forward_mem _ _) (inv_of_mem rfl i)

/-- A control frame keeps what its own part keeps. -/
theorem State.inv_receiveCtl {s : State} (i : Inv s) (c : CtrlFrame) (f : State → State) (h : ∀ t, Inv t → Inv (f t)) :
    Inv (s.receiveCtl c f) := by
  unfold State.receiveCtl
  dsimp only
  split
  · exact i
  · exact h _ (inv_of_mem rfl i)

/-- A debug request that `Requests` names runs its own part. -/
theorem State.request_runs {s b : State} {q : BitVec 512} {d : DbgSpec} (h : Requests s q d b) (body : BitVec 512 → State → DbgRes) :
    s.request d body = (body q b).1.answer q (body q b).2.1 (body q b).2.2.1 (body q b).2.2.2 := by
  obtain ⟨up, op, lv, cl, rest, e, rfl⟩ := h
  have n : ¬ s.dbg.level < d.level := by omega
  simp [State.request, e, up, op, cl, n]

/-- A data frame that `Received` names runs its own part. -/
theorem State.receive_runs {s b : State} {fr : Frame} (h : Received s fr b) (f : State → State) : s.receive fr f = f b := by
  obtain ⟨lv, jo, up, ke, ow, rfl⟩ := h
  have o : (fr.typ == 9 || fr.dest.toNat == s.dom.deviceId) = true := by simpa using ow
  have l : (!(s.live && s.dom.joined && (s.port fr.port.toNat).st == .up)) = false := by simp [lv, jo, up]
  simp only [State.receive, l, ke, o, Bool.not_true, if_true, Bool.false_eq_true, if_false]

/-- A control frame that `ReceivedCtl` names runs its own part. -/
theorem State.receiveCtl_runs {s b : State} {c : CtrlFrame} (h : ReceivedCtl s c b) (f : State → State) :
    s.receiveCtl c f = f b := by
  obtain ⟨lv, st, rfl⟩ := h
  have l : (!(s.live && ((s.port c.port.toNat).st == .up || (s.port c.port.toNat).st == .narrowing
      || ((s.port c.port.toNat).st == .training && (s.port c.port.toNat).phase == 5)))) = false := by
    rcases st with e | e | ⟨e, p⟩
    · simp [lv, e]
    · simp [lv, e]
    · simp [lv, e, p]
  simp only [State.receiveCtl, l, Bool.false_eq_true, if_false]

end Sys2Proof.Machine
end

