-- ==== Sys2Proof/WellFormed.lean ====
section
/-! DEFINITION. Which commands are well formed: the operands that the manual's own sizes allow. Widths of single
fields stand in the types of `Instr`; here are the sizes of lists and the alignments that a type does not hold. A
meaning is total on ill-formed commands as well. -/
namespace Sys2Proof

/-- A line address is a multiple of 64 (R394). -/
def lineAddr (a : BitVec 48) : Bool := a.toNat % 64 == 0

/-- The lines that a step's reads meet are line addresses. -/
def Faults.wf (f : Faults) : Bool := f.corr.all lineAddr && f.uncorr.all lineAddr

/-- Rail status reads name the rails 0 … 30 (R420). -/
def railsWf (l : List RailStatus) : Bool := l.all (fun r => decide (r.rail.toNat ≤ 30))

/-- What the sensors give covers at most the units the package has (R1, R426). -/
def TickIn.wf (i : TickIn) : Bool :=
  decide (i.energy.length ≤ 8) && decide (i.tempC.length ≤ 8) && decide (i.tempS.length ≤ 4)
    && decide (i.tempI.length ≤ 2) && decide (i.tempH.length ≤ 16) && decide (i.railPower.length ≤ 31)

/-- A data frame's payload: 64 … 512 bytes in whole 64-byte units (R279, UNITS_M1 of R281). -/
def Frame.wf (f : Frame) : Bool :=
  f.payload.length % 64 == 0 && decide (64 ≤ f.payload.length ∧ f.payload.length ≤ 512)

/-- The command's operands have the sizes that the manual gives them. -/
def Instr.wf : Instr → Bool
  | .pmbAlert l | .regulatorPoll l => railsWf l
  | .tick i => i.wf
  | .startLeg _ f | .matrixTile _ f | .outputDrain _ f | .elementIteration _ f | .tapSweepIteration _ f
  | .moverPiece _ _ f | .attentionPair _ f | .appendTokens _ f | .saddlebagFlush _ f | .haloStampSeen _ f
  | .haloPublish _ f | .taskComplete _ f | .groupSettle _ _ f | .slowTierFetchDone _ _ _ f
  | .slowTierWriteback _ _ _ f | .kvPreempt _ _ f | .kvFerryBack _ _ f | .mediaSampleTake _ f
  | .mediaDecodeDone _ _ f | .collectiveChunkStep _ _ f | .dbgRead f | .dbgWrite f | .tasklistLoad _ _ f
  | .mediaChannelOpen _ _ f | .trainStateSet _ _ f | .collGroupSet _ _ f | .jobMapSet _ _ f | .jobReshard _ _ f
  | .fabricPeersSet _ _ f | .reshardStart _ ⟨_, _, f⟩ => f.wf
  | .frameWrite fr | .frameWriteAck fr | .frameReadData fr | .frameSignal fr | .frameSignalAck fr
  | .frameTxnNack fr | .frameService fr | .frameReservedType fr | .collectiveData fr | .collectiveReady fr
  | .collectiveAck fr | .collectiveAbort fr | .timeRequest fr | .timeResponse fr => fr.wf
  | .frameRead fr f => fr.wf && f.wf
  | .bar4Read _ _ n _ f => decide (1 ≤ n.toNat ∧ n.toNat ≤ 4096) && f.wf
  | .bar4Write _ _ d _ f => decide (1 ≤ d.length ∧ d.length ≤ 4096) && f.wf
  | .stageRenumber _ p => decide (25 ≤ p.toNat ∧ p.toNat ≤ 10000)
  | .scrubLine a _ => lineAddr a
  | .reservedOpcodeCommand _ op _ => !opcodes.contains op.toNat
  | .updManifestPiece _ _ d | .updChunkPiece _ _ d => decide (d.length ≤ 1024)
  | .getVersion _ m | .getCapabilities _ m | .negotiateAlgorithms _ m | .getDigests _ m | .getCertificate _ m
  | .spdmChallenge _ m | .getMeasurements _ m | .keyExchange _ m | .finish _ m | .endSession _ m
  | .spdmUnsupportedRequest _ m => !m.isEmpty
  | _ => true

end Sys2Proof
end

