-- ==== Sys2Proof/Tests/Slice0.lean ====
section
/-! SUPPORT. Tests of the model on small states: the refusals of WellFormed, numbers worked from the manual, and for every
statement a state that meets its hypotheses. -/
namespace Sys2Proof.Tests

-- Theorems are checked one after another, so that few are held in memory at once.
set_option Elab.async false

open Sys2Proof Sys2Proof.Machine

/-- No line of a step reads with an error. -/
def clean : Faults := ⟨[], [], []⟩

/-- A host port with its link up, one slot presented, messages enabled on vector 0. -/
def port : HostPort := { HostPort.init with perst := false, link := true, cmdTail := 1, msixOn := true, msixProg := 1 }

/-- A device in service in stage 100, both links up. -/
def rdy : State := { State.reset with
  pwrok := true, phase := 8, cfgActive := true, ready := true, ticking := true, stage := 100, now := 17000000
  hostA := port, hostB := { port with cmdTail := 0 } }

/-- A 448-bit parameter block from values placed at byte offset and bit. -/
def pars (l : List (Nat × Nat × Nat)) : BitVec 448 := BitVec.ofNat 448 (l.map (fun p => p.2.2 * 2 ^ ((p.1 - 8) * 8 + p.2.1))).sum

/-- A command record of the device, first in sequence. -/
def cmd (l : List (Nat × Nat × Nat)) : CmdRec := ⟨0xFF, 0, 1, pars l⟩

/-- A command record for job 1. -/
def jcmd (l : List (Nat × Nat × Nat)) : CmdRec := ⟨1, 0, 1, pars l⟩

/-- Job 1 of host A with tile store 0 … 1 MiB on cores 0 and 1 and its first 64 pages at page 0x1000 of memory. -/
def job1 : Job := { Job.create .a false 0 0 1 7 0 0 0x100000 3 [] with
  pt := (List.range 64).map (fun k => (k, (k + 8) * 2 ^ 21)), ptNext := (List.range 64).map (fun k => (k, (k + 8) * 2 ^ 21)) }

/-- The device with job 1. -/
def withJob (j : Job) : State := { rdy with jobs := [(1, j)] }

/-- `n` bytes from values placed at byte offsets. -/
def raw (n : Nat) (l : List (Nat × Nat)) : List Byte := toLE n (l.map (fun p => p.2 * 2 ^ (8 * p.1))).sum

/-- A state with bytes at a job address of job 1. -/
def poke (s : State) (va : Nat) (b : List Byte) : State := s.jobStore job1.pt va b

/-- A root key of modulus 2^4096 − 1 and exponent 1, for which a signature is the padded message itself. -/
def key : List Byte := List.replicate 512 0xFF#8 ++ [0, 0, 0, 1]
/-- SHA-512 of one zero byte, of the key and of the manifest below, computed outside the model. -/
def hash0 : List Byte := toBE 64 0xb8244d028981d693af7b456af8efa4cad63d282e19ff14942c246e50d9351d22704a802a71c3580b6370de4ceb293c324a8423342557d4e5c38438f0e36910ee
def hashKey : List Byte := toBE 64 0xe813b11ac2cca0d934fb3551c1d9858e1e08bffa8b3566951f38b10b7343c3b6a784fc41de6691f2ab24a9e31cd4437ca9a2fc0a25ba2e3bb9d6f5c4a047f4a2
def hashMani : List Byte := toBE 64 0xfe16169b8e1b614d6a70fca9630c3f27c82369c5fbed1f49e09ba1f9f1dcbb0cde68f634cdfc889fc16b64f551bbefc088c3bd85c2fc3734b144912b75d0ab1c
/-- Component `i`: one zero byte at the start of chunk `i`. -/
def comp (i : Nat) : List Byte := raw 64 [(0, i + 1), (8, 65536 * i), (0xC, 1)] ++ hash0
/-- A manifest of eight chunks for part PZ8X, unsigned and signed; every chunk but the last is 65,536 zero bytes, of which
the tests never take the hash. -/
def mani : List Byte := raw 64 [(0, 0x464D5A50), (4, 1 + 8 * 2 ^ 16 + 3 * 2 ^ 24), (8, 0x0D80 + 2 ^ 16), (0xC, 8 * 2 ^ 16),
    (0x10, 7 * 65536 + 1), (0x14, 2688)]
  ++ (List.range 8).flatMap comp ++ zeros (7 * 64) ++ hash0 ++ key ++ zeros 60
def signed : List Byte := mani ++ [0, 1] ++ List.replicate 426 0xFF ++ [0, 0x30, 0x51, 0x30, 0x0D, 6, 9, 0x60, 0x86, 0x48, 1, 0x65, 3, 4, 2, 3, 5, 0, 4, 0x40]
  ++ hashMani
def fused : State := { rdy with fuses := { Fuses.init with rootKeyHash := hashKey } }
/-- Host memory of host A holds bytes at bus address 4096. -/
def inHost (s : State) (b : List Byte) : State := s.store (hostBase .a + 4096) b

/-- A delivery with no chunk held, in bank B. -/
def delivering : State := { fused with flash := { fused.flash with delivery := some ⟨[], 8, []⟩, bankB := ⟨signed, []⟩ } }

/-! ### The queue, the mailbox -/

theorem test_step_front : ({ rdy with pending := [.trstN, .refclkLoss] } : State).pending = .trstN :: [.refclkLoss] := by decide +kernel

theorem test_idle_both : ({ rdy with pwrok := false } : State).pending = [] ∧ rdy.pwrok = true ∧ rdy.pending = [] := by decide +kernel

theorem test_inv_rdy : Machine.Inv rdy := by
  unfold Machine.Inv
  decide +kernel

theorem test_slot_named : (Instr.powerCapSet .a (cmd [(0x08, 0, 500)])).mailbox = some (.a, 0x0003, cmd [(0x08, 0, 500)]) := by
  decide +kernel

/-- A command out of sequence, one that waits, one on a fatal device, one with a reserved byte. -/
theorem test_mailbox_hypotheses :
    (rdy.mayTake .a = true ∧ rdy.turnOf .a = true ∧ ({ cmd [] with hsn := 2 } : CmdRec).hsn.toNat ≠ (rdy.host .a).expHsn)
    ∧ rdy.mayTake .b = false ∧ ({ rdy with hostB := port, turn := some .a } : State).turnOf .a = false
    ∧ (({ rdy with fatal := true } : State).mayTake .a = true ∧ ({ rdy with fatal := true } : State).turnOf .a = true
      ∧ (cmd []).hsn.toNat = (({ rdy with fatal := true } : State).host .a).expHsn)
    ∧ (rdy.fatal = false ∧ ({ cmd [] with rsvd := 1 } : CmdRec).rsvd ≠ 0#8
      ∧ ({ cmd [] with rsvd := 1 } : CmdRec).hsn.toNat = (rdy.host .a).expHsn) := by decide +kernel

/-- A command runs where its record is right and its host's slot is in front. -/
theorem test_runs_deviceConfig :
    (rdy.runs specDeviceConfig .a (cmd [(0x08, 0, 25)]) = true ∧ 25 ≤ (cmd [(0x08, 0, 25)]).par 0x08 0 14
      ∧ (cmd [(0x08, 0, 25)]).par 0x08 0 14 ≤ 10000 ∧ (rdy.begun 2 .a (cmd [(0x08, 0, 25)])).dom.joined = false)
    ∧ (rdy.runs specDeviceConfig .a (cmd [(0x08, 0, 10000)]) = true ∧ (cmd [(0x08, 0, 10000)]).par 0x08 0 14 ≤ 10000) := by
  decide +kernel

theorem test_runs_powerCapSet : rdy.runs specPowerCapSet .a (cmd [(0x08, 0, 2800)]) = true
    ∧ 60 * rdy.part.pkgMaxW ≤ 100 * (cmd [(0x08, 0, 2800)]).par 0x08 0 16
    ∧ (cmd [(0x08, 0, 2800)]).par 0x08 0 16 ≤ rdy.part.pkgMaxW := by decide +kernel

/-- Both cores of the second host's grant, none in use. -/
def grantCmd : CmdRec := cmd [(0x08, 0, 3), (0x18, 0, 1), (0x18, 16, 3)]
theorem test_runs_hostBPartitionSet : rdy.runs specHostBPartitionSet .a grantCmd = true ∧ rdy.part.dual = true
    ∧ subMask (grantCmd.par 0x08 0 128) (2 ^ rdy.part.cores - 1) = true
    ∧ subMask (grantCmd.par 0x18 0 16) (2 ^ rdy.part.hbms - 1) = true
    ∧ subMask (grantCmd.par 0x18 16 2) rdy.part.mediaHalves = true ∧ rdy.anyHalfB = false
    ∧ subMask (rdy.begun 4 .a grantCmd).usedByB.1 (grantCmd.par 0x08 0 128) = true
    ∧ subMask (rdy.begun 4 .a grantCmd).usedByB.2.1 (grantCmd.par 0x18 0 16) = true
    ∧ subMask (rdy.begun 4 .a grantCmd).usedByB.2.2 (grantCmd.par 0x18 16 2) = true := by decide +kernel

theorem test_runs_caravaneerTakeover : rdy.runs specCaravaneerTakeover .a (cmd []) = true ∧ rdy.part.dual = true
    ∧ (rdy.begun 5 .a (cmd [])).anyHalted = false ∧ (rdy.begun 5 .a (cmd [])).dbg.replay = none
    ∧ (rdy.begun 5 .a (cmd [])).takeover = 0 := by decide +kernel

/-- Off, and on at the last address that leaves room for the ring. -/
theorem test_runs_eventMirrorSet :
    (rdy.runs specEventMirrorSet .a (cmd []) = true ∧ (cmd []).par 0x08 0 64 % 4096 = 0 ∧ (cmd []).par 0x10 0 1 = 0)
    ∧ (rdy.runs specEventMirrorSet .a (cmd [(0x08, 0, 2 ^ 46 - 4 * 2 ^ 20), (0x10, 0, 1)]) = true
      ∧ (cmd [(0x08, 0, 2 ^ 46 - 4 * 2 ^ 20), (0x10, 0, 1)]).par 0x08 0 64 % 4096 = 0
      ∧ (cmd [(0x08, 0, 2 ^ 46 - 4 * 2 ^ 20), (0x10, 0, 1)]).par 0x10 0 1 ≠ 0
      ∧ (cmd [(0x08, 0, 2 ^ 46 - 4 * 2 ^ 20), (0x10, 0, 1)]).par 0x08 0 64 + 4 * 2 ^ 20 ≤ 2 ^ 46) := by decide +kernel

theorem test_runs_mbxResync : rdy.mayTake .a = true ∧ rdy.turnOf .a = true ∧ ({ cmd [] with hsn := 0 } : CmdRec).hsn = 0#32
    ∧ (cmd []).rsvd = 0#8 ∧ (cmd []).job = 0xFF#8 ∧ (cmd []).params = 0#448 := by decide +kernel

/-- A device that keeps report 1. -/
def reported : State := { rdy with reports := [⟨1, 0x0204, 2, 1, 5, ⟨90, 3⟩, 7, []⟩] }
def reportCmd : CmdRec := cmd [(0x08, 0, 1), (0x10, 0, 4096), (0x18, 0, 4096)]
theorem test_runs_faultReportGet : reported.runs specFaultReportGet .a reportCmd = true ∧ reportCmd.par 0x10 0 64 % 8 = 0
    ∧ ((reported.begun 9 .a reportCmd).reports.find? (fun (y : Report) => y.id == reportCmd.par 0x08 0 32)
        = some ⟨1, 0x0204, 2, 1, 5, ⟨90, 3⟩, 7, []⟩)
    ∧ ((reported.begun 9 .a reportCmd).hostWrite .a (reportCmd.par 0x10 0 64)
        (Report.cut ⟨1, 0x0204, 2, 1, 5, ⟨90, 3⟩, 7, []⟩ (reportCmd.par 0x18 0 32))).isSome = true := by decide +kernel

theorem test_runs_reservedOpcode : opcodes.contains (0x000A#16).toNat = false
    ∧ rdy.runs ⟨0x000A, false, false, false, false, [(0x08, 0, 448)]⟩ .a (cmd [(0x08, 0, 77)]) = true := by decide +kernel

/-! ### Jobs, steps, caches -/

/-- A job on core 0 and stack 0. -/
def createCmd : CmdRec := cmd [(0x0C, 16, 1), (0x10, 0, 7), (0x30, 0, 12 * 2 ^ 20), (0x20, 0, 1)]
theorem test_runs_jobCreate : rdy.runs specJobCreate .a createCmd = true
    ∧ (rdy.begun 0x101 .a createCmd).dbg.replay = none ∧ createCmd.par 0x20 0 128 ≠ 0 ∧ createCmd.par 0x0C 16 16 ≠ 0
    ∧ subMask (createCmd.par 0x20 0 128) (2 ^ rdy.part.cores - 1) = true
    ∧ subMask (createCmd.par 0x0C 16 16) (2 ^ rdy.part.hbms - 1) = true
    ∧ createCmd.par 0x08 1 2 < rdy.part.serais ∧ createCmd.par 0x18 0 24 ≤ 8500000 ∧ createCmd.par 0x1C 0 24 % 64 = 0
    ∧ createCmd.par 0x30 0 24 % 64 = 0 ∧ createCmd.par 0x1C 0 24 + createCmd.par 0x30 0 24 ≤ 12 * 2 ^ 20
    ∧ createCmd.par 0x0C 0 16 = 0 ∧ (rdy.begun 0x101 .a createCmd).freeJob = some 0
    ∧ (rdy.begun 0x101 .a createCmd).jobs = []
    ∧ ((rdy.begun 0x101 .a createCmd).allocJob (createCmd.par 0x0C 16 16)
        (2 * (bitList 128 (createCmd.par 0x20 0 128)).length)).isSome = true := by decide +kernel

theorem test_runs_jobDestroy : (withJob job1).runs specJobDestroy .a (jcmd []) = true := by decide +kernel

/-- Host pages, and HBM pages, mapped at job page 64; pages 0 … 3 unmapped. -/
def mapHost : CmdRec := jcmd [(0x08, 0, 64 * 2 ^ 21), (0x10, 0, 1), (0x10, 24, 2), (0x20, 0, 2 ^ 46 - 2 ^ 21)]
def mapHbm : CmdRec := jcmd [(0x08, 0, 2 ^ 44 - 2 ^ 21), (0x10, 0, 1)]
theorem test_runs_memMap :
    ((withJob job1).runs specMemMap .a mapHost = true ∧ ((withJob job1).begun 0x103 .a mapHost).job 1 = some job1
      ∧ mapHost.par 0x08 0 44 % 2 ^ 21 = 0 ∧ mapHost.par 0x10 0 23 ≠ 0
      ∧ mapHost.par 0x08 0 44 + mapHost.par 0x10 0 23 * 2 ^ 21 ≤ 2 ^ 44
      ∧ (∀ k < mapHost.par 0x10 0 23, mget job1.ptNext (mapHost.par 0x08 0 44 / 2 ^ 21 + k) = none)
      ∧ mapHost.par 0x10 24 2 = 2 ∧ mapHost.par 0x20 0 64 % 2 ^ 21 = 0
      ∧ mapHost.par 0x20 0 64 + mapHost.par 0x10 0 23 * 2 ^ 21 ≤ 2 ^ 46)
    ∧ ((withJob job1).runs specMemMap .a mapHbm = true ∧ mapHbm.par 0x08 0 44 % 2 ^ 21 = 0
      ∧ mapHbm.par 0x08 0 44 + mapHbm.par 0x10 0 23 * 2 ^ 21 ≤ 2 ^ 44
      ∧ (∀ k < mapHbm.par 0x10 0 23, mget job1.ptNext (mapHbm.par 0x08 0 44 / 2 ^ 21 + k) = none)
      ∧ mapHbm.par 0x10 24 2 = 0 ∧ mapHbm.par 0x18 0 16 = 0
      ∧ (((withJob job1).begun 0x103 .a mapHbm).allocPages (mapHbm.par 0x10 0 23) (stackRanges job1.hbms)).isSome = true) := by
  decide +kernel

def unmapCmd : CmdRec := jcmd [(0x08, 0, 0), (0x10, 0, 4)]
theorem test_runs_memUnmap : (withJob job1).runs specMemUnmap .a unmapCmd = true
    ∧ ((withJob job1).begun 0x104 .a unmapCmd).job unmapCmd.job.toNat = some job1
    ∧ unmapCmd.par 0x08 0 44 % 2 ^ 21 = 0 ∧ unmapCmd.par 0x10 0 23 ≠ 0
    ∧ (∀ k < unmapCmd.par 0x10 0 23, (mget job1.ptNext (unmapCmd.par 0x08 0 44 / 2 ^ 21 + k)).isSome = true) := by decide +kernel

/-- A header of an element task on core 0: body at 0x1000, record at 0x2000. -/
def hdr0 : List Byte := raw 64 [(0x00, 9), (0x04, 0x0202), (0x18, 0x1000), (0x20, 0x2000)]
def loadCmd : CmdRec := jcmd [(0x08, 0, 0x4000), (0x10, 0, 1)]
def listed : State := poke (withJob job1) 0x4000 hdr0
/-- The own part has ended with ST_OK. -/
def doneOk : CmdRes → Bool
  | .done _ 0 _ => true
  | _ => false
theorem test_runs_tasklistLoad : listed.runs specTasklistLoad .a loadCmd = true
    ∧ (listed.begun 0x105 .a loadCmd).job 1 = some job1 ∧ loadCmd.par 0x08 0 44 % 64 = 0 ∧ loadCmd.par 0x10 24 1 = 0
    ∧ loadCmd.par 0x18 0 44 = 0 ∧ loadCmd.par 0x10 0 17 ≠ 0 ∧ loadCmd.par 0x10 0 17 ≤ 65536 ∧ job1.lists.length < 64
    ∧ doneOk ((listed.begun 0x105 .a loadCmd).loadNative clean 1 job1 (loadCmd.par 0x08 0 44) (loadCmd.par 0x10 0 17)) = true := by
  decide +kernel

/-- Job 1 with one list. -/
def job1L : Job := { job1 with lists := [(0, ⟨[], some 0x4000⟩)] }
theorem test_runs_tasklistUnload : (withJob job1L).runs specTasklistUnload .a (jcmd []) = true
    ∧ ((withJob job1L).begun 0x106 .a (jcmd [])).job 1 = some job1L ∧ (mget job1L.lists ((jcmd []).par 0x08 0 16)).isSome = true
    ∧ job1L.queue = [] ∧ job1L.run = none := by decide +kernel

theorem test_runs_stepSubmit : (withJob job1L).runs specStepSubmit .a (jcmd [(0x0C, 0, 5)]) = true
    ∧ ((withJob job1L).begun 0x107 .a (jcmd [(0x0C, 0, 5)])).job 1 = some job1L
    ∧ (mget job1L.lists ((jcmd [(0x0C, 0, 5)]).par 0x08 0 16)).isSome = true
    ∧ (∀ k < 4, (jcmd [(0x0C, 0, 5)]).par (0x10 + k) 7 1 = 0) ∧ job1L.queue.length < 4
    ∧ ((withJob job1L).begun 0x107 .a (jcmd [(0x0C, 0, 5)])).replayAllows 1 job1L 5 = true := by decide +kernel

theorem test_runs_replayLogSet :
    ((withJob job1).runs specReplayLogSet .a (jcmd []) = true ∧ (jcmd []).par 0x10 0 16 = 0)
    ∧ ((withJob job1).runs specReplayLogSet .a (jcmd [(0x10, 0, 64)]) = true ∧ (jcmd [(0x10, 0, 64)]).par 0x10 0 16 ≠ 0
      ∧ (jcmd [(0x10, 0, 64)]).par 0x08 0 44 % 2 ^ 21 = 0 ∧ mappedAll job1.pt 0 (64 * 2 ^ 21) = true
      ∧ ((withJob job1).begun 0x108 .a (jcmd [(0x10, 0, 64)])).job 1 = some job1) := by decide +kernel

def poolCmd : CmdRec := jcmd [(0x08, 0, 128), (0x08, 16, 4096), (0x10, 0, 2 ^ 21), (0x18, 0, 8), (0x24, 0, 0x100000)]
theorem test_runs_kvPoolSet : (withJob job1).runs specKvPoolSet .a poolCmd = true
    ∧ ((withJob job1).begun 0x201 .a poolCmd).job 1 = some job1 ∧ job1.kv = none
    ∧ (poolCmd.par 0x08 0 8 = 64 ∨ poolCmd.par 0x08 0 8 = 128) ∧ poolCmd.par 0x08 16 13 ≠ 0 ∧ poolCmd.par 0x08 16 13 ≤ 4096
    ∧ poolCmd.par 0x18 0 23 ≠ 0 ∧ poolCmd.par 0x10 0 44 % 2 ^ 21 = 0 ∧ poolCmd.par 0x28 0 44 % 2 ^ 21 = 0
    ∧ mappedAll job1.pt (poolCmd.par 0x10 0 44) (poolCmd.par 0x18 0 23 * 2 ^ 21) = true ∧ poolCmd.par 0x30 0 23 = 0
    ∧ poolCmd.par 0x20 0 24 % 64 = 0 ∧ job1.tsBase ≤ poolCmd.par 0x20 0 24
    ∧ poolCmd.par 0x20 0 24 + poolCmd.par 0x24 0 24 ≤ job1.tsBase + job1.tsBytes := by decide +kernel

/-- A pool of 8 pages with a sequence of no caches. -/
def seq5 : KvSeq := ⟨5, 1, 0, false, false, 2 ^ 21, []⟩
def pool1 : KvPool := ⟨64, 1, 2 ^ 21, 8, 0, 0x80000, 9 * 2 ^ 21, 8, [(2 ^ 21, 2)], [], [seq5], 1⟩
def job1K : Job := { job1 with kv := some pool1 }
def kcmd : CmdRec := jcmd [(0x08, 0, 5)]
theorem test_runs_kvAdmit : (withJob job1K).runs specKvAdmit .a (jcmd [(0x08, 0, 6), (0x0C, 0, 3)]) = true
    ∧ ((withJob job1K).begun 0x202 .a (jcmd [(0x08, 0, 6), (0x0C, 0, 3)])).job 1 = some job1K
    ∧ (∀ q ∈ pool1.seqs, q.id ≠ (jcmd [(0x08, 0, 6), (0x0C, 0, 3)]).par 0x08 0 32)
    ∧ ((withJob job1K).begun 0x202 .a (jcmd [(0x08, 0, 6), (0x0C, 0, 3)])).seqBusy .a 1 6 = false
    ∧ ((withJob job1K).begun 0x202 .a (jcmd [(0x08, 0, 6), (0x0C, 0, 3)])).liveSeqs < 65536
    ∧ (pool1.take 2).isSome = true := by decide +kernel

theorem test_runs_kvRelease_pin_unpin : (withJob job1K).runs specKvRelease .a kcmd = true
    ∧ (withJob job1K).runs specKvPin .a kcmd = true ∧ (withJob job1K).runs specKvUnpin .a kcmd = true
    ∧ (∀ op, op ∈ [0x203, 0x204, 0x205] → ((withJob job1K).begun op .a kcmd).seqBusy .a 1 5 = false
      ∧ ((withJob job1K).begun op .a kcmd).kvPool 1 = some pool1
      ∧ ((withJob job1K).begun op .a kcmd).namedCaches 1 = [])
    ∧ pool1.seqs.find? (fun (q : KvSeq) => q.id == kcmd.par 0x08 0 32) = some seq5 ∧ seq5.ferried = false := by decide +kernel

/-! ### Update and settings -/

/-- A pending flash write was chosen. -/
def writes : Nat ⊕ FlashOp → Bool
  | .inr _ => true
  | .inl _ => false
def beginCmd : CmdRec := cmd [(0x08, 0, 4096), (0x10, 0, 2688)]
def beginSt : State := inHost fused signed

def chunkCmd : CmdRec := cmd [(0x08, 0, 4096), (0x10, 0, 7)]
def chunkSt : State := inHost delivering [0#8]

theorem test_runs_updateStatus :
    (rdy.runs specUpdateStatus .a (cmd []) = true ∧ rdy.updBusy = false ∧ (cmd []).par 0x08 0 3 = 0 ∧ rdy.flash.delivery = none)
    ∧ (delivering.runs specUpdateStatus .a (cmd [(0x10, 0, 8)]) = true ∧ delivering.updBusy = false
      ∧ ((delivering.begun 0x603 .a (cmd [(0x10, 0, 8)])).hostWrite .a 0 (Delivery.bitmap ⟨[], 8, []⟩)).isSome = true) := by
  decide +kernel

/-- A delivery with every chunk held. -/
def delivered : State := { rdy with flash := { rdy.flash with delivery := some ⟨[], 8, List.range 8⟩ } }
theorem test_runs_updateActivate :
    (delivered.runs specUpdateActivate .a (cmd []) = true ∧ (delivered.begun 0x604 .a (cmd [])).updBusy = false
      ∧ (delivered.begun 0x604 .a (cmd [])).activateStatus = 0)
    ∧ (∀ s ∈ [delivered, { rdy with upd := { rdy.upd with trial := true } }, delivering,
        { delivered with hostB := { port with openCmds := [⟨4, 0x406, 1, .reshard, jcmd []⟩] } }],
      s.runs specUpdateActivate .a (cmd []) = true ∧ (s.begun 0x604 .a (cmd [])).anyHalted = false
        ∧ (s.begun 0x604 .a (cmd [])).dbg.replay = none)
    ∧ ({ delivered with hostB := { port with openCmds := [⟨4, 0x406, 1, .reshard, jcmd []⟩] } } : State).reshardOpen = true := by
  decide +kernel

def trialSt : State := { rdy with upd := { rdy.upd with trial := true } }
theorem test_runs_updateConfirm : trialSt.runs specUpdateConfirm .a (cmd []) = true
    ∧ (trialSt.begun 0x605 .a (cmd [])).updBusy = false ∧ (trialSt.begun 0x605 .a (cmd [])).confirm.2 = 0 := by decide +kernel

/-- Setting 2 at both ends of its range. -/
theorem test_runs_settings :
    (∀ v ∈ [5, 1440], rdy.runs specSettingsSet .a (cmd [(0x08, 0, 2), (0x10, 0, v)]) = true
      ∧ settingRange ((cmd [(0x08, 0, 2), (0x10, 0, v)]).par 0x08 0 16) = some (30, 5, 1440)
      ∧ (rdy.begun 7 .a (cmd [(0x08, 0, 2), (0x10, 0, v)])).setting 2 ≠ v)
    ∧ rdy.runs specSettingsGet .a (cmd [(0x08, 0, 5)]) = true ∧ (settingRange 5).isSome = true := by decide +kernel

/-- ATTEST_GET with GET_VERSION. -/
def attestCmd : CmdRec := cmd [(0x08, 0, 4096), (0x10, 0, 4), (0x18, 0, 8192), (0x20, 0, 4096)]
def attestSt : State := inHost rdy [0x10, 0x84, 0, 0]
theorem test_runs_attestGet : attestSt.runs specAttestGet .a attestCmd = true ∧ attestCmd.par 0x08 0 3 = 0
    ∧ attestCmd.par 0x18 0 3 = 0
    ∧ (attestSt.begun 0x606 .a attestCmd).hostRead .a 4096 4 = some [0x10, 0x84, 0, 0]
    ∧ ((attestSt.begun 0x606 .a attestCmd).spdm (.attest .a) [0x10, 0x84, 0, 0]).2.length ≤ attestCmd.par 0x20 0 16
    ∧ (((attestSt.begun 0x606 .a attestCmd).spdm (.attest .a) [0x10, 0x84, 0, 0]).1.hostWrite .a 8192
        (((attestSt.begun 0x606 .a attestCmd).spdm (.attest .a) [0x10, 0x84, 0, 0]).2)).isSome = true := by decide +kernel

/-! ### Media, training, fabric commands -/

/-- A recipe of one text output of 16 tokens and a channel of batches of one sample. -/
def recipe : List Byte := raw 128 [(0, 3 + 2 * 4), (4, 16), (6, 1)]
def chanRec : List Byte := raw 128 [(4, 1), (8, 2 * 2 ^ 12), (0x10, 1), (0x18, 1000 * 2 ^ 21), (0x20, 0x3000)]
def mediaSt : State := poke (poke (withJob job1) 0x3000 recipe) 0x4000 chanRec
def openCmd : CmdRec := jcmd [(0x08, 0, 0x4000)]
theorem test_runs_mediaChannelOpen : mediaSt.runs specMediaChannelOpen .a openCmd = true
    ∧ (mediaSt.begun 0x301 .a openCmd).job 1 = some job1 ∧ mediaSt.part.mediaHalves ≠ 0 ∧ openCmd.par 0x08 0 44 % 64 = 0
    ∧ (match (mediaSt.begun 0x301 .a openCmd).cmdJobRead clean 1 job1.pt 0x4000 128 with
      | (t, some r) => match parseChan r with
        | some ch => ch.half == 0 && t.mediaFor (some .a) != 0 && !t.chansFull ch && (match t.readRecipes clean 1 job1.pt ch.recipes with
          | (u, .ok qs) => !windowTaken job1 (ch.withRecipes 1 qs)
            && (u.allocJob job1.hbms ((ch.withRecipes 1 qs).buffers * (ch.withRecipes 1 qs).setPages)).isSome
            && (freshBelow 64 (u.chans.map Prod.fst)).isSome
          | _ => false)
        | none => false
      | _ => false) = true := by decide +kernel

/-- An open channel of job 1 with one sample in flight and one dropped position. -/
def chan0 : Chan := {
  job := 1, strict := false, half := 0, outs := 1, batchN := 1, reserve := 0, late := 32, dropRoom := 0, stepBatches := 1, buffers := 2
  salt := 0, inflight := 1, ctr := 0, window := 1000 * 2 ^ 21, recipes := [0x3000], planes := [(64, 0)], sets := [[900], [901]]
  nextPos := 0, taken := 0, samples := [], drops := [], closed := false, finalSent := false, batches := 0, consumed := 0, freed := 0 }
def chanSt : State := { withJob job1 with chans := [(0, chan0)] }
theorem test_runs_media_submit_close :
    (∀ n ∈ [1, 4096], chanSt.runs specMediaSubmit .a (jcmd [(0x18, 0, n)]) = true ∧ (jcmd [(0x18, 0, n)]).par 0x18 0 13 = n
      ∧ (chanSt.begun 0x302 .a (jcmd [(0x18, 0, n)])).chanBusy .a 1 0 = false
      ∧ mget (chanSt.begun 0x302 .a (jcmd [(0x18, 0, n)])).chans 0 = some chan0)
    ∧ chanSt.part.mediaHalves ≠ 0 ∧ chan0.job = 1 ∧ chan0.closed = false
    ∧ chanSt.runs specMediaChannelClose .a (jcmd []) = true
    ∧ (chanSt.begun 0x303 .a (jcmd [])).chanBusy .a 1 0 = false := by decide +kernel

/-- A part with no media half. -/
def noMedia (s : State) : State := { s with part := .pz8t }
theorem test_runs_media_absent : (noMedia chanSt).part = .pz8t
    ∧ (noMedia chanSt).runs specMediaChannelOpen .a (jcmd []) = true
    ∧ (noMedia chanSt).runs specMediaSubmit .a (jcmd []) = true ∧ (noMedia chanSt).runs specMediaChannelClose .a (jcmd []) = true
    ∧ (∀ op ∈ [0x302, 0x303], ((noMedia chanSt).begun op .a (jcmd [])).chanBusy .a 1 0 = false) := by decide +kernel

/-- A training table of one tier-1 group of 32 elements. -/
def tab1 : List Byte := raw 64 [(0, 1), (4, 1), (0xC, 1), (0x10, 0x6000), (0x18, 0x8000), (0x20, 0x6400)]
  ++ raw 128 [(0, 1 + 2 ^ 16), (4, 32), (8, 2 ^ 16), (0x18, 0xA000), (0x20, 0xB000), (0x28, 0xC000)]
/-- A read table that stands. -/
def okTab : State × Except Nat (Train × List TGroup × Nat) → Bool
  | (_, .ok _) => true
  | _ => false
def tabCmd : CmdRec := jcmd [(0x08, 0, 0x5000)]
def tabSt : State := poke (withJob job1) 0x5000 tab1
theorem test_runs_trainStateSet : tabSt.runs specTrainStateSet .a tabCmd = true ∧ (tabSt.begun 0x401 .a tabCmd).job 1 = some job1
    ∧ job1.run = none ∧ job1.queue = []
    ∧ (match (tabSt.begun 0x401 .a tabCmd).trainTable clean 1 job1 (tabCmd.par 0x08 0 44) with
      | (s1, .ok (t0, gs, kp)) => (s1.placeTrain clean 1 job1 t0 gs kp).isSome
      | _ => false) = true := by decide +kernel

theorem test_runs_variants : (∀ r ∈ [1, 256], (withJob job1).runs specVariantLoad .a (jcmd [(0x08, 16, r)]) = true
      ∧ (jcmd [(0x08, 16, r)]).par 0x08 16 9 = r)
    ∧ (withJob job1).runs specVariantUnload .a (jcmd [(0x08, 0, 1023)]) = true := by decide +kernel

/-- A device numbered 7 and a group of ranks 7 and 8, this device's rank being 0. -/
def num7 (s : State) : State := { s with dom := { s.dom with joined := true, deviceId := 7 } }
def collSt : State := poke (poke (num7 (withJob job1)) 0x5000 (raw 64 [(0, 2), (4, 3), (8, 100), (0x10, 0x5100)])) 0x5100 [7, 0, 8, 0]
theorem test_runs_collGroupSet : collSt.runs specCollGroupSet .a tabCmd = true ∧ (collSt.begun 0x404 .a tabCmd).job 1 = some job1
    ∧ (collSt.begun 0x404 .a tabCmd).groupBusy .a tabCmd = false
    ∧ job1.run = none ∧ job1.queue = [] ∧ tabCmd.par 0x08 0 44 % 64 = 0
    ∧ (match (collSt.begun 0x404 .a tabCmd).cmdJobRead clean 1 job1.pt (tabCmd.par 0x08 0 44) 64 with
      | (s1, some r) => match parseCollGroup r with
        | some (_, ma, g) => match s1.cmdJobRead clean 1 job1.pt ma (2 * g.size) with
          | (_, some ms) => ((chunksOf 2 ms).map leNat).all (fun m => decide (m ≤ 8191))
            && (dedup ((chunksOf 2 ms).map leNat)).length == (chunksOf 2 ms).length
            && nth ((chunksOf 2 ms).map leNat) g.rank == (collSt.begun 0x404 .a tabCmd).dom.deviceId
          | _ => false
        | none => false
      | _ => false) = true := by decide +kernel

/-- The mapping record of one device, number 7, of one layer. -/
def map1 : List Byte := raw 128 [(0, 1), (2, 1), (4, 1), (6, 1), (8, 1), (0x10, 1), (0x12, 1), (0x14, 1), (0x18, 0x7100), (0x20, 0x7140),
  (0x28, 256)]
def mapSt : State := poke (poke (poke (num7 (withJob job1)) 0x7000 map1) 0x7100 [0, 0, 1, 0]) 0x7140 [7, 0]
def okMap : State × Except Nat MapRec → Bool
  | (_, .ok _) => true
  | _ => false
theorem test_runs_jobMapSet : mapSt.runs specJobMapSet .a (jcmd [(0x08, 0, 0x7000)]) = true
    ∧ (mapSt.begun 0x405 .a (jcmd [(0x08, 0, 0x7000)])).job 1 = some job1 ∧ job1.run = none ∧ job1.queue = []
    ∧ okMap ((mapSt.begun 0x405 .a (jcmd [(0x08, 0, 0x7000)])).readMap clean 1 job1 0x7000 (fun x => x.ok 7)) = true := by decide +kernel

/-- A reshard of a job with group 3, at the first stage that is far enough. -/
def job1G : Job := { job1 with groups := [(3, ⟨2, 0, 100, [7, 8]⟩)] }
def reshardCmd : CmdRec := jcmd [(0x08, 0, 0x7000), (0x10, 0, 0x5000), (0x18, 0, 3), (0x30, 0, 116)]
def reshardSt : State := poke (poke (poke (poke (num7 (withJob job1G)) 0x5000 tab1) 0x7000 map1) 0x7100 [0, 0, 1, 0]) 0x7140 [7, 0]
theorem test_runs_jobReshard : reshardSt.runs specJobReshard .a reshardCmd = true
    ∧ (reshardSt.begun 0x406 .a reshardCmd).job 1 = some job1G ∧ job1G.run = none ∧ job1G.queue = [] ∧ job1G.reshard = none
    ∧ job1G.train = none ∧ (reshardSt.begun 0x406 .a reshardCmd).stage + 16 ≤ reshardCmd.par 0x30 0 48
    ∧ (mget job1G.groups (reshardCmd.par 0x18 0 8)).isSome = true ∧ reshardCmd.par 0x20 0 44 % 64 = 0
    ∧ (match (reshardSt.begun 0x406 .a reshardCmd).readMap clean 1 job1G (reshardCmd.par 0x08 0 44) (fun x => x.ok 7 || (job1G.train.isSome && x.leaves 7)) with
      | (s1, .ok _) => okTab (s1.trainTable clean 1 job1G (reshardCmd.par 0x10 0 44))
      | _ => false) = true := by decide +kernel

/-! ### Waystations -/

/-- A small training state, an image of it, and a waystation that keeps the image. -/
def train0 : Train := ⟨[], 1, 0, 0, 0, 0, 1, 0, 0x6000, 0x8000, 0x6400, 0, [], [], 0, 0, 0, 0, 0, 0, 0, [], 0, false, [], [], [], []⟩
/-- The device leaves: the mapping names device 8 alone, and the job has a training state. -/
def job1T : Job := { job1G with train := some train0 }
def leaveSt : State := poke (poke (poke (num7 (withJob job1T)) 0x7000 map1) 0x7100 [0, 0, 1, 0]) 0x7140 [8, 0]
theorem test_runs_jobReshard_leaves : leaveSt.runs specJobReshard .a reshardCmd = true
    ∧ (leaveSt.begun 0x406 .a reshardCmd).job 1 = some job1T ∧ job1T.train = some train0
    ∧ (match (leaveSt.begun 0x406 .a reshardCmd).readMap clean 1 job1T (reshardCmd.par 0x08 0 44) (fun x => x.ok 7 || (job1T.train.isSome && x.leaves 7)) with
      | (_, .ok m) => m.leaves 7
      | _ => false) = true := by decide +kernel
def image0 : WayImage := ⟨3, 90, train0, none, [], []⟩
def way0 : Way := ⟨8, 4, 2, none, none, false, [image0], false, [], 0, 0⟩
def job1W : Job := { job1 with way := some way0, train := some train0 }
theorem test_runs_waystation :
    (let c := jcmd [(0x08, 0, 8191), (0x10, 0, 4), (0x18, 0, 2)];
      (withJob job1).runs specWaystationSet .a c = true ∧ ((withJob job1).begun 0x407 .a c).job 1 = some job1
        ∧ c.par 0x08 0 16 ≤ 8191 ∧ c.par 0x10 0 18 ≠ 0 ∧ c.par 0x18 0 16 ≠ 0)
    ∧ (let c := cmd [(0x08, 0, 8191), (0x08, 16, 1), (0x10, 0, 4)];
      rdy.runs specWaystationHost .a c = true ∧ c.par 0x08 0 16 ≤ 8191 ∧ c.par 0x08 16 16 ≠ 0 ∧ c.par 0x10 0 18 ≠ 0
        ∧ merase (rdy.begun 0x408 .a c).ways (8191 * 65536 + 1) = [] ∧ c.par 0x10 0 18 + 0 ≤ (rdy.begun 0x408 .a c).wayLimit
        ∧ ((rdy.begun 0x408 .a c).allocPages (c.par 0x10 0 18) ((List.range rdy.part.hbms).map stackPages)).isSome = true)
    ∧ (let c := jcmd [(0x08, 0, 4096)];
      (withJob job1).runs specWaystationStatus .a c = true ∧ job1.way = none ∧ c.par 0x08 0 64 % 8 = 0
        ∧ (((withJob job1).begun 0x409 .a c).hostWrite .a (c.par 0x08 0 64)
            (toLE 8 0xFFFFFFFF ++ zeros 8 ++ (toLE 8 0xFFFFFFFF ++ zeros 8))).isSome = true)
    ∧ (let c := jcmd [(0x08, 0, 3), (0x0C, 0, 0xFFFF)];
      (withJob job1W).runs specWaystationRestore .a c = true ∧ ((withJob job1W).begun 0x40A .a c).job 1 = some job1W
        ∧ job1W.run = none ∧ job1W.queue = [] ∧ job1W.reshard = none ∧ job1W.way = some way0 ∧ c.par 0x0C 0 16 = 0xFFFF
        ∧ image0.ordinal = c.par 0x08 0 32
        ∧ (match ((withJob job1W).begun 0x40A .a c).wayTable 1 job1W (job1W.ownImage image0) with
          | .ok _ => true
          | .error _ => false) = true)
    ∧ (rdy.live = true ∧ (9#16).toNat ≠ rdy.dom.deviceId) := by decide +kernel

/-- The owner's generation commits: its image is open, every frame is sent and answered. -/
def job1O : Job := { job1 with tag := 5, way := some { way0 with open_ := some image0 } }
theorem test_way_commit : (num7 (withJob job1O)).live = true ∧ (7#16).toNat = (num7 (withJob job1O)).dom.deviceId
    ∧ mget (num7 (withJob job1O)).ways (7 * 65536 + 5) = none ∧ (num7 (withJob job1O)).tagged 5 = some (1, job1O)
    ∧ image0.ordinal = (3#32).toNat ∧ way0.pend = [] ∧ way0.acks = 0 := by decide +kernel

/-! ### Fabric commands -/

/-- A device in a domain, number 7, with port 0 up and routes for 16 devices through port 0. -/
def port0 : Port := { Port.init with st := .up, lambdaOk := 0xF, lambdaUsed := 0xF, peerId := 8, peerPort := 3, txKey := zeros 36, rxKey := zeros 36 }
def dom7 : Domain := { Domain.init with
  joined := true, domainId := 0x99, deviceId := 7, timekeeper := 8, timePorts := [0], locked := true, key0 := some 5
  route0 := (List.range 16).map (fun k => (k, 0x01000000)) }
def fab (s : State) : State := { s with dom := dom7, ports := [(0, port0)] }
theorem test_runs_fabric :
    (let c := cmd [(0x08, 0, 0x99), (0x0C, 0, 7), (0x10, 0, 8), (0x14, 0, 63 + 4 * 2 ^ 24)];
      rdy.runs specFabricJoin .a c = true ∧ (rdy.begun 0x501 .a c).dbg.replay = none ∧ (rdy.begun 0x501 .a c).jobs = []
        ∧ c.par 0x14 24 3 ≤ 4 ∧ (∀ k ∈ timePortsOf (c.par 0x14 0 27), k < rdy.part.ports))
    ∧ ((fab rdy).runs specFabricLeave .a (cmd []) = true ∧ ((fab rdy).begun 0x502 .a (cmd [])).dom.joined = true
      ∧ ((fab rdy).begun 0x502 .a (cmd [])).jobs = [])
    ∧ (fab rdy).runs specFabricKeySet .a (cmd [(0x08, 0, 2 ^ 256 - 1)]) = true
    ∧ (let c := cmd [(0x08, 0, 116)];
      (fab rdy).runs specFabricKeySwitch .a c = true ∧ ((fab rdy).begun 0x504 .a c).stage + 16 ≤ c.par 0x08 0 48
        ∧ ((fab rdy).begun 0x504 .a c).dom.keyAt = none)
    ∧ (let c := cmd [(0x08, 0, 2 ^ 64 - 1), (0x10, 0, 2)];
      rdy.runs specFabricPortSet .a c = true ∧ c.par 0x10 0 2 ≠ 3 ∧ subMask (c.par 0x08 0 64) (2 ^ rdy.part.ports - 1) = true)
    ∧ (let c := jcmd [(0x08, 0, 15 + 7 * 16), (0x10, 0, 2 ^ 44 - 2048 * 2 ^ 21), (0x18, 0, 2048)];
      (withJob job1).runs specFabricWindowSet .a c = true ∧ c.par 0x10 0 44 % 2 ^ 21 = 0 ∧ c.par 0x18 0 12 ≤ 2048
        ∧ c.par 0x10 0 44 + c.par 0x18 0 12 * 2 ^ 21 ≤ 2 ^ 44)
    ∧ (let c := jcmd [(0x08, 0, 0x4000), (0x10, 0, 1)]; let s := poke (withJob job1) 0x4000 [8, 0, 2, 0x80];
      s.runs specFabricPeersSet .a c = true ∧ (s.begun 0x50A .a c).job 1 = some job1 ∧ c.par 0x10 0 13 ≤ 4096
        ∧ ((s.begun 0x50A .a c).cmdJobRead clean 1 job1.pt (c.par 0x08 0 44) (4 * c.par 0x10 0 13)).2 = some [8, 0, 2, 0x80]
        ∧ (∀ e ∈ (chunksOf 4 [8#8, 0#8, 2#8, 0x80#8]).map leNat, bits e 13 3 = 0 ∧ bits e 20 11 = 0)) := by decide +kernel

theorem test_runs_fabric_routes :
    (let c := cmd [(0x08, 0, 4096), (0x10, 0, 1)]; let s := inHost (fab rdy) [63, 0, 0, 1];
      s.runs specFabricRouteLoad .a c = true ∧ c.par 0x08 0 64 % 8 = 0 ∧ c.par 0x10 0 14 ≠ 0 ∧ c.par 0x10 0 14 ≤ 8192
        ∧ (s.begun 0x506 .a c).oldEpoch = false
        ∧ (s.begun 0x506 .a c).hostRead .a (c.par 0x08 0 64) (4 * c.par 0x10 0 14) = some [63, 0, 0, 1]
        ∧ (∀ e ∈ (chunksOf 4 [63#8, 0#8, 0#8, 1#8]).map leNat, bits e 24 3 ≤ 4 ∧ bits e 28 4 = 0
          ∧ ∀ i < bits e 24 3, bits e (6 * i) 6 < s.part.ports))
    ∧ (let c := cmd [(0x08, 0, 116)];
      (fab rdy).runs specFabricRouteSwitch .a c = true ∧ ((fab rdy).begun 0x507 .a c).stage + 16 ≤ c.par 0x08 0 48
        ∧ ((fab rdy).begun 0x507 .a c).dom.routeAt = none)
    ∧ (let c := cmd [(0x08, 0, 7), (0x0C, 0, 63 + 1 * 2 ^ 24), (0x10, 0, 101)];
      (fab rdy).runs specFabricTimekeeperSet .a c = true ∧ ((fab rdy).begun 0x508 .a c).dom.joined = true
        ∧ ((fab rdy).begun 0x508 .a c).stage < c.par 0x10 0 48 ∧ c.par 0x0C 24 3 ≤ 4
        ∧ (∀ k ∈ timePortsOf (c.par 0x0C 0 27), k < rdy.part.ports) ∧ ((fab rdy).begun 0x508 .a c).dom.tkAt = none)
    ∧ (let c := cmd [(0x08, 0, 4096), (0x10, 0, 1)];
      (fab rdy).runs specFabricPortStatus .a c = true ∧ c.par 0x08 0 64 % 8 = 0
        ∧ subMask (c.par 0x10 0 64) (2 ^ rdy.part.ports - 1) = true
        ∧ (((fab rdy).begun 0x50B .a c).hostWrite .a (c.par 0x08 0 64)
          ((bitList 64 (c.par 0x10 0 64)).flatMap (fun k => (((fab rdy).begun 0x50B .a c).port k).status ((fab rdy).begun 0x50B .a c).now k))).isSome = true)
    ∧ (let c := cmd [(0x08, 0, 4096)];
      (fab rdy).runs specFabricDomainStatus .a c = true ∧ c.par 0x08 0 64 % 8 = 0
        ∧ (((fab rdy).begun 0x50C .a c).hostWrite .a (c.par 0x08 0 64) (zeros 32)).isSome = true) := by decide +kernel

/-! ### Startup, lands, regulators, management -/

/-- The boot in phase `p`, with a running bank whose manifest passes and whose components hash right. -/
def boot (p : BitVec 4) : State := { State.reset with
  pwrok := true, phase := p, fuses := fused.fuses, flash := { Flash.init with bankA := ⟨signed, []⟩ } }
theorem test_boot_hypotheses :
    State.reset.pwrok = false
    ∧ (∀ p ∈ [1#4, 2#4, 3#4, 4#4, 5#4, 6#4, 7#4], (boot p).pwrok = true ∧ (boot p).fatal = false ∧ (boot p).phase = p)
    ∧ ({ boot 2 with strapRecovery := true } : State).strapRecovery = true
    ∧ (boot 2).strapRecovery = false ∧ bankSelect { boot 2 with flash := .init } = none
    ∧ (boot 4).mayStop (0x41#8).toNat = true ∧ (boot 3).mayStop (0x31#8).toNat = true := by decide +kernel

theorem test_inv_boot : Machine.Inv (boot 4) ∧ Machine.Inv (boot 7) := by
  unfold Machine.Inv
  decide +kernel

theorem test_lands_hypotheses :
    (rdy.pwrok = true ∧ 105 ≤ (105#8).toNat ∧ (ThermUnit.cdie 0).present rdy.part = true)
    ∧ ((boot 4).ready = false ∧ (boot 4).fatal = false) ∧ ({ boot 4 with fatal := true } : State).ready = false
    ∧ ({ boot 2 with fatal := true } : State).cvrUp = false ∧ ({ rdy with fatal := true } : State).cvrUp = true
    ∧ faultingRail rdy.part [] = none ∧ (faultingRail rdy.part [⟨0, true, false⟩]).isSome = true
    ∧ (rdy.ready = true ∧ rdy.fatal = false)
    ∧ (rdy.bar0Up .a = true ∧ rdy.vrb.busy = false) ∧ ({ rdy with vrb := { rdy.vrb with busy := true } } : State).vrb.busy = true
    ∧ (2#32).getLsbD 1 = true := by decide +kernel

/-- A regulator read of rail 0, of one byte and of two. -/
def vrbSt (n : Nat) : State := { rdy with vrb := { rdy.vrb with busy := true, next := BitVec.ofNat 32 ((nth [0x20, 0x79] n) * 256 + n * 65536) } }
theorem test_vrb_hypotheses :
    (∀ n ∈ [0, 1], (vrbSt n).vrb.busy = true ∧ (vrbSt n).vrbSends = true ∧ bits (vrbSt n).vrb.next.toNat 16 2 = n)
    ∧ ({ vrbSt 0 with vrb := { (vrbSt 0).vrb with next := 0x30000 } } : State).vrbSends = false := by decide +kernel

theorem test_management_hypotheses : rdy.mctpUp = true ∧ (9#8) ≠ 0 ∧ (9#8) ≠ 0xFF ∧ (4#8) ≠ 0xFF ∧ (4#8) ≠ 0x00
    ∧ (4#8) ≠ 0x05 ∧ (4#8) ≠ 0x7E := by decide +kernel

/-! ### Registers, doorbells, BAR4 -/

/-- Register block 136 with a posted write that waits. -/
def postedSt : State := rdy.setBlk 136 { rdy.blk 136 with posted := some (0x800, 7) }
theorem test_register_hypotheses :
    (rdy.bar0Up .b = true ∧ (0x3008#24).toNat % 4 = 0 ∧ rdy.ideOk .a true = true)
    ∧ (30 ≤ (30#6).toNat ∧ (41#6).toNat ≤ 41) ∧ (1#32).getLsbD 0 = true ∧ (0#32).getLsbD 0 = false
    ∧ (rdy.pwrok = true ∧ blkPresent rdy.part 0 = true ∧ 0x7FC % 4 = 0)
    ∧ (blkPresent rdy.part 136 = true ∧ mayWriteBlk (.drover (.serai 0)) 136 = true ∧ (0xFF4#12).toNat < 0xFF8 ∧ 0x800 ≤ (0x800#12).toNat
      ∧ (rdy.blk 136).posted = none ∧ (postedSt.blk 136).posted.isSome = true ∧ (postedSt.blk 136).posted = some (0x800, 7))
    ∧ rdy.devApply = false ∧ (rdy.host .a).page.apply = false := by decide +kernel

/-- Doorbells at the limit and one beyond it. -/
theorem test_doorbell_hypotheses : rdy.bar0Up .a = true ∧ rdy.ideOk .a false = true
    ∧ ((1024#32) - (rdy.host .a).cmdHead).toNat ≤ 1024 ∧ 1024 < ((1025#32) - (rdy.host .a).cmdHead).toNat
    ∧ ((rdy.host .a).cplTail - 0#32).toNat ≤ 1024 ∧ 1024 < ((rdy.host .a).cplTail - 1#32).toNat := by decide +kernel

/-- A vector that was pended, and one whose spacing has passed. -/
theorem test_message_hypotheses : rdy.pwrok = true ∧ (rdy.host .a).canSend 0 = true
    ∧ ({ rdy with hostA := { port with msixPend := 1 } } : State).hostA.msixPend.getLsbD 0 = true
    ∧ ({ rdy with hostA := { port with msixDefer := 1, msixLast := [(0, 17000000 - 1700)] } } : State).hostA.msixDefer.getLsbD 0 = true
    ∧ mgetD ({ port with msixLast := [(0, 17000000 - 1700)] } : HostPort).msixLast 0 0 + 1700 ≤ rdy.now := by decide +kernel

/-- The last 4,096 bytes of stack 0 through the window at 0, and host B without a grant. -/
theorem test_bar4_hypotheses : rdy.bar0Up .a = true ∧ rdy.ready = true ∧ rdy.ideOk .a false = true
    ∧ rdy.barAddr .a 0x3FFFF000 = some 0x3FFFF000 ∧ (4096#13).toNat ≤ 4096 ∧ rdy.barReach .a 0x3FFFF000 = true
    ∧ rdy.barReach .a (0x3FFFF000 + 4096 - 1) = true ∧ badLines rdy clean (linesOf 0x3FFFF000 4096) = []
    ∧ inLog 0x3FFFF000 = false ∧ inLog (0x3FFFF000 + 4096 - 1) = false
    ∧ (rdy.bar0Up .b = true ∧ rdy.barAddr .b 0 = some 0 ∧ rdy.barReach .b 0 = false) := by decide +kernel

/-! ### Attestation, link keys, debug -/

/-- A unit whose chain is one certificate that holds the identity key. -/
def leaf : List Byte := [0x30, 0x03, 1, 2, 3]
def identSt : State := { rdy with
  flash := { Flash.init with chain := [leaf] }, fuses := { Fuses.init with idKeyHash := sha512 (certKey leaf) } }
/-- The same with the DOE connection of host A at a point of the exchange. -/
def connSt (c : SpdmConn) : State := { identSt with doeA := c }
def conn1 : SpdmConn := { SpdmConn.init with ver := true }
def conn2 : SpdmConn := { conn1 with caps := true }
def conn3 : SpdmConn := { conn2 with algs := true }
def conn4 (done : Bool) : SpdmConn := { conn3 with session := some (0x11, done, 0x77) }
/-- A request of `n` bytes with its code and two parameters. -/
def spdm (code p1 p2 n : Nat) : List Byte := [if code = 0x84 then 0x10 else 0x12, Byte.of code, Byte.of p1, Byte.of p2] ++ zeros (n - 4)
/-- The conditions of `Asks`, as one test. -/
def asks (s : State) (t : SpdmT) (m : List Byte) (code : Nat) : Bool :=
  s.spdmUp t && !s.upd.act.any (fun p => p.1 == ActPhase.paused) && fld m 1 1 == code && decide (4 ≤ m.length)
    && fld m 0 1 == (if code = 0x84 then 0x10 else 0x12)
theorem test_spdm_requests :
    asks identSt (.doe .a) (spdm 0x84 0 0 4) 0x84 = true
    ∧ (asks (connSt conn1) (.doe .a) (spdm 0xE1 0 0 20) 0xE1 = true ∧ (spdm 0xE1 0 0 20).length = 20 ∧ conn1.caps = false)
    ∧ (let m := [0x12, 0xE3, 1, 0, 36, 0] ++ zeros 30; asks (connSt conn2) (.doe .a) m 0xE3 = true ∧ conn2.algs = false
      ∧ fld m 4 2 = m.length ∧ 32 + 4 * fld m 2 1 ≤ m.length)
    ∧ asks (connSt conn3) (.doe .a) (spdm 0x81 0 0 4) 0x81 = true
    ∧ (let m := spdm 0x82 0 0 8; asks (connSt conn3) (.doe .a) m 0x82 = true ∧ fld m 2 1 % 16 = 0 ∧ 8 ≤ m.length
      ∧ fld m 4 2 ≤ (connSt conn3).spdmChain.length)
    ∧ (let m := spdm 0x83 0 0 36; asks (connSt conn3) (.doe .a) m 0x83 = true ∧ fld m 2 1 % 16 = 0 ∧ 36 ≤ m.length)
    ∧ (let m := spdm 0xE0 0 0 4; asks (connSt conn3) (.doe .a) m 0xE0 = true ∧ bit (fld m 2 1) 0 = false ∧ fld m 3 1 = 0)
    ∧ (let m := spdm 0xE0 0 12 4; asks (connSt conn3) (.doe .a) m 0xE0 = true ∧ bit (fld m 2 1) 0 = false ∧ fld m 3 1 = 11 + 1)
    ∧ (let m := spdm 0xE4 0 0 138; asks (connSt conn3) (.doe .a) m 0xE4 = true ∧ conn3.session = none ∧ fld m 3 1 % 16 = 0
      ∧ 138 ≤ m.length)
    ∧ asks identSt (.attest .b) (spdm 0xE4 0 0 138) 0xE4 = true
    ∧ (asks (connSt (conn4 false)) (.doe .a) (spdm 0xE5 0 0 68) 0xE5 = true
      ∧ asks (connSt (conn4 true)) (.doe .a) (spdm 0xEC 0 0 4) 0xEC = true)
    ∧ (identSt.spdmUp .mctp = true ∧ spdmCodes.contains (fld (spdm 0x85 0 0 4) 1 1) = false) := by decide +kernel
theorem test_spdm_slot0 : identSt.slot0 = true := by decide +kernel

/-- A secured session with none, one or four streams. -/
def ideSt (n : Nat) : State := { connSt (conn4 true) with
  hostA := { port with streams := (List.range n).map (fun k => (k, ⟨[(ideSlot 0 0 0, 9)], [], []⟩)) } }
theorem test_ide_hypotheses : (∀ n ∈ [0, 3, 4], (ideSt n).ideSession .a = true ∧ (ideSt n).upd.act = none)
    ∧ ({ ideSt 0 with upd := { rdy.upd with act := some (.paused, .mctp) } } : State).ideSession .a = true
    ∧ mget (ideSt 4).hostA.streams 7 = none ∧ 4 ≤ (ideSt 4).hostA.streams.length
    ∧ mget (ideSt 3).hostA.streams 7 = none ∧ (ideSt 3).hostA.streams.length < 4
    ∧ (mget (ideSt 3).hostA.streams 2).isSome = true
    ∧ ((mget (ideSt 3).hostA.streams 2).bind (fun st => mget st.keys (ideSlot 0 0 0))).isSome = true := by decide +kernel

/-- A debug request with its argument, address and data. -/
def dreq (op arg addr data : Nat) : BitVec 512 := BitVec.ofNat 512 (op + arg * 2 ^ 32 + addr * 2 ^ 64 + data * 2 ^ 256)
/-- A port unlocked to level 2 with one request waiting. -/
def dbgSt (q : BitVec 512) : State := { rdy with dbg := { Dbg.init with level := 2, reqs := [q] } }
/-- The conditions of `Requests`, as one test. -/
def requests (s : State) (q : BitVec 512) (d : DbgSpec) : Bool :=
  s.dbgUp && reqOp q == d.op && decide (d.level ≤ s.dbg.level) && d.clean q && s.dbg.reqs.head? == some q
theorem test_debug_transfers : rdy.dbgUp = true ∧ reqOp 0 = 0 ∧ reqOp (dreq 1 0 0 0) ≠ 0 ∧ rdy.dbg.reqs.length < 16
    ∧ rdy.dbg.resps = [] ∧ ({ Dbg.init with resps := [5] } : Dbg).resps = 5 :: []
    ∧ dbgOps.contains (reqOp (dreq 0xFE 0 0 0)) = false ∧ (dbgSt (dreq 0xFE 0 0 0)).dbg.reqs = dreq 0xFE 0 0 0 :: [] := by
  decide +kernel

/-- A port with the running manifest authentic, setting 5 on, and some pieces of an unlock to level 2 of which the sixteenth
comes now. -/
def unlockSig : List Byte := pkcs1 (unlockMessage 1 0xABC 2)
def unlockSt (pieces : NMap (List Byte)) : State := { rdy with
  fuses := fused.fuses, flash := { Flash.init with bankA := ⟨signed, []⟩ }
  dbg := { Dbg.init with nonce := some 0xABC, pieceLevel := 2, pieces := pieces } }
def unlockReq (data : Nat) : BitVec 512 := dreq 3 (15 + 2 * 2 ^ 8) 0 data
def goodPieces : NMap (List Byte) := (List.range 15).map (fun k => (k, (unlockSig.drop (32 * k)).take 32))
def badPieces : NMap (List Byte) := (List.range 15).map (fun k => (k, List.replicate 32 0xFF#8))
def unlockOk (ps : NMap (List Byte)) : Bool :=
  rsaVerify (beNat (key.take 512)) (beNat (key.drop 512)) (unlockMessage 1 0xABC 2) (ps.flatMap (fun p => p.2))

/-- Each request at its level with reserved bits zero, and what its part asks of the state. -/
theorem test_debug_requests :
    (∀ r ∈ [(dreq 0x01 0 0 0, DbgSpec.mk 0x01 0 0 false false), (dreq 0x02 0 0 0, ⟨0x02, 0, 0, false, false⟩),
        (dreq 0x04 0 0 0, ⟨0x04, 1, 0, false, false⟩), (dreq 0x10 32 0x1000 0, ⟨0x10, 1, 0x3F, true, false⟩),
        (dreq 0x10 4 regBase 0, ⟨0x10, 1, 0x3F, true, false⟩), (dreq 0x11 32 0x1000 7, ⟨0x11, 2, 0x3F, true, true⟩),
        (dreq 0x20 7 0 0, ⟨0x20, 2, 0x7FF, false, false⟩), (dreq 0x21 0 0 0, ⟨0x21, 2, 0x7FF, false, false⟩),
        (dreq 0x21 3 0 0, ⟨0x21, 2, 0x7FF, false, false⟩), (dreq 0x22 7 0 0, ⟨0x22, 2, 0x7FF, false, false⟩),
        (dreq 0x23 0 0 0, ⟨0x23, 1, 0, false, false⟩), (dreq 0x30 7 0 1, ⟨0x30, 2, 0x7, false, true⟩),
        (dreq 0x31 7 0 0, ⟨0x31, 2, 0x7, false, false⟩), (dreq 0x32 7 0 0, ⟨0x32, 1, 0x7, false, false⟩),
        (dreq 0x40 1 0x8000 0, ⟨0x40, 2, 0xFFFFF, true, false⟩), (dreq 0x41 0 0 0, ⟨0x41, 2, 0, false, false⟩),
        (dreq 0x42 0 0 0, ⟨0x42, 1, 0, false, false⟩)], requests (dbgSt r.1) r.1 r.2 = true)
    ∧ ({ Dbg.init with fails := 8 } : Dbg).fails = 8 ∧ Dbg.init.fails < 8 ∧ Dbg.init.replay = none
    ∧ (accessOk (dreq 0x10 32 0x1000 0) = true ∧ accessOk (dreq 0x10 4 regBase 0) = true ∧ rdy.dbgReach regBase 4 = true
      ∧ rdy.dbgReach 0x1000 32 = true ∧ regionOf rdy.part regBase = .regs ∧ regionOf rdy.part 0x1000 ≠ .regs
      ∧ badLines rdy clean (linesOf 0x1000 32) = [])
    ∧ (rdy.target 7 = some (.all, true) ∧ rdy.target 0 = some (.core 0, true) ∧ rdy.target 3 = some (.cvr, true)
      ∧ ({ rdy with dbg := { Dbg.init with haltCores := 1, haltCvr := true } } : State).halted (.core 0) = true
      ∧ ({ rdy with dbg := { Dbg.init with haltCores := 1, haltCvr := true } } : State).halted .cvr = true
      ∧ rdy.granted (.core 0) = false)
    ∧ (parseBp (reqData (dreq 0x30 7 0 1))).isSome = true
    ∧ ((withJob job1).jobs = [(1, job1)] ∧ job1.queue = [] ∧ job1.run = none ∧ (withJob job1).dom.joined = false)
    ∧ (Replay.enter 1 0x8000 4).running = false := by decide +kernel

/-! ### Firmware update over MCTP, activation -/

/-- Which states take an update request. -/
def takesUpdate (s : State) : Bool :=
  s.mctpUp && s.ready && s.cvrIntact && !s.dbg.haltCvr && s.setting 3 == 1 && !s.fatal && !s.updBusy
def mctpActSt (s : State) : State := { s with flash := { s.flash with set0 := ⟨1, [(4, (1, 1))]⟩, set1 := ⟨1, [(4, (1, 1))]⟩ } }

theorem test_activation_hypotheses :
    (rdy.pwrok = true ∧ ({ rdy.upd with flashQ := [(.setting 2 30, .mctp)] } : Update).flashQ = (.setting 2 30, .mctp) :: [])
    ∧ ({ rdy with upd := { rdy.upd with act := some (.verify, .mctp) } } : State).cvrWorks = true
    ∧ ({ rdy with upd := { rdy.upd with act := some (.armed, .mctp), armedAt := 99 } } : State).upd.armedAt < rdy.stage
    ∧ ({ rdy.upd with act := some (.paused, .mctp) } : Update).fallback = false
    ∧ ({ trialSt with upd := { trialSt.upd with windowEnd := 17000000 } } : State).upd.windowEnd ≤ trialSt.now
    ∧ trialSt.upd.trial = true ∧ trialSt.upd.act = none ∧ ({ rdy with takeover := 2 } : State).takeover = 2 := by decide +kernel

/-! ### Media, reliability, stages, legs, tasks -/

/-- An entry of one text part of one token at 0x7000, its recipe, and the channel with an open MEDIA_SUBMIT of two entries. -/
def textPart0 : List Byte := raw 64 [(0, 0x7000 + 10 * 2 ^ 44), (8, 4)]
def entry0 : List Byte := raw 64 [(0, 5), (8, 6)] ++ textPart0
def submit (va : Nat) : OpenCmd := ⟨1, 0x302, 1, .submit 0, jcmd [(0x10, 0, va), (0x18, 0, 2)]⟩
def chanWith (va : Nat) (m : List Sample) : State := { poke (poke (withJob job1) 0x3000 recipe) 0x6000 entry0 with
  hostA := { port with openCmds := [submit va] }, chans := [(0, { chan0 with samples := m })] }
/-- The sample it gives, with its part in a slot. -/
def sample0 : Sample := ⟨0, 5, 6, 0, [textPart0], [⟨recipe, [], [], [], []⟩], 0, [], false, 0, false, some 68⟩
def sample1 : Sample := { sample0 with started := 1 }
theorem test_media_take :
    (let s := chanWith (2 ^ 43) []; mget s.chans 0 = some { chan0 with samples := [] }
      ∧ s.submitOf 0 = some (.a, submit (2 ^ 43)) ∧ s.job 1 = some job1 ∧ s.cvrWorks = true
      ∧ ([] : List Sample).length < chan0.inflight ∧ chan0.taken + 1 < (submit (2 ^ 43)).cmd.par 0x18 0 13
      ∧ (s.mediaRead clean (s.pickHalf chan0) 1 job1.pt ((submit (2 ^ 43)).cmd.par 0x10 0 44) 128).2 = none)
    ∧ (let s := chanWith 0x6000 []; let e := s.mediaRead clean (s.pickHalf chan0) 1 job1.pt ((submit 0x6000).cmd.par 0x10 0 44) 128;
      s.submitOf 0 = some (.a, submit 0x6000) ∧ e.2 = some entry0 ∧ fld entry0 6 2 = 0 ∧ zeroBytes entry0 0x0C 0x40 = true
      ∧ (match (e.1.readParts clean (s.pickHalf chan0) 1 job1.pt 0 [(0x3000, textPart0, (64, 0))]).2 with
        | .ok l => l == [⟨recipe, [], [], [], []⟩]
        | .error _ => false) = true) := by decide +kernel
theorem test_media_decode :
    (let s := chanWith 0x6000 [sample0]; s.part.mediaHalves.testBit 0 = true ∧ s.slotsUsed 0 < 128 ∧ s.nextSlot 0 = some (0, sample0)
      ∧ s.live = true)
    ∧ sample1.packed < sample1.started ∧ (match parseRecipe recipe with
      | some q => match parsePart textPart0 q with
        | some p => q.media == 3 && ((chanWith 0x6000 [sample1]).partBytes clean 0 1 job1.pt p).2 == some [zeros 4]
            && ((chanWith 0x6000 [sample1]).partBytes ⟨[], [8 * 2 ^ 21 + 0x7000], []⟩ 0 1 job1.pt p).2 == none
            && (match textPart q [7, 0, 0, 0] with
              | .ok x => x.1.data.length == 64
              | .error _ => false)
            && (match textPart q [0, 0, 0, 0x80] with
              | .ok _ => false
              | .error w => w == ⟨7, 0⟩)
        | none => false
      | none => false) = true
    ∧ (chan0.isLate 100 sample0 = true ∧ sample0.complete = false ∧ (chanWith 0x6000 [sample0]).replayOf 1 = none) := by decide +kernel
/-- The one part that holds a slot is the one that finishes. -/
theorem test_media_finishing (free : Nat) : sample1.finishing free = 0 := by
  simp [Sample.finishing, sample1, sample0, nth, mget]

theorem test_reliability :
    (rdy.pwrok = true ∧ rdy.ready = true ∧ (regionOf rdy.part (lineOf 0)).isMem = true ∧ rdy.marked.contains (lineOf 0) = false
      ∧ ({ rdy with marked := [0] } : State).marked.contains (lineOf 63) = true)
    ∧ (rdy.live = true ∧ linkPresent rdy.part (.cs 7) = true
      ∧ 16 ≤ mgetD ({ rdy with linkRun := [(linkCode (.cs 7), 16)] } : State).linkRun (linkCode (.cs 7)) 0)
    ∧ (let s : State := { rdy with drovers := [(dieCode (.serai 3), ⟨2, some 0⟩), (dieCode (.cdie 0), ⟨2, none⟩)], stage := 999 };
      mgetD s.drovers (dieCode (.serai 3)) .init = ⟨2, some 0⟩ ∧ diePresent s.part (.serai 3) = true ∧ s.stage < 0 + 1000
        ∧ mgetD s.drovers (dieCode (.cdie 0)) .init = ⟨2, none⟩ ∧ s.jobsOn (.cdie 0) = []) := by decide +kernel

/-- A job whose step 5 has the tasks given. -/
def runStep (ts : List TaskRun) : RunStep := { (default : RunStep) with
  q := ⟨0, 5, false, [], .a, 9⟩, tasks := ts }
def jobT (ts : List TaskRun) : Job := { job1L with run := some (runStep ts) }
def taskSt (t : TaskRun) : State := withJob (jobT [t])
def legOn (g : GroupId) : Leg := ⟨g, 99, 0, 1, false, job1.pt, false, false⟩
/-- Task 9 of a kind on core 0 with its body, its leg on a group since stage 99, and what its engine holds. -/
def task (kind : Nat) (g : GroupId) (body : List Byte) (e : Eng) : TaskRun :=
  { TaskRun.init ⟨9, kind, 2, 0, none, none, none, 0x1000, 0x2000, 0⟩ .running with
    body := body, eng := e, leg := some (legOn g) }
def vec0 : GroupId := .vector 0
def id9 : LegId := ⟨1, 9⟩
/-- A gather body of four rows, and its task before its first leg. -/
def gatherBody : List Byte := raw 64 [(0, 2 + 1 * 2 ^ 8 + 2 ^ 15), (8, 4), (0x10, 32), (0x18, 32), (0x1C, 32), (0x24, 3 + 2 * 2 ^ 16), (0x28, 4)]
def gatherTask : TaskRun := { task 1 vec0 gatherBody .idle with st := .ready, leg := none }
/-- A task of kind 2 before its first leg, and a page of group 1 that waits for its digest. -/
def elem0 : TaskRun := { task 2 vec0 [] .idle with st := .ready, leg := none }
theorem test_start_leg :
    (rdy.placing = true ∧ rdy.groupFree vec0 = true ∧ rdy.svcFor vec0 = none ∧ rdy.fillQueues.cands vec0 = [])
    ∧ (let s := taskSt elem0; let u := s.fillQueues; s.placing = true ∧ s.groupFree vec0 = true ∧ s.svcFor vec0 = none
      ∧ (match u.cands vec0 with
        | [c] => u.mayStart vec0 c && c.j == 1 && (match u.job 1, u.engOf 1 9 with
          | some jb, some x => (match jb.run with
            | some r => u.bpLegs 1 9 (jb.hdrAddr r c.pos) (1, 5, 9, 0) == [] && (match u.placeFirst clean x with
              | .go v => (match v.taskOf 1 9 with
                | some t => t.spilled == none
                | none => false)
              | .hold _ => false)
            | none => false)
          | _, _ => false)
        | _ => false) = true) := by decide +kernel

theorem test_leg_ends :
    (let t := task 2 vec0 [] .idle; (taskSt t).job 1 = some (jobT [t]) ∧ (taskSt t).taskOf 1 9 = some t
      ∧ t.leg = some (legOn vec0) ∧ (taskSt t).live = true ∧ t.st = .running ∧ t.midTile = false
      ∧ (jobT [t]).abort = none ∧ t.fail = none ∧ t.finished = false ∧ 99 < (taskSt t).stage
      ∧ ({ jobT [t] with abort := some 100 } : Job).abort.isSome = true)
    ∧ (let t := task 2 vec0 [] .idle; let g := { legOn vec0 with overran := true };
      let u := { t with leg := some g, overruns := 3 };
      (if g.overran then u.overruns + 1 else 0) = 4 ∧ ({ jobT [u] with backhaul := true } : Job).backhaul = true) := by decide +kernel

theorem test_leg_overruns :
    (let t := task 0x10 (.coll 0) [] .idle; (taskSt t).taskOf 1 9 = some t ∧ groupCore (.coll 0) = none
      ∧ (taskSt t).budgetOf (jobT [t]) t ≤ ((taskSt t).stage + 1 - 99) * (taskSt t).periodCycles)
    ∧ (let t := task 2 vec0 [] .idle; groupCore vec0 = some 0 ∧ (jobT [t]).backhaul = false
      ∧ (taskSt t).budgetOf (jobT [t]) t ≤ ((taskSt t).stage + 1 - 99) * (taskSt t).periodCycles
      ∧ ((taskSt t).core 0).holdEnd = none ∧ ((taskSt t).core 0).overruns = []
      ∧ (∀ q ∈ [97, 99], (((taskSt t).setCore 0 { (taskSt t).core 0 with overruns := [q] }).core 0).overruns = [q]
        ∧ q < (taskSt t).stage ∧ (taskSt t).stage ≤ q + 3))
    ∧ (let s := rdy.setCore 0 { rdy.core 0 with holdEnd := some 99 }; (s.core 0).holdEnd = some 99 ∧ 99 < s.stage ∧ s.live = true)
    ∧ (let t := { task 0x10 (.coll 0) [] .idle with heldUntil := some 99 }; (taskSt t).taskOf 1 9 = some t ∧ t.heldUntil = some 99)
    ∧ (let s := withJob { jobT [gatherTask] with run := some { runStep [gatherTask] with seen := [(3, 98)] } };
      (s.runOf 1).map RunStep.seen = some [(3, 98)] ∧ s.taskOf 1 9 = some gatherTask
        ∧ (gatherTask.gatherCtl.map (fun c => (c.fillCtr, c.fillLimit))) = some (3, 2) ∧ gatherTask.st = .ready
        ∧ gatherTask.fillHit = false ∧ 98 + 2 ≤ s.stage) := by decide +kernel

theorem test_task_ends :
    (let t := { task 2 vec0 [] .idle with finished := true };
      (((taskSt t).engOf 1 9).map (fun x => x.t)) = some t ∧ (taskSt t).live = true ∧ t.fail = none
        ∧ (jobT [t]).abort = none ∧ t.hdr.kind ∈ [0x01, 0x02, 0x03, 0x04, 0x05])
    ∧ (let t := { task 2 vec0 [] .idle with fail := some ⟨0x000E, 0, 0, 0, ⟨1, 1⟩⟩ };
      (taskSt t).taskOf 1 9 = some t ∧ t.fail.isSome = true ∧ t.hdr.kind ≠ updKind)
    ∧ (let t := { task updKind vec0 [] .idle with fail := some ⟨0x000E, 0, 0, 0, ⟨1, 1⟩⟩, st := .suspended };
      (taskSt t).taskOf 1 9 = some t ∧ t.fail.isSome = true ∧ t.hdr.kind = updKind)
    ∧ (let s := withJob { job1 with abort := some 100 }; s.cvrWorks = true ∧ s.ticking = true ∧ 100 ≤ s.stage)
    ∧ (let t := { task 2 vec0 [] .idle with st := .done }; (jobT [t]).stepOver (runStep [t]) = true
      ∧ (∀ u ∈ (runStep [t]).tasks, u.st ≠ .notRun))
    ∧ (let t := { task 2 vec0 [] .idle with st := .notRun }; (jobT [t]).stepOver (runStep [t]) = true
      ∧ (∃ u ∈ (runStep [t]).tasks, u.st = .notRun)) := by decide +kernel

/-! ### Training, resharding, cache moves -/

/-- A tier-1 group of 32 elements that settles at counter 4 reaching 1, and a tier-2 group of delay 1. -/
def group1 : TGroup := { (default : TGroup) with
  id := 1, tier := 1, elements := 32, settleCtr := 4, settleVal := 1, bank0 := 0xA000, bank1 := 0xB000, grad := 0xC000 }
def tg1 : TrainGrp := { TrainGrp.init group1 [] with inStep := true }
def group2 : TGroup := { group1 with id := 2, tier := 2, delay := 1, hostAddr := 0xD000 }
def tg2 : TrainGrp := { TrainGrp.init group2 [] with inStep := true }
def train1 (gs : List TrainGrp) : Train := { train0 with groups := gs }
def updRun : RunStep := { runStep [] with q := ⟨0, 5, true, [], .a, 9⟩ }
def jobU (r : RunStep) (t : Train) : Job := { job1 with run := some r, train := some t, ctrs := [(4, 1)] }
def two (t : Train) : Train := { t with dpSize := 2 }
theorem test_step_close :
    (let s := withJob (jobU updRun (train1 [tg1])); s.live = true ∧ (train1 [tg1]).group 1 = some tg1 ∧ updRun.q.update = true
      ∧ updRun.close = 0 ∧ tg1.inStep = true ∧ tg1.settled = false ∧ tg1.g.settleVal ≤ mgetD [(4, 1)] tg1.g.settleCtr 0
      ∧ (train1 [tg1]).elems tg1.g ≠ 0 ∧ tg1.g.tier ≠ 2 ∧ (train1 [tg2]).group 2 = some tg2 ∧ tg2.g.tier = 2
      ∧ ({ tg1.g with elements := 0 } : TGroup).shardElems 1 0 = 0)
    ∧ (let t := train1 [{ tg1 with inStep := false }]; (jobU updRun t).closable updRun t = true ∧ t.unsettled = [])
    ∧ (({ updRun with close := 1, devTally := 3 } : RunStep).devTally ≤ (3#64).toNat ∧ (jobU updRun (train1 [])).way = none)
    ∧ (let g := { tg1 with g := { group1 with replicated := true } };
      (train1 [g]).replicas.find? (fun g => g.g.id == 1) = some g ∧ (train1 [g]).tallied.contains 1 = false ∧ (train1 [g]).dpSize = 1
        ∧ (train1 [g]).digested 1 = true ∧ agree ((train1 [g]).withOwn [5#64] 5) = true
        ∧ agree ((two (train1 [g])).withOwn [5#64, 6#64] 5) = false) := by decide +kernel
def tgR : TrainGrp := { tg1 with g := { group1 with replicated := true } }
/-- A range of four pages under comparison, the lower halves of the two ranks differing as the upper ones do, and one of a single page
that the logs of both ranks show an event in. -/
theorem test_bisect_round :
    (let t := { two (train1 [tgR]) with bisect := [(1, 0, 4, [6, 5])] };
      let z := t.roundRange ⟨[], [], false⟩ ((1, 0, 4, [6, 5]), [0, 7]);
      t.group 1 = some tgR ∧ t.bisect.filter (fun q => q.1 == 1) = t.bisect ∧ t.digested 1 = true ∧ z.singles = [] ∧ z.ranges.length = 2
        ∧ z.failed = false)
    ∧ (let t := { two (train1 [tgR]) with bisect := [(1, 0, 1, [6, 5])] };
      let z := t.roundRange ⟨[], [], false⟩ ((1, 0, 1, [6, 5]), []);
      let s := { withJob (jobU { updRun with close := 2 } t) with pageRecs := [(8, { PageRec.init with corr := 1 })] };
      let v := (s.shareValue ((jobU { updRun with close := 2 } t).dataGroup t) (t.digOf 1 0 1)).modTrain 1 (fun _ => { t with
        bisect := [], rollback := false });
      z.singles = [(1, 0, 1, [6, 5])] ∧ z.ranges = [] ∧ z.failed = false
        ∧ v.job 1 = some (jobU { updRun with close := 2 } { t with bisect := [], rollback := t.rollback })
        ∧ v.pageEvent job1.pt t tgR 0 = true) := by decide +kernel
/-- A page digest that waits for a leg of core 0. -/
theorem test_service_leg :
    (match (withJob (jobU updRun { train1 [tg1] with digs := [⟨1, 0, 0, 0, 0⟩] })).svcFor vec0 with
      | some (0, (1, d)) => d.group == 1
      | _ => false) = true := by decide +kernel

/-- The slow tier: a part that is owed; a part due with no program, and with one and no ledger slot. -/
def params0 : List Byte := raw 64 [(0, 1)]
theorem test_slow_tier :
    (let g := { tg2 with owed := some (0, [1, 2]) }; (train1 [g]).group 2 = some g ∧ g.owed = some (0, [1, 2])
      ∧ (withJob job1).jobReach job1.pt g.g.hostAddr (g.g.hostPlanes ((train1 [g]).elems g.g)).2 = true)
    ∧ (let t := train1 [tg2]; let s := withJob (jobU updRun t); t.group 2 = some tg2 ∧ tg2.applied = none ∧ 0 = t.ordinal % tg2.g.delay
      ∧ 0 < tg2.g.delay ∧ (tg2.g.part (t.elems tg2.g) 0).2 ≠ 0 ∧ tg2.owed = none
      ∧ s.jobReach job1.pt tg2.g.hostAddr (tg2.g.hostPlanes (t.elems tg2.g)).2 = true
      ∧ s.jobReach job1.pt (if tg2.partBank.getLsbD 0 then tg2.g.bank0 else tg2.g.bank1) (tg2.g.bank (t.elems tg2.g)).2 = true
      ∧ s.optProg (jobU updRun t) t job1.pt tg2.g = none
      ∧ (s.optProg (jobU updRun t) { t with params := params0 } job1.pt tg2.g).isSome = true ∧ tg2.dueSlots t.ordinal = []) := by
  decide +kernel

/-- A reshard asked for stage 100 into a table of no groups with an empty segment table, and one moved in stage 99. -/
def reshard0 : Reshard := ⟨{ (default : MapRec) with mode := 0 }, 0x5000, 3, 0x7000, 0, 100, false, 0, train0, [], 0, false, none, []⟩
def jobR : Job := { job1G with reshard := some reshard0 }
def group3 : CollGroup := ⟨2, 0, 100, [7, 8]⟩
theorem test_reshard :
    (let s := withJob jobR; s.cvrWorks = true ∧ reshard0.moved = false ∧ reshard0.stage ≤ s.stage ∧ jobR.reshardMode reshard0 = 0
      ∧ jobR.train = none ∧ mget jobR.groups reshard0.group = some group3
      ∧ (match s.cmdJobRead clean 1 jobR.pt reshard0.segs (16 * reshard0.entries) with
        | (u, some table) => u == s && (s.reshardMove clean 1 jobR reshard0 group3 none table []).isSome
        | _ => false) = true
      ∧ s.reshardMove clean 1 jobR reshard0 group3 none (raw 16 [(12, 1)]) [] = none
      ∧ ((withJob { jobR with train := some train0 }).flushLedger 1).isSome = true)
    ∧ (let b := withJob { job1 with train := none }; 99 < b.stage
      ∧ (b.allocJob job1.hbms (train0.need [] 0)).isSome = true ∧ b.allocJob job1.hbms (train0.need [] (2 ^ 20)) = none) := by
  decide +kernel
/-- A ledger that cannot be flushed: its group has a slot in force and its host copy is unreachable. -/
def stuck : TrainGrp := { tg2 with ledger := [⟨[], 1, 0, 0, 0⟩], g := { group2 with hostAddr := 2 ^ 40 } }
theorem test_reshard_flush_fails :
    (withJob { job1 with reshard := some reshard0, train := some (train1 [stuck]) }).flushLedger 1 = none := by decide +kernel

/-- A ferried sequence that a KV_PIN waits for, one that yields to it, and a pool with no page. -/
def bale1 : KvDir := { KvDir.init with len := 128, list := [(9 * 2 ^ 21, 128)] }
def seqA : KvSeq := ⟨5, 0, 0, false, true, 2 ^ 21, [(0, bale1)]⟩
def seqB : KvSeq := ⟨6, 3, 1, false, false, 2 ^ 21 + 192, []⟩
def kvSt (pages : Nat) : State := { withJob { job1 with
    kv := some { pool1 with pages := pages, ferryUnits := [(9 * 2 ^ 21, 0)], seqs := [seqA, seqB] } } with
  hostA := { port with openCmds := [⟨1, 0x204, 1, .pin 5, kcmd⟩] } }
theorem test_cache_moves :
    (∀ n ∈ [0, 8], (kvSt n).cvrWorks = true ∧ (kvSt n).paused = false ∧ (kvSt n).jobReach job1.pt (9 * 2 ^ 21) (8 * 2 ^ 21) = true
      ∧ ((kvSt n).wanted 1).find? (fun q => q.id == 5) = some seqA)
    ∧ (((kvSt 0).kvNeeds clean 1).filterMap (fun n => ({ pool1 with pages := 0, ferryUnits := [(9 * 2 ^ 21, 0)], seqs := [seqA, seqB] } : KvPool).victim n.1
        (match n.2 with
          | some q => q.yields
          | none => fun _ => true))).find? (fun q => q.id == 6) = some seqB := by decide +kernel
theorem test_cache_moves_room : ∀ p ∈ ((kvSt 0).kvPool 1).toList, ((kvSt 0).moveSeq clean 1 job1.pt true p seqA).isNone = true
    ∧ ((kvSt 0).moveSeq clean 1 job1.pt false p seqB).isSome = true := by decide +kernel
/-- A sequence of no caches comes back; no command of either host is open after it. -/
def seqC : KvSeq := ⟨7, 3, 1, false, true, 2 ^ 21, []⟩
theorem test_cache_moves_back : ∀ p ∈ ((kvSt 8).kvPool 1).toList,
    (match ({ kvSt 8 with hostA := port } : State).moveSeq clean 1 job1.pt true p seqC with
      | some (t, _, _) => t.hostA.openCmds == [] && t.hostB.openCmds == []
      | none => false) = true := by decide +kernel

/-! ### Engines -/

/-- A descriptor of S8 elements in blocks of 32: planes, rank and dimensions; in tile store or at job addresses. -/
def dsc (ts : Bool) (data scale : Nat) (dims : List Nat) : List Byte :=
  raw 64 ([(0, data + b2n ts * 2 ^ 47), (8, scale), (0x10, 1 + 2 * 16 + (dims.length - 1) * 2 ^ 10)]
    ++ dims.zipIdx.map (fun p => (0x18 + 4 * p.2, p.1)))
/-- The device with task 9 on a group; its engine. -/
def engSt (kind : Nat) (g : GroupId) (body : List Byte) (e : Eng) : State := taskSt (task kind g body e)

/-- C = A × B of 32 × 64 × 32 on one array, in two chunks, and its state with one chunk finished. -/
def matBody : List Byte :=
  raw 64 [(0, 2 + 2 ^ 8), (8, 32), (0x10, 64), (0x18, 32), (0x1C, 32)] ++ dsc true 0 0x800 [32, 32] ++ dsc true 0x1000 0x1800 [32, 64]
    ++ raw 64 [(0, 0x20)] ++ dsc true 0x2000 0x3000 [64, 32]
def mat0 : MatSt := { MatSt.init with sums := [OutSum.init], bnds := [none], filled := [0], freed := [0] }
def array0 : GroupId := .array 0
/-- A convolution of a 2 × 2 image that waits for its top row and publishes one row upward, with the stamp in place. -/
def convBody : List Byte :=
  raw 64 [(0, 0xF * 2 ^ 8 + 2 ^ 15 + 2 ^ 16), (8, 32), (0x10, 32), (0x14, 32)] ++ raw 64 [(0x14, 2), (0x1C, 2), (0x24, 2)]
    ++ raw 64 [(0, 1 + 4), (4, 1 + 2 ^ 16), (8, 0x8000), (0x10, 1), (0x14, 1), (0x18, 0x9000), (0x1C, 0xA000), (0x20, 0xB000), (0x30, 1)]
    ++ dsc true 0 0x800 [32, 2, 2] ++ dsc true 0x1000 0x1800 [32, 32, 1, 1] ++ raw 64 [(0, 0x20)] ++ dsc true 0x2000 0x3000 [32, 4]
def convSt (m : MatSt) : State := (engSt 6 array0 convBody (.mat m)).store (tileAt 0 + 0x8000) [5, 0, 0, 0, 1]
theorem test_array_events :
    (let s := engSt 1 array0 matBody (.mat mat0); ((s.engine array0).bind EngRun.matJob).any (fun b => b.mayStart mat0) = true
      ∧ ((s.engine array0).map (fun x => (x.t.hdr.kind, x.t.eng, x.t.leg.any Leg.ended))) = some (1, .mat mat0, false))
    ∧ (let m := { mat0 with drain := [(0, 0)], tile := 1 };
      ((engSt 1 array0 matBody (.mat m)).engine array0).any (fun x => (x.matJob).any (fun b => m.drained + 1 != b.groups * b.chunks)) = true)
    ∧ ((convSt mat0).engine array0).any (fun x => match x.matJob with
        | some (.conv q) => haloSeen (convSt mat0) x (.conv q) mat0 == [0]
            && ((convSt mat0).ctlMeet x.j x.t clean [tileAt x.core + 0x8000]).sound x
        | _ => false) = true
    ∧ (let m := { mat0 with drained := 1 }; ((convSt m).engine array0).any (fun x => match x.matJob with
        | some (.conv q) => (convSt m).sound x && q.halo.any (fun h => h.pubSeq == 1)
            && (q.pubs.find? (fun p => !m.haloOut.contains p.side && p.ready q m
              && (q.halo.any (fun h => h.pubSeq == 1)))).isSome
        | _ => false) = true) := by decide +kernel

/-- A program of one NOP over 1,024 elements, an update leg of a group under its parameter record, a tap sweep of two rows. -/
def elemBody : List Byte := raw 64 [(0, 1), (4, 1024), (8, 1), (0x0C, 1), (0x10, 1)] ++ zeros 64
def tapBody : List Byte := raw 64 [(0x14, 2), (0x1C, 2), (0x24, 32)] ++ dsc true 0 0x800 [32, 2, 2] ++ dsc true 0x1000 0x1800 [32, 1, 1, 1]
  ++ raw 64 [(0, 0x20)] ++ dsc true 0x2000 0x3000 [32, 2, 2]
def upd0 : UpdSt := ⟨true, 0, 0, default⟩
def updTask : TaskRun := { task updKind vec0 [] (.upd upd0) with hdr := fwHdr (updId 1) 0 }
def updSt : State := withJob (jobU { updRun with upds := [updTask] } { train1 [{ tg1 with settled := true }] with params := params0 })
theorem test_vector_events :
    (let s := engSt 2 vec0 elemBody (.elem ElemSt.init); mget s.svc 0 = none ∧ (s.engine vec0).any (fun x => x.t.hdr.kind == 2 && !x.t.leg.any Leg.ended && (match
        parseElem x.t.body x.jb.tsBase x.jb.tsBytes with
      | some b => decide (ElemSt.init.iter + 1 < b.iters) && b.outs.isEmpty
      | none => false)) = true)
    ∧ (updSt.engine vec0).any (fun x => x.t.hdr.kind == updKind && x.t.eng == .upd upd0 && (match x.group with
        | some (t, g) => (updSt.optProg x.jb t x.pt g.g).isSome && decide (0 < cdiv (cdiv (t.elems g.g) 32) 16)
        | none => false)) = true
    ∧ (let s := { withJob (jobU updRun { train1 [tg1] with digs := [⟨1, 0, 0, 0, 1⟩] }) with svc := [(0, ⟨1, 1, 0⟩)] };
      s.live = true ∧ (train1 [tg1]).group 1 = some tg1
        ∧ ({ train1 [tg1] with digs := [⟨1, 0, 0, 0, 1⟩] } : Train).digs.find? (fun d => d.group == 1 && d.page == 0 && d.st == 1)
          = some ⟨1, 0, 0, 0, 1⟩
        ∧ ((train1 [tg1]).pageWords tg1 0).2 ≤ min (0 + 512) ((train1 [tg1]).pageWords tg1 0).2)
    ∧ (let s := engSt 3 vec0 tapBody (.elem ElemSt.init); (s.engine vec0).any (fun x => x.t.hdr.kind == 3 && (match
        parseTap x.t.body x.jb.tsBase x.jb.tsBytes with
      | some b => decide (ElemSt.init.iter + 1 < b.iters)
      | none => false)) = true) := by decide +kernel

/-- A copy of 8,192 bytes and a box of 128 × 64 elements of tile store. -/
def copyBody : List Byte := raw 64 [(4, 8192), (8, 0x10000), (0x10, 0x20000)]
def boxBody : List Byte := raw 64 [(0, 4)] ++ raw 64 [(0x20, 128), (0x24, 64), (0x28, 1), (0x2C, 1)] ++ dsc true 0x10000 0x13000 [128, 64]
  ++ dsc true 0x20000 0x23000 [128, 64]
/-- Tile store is reached whatever a job's pages are. -/
theorem boxUnreach_ts (s : State) (x : EngRun) (a b : Desc) (q : BoxAt) (l : List Nat) (ha : a.ts = true) (hb : b.ts = true) :
    boxUnreach s x a b q l = none := by
  simp [boxUnreach, elemUnreach, ha, hb]
theorem unreach_ts (r : RingSteps) (s : State) (x : EngRun) (so ext : Idx) (a d : Desc) (ha : a.ts = true) (hd : d.ts = true) :
    r.unreach s x so ext a d = none := by
  simp [RingSteps.unreach, boxUnreach_ts, ha, hd]
def mov0 : GroupId := .mover 0 0
theorem test_mover_piece :
    (let s := engSt 4 mov0 copyBody (.mov MovSt.init); (s.engine mov0).any (fun x => x.t.hdr.kind == 4
        && parseMover x.t.body == some (.copy 0 8192 (.job 0x10000) (.job 0x20000)) && s.jobReach x.pt 0x10000 4096
        && s.jobReach x.pt 0x20000 4096) = true ∧ MovSt.init.issued = false)
    ∧ (let s := engSt 4 mov0 boxBody (.mov MovSt.init); (s.engine mov0).any (fun x => match parseMover x.t.body with
        | some (.box _ _ _ ext a d) => a.ts && d.ts && MovSt.init.piece + 1 != boxPieces ext d
        | _ => false) = true) := by decide +kernel
/-- A write of 64 bytes of tile store to the window of device 8. -/
def fabBody : List Byte := raw 64 [(4, 64), (8, 2 ^ 44), (0x10, 2 * 2 ^ 44)]
def fabSt : State := fab (withJob { jobT [task 4 mov0 fabBody (.mov MovSt.init)] with peers := [(0, (8, 0))] })
theorem test_mover_fabric : (fabSt.engine mov0).any (fun x => parseMover x.t.body == some (.copy 0 64 (.ts 0 0) (.fabric 0 0))
    && (mget x.jb.peers 0).isSome && (let reqs := fabricReqs fabSt clean x 0 true (tileAt 0) 0 0 64 0
      reqs.length == 1 && fabSt.dmaRoom x.core 1 && (match fabSt.issueAll reqs with
        | .sent _ => true
        | _ => false))) = true := by decide +kernel
/-- A fill of two pieces of the ring of task 8, both of whose slots are free. -/
def ringMat : List Byte :=
  raw 64 [(0, 2 + 2 ^ 8 + 2 ^ 14), (8, 32), (0x10, 64), (0x18, 32), (0x1C, 32), (0x20, 2 + 64 * 2 ^ 8)] ++ dsc true 0 0x800 [32, 32]
    ++ dsc true 0x40000 0x50000 [128, 32] ++ raw 64 [(0, 0x20)] ++ dsc true 0x2000 0x3000 [64, 32]
def ringBody : List Byte := raw 64 [(0, 8), (0x18, 8), (0x20, 1 + 2 ^ 16)] ++ raw 64 [(0x20, 128), (0x24, 32), (0x28, 1), (0x2C, 1)]
  ++ dsc true 0x10000 0x13000 [128, 32]
def ringSt : State := withJob (jobT [task 4 mov0 ringBody (.mov MovSt.init),
  { task 1 array0 ringMat (.mat mat0) with hdr := ⟨8, 1, 2, 0, none, none, none, 0x1000, 0x2000, 0⟩ }])
theorem test_mover_ring : (ringSt.engine mov0).any (fun x => match parseMover x.t.body, ringOf ringSt x 8 0 with
    | some (.ring _ so ext a 8 0 fl wr a0 a1 b0 b1), some (rt, b, some rm) =>
      let st : RingSteps := ⟨fl, wr, a0, a1, b0, b1⟩
      rt.spilled == none && !ringTaken ringSt x 8 0 && st.fits so ext a (b.wDesc 0 0) && a.ts && (b.wDesc 0 0).ts
        && decide (ringAhead (nth rm.filled 0) (nth rm.freed 0) < b.ctl.slots) && boxPieces ext (b.wDesc 0 0) == 2
    | _, _ => false) = true := by decide +kernel

/-- An attention task over sequence 5 that appends; its row has two new tokens. -/
def attBody : List Byte :=
  raw 64 [(0, 4 + 2 ^ 8 + 2 ^ 16), (8, 1), (0x10, 0xFFFFFFFF), (0x20, 1), (0x2C, 8 * 2 ^ 24)] ++ dsc true 0 0x800 [64, 2] ++ zeros 64
    ++ dsc true 0x1000 0x1800 [64, 2] ++ dsc true 0x2000 0x2800 [64, 2] ++ raw 64 [(0, 0x20)] ++ dsc true 0x3000 0x3800 [64, 2]
    ++ raw 64 [(0, 0x4000 + 2 ^ 47), (8, 0x4800), (0x10, 3 + 0), (0x18, 2)]
def att0 : AttSt := { AttSt.init with begun := true, rows := [⟨2 ^ 21, 2, 2⟩] }
/-- The cache of sequence 5: its saddlebag open with `n` tokens. -/
def sbDir (n : Nat) : KvDir := { KvDir.init with sbState := 1, sbFill := n, len := n }
def attSt (d : List (Nat × KvDir)) (a : AttSt) : State :=
  withJob { jobT [task 5 array0 attBody (.att a)] with kv := some { pool1 with seqs := [{ seq5 with dirs := d }] } }
def attIs (s : State) (p : EngRun → AttBody → KvPool → Bool) : Bool := (s.engine array0).any (fun x => x.t.hdr.kind == 5 && (match
    parseAtt x.t.body, x.jb.kv with
  | some b, some k => p x b k
  | _, _ => false))
/-- The same row under a forward task whose tokens are in, and under a backward task. -/
def bwdBody : List Byte :=
  raw 64 [(0, 1 + 2 ^ 8 + 2 ^ 16), (8, 1), (0x10, 0xFFFFFFFF), (0x20, 1), (0x24, 1), (0x2C, 8 * 2 ^ 24)] ++ dsc true 0 0x800 [64, 2] ++ zeros 64
    ++ dsc true 0x1000 0x1800 [64, 2] ++ raw 64 [(0, 0x4000 + 2 ^ 47), (8, 0x4800), (0x10, 3), (0x18, 2)]
    ++ raw 64 [(0, 0x5000 + 2 ^ 47), (8, 0x5800), (0x10, 1), (0x18, 2)] ++ zeros 64
    ++ (List.range 3).flatMap (fun k => raw 64 [(0, 0x20)] ++ dsc true (0x6000 + 0x1000 * k) (0x6800 + 0x1000 * k) [64, 2])
theorem test_attention_pair :
    (∀ z ∈ [(attBody, { att0 with appRow := 1 }), (bwdBody, att0)],
      let s := withJob { jobT [task 5 array0 z.1 (.att z.2)] with kv := some { pool1 with seqs := [{ seq5 with dirs := [(0, sbDir 2)] }] } }
      attIs s (fun x b p =>
        let row := nth z.2.rows 0
        b.appDone z.2 && b.c.phase != 2 && b.mayPair z.2 && attGroups p b row == 1 && arrayLive b.c row 0 1 0 && b.q.isSome
          && (b.dOut == none || (b.lseIn.isSome && b.delta.isSome)) && (match s.stageAll clean x b p (attDir p b row) 0 0 [] [0] with
            | .ok _ => true
            | .error _ => false)) = true) := by decide +kernel
theorem test_attention_events :
    (let a := { att0 with appRow := 1, opened := true }; attIs (attSt [] a) (fun _ b p => b.appDone a && b.c.phase != 2
      && decide (a.row < b.c.rows) && b.mayPair a && attGroups p b (nth a.rows a.row) == 0) = true)
    ∧ (let a := { att0 with fin := [⟨0, 0, [], 1⟩] }; attIs (attSt [] a) (fun x b p => b.lse.any (fun l =>
      !b.complete (attFinFwd (attSt [] a) x b p { a with fin := [] } ⟨0, 0, [], 1⟩ (nth b.outs 0) l).2)) = true)
    ∧ (∀ n ∈ [0, 128], attIs (attSt [(0, sbDir n)] att0) (fun _ b p => b.newK.isSome && b.newV.isSome && !b.appDone att0
      && (p.seqAt (nth att0.rows 0).seqRec).any (fun q => q.dir b.c.cache == sbDir n)) = true)
    ∧ min (min (32 - att0.appended % 32) (2 - att0.appTok)) (128 - (sbDir 0).sbFill) ≠ 0
    ∧ (let a := { att0 with bales := [2 ^ 21 + 264 * 64] }; attIs (attSt [(0, sbDir 128)] a) (fun x b _ => !b.appDone a
      && (xlate x.pt (2 ^ 21 + 264 * 64)).isSome) = true ∧ (sbDir 128).sbFill = 128) := by decide +kernel

/-! ### Collectives, frames, ports, domains -/

/-- The state after a port's account of a frame that `Received` names, and what `Received` asks. -/
def rx (s : State) (fr : Frame) : State := s.setPort fr.port.toNat { s.port fr.port.toNat with
  rxSeq := (s.port fr.port.toNat).rxSeq + 1
  rxBytes := (s.port fr.port.toNat).rxBytes + fr.payload.length
  ctlOut := merase (s.port fr.port.toNat).ctlOut 2
  creditOut := mset (s.port fr.port.toNat).creditOut (frameLane fr)
    (mgetD (s.port fr.port.toNat).creditOut (frameLane fr) 0 + frameCredits fr) }
def rxOk (s : State) (fr : Frame) : Bool := s.live && s.dom.joined && (s.port fr.port.toNat).st == .up
  && s.keyHeld fr.port.toNat fr.kgen && (fr.typ == 9 || fr.dest.toNat == s.dom.deviceId)
theorem received_rx (s : State) (fr : Frame) (h : rxOk s fr = true) : Received s fr (rx s fr) := by
  simp only [rxOk, Bool.and_eq_true, Bool.or_eq_true, beq_iff_eq] at h
  exact ⟨h.1.1.1.1, h.1.1.1.2, h.1.1.2, h.1.2, h.2, rfl⟩

/-- A frame from device 8 for job 1, whose tag is 5. -/
def fr0 (typ : Nat) (payload : List Byte) : Frame :=
  ⟨0, 7, 8, 5, 0, false, false, false, BitVec.ofNat 4 typ, false, 0, 0, 0x10, 0, payload⟩

/-- A reduce-scatter of 64 elements, sequence number 1, group 3 of `n` ranks; its task holds `q`. -/
def collBody (n : Nat) : List Byte :=
  raw 64 [(0, 1 + 3 * 2 ^ 8), (4, 1)] ++ dsc false 0x10000 0x11000 [64] ++ dsc false 0x12000 0x13000 [64 / n]
def collJob (n : Nat) (q : CollSt) : Job := { jobT [task 0x10 (.coll 0) (collBody n) (.coll q)] with
  tag := 5, groups := [(3, ⟨n, 0, 100, [7, 8].take n⟩)] }
def collS (n : Nat) (q : CollSt) : State := fab (withJob (collJob n q))
def coll0 : CollSt := CollSt.init 0 0 []
/-- Rank 1's message of phase 1, ring step 0, chunk 0. -/
def collMsg (sub sig : Nat) : List Byte := raw 64 [(0, 3 + sub * 2 ^ 8 + 2 ^ 10 + 2 ^ 13), (4, 1), (8, 5), (0x14, sig), (0x18, 64), (0x1C, 7)]
  ++ [5#8] ++ zeros 63
def goodSig : Nat := 1 + 2 ^ 3 + 2 * 2 ^ 7 + 2 ^ 11
theorem test_collective_steps :
    (((collS 1 coll0).collLeg id9).any (fun z => decide (z.2.1.b.serai = (0#2).toNat) && (z.2.1.next z.2.2).isSome) = true)
    ∧ (∀ q ∈ [coll0, { coll0 with granted := [0, 1, 2, 3] }], ((collS 2 q).collLeg id9).all (fun z => match z.2.1.next z.2.2 with
      | some (_, t) => ((z.2.1.touches t).findSome? (fun p => (collS 2 q).unreachIn z.2.1.x.pt p.1 p.2)).isNone
      | none => true) = true)
    ∧ (((collS 2 coll0).collLeg id9).any (fun z => (z.2.1.next z.2.2).isNone && decide (z.2.2.heardAt (1#13).toNat + z.2.1.timeout ≤ (collS 2 coll0).stage)
      && decide (z.2.2.lastStage + z.2.1.timeout ≤ (collS 2 coll0).stage) && (z.2.1.awaits z.2.2).contains (1#13).toNat) = true) := by
  decide +kernel
theorem test_collective_frames :
    (∀ sig ∈ [goodSig, 0], ∀ sub ∈ [0, 3], let s := collS 2 { coll0 with granted := [1] }; let fr := fr0 8 (collMsg sub sig);
      let h := collHdr fr.payload; let b := rx s fr;
      rxOk s fr = true ∧ fr.typ = 8 ∧ fr.tag ≠ 0 ∧ h.sub = sub
      ∧ (b.tagged fr.tag.toNat).any (fun y => (b.collTask y.1 y.2 h).any (fun c => (b.collOf c.x).any (fun q =>
        match (c.steps.zipIdx).find? (fun t => c.takes t.1 == some ⟨h.src, h.phase, h.ring, h.chunk⟩) with
        | some (t, i) => (if sig = 0 then h.sig != c.sig else h.sig == c.sig) && decide (h.len = c.lenOf t) && q.granted.contains i
            && !q.done.contains i && decide (fr.offset.toNat ≤ c.chunkLen t)
        | none => false))) = true)
    ∧ (let s := fab (withJob { job1 with tag := 5 }); let fr := fr0 8 (collMsg 1 goodSig); let h := collHdr fr.payload;
      rxOk s fr = true ∧ fr.typ = 8 ∧ fr.tag ≠ 0 ∧ h.sub = 1 ∧ (rx s fr).tagged fr.tag.toNat = some (1, { job1 with tag := 5 })
        ∧ (rx s fr).collTask 1 { job1 with tag := 5 } h = none
        ∧ (∀ z ∈ (((rx s fr).modJob 1 (fun (k : Job) => { k with readies := k.readies ++
            [ReadyRec.mk h.group h.step h.seq h.src h.phase h.ring h.chunk h.sig h.len] })).job 1).toList, z.run = none))
    ∧ (∀ u ∈ [TxnFor.coll 1 9, TxnFor.way 1 3], let s0 := collS 2 coll0;
      let s : State := { s0 with dom := { s0.dom with txns := [⟨0x10, 8, 0, false, 0, 0, u⟩] } }; let fr := fr0 8 (collMsg 2 goodSig);
      rxOk s fr = true ∧ fr.typ = 8 ∧ (collHdr fr.payload).sub = 2
        ∧ ((rx s fr).endTxn fr).map (fun y => y.1.use_) = some u)
    ∧ (let fr := { fr0 8 (collMsg 0 goodSig) with tag := 0 }; rxOk (collS 2 coll0) fr = true ∧ (collHdr fr.payload).sub = 0)
    ∧ (let fr := { fr0 8 (collMsg 0 goodSig) with tag := 6 }; rxOk (collS 2 coll0) fr = true
      ∧ (rx (collS 2 coll0) fr).tagged fr.tag.toNat = none)
    ∧ (let fr := fr0 8 (collMsg 0 goodSig); let s := fab (withJob { job1 with tag := 5 }); (rx s fr).tagged fr.tag.toNat = some (1, { job1 with tag := 5 })
      ∧ (rx s fr).collTask 1 { job1 with tag := 5 } (collHdr fr.payload) = none) := by decide +kernel

/-- Job 1 with a window of its first page, with or without a right. -/
def winSt (ok : Bool) : State := fab (withJob { job1 with tag := 5, windows := [(0, ⟨0, 1, ok, ok, ok⟩)] })
theorem test_frame_requests :
    (let s := winSt true; let fr := fr0 0 (zeros 64); rxOk s fr = true ∧ fr.typ = 0 ∧ fr.poison = false
      ∧ (match (rx s fr).fabTarget fr fr.payload.length Window.write with
        | .ok (j, _, va) => j == 1 && va == 0
        | .error _ => false) = true)
    ∧ (let s := winSt false; let fr := fr0 0 (zeros 64); rxOk s fr = true
      ∧ (match (rx s fr).fabTarget fr fr.payload.length Window.write with
        | .ok _ => false
        | .error e => e == 4) = true)
    ∧ (∀ n ∈ [0, 1, 8, 9], let s := winSt true; let fr := fr0 2 (raw 64 [(0, n)]); rxOk s fr = true ∧ fr.typ = 2 ∧ fld fr.payload 0 2 = n
      ∧ (match (rx s fr).fabTarget fr (64 * n) Window.read with
        | .ok (_, jb, va) => badLines (rx s fr) clean (jobLines jb.pt va (64 * n)) == [] && clean.corr.isEmpty
        | .error _ => false) = true)
    ∧ (∀ ok ∈ [true, false], let s := winSt ok; let fr := fr0 4 (zeros 64); rxOk s fr = true ∧ fr.typ = 4
      ∧ ((rx s fr).tagged fr.tag.toNat).any (fun y => ((mget y.2.windows fr.window.toNat).map Window.signal) == some ok) = true)
    ∧ (let fr := { fr0 0 (zeros 64) with tag := 0 }; rxOk (fab rdy) fr = true ∧ (rx (fab rdy) fr).hostsImages fr.src.toNat = false
      ∧ (rx { fab rdy with ways := [(8 * 65536 + 1, ⟨[], []⟩)] } fr).hostsImages fr.src.toNat = true)
    ∧ (let s := fab rdy; let fr := { fr0 4 (zeros 64) with tag := 6 }; rxOk s fr = true ∧ (rx s fr).tagged fr.tag.toNat = none)
    ∧ (let s := fab rdy; let fr := { fr0 0 (zeros 64) with dest := 9 }; s.keyHeld fr.port.toNat fr.kgen = true ∧ fr.dest.toNat ≠ s.dom.deviceId
      ∧ (s.dom.route fr.epoch fr.dest.toNat fr.src.toNat fr.flow.toNat).isSome = true
      ∧ s.dom.route fr.epoch (99#16).toNat fr.src.toNat fr.flow.toNat = none)
    ∧ (let s := fab rdy; let fr := fr0 10 (zeros 64); rxOk s fr = true ∧ fr.tag ≠ 0 ∧ rxOk s { fr with tag := 0 } = true)
    ∧ (∀ t ∈ [7, 11, 15], let s := fab rdy; let fr := fr0 t (zeros 64); rxOk s { fr with dest := BitVec.ofNat 16 s.dom.deviceId } = true) := by
  decide +kernel
/-- A mover's transaction that device 8 answers. -/
def txnSt (u : TxnFor) : State := let s := fab (engSt 4 mov0 copyBody (.mov MovSt.init));
  { s with dom := { s.dom with txns := [⟨0x10, 8, 0, false, 0, 0, u⟩] } }
theorem test_frame_answers :
    (∀ t ∈ [1, 5, 6], rxOk (txnSt (.write 1 9)) (fr0 t (zeros 64)) = true
      ∧ ((rx (txnSt (.write 1 9)) (fr0 t (zeros 64))).endTxn (fr0 t (zeros 64))).map (fun y => y.1.use_) = some (.write 1 9))
    ∧ (let s := txnSt (.read 1 9 0 64); let fr := fr0 3 (zeros 64); rxOk s fr = true ∧ fr.poison = false
      ∧ ((rx s fr).endTxn fr).any (fun y => y.1.use_ == .read 1 9 0 64 && (y.2.engOf 1 9).isSome) = true)
    ∧ (let fr := fr0 1 (zeros 64); ((rx (txnSt (.way 1 3)) fr).endTxn fr).map (fun y => y.1.use_) = some (.way 1 3))
    ∧ (let s := { txnSt (.write 1 9) with now := 2 * secondCycles }; ((s.dom.txns.find? (fun (x : Txn) => x.tag == (0x10#15).toNat)).map Txn.at_) = some 0
      ∧ s.live = true ∧ 0 + 2 * secondCycles ≤ s.now) := by
  decide +kernel

/-- The device with port 0 as given. -/
def portSt (p : Port) : State := { fab rdy with ports := [(0, p)] }
def ctl0 : CtrlFrame := ⟨0, 0, false, false, 0, 0, 0⟩
theorem test_control_frames :
    (∀ p ∈ [port0, { port0 with st := .narrowing, narrowTo := 0x3 }, { port0 with st := .training, phase := 5 }],
      (portSt p).live = true ∧ (((portSt p).port ctl0.port.toNat).st = .up ∨ ((portSt p).port ctl0.port.toNat).st = .narrowing
        ∨ (((portSt p).port ctl0.port.toNat).st = .training ∧ ((portSt p).port ctl0.port.toNat).phase = 5)))
    ∧ (let c : CtrlFrame := { ctl0 with lambdaNew := 0x3, reply := true };
      let b := (portSt { port0 with st := .narrowing, narrowTo := 0x3, narrowTries := 1 }); (b.port c.port.toNat).st = .narrowing ∧ c.lambdaNew ≠ 0
        ∧ c.reply = true ∧ (b.port c.port.toNat).narrowTo = c.lambdaNew ∧ (b.port c.port.toNat).narrowTries = 1
        ∧ (b.port c.port.toNat).narrowAgreed = false)
    ∧ (∀ v ∈ [(0x3#4, false), (0xC, true)], let c : CtrlFrame := { ctl0 with lambdaNew := v.1 }; c.reply = false ∧ c.lambdaNew ≠ 0
      ∧ (lambdaPick (0x3 &&& c.lambdaNew) == 0) = v.2)
    ∧ (((portSt port0).port 0).st = .up ∧ (mget ((portSt { port0 with ctlOut := [(2, ctl0)] }).port 0).ctlOut 2).isSome = true
      ∧ ({ ctl0 with lambdaNew := 0xC } : CtrlFrame).lambdaNew ≠ 0 ∧ ctl0.reply = false ∧ ctl0.cls ≠ 3
      ∧ ({ ctl0 with cls := 3 } : CtrlFrame).cls = 3) := by decide +kernel

theorem test_port_events :
    (portSt port0).live = true ∧ port0.st = .up ∧ port0.lambdaUsed.getLsbD (3#2).toNat = true
    ∧ (∀ k ∈ [(0xF#4, 0xE#4), (0x1, 0x0)], lambdaPick (k.1 &&& ~~~(BitVec.ofNat 4 (2 ^ 0))) = (if k.1 = 1 then 0 else 0xC))
    ∧ ({ port0 with lambdaUsed := 0xC } : Port).lambdaUsed.getLsbD 0 = false ∧ port0.lambdaOk.getLsbD 0 = true
    ∧ ({ port0 with st := .narrowing, narrowAgreed := true } : Port).st = .narrowing
    ∧ (64 < ({ port0 with tagStage := 65 } : Port).tagStage ∧ port0.uncStage = [])
    ∧ ((portSt { port0 with waiting := [(some 90, false, fr0 0 [])] }).port 0).waiting.any (fun w =>
      w.2.2.cls == 0 && w.2.2.vl == false && w.1.any (fun g => decide (g + 10 ≤ rdy.stage))) = true
    ∧ (({ port0 with downAt := some 5 } : Port).downAt = some 5 ∧ 5 + secondCycles < ({ rdy with now := 2 * secondCycles } : State).now)
    ∧ (∀ st ∈ [PortSt.dark, .refused, .down], ((portSt { port0 with st := st }).port 0).st = st)
    ∧ port0.since + 10 * secondCycles ≤ ({ rdy with now := 10 * secondCycles } : State).now := by decide +kernel

/-- A training message of domain 0x99 from device 8, port 3, in protocol version `v`. -/
def trainMsg (v : Nat) : List Byte :=
  let b := raw 124 [(0, 0x49545A50), (4, v + 2 ^ 8), (8, 0x99), (0x0C, 8), (0x0E, 3), (0x10, 77)]; b ++ toLE 4 (crc32 b)
/-- The domain changed. -/
def domSt (d : Domain) : State := { rdy with dom := d }
theorem test_port_training :
    (∀ n ∈ [1, 2, 3, 4, 5], (portSt { port0 with st := .training, phase := n }).live = true
      ∧ ((portSt { port0 with st := .training, phase := n }).port 0).phase = n)
    ∧ (lambdaPick 0xF ≠ 0 ∧ (portSt port0).dom.joined = true ∧ ((portSt port0).dom.key (portSt port0).dom.kgen).isSome = true)
    ∧ (∀ z ∈ [(1, 8500000), (2, 17000000), (3, 1700000), (4, 850000), (5, 85000)], port0.phaseAt + z.2 < 17000001)
    ∧ lambdaPick 0 = 0 ∧ ({ port0 with peerOk := true, peerNonce := some 77 } : Port).peerNonce.isSome = true
    ∧ ({ port0 with peerAck := true } : Port).peerAck = true
    ∧ (domSt { dom7 with key0 := none }).dom.key (domSt { dom7 with key0 := none }).dom.kgen = none
    ∧ (domSt { dom7 with joined := false }).dom.joined = false
    ∧ (∀ v ∈ [1, 2], let m := trainMsg v; m.length = 128 ∧ fld m 0 4 = 0x49545A50 ∧ fld m 0x7C 4 = crc32 (m.take 124)
      ∧ bits (fld m 4 4) 0 8 = v ∧ bit (fld m 4 4) 8 = true ∧ fld m 8 4 = (portSt port0).dom.domainId
      ∧ bits (fld m 0x0C 2) 0 13 ≠ (portSt port0).dom.deviceId ∧ bit (fld m 4 4) 10 = false ∧ bit (fld m 4 4) 11 = false) := by
  decide +kernel

/-- A follower that has sent REQUEST 1 on port 0, its time port. -/
def followSt : State := { portSt { port0 with t1 := some ⟨99, 0⟩, exchange := 1 } with dom := { dom7 with inUse := some 0 } }
theorem test_domain_events :
    (let fr := fr0 9 (raw 64 [(0, 1)]); rxOk followSt fr = true ∧ fr.typ = 9 ∧ fld fr.payload 0 1 = 1)
    ∧ (let s := { followSt with dom := { followSt.dom with renumber := true } }; s.dom.inUse = some 0 ∧ (s.port 0).st = .up ∧ s.live = true ∧ s.follower = true ∧ s.dom.renumber = true ∧ s.jobs = [] ∧ s.dom.locked = true
      ∧ 25 ≤ (25#14).toNat ∧ (25#14).toNat ≤ 10000 ∧ 25 ≤ (10000#14).toNat ∧ (10000#14).toNat ≤ 10000)
    ∧ (let s := domSt { dom7 with announce := some (250, 100) }; s.dom.joined = true ∧ s.dom.announce = some (250, 100) ∧ 100 ≤ s.stage)
    ∧ (let s := domSt { dom7 with keyAt := some 100, eraseAt := some 100, routeAt := some 100, tkAt := some (7, [0], 100) };
      s.live = true ∧ s.dom.keyAt = some 100 ∧ s.dom.eraseAt = some 100 ∧ s.dom.routeAt = some 100
        ∧ s.dom.tkAt = some (7, [0], 100) ∧ 7 = s.dom.deviceId ∧ 100 ≤ s.stage
        ∧ (s.dom.key (!s.dom.kgen)).isSome = s.dom.key1.isSome ∧ s.dom.key1 = none ∧ dom7.tkAt = none ∧ 99 < s.stage
        ∧ ({ dom7 with key1 := some 6 } : Domain).key true = some 6) := by decide +kernel
/-- The answer to it. -/
def timeFr : Frame := fr0 9 (raw 64 [(0, 2), (4, 1), (0x20, 9)])
theorem test_time_response : rxOk followSt timeFr = true ∧ fld timeFr.payload 0 1 = 2
    ∧ ((rx followSt timeFr).port timeFr.port.toNat).t1 = some ⟨99, 0⟩ ∧ (rx followSt timeFr).follower = true
    ∧ fld timeFr.payload 4 4 = ((rx followSt timeFr).port timeFr.port.toNat).exchange
    ∧ (rx followSt timeFr).dom.timePorts.contains timeFr.port.toNat = true := by decide +kernel

/-! ### Numbers, the log, marks, ticks -/

/-- The worked example "fused GELU" of 06: an interpolated entry, a MULR, the block and its scale. -/
theorem test_gelu : roundShift (26755143 * 128) 8 0 0 = 13377572 ∧ roundShift (-4096 * 170354782) 30 0 0 = -650
    ∧ requantAuto ([3446, -650, 66, 0].map (fun x => (x, 0))) (-12) 8 0 = ⟨[108, -20, 2, 0], -7, false⟩ := by decide +kernel
/-- R45: ties go to the even neighbour, RTZ drops the fraction, RSR adds the random number's upper bits. -/
theorem test_round : roundShift 5 1 0 0 = 2 ∧ roundShift 7 1 0 0 = 4 ∧ roundShift (-5) 1 0 0 = -2 ∧ roundShift (-5) 1 1 0 = -2
    ∧ roundShift 5 2 2 0xC0000000 = 2 ∧ roundShift 5 2 2 0xBFFFFFFF = 1 := by decide +kernel
/-- R49: the bit length of 0 is 0 and of 96 is 7. -/
theorem test_bitLen : bitLen 0 = 0 ∧ bitLen 96 = 7 := by decide +kernel
/-- Core 3.07 is core 55; its tile store starts at 0x0300_3700_0000, and HB13's last byte is 0x01B1_FFFF_FFFF (R27). -/
theorem test_addresses : tileAt 55 = 0x030037000000 ∧ regionOf .pz8x 0x0300375FFFFF = .tile 55
    ∧ regionOf .pz8x 0x01B1FFFFFFFF = .hbm 13 ∧ regionOf .pz8x 0x01B200000000 = .none := by decide +kernel
/-- The power table of R32 adds up for every part. -/
theorem test_power_table : ∀ p ∈ [Part.pz8x, .pz8t, .pz4x, .pz2x],
    (([PowerUnit.cdie, .serai, .hbm, .idie, .engine].map (fun u => p.unitsOf u * p.ceilW u)).sum + p.marginW = p.pkgMaxW) := by decide +kernel
/-- IDCODE of a first-stepping PZ8-X (R466). -/
theorem test_idcode : ({ State.reset with part := .pz8x, stepping := 1 } : State).idcode = 0x10D815A7 := by decide +kernel
theorem test_crc32 : crc32 [0x31, 0x32, 0x33, 0x34, 0x35, 0x36, 0x37, 0x38, 0x39] = 0xCBF43926 := by decide +kernel

/-- The hypotheses of the statements about numbers: both sides of a given scale, exactly and clamped; an automatic scale. -/
theorem test_number_hypotheses : ([(96, 0)] : List (Int × Nat))[0]? = some (96, 0) ∧ (3 : Int) ≥ 0 ∧ (-1 : Int) < 0
    ∧ -2 ^ (16 - 1) ≤ (96 : Int) * 2 ^ (0 - (-1) : Int).toNat ∧ (96 : Int) * 2 ^ (0 - (-1) : Int).toNat ≤ 2 ^ (16 - 1) - 1
    ∧ 2 ≤ 8 ∧ (∀ p ∈ ([(96, 2 ^ 32 - 1)] : List (Int × Nat)), p.2 < 2 ^ 32) ∧ (-127 : Int) ≤ 127
    ∧ 0 < 1 ∧ (4 : Int) % 2 ^ 1 = 0 ∧ 2 * Int.natAbs (roundShift 1 1 0 0 * 2 ^ 1 - 1) = 2 ^ 1 := by decide +kernel

theorem test_event_hypotheses : rdy.pwrok = true ∧ rdy.dbg.haltCvr = false ∧ rdy.cvrIntact = true
    ∧ ({ rdy.ev 0x0103 with srcType := 1 } : EventRec).srcType ≠ 0 := by decide +kernel

theorem test_mark_hypotheses : 64 ∈ ({ rdy with marked := [64] } : State).marked ∧ (regionOf rdy.part 0).isMem = true
    ∧ 0 < ([5#8] : List Byte).length ∧ badLine { rdy with marked := [64] } clean 64 = true := by decide +kernel

theorem test_tick_hypotheses : rdy.pwrok = true ∧ rdy.ready = true ∧ rdy.fatal = false ∧ rdy.nextStage = 101
    ∧ ({ rdy with stage := 2 ^ 48 - 1 } : State).nextStage = 0 ∧ ({ rdy with ticking := false } : State).nextStage = 0 := by decide +kernel
/-- A step of the device that answers a next state. -/
def nextOf (s : State) : Option State := match step s with
  | .next t => some t
  | _ => none
theorem test_step_answers : (nextOf { rdy with pending := [.thermalTrip (.cdie 0) 50] }).isSome = true := by decide +kernel

/-! ### Ill-formed commands -/

/-- An ill-formed term for each check of `Instr.wf`, which it refuses. -/
theorem test_wf_faults : (∀ i ∈ [Instr.matrixTile 0 ⟨[63], [], []⟩, .matrixTile 0 ⟨[], [1], []⟩, .frameRead (fr0 2 (zeros 64)) ⟨[32], [], []⟩,
    .bar4Read .a 0 1 false ⟨[2], [], []⟩, .bar4Write .a 0 [0] false ⟨[], [2], []⟩, .tasklistLoad .a (cmd []) ⟨[1], [], []⟩, .dbgRead ⟨[1], [], []⟩,
    .reshardStart 0 ⟨[], none, ⟨[1], [], []⟩⟩],
    i.wf = false) := by decide +kernel
theorem test_wf_sensors : (∀ i ∈ [Instr.pmbAlert [⟨31, true, false⟩], .regulatorPoll [⟨31, true, false⟩],
    .tick ⟨List.replicate 9 0, [], [], [], [], [], 0, [], 0⟩, .tick ⟨[], List.replicate 9 0, [], [], [], [], 0, [], 0⟩,
    .tick ⟨[], [], List.replicate 5 0, [], [], [], 0, [], 0⟩, .tick ⟨[], [], [], List.replicate 3 0, [], [], 0, [], 0⟩,
    .tick ⟨[], [], [], [], List.replicate 17 0, [], 0, [], 0⟩, .tick ⟨[], [], [], [], [], List.replicate 32 0, 0, [], 0⟩],
    i.wf = false) := by decide +kernel
theorem test_wf_sizes : (∀ n ∈ [0, 63, 576], (Instr.frameWrite (fr0 0 (zeros n))).wf = false)
    ∧ (∀ i ∈ [Instr.bar4Read .a 0 0 false clean, .bar4Read .a 0 4097 false clean, .bar4Write .a 0 [] false clean,
      .bar4Write .a 0 (zeros 4097) false clean, .stageRenumber 0 24, .stageRenumber 0 10001, .scrubLine 1 .clean,
      .reservedOpcodeCommand .a 0x0001 (cmd []), .updManifestPiece 0 0 (zeros 1025), .updChunkPiece 0 0 (zeros 1025),
      .getVersion .mctp [], .spdmUnsupportedRequest .mctp []], i.wf = false)
    ∧ (∀ i ∈ [Instr.frameWrite (fr0 0 (zeros 512)), .bar4Read .a 0 4096 false clean, .stageRenumber 0 25, .scrubLine 64 .clean,
      .reservedOpcodeCommand .a 0x000A (cmd []), .trstN], i.wf = true) := by decide +kernel

/-- The table gives no row any bits: no word spells a command. -/
theorem test_no_word : decodeTableWord 16 0 = none ∧ rdy.withFetchWord 16 0 = rdy := by decide +kernel

/-! ### Tests that take hashes -/

theorem test_hostRead_begin : (beginSt.begun 0x601 .a beginCmd).hostRead .a 4096 signed.length = some signed := by
  have up : (beginSt.begun 0x601 .a beginCmd).hostUp .a = true ∧ 4096 + signed.length ≤ 2 ^ 46 := by decide +kernel
  have mem (s : State) (c : CmdRec) (n : Nat) : (s.begun n .a c).mem = s.mem := rfl
  unfold State.hostRead State.bytes
  rw [if_pos up, mem]
  exact congrArg some (State.bytes_store (s := fused) (by decide +kernel) (hostBase .a + 4096) signed)

theorem test_runs_updateBegin : beginSt.runs specUpdateBegin .a beginCmd = true
    ∧ (beginSt.begun 0x601 .a beginCmd).updBusy = false ∧ beginCmd.par 0x08 0 3 = 0 ∧ beginCmd.par 0x10 0 32 ≤ 65536
    ∧ beginCmd.par 0x08 0 64 = 4096 ∧ beginCmd.par 0x10 0 32 = signed.length
    ∧ writes (updBegin (beginSt.begun 0x601 .a beginCmd) signed) = true := by decide +kernel

theorem test_runs_updateChunk : chunkSt.runs specUpdateChunk .a chunkCmd = true
    ∧ (chunkSt.begun 0x602 .a chunkCmd).updBusy = false ∧ chunkCmd.par 0x08 0 3 = 0
    ∧ (chunkSt.begun 0x602 .a chunkCmd).flash.delivery = some ⟨[], 8, []⟩
    ∧ (chunkSt.begun 0x602 .a chunkCmd).deliveryManifest.map (fun (m : Manifest) => m.chunkLen 7) = some 1
    ∧ (chunkSt.begun 0x602 .a chunkCmd).hostRead .a (chunkCmd.par 0x08 0 64) 1 = some [0#8]
    ∧ writes (updChunk (chunkSt.begun 0x602 .a chunkCmd) 7 [0#8]) = true := by decide +kernel

theorem test_boot_bank : (bankSelect (boot 2)).isSome = true := by decide +kernel

theorem test_boot_components : (boot 3).componentsOk = true := by decide +kernel

theorem test_spdm_finish : (let m := spdm 0xE5 0 0 4; let r := m ++ hmac512 (toLE 48 0x77) m
      fld r 1 1 = 0xE5 ∧ (r.drop 4).take 64 = hmac512 (toLE 48 (0x77#384).toNat) (r.take 4))
    ∧ ((spdm 0xE5 0 0 68).drop 4).take 64 ≠ hmac512 (toLE 48 0x77) ((spdm 0xE5 0 0 68).take 4) := by decide +kernel

theorem test_debug_unlock :
    ((unlockSt []).setting 5 ≠ 0 ∧ (unlockSt []).dbg.nonce = some 0xABC ∧ (unlockSt []).dbg.pieceLevel = 2)
    ∧ requests { unlockSt [] with dbg := { (unlockSt []).dbg with reqs := [unlockReq 0] } } (unlockReq 0) ⟨0x03, 0, 0x30F, false, true⟩ = true
    ∧ (mset ([] : NMap (List Byte)) 15 (reqData (unlockReq 0))).length < 16
    ∧ 16 ≤ (mset badPieces 15 (reqData (unlockReq (2 ^ 256 - 1)))).length
    ∧ unlockOk (mset badPieces 15 (reqData (unlockReq (2 ^ 256 - 1)))) = false
    ∧ unlockOk (mset goodPieces 15 (reqData (unlockReq (leNat (unlockSig.drop 480))))) = true := by decide +kernel

theorem test_debug_unlockKey : (unlockSt []).unlockKey.map (fun (m : Manifest) => m.rootKey) = some key := by decide +kernel

theorem test_mctp_update :
    (takesUpdate fused = true ∧ pieceOk 2688 0 (signed.take 1024) = true ∧ pieceOk 2688 2 (signed.drop 2048) = true
      ∧ allPieces 2688 (mset [] 0 (signed.take 1024)) = false
      ∧ allPieces 2688 (mset [(0, signed.take 1024), (1, (signed.drop 1024).take 1024)] 2 (signed.drop 2048)) = true
      ∧ joinPieces 2688 (mset [(0, signed.take 1024), (1, (signed.drop 1024).take 1024)] 2 (signed.drop 2048)) = signed)
    ∧ (takesUpdate delivering = true ∧ delivering.flash.delivery = some ⟨[], 8, []⟩
      ∧ pieceOk 1 0 [0#8] = true ∧ allPieces 1 (mset [] 0 [0#8]) = true ∧ joinPieces 1 (mset [] 0 [0#8]) = [0#8]
      ∧ pieceOk 65536 0 (zeros 1024) = true ∧ allPieces 65536 (mset [] 0 (zeros 1024)) = false)
    ∧ (takesUpdate (mctpActSt delivered) = true ∧ (mctpActSt delivered).setting 4 = 1 ∧ (mctpActSt delivered).activateStatus = 0
      ∧ (mctpActSt delivered).upd.fallback = false ∧ fused.flash.delivery = none) := by decide +kernel

theorem test_activation_verifies : (delivering.deliveryManifest.map (fun (m : Manifest) =>
    m.comps.all (delivering.flash.bank (!delivering.upd.running)).compOk)) = some true := by decide +kernel

/-- SHA-512 of no bytes, and CRC-32 of "123456789", as their standards give them. -/
theorem test_sha512 : ((sha512 []).take 4, (sha512 []).drop 60) = ([0xCF, 0x83, 0xE1, 0x35], [0xF9, 0x27, 0xDA, 0x3E]) := by decide +kernel

end Sys2Proof.Tests
end

section
/-! The rejection of a reserved byte (R6, R361), over what every mailbox command but MBX_RESYNC shares: it is one use of
`State.command` under the opcode of its record. -/
namespace Sys2Proof.Machine

/-- MBX_RESYNC alone stands outside: it is outside the count of HSNs (R362, R367). -/
theorem exec_mailbox_eq_command {i : Instr} {h : HostId} {op : BitVec 16} {c : CmdRec}
    (named : i.mailbox = some (h, op, c)) (notResync : op ≠ 0x0001#16) (s : State) :
    ∃ (sp : CmdSpec) (body : State → CmdRes), sp.op = op.toNat ∧ exec i s = .next (s.command sp h c body) := by
  cases i
  case mbxResync =>
    cases named
    exact absurd rfl notResync
  case reservedOpcodeCommand =>
    obtain ⟨notListed, same⟩ := Option.ite_none_left_eq_some.mp named
    cases same
    exact ⟨_, _, rfl, if_neg notListed⟩
  all_goals cases named -- leaves the commands of the catalogue
  all_goals exact ⟨_, _, rfl, rfl⟩

/-- On a device that is not fatal the one check before the reserved byte's is the host's, which gives the same status
(log 60). -/
theorem cmdCheck_of_rsvd_ne_zero {c : CmdRec} {s : State} (live : s.fatal = false) (rsvd : c.rsvd ≠ 0#8) (sp : CmdSpec)
    (h : HostId) : cmdCheck sp h c s = 0x0003 := by
  have reserved : (c.rsvd != 0 || !c.onlyFields sp.fields) = true := by simp [rsvd]
  simp only [cmdCheck, live, Bool.false_and, Bool.false_eq_true, if_false, if_pos reserved, ite_self]

/-- Settles O10: the command is in sequence and a common check rejects it, so that its own part never runs. -/
theorem reservedByteIsRejected : Obligations.ReservedByteIsRejected := by
  intro i h op c s named notResync live slot turn inSequence rsvd
  obtain ⟨sp, body, hop, runs⟩ := exec_mailbox_eq_command named notResync s
  have check : cmdCheck sp h c s = 0x0003 := cmdCheck_of_rsvd_ne_zero live rsvd sp h
  rw [runs, State.command_rejected slot turn inSequence (by simp [check]), check, hop]

end Sys2Proof.Machine
end

section
/-! What events, completion records and messages leave: the units of the device stay as they are, and the open commands of a port
change only where one completes (R358, R363, R378, R379). -/
namespace Sys2Proof.Machine

/-- A state without what posting events, completion records and messages writes: the two ports, memory with its marks, the event
numbers, the log, the endpoint's answer, the settings to report, the number of free values. Two states that agree here agree in
every field of the units. -/
def State.silent (s : State) : State :=
  { s with hostA := default, hostB := default, mem := [], marked := [], nextSeq := 0, events := [], mctp := default
           settingsNote := [], freeCtr := 0 }

@[simp] theorem State.silent_setHost (s : State) (h : HostId) (p : HostPort) : (s.setHost h p).silent = s.silent := match h with
  | .a => rfl
  | .b => rfl

@[simp] theorem State.silent_store (s : State) (a : Nat) (d : List Byte) : (s.store a d).silent = s.silent := rfl

@[simp] theorem State.silent_signal (s : State) (h : HostId) (v : Nat) : (s.signal h v).silent = s.silent :=
  State.silent_setHost s h _

@[simp] theorem State.silent_mirror (s : State) (h : HostId) (e : EventRec) : (s.mirror h e).silent = s.silent := by
  unfold State.mirror
  dsimp only
  split
  · rw [State.silent_setHost, State.silent_store]
  · rfl

/-- An entry in the log. -/
theorem State.silent_logged (s : State) (a : Nat) (d : List Byte) (n : Nat) (l : List EventRec) :
    ({ s.store a d with nextSeq := n, events := l } : State).silent = s.silent := rfl

@[simp] theorem State.silent_post (s : State) (e : EventRec) : (s.post e).silent = s.silent := by
  simp only [State.post, apply_ite State.silent, State.silent_mirror, State.silent_logged, ite_self]

@[simp] theorem State.silent_record (s : State) (h : HostId) (k n o j st g r : Nat) :
    (s.record h k n o j st g r).silent = s.silent := State.silent_setHost s h _

@[simp] theorem State.silent_completeWhere (s : State) (h : HostId) (f : OpenCmd → Option (Nat × Nat)) :
    (s.completeWhere h f).silent = s.silent :=
  foldl_keeps (fun t : State => t.silent = s.silent) _ _ _ (fun (t : State) _ same => (t.silent_record ..).trans same)
    (s.silent_setHost h _)

@[simp] theorem State.silent_completeBoth (s : State) (f : OpenCmd → Option (Nat × Nat)) :
    (s.completeBoth f).silent = s.silent :=
  (State.silent_completeWhere _ _ _).trans (State.silent_completeWhere _ _ _)

@[simp] theorem State.silent_tell (s : State) (a : Asker) (st : Nat) : (s.tell a st).silent = s.silent := by
  cases a with
  | mctp => rfl
  | cmd h n => exact State.silent_completeWhere _ _ _

@[simp] theorem State.silent_postSettings (s : State) : s.postSettings.silent = s.silent :=
  foldl_keeps (fun t : State => t.silent = s.silent) _ _ _ (fun (t : State) _ same => (t.silent_post _).trans same) rfl

@[simp] theorem State.silent_surviveOpen (s : State) (h : HostId) : (s.surviveOpen h).silent = s.silent := by
  refine foldl_keeps (fun t : State => t.silent = s.silent) _ _ _ (fun t o same => ?_) rfl
  dsimp only
  split
  · exact same
  · exact (State.silent_setHost _ _ _).trans same

/-- A field that `silent` keeps, or what is read from such fields, is the same in two states that agree there. -/
theorem State.eq_of_silent {α : Type} {s t : State} (same : t.silent = s.silent) (f : State → α)
    (kept : ∀ u : State, f u.silent = f u := by intro; rfl) : f t = f s := by
  rw [← kept t, same, kept s]

theorem State.post_fatal (s : State) (e : EventRec) : (s.post e).fatal = s.fatal := State.eq_of_silent (s.silent_post e) State.fatal

theorem State.post_jobs (s : State) (e : EventRec) : (s.post e).jobs = s.jobs := State.eq_of_silent (s.silent_post e) State.jobs

theorem State.post_linkRun (s : State) (e : EventRec) : (s.post e).linkRun = s.linkRun :=
  State.eq_of_silent (s.silent_post e) State.linkRun

theorem State.post_linkStage (s : State) (e : EventRec) : (s.post e).linkStage = s.linkStage :=
  State.eq_of_silent (s.silent_post e) State.linkStage

theorem State.signal_fatal (s : State) (h : HostId) (v : Nat) : (s.signal h v).fatal = s.fatal :=
  State.eq_of_silent (s.silent_signal h v) State.fatal

/-! ### What the open commands of a port go through -/

theorem State.host_setHost (s : State) (h k : HostId) (p : HostPort) :
    (s.setHost h p).host k = if k = h then p else s.host k := by
  cases h <;> cases k <;> rfl

theorem HostPort.signal_openCmds (p : HostPort) (now v : Nat) : (p.signal now v).openCmds = p.openCmds := by
  unfold HostPort.signal
  split
  · rfl
  · split
    · split <;> rfl
    · rfl

/-- A port that is replaced by one with the same open commands. -/
theorem State.setHost_openCmds {s : State} {h : HostId} {p : HostPort} (same : p.openCmds = (s.host h).openCmds) (k : HostId) :
    ((s.setHost h p).host k).openCmds = (s.host k).openCmds := by
  rw [State.host_setHost]
  split
  next e => rw [same, e]
  next => rfl

theorem State.signal_openCmds (s : State) (h k : HostId) (v : Nat) : ((s.signal h v).host k).openCmds = (s.host k).openCmds :=
  State.setHost_openCmds (HostPort.signal_openCmds _ _ _) k

theorem State.mirror_openCmds (s : State) (h k : HostId) (e : EventRec) :
    ((s.mirror h e).host k).openCmds = (s.host k).openCmds := by
  unfold State.mirror
  dsimp only
  split
  · rw [State.setHost_openCmds (by rw [HostPort.signal_openCmds, State.store_host]), State.store_host]
  · rfl

theorem State.post_openCmds (s : State) (e : EventRec) (k : HostId) : ((s.post e).host k).openCmds = (s.host k).openCmds := by
  have logged (a n : Nat) (d : List Byte) (l : List EventRec) :
      (({ s.store a d with nextSeq := n, events := l } : State).host k).openCmds = (s.host k).openCmds := by
    cases k <;> rfl
  simp only [State.post, apply_ite (fun t : State => (t.host k).openCmds), State.mirror_openCmds, logged, ite_self]

theorem State.record_openCmds (s : State) (h k : HostId) (kd n o j st g r : Nat) :
    ((s.record h kd n o j st g r).host k).openCmds = (s.host k).openCmds :=
  State.setHost_openCmds (by rw [HostPort.signal_openCmds]) k

theorem State.completeWhere_openCmds (s : State) (h k : HostId) (f : OpenCmd → Option (Nat × Nat)) :
    ((s.completeWhere h f).host k).openCmds
      = if k = h then (s.host k).openCmds.filter (fun o => (f o).isNone) else (s.host k).openCmds := by
  refine foldl_keeps (fun t : State => (t.host k).openCmds = _) _ _ _ (fun (t : State) _ same =>
    (t.record_openCmds ..).trans same) ?_
  rw [State.host_setHost]
  split
  next e => rw [e]
  next => rfl

theorem State.completeBoth_openCmds (s : State) (k : HostId) (f : OpenCmd → Option (Nat × Nat)) :
    ((s.completeBoth f).host k).openCmds = (s.host k).openCmds.filter (fun o => (f o).isNone) := by
  cases k <;> simp [State.completeBoth, State.completeWhere_openCmds]

theorem State.surviveOpen_openCmds (s : State) (h k : HostId) : ((s.surviveOpen h).host k).openCmds ⊆ (s.host k).openCmds := by
  refine foldl_keeps (fun t : State => (t.host k).openCmds ⊆ (s.host k).openCmds) _ _ _ (fun t o sub => ?_) (List.Subset.refl _)
  dsimp only
  have drawn : (t.free.2.host k) = t.host k := by cases k <;> rfl
  split
  · rwa [drawn]
  · rw [State.host_setHost]
    split
    next e =>
      subst e
      rw [drawn]
      exact fun o kept => sub (List.mem_of_mem_filter kept)
    next => rwa [drawn]

end Sys2Proof.Machine
end

section
/-! What a command answers whose own part runs, and with it the job and memory commands (R28, R29, R62 to R66). -/
namespace Sys2Proof.Machine

section
variable {sp : CmdSpec} {h : HostId} {c : CmdRec} {s b t : State} (runs : Runs sp h c s b) {body : State → CmdRes}
include runs

/-- The answer is that of the own part, started in the state that `Runs` names. -/
theorem Runs.command_eq {r : CmdRes} (own : body b = r) : s.command sp h c body = cmdAnswer sp.op h c r := by
  obtain ⟨takes, rfl⟩ := runs
  rw [State.command_runs takes, own]

theorem Runs.command_completed {result : Nat} (own : body b = .done t 0x0000 result) :
    s.command sp h c body = completed sp h c t result := runs.command_eq own

theorem Runs.command_opened {k : OpenKind} (own : body b = .later t k) : s.command sp h c body = opened sp h c t k :=
  runs.command_eq own

end

/-- Settles O13: each command passes the checks of its own part one after another, down to its effect. The powers of two stay as the
model writes them, so that the hypotheses match its checks. -/
theorem jobAndMemoryCommandsComplete : Obligations.JobAndMemoryCommandsComplete := by
  refine ⟨?jobCreate, ?jobDestroy, ?memMap, ?memUnmap⟩
  case jobCreate =>
    intro c s b id pages runs noReplay someCore someStack coresThere stacksThere homeThere budgetOk baseAligned sizeAligned
      inStore noTag free apart taken
    have noOverlap : b.jobs.any (fun p => (p.2.cores &&& c.par 0x20 0 128) != 0
        && rangesMeet p.2.tsBase p.2.tsBytes (c.par 0x1C 0 24) (c.par 0x30 0 24)) = false :=
      List.any_eq_false.2 (fun p hp => by simp [apart p hp])
    have hostA : (HostId.a == HostId.b) = false := rfl
    refine congrArg Host.Outcome.next (runs.command_completed ?_)
    simp [-Nat.reducePow, noReplay, coresThere, stacksThere, homeThere, hostA, someCore, someStack, budgetOk, baseAligned,
      sizeAligned, inStore, noTag, free, noOverlap, taken]
  case jobDestroy =>
    intro h c s b runs
    exact congrArg Host.Outcome.next (runs.command_opened rfl)
  case memMap =>
    intro h c s b jb runs job aligned somePage inSpace unmapped
    have noneMapped : (List.range (c.par 0x10 0 23)).any
        (fun k => (mget jb.ptNext (c.par 0x08 0 44 / 2 ^ 21 + k)).isSome) = false :=
      List.any_eq_false.2 (fun k hk => by simp [-Nat.reducePow, unmapped k (List.mem_range.1 hk)])
    refine ⟨fun toHost hostAligned inHost => ?_, fun pages toStacks hostA anyStack taken => ?_⟩
    · refine congrArg Host.Outcome.next (runs.command_eq ?_)
      simp [-Nat.reducePow, job, toHost, aligned, somePage, inSpace, noneMapped, hostAligned, inHost]
    · subst hostA
      refine congrArg Host.Outcome.next (runs.command_eq ?_)
      simp [-Nat.reducePow, job, toStacks, anyStack, aligned, somePage, inSpace, noneMapped, taken, subMask]
  case memUnmap =>
    intro h c s b jb runs job aligned somePage mapped
    have allMapped : (List.range (c.par 0x10 0 23)).all
        (fun k => (mget jb.ptNext (c.par 0x08 0 44 / 2 ^ 21 + k)).isSome) = true :=
      List.all_eq_true.2 (fun k hk => mapped k (List.mem_range.1 hk))
    refine congrArg Host.Outcome.next (runs.command_eq ?_)
    simp only [job, aligned, somePage, allMapped]
    rfl

end Sys2Proof.Machine
end

section
/-! Flash writes, the steps of an activation, and the takeover (R22, R458, R460, R464, R465). -/
namespace Sys2Proof.Machine

/-- Nothing but the ports and what is reported changes as service resumes, after the new mode is set. -/
theorem State.silent_resumed (s : State) (a : Asker) (e : EventRec) : (((s.tell a 0).post e).postSettings).silent = s.silent := by
  rw [State.silent_postSettings, State.silent_post, State.silent_tell]

/-- What the switch of a takeover does after the Caravaneers have changed places: EV_CVR_FAILOVER, the open commands that
survive, the takeover's own completion, and vector 18 (R22). -/
def State.handOver (s : State) : State :=
  (((((s.post { s.ev 0x0106 with arg0 := b2n s.cvrSide }).surviveOpen .a).surviveOpen .b).completeBoth
    (fun o => if o.kind = OpenKind.takeover then some (0, 0) else none)).signal .a 18).signal .b 18

theorem State.silent_handOver (s : State) : s.handOver.silent = s.silent := by
  simp only [State.handOver, State.silent_signal, State.silent_completeBoth, State.silent_surviveOpen, State.silent_post]

/-- A command that is open after the switch was open before, and it is not the takeover's own. -/
theorem State.mem_openCmds_handOver {s : State} {k : HostId} {o : OpenCmd} (isOpen : o ∈ (s.handOver.host k).openCmds) :
    o ∈ (s.host k).openCmds ∧ o.kind ≠ .takeover := by
  rw [State.handOver, State.signal_openCmds, State.signal_openCmds, State.completeBoth_openCmds, List.mem_filter] at isOpen
  obtain ⟨survived, notPicked⟩ := isOpen
  refine ⟨?_, fun own => by simp [own] at notPicked⟩
  rw [← State.post_openCmds s _ k]
  exact State.surviveOpen_openCmds _ .a k (State.surviveOpen_openCmds _ .b k survived)

theorem execTakeoverSwitch_eq {s : State} (live : s.live = true) (ready : s.takeover = 2) :
    execTakeoverSwitch s = .next (State.handOver { s with cvrSide := !s.cvrSide, takeover := 3 }) := by
  simp only [execTakeoverSwitch, live, ready]
  rfl

/-- Settles O36: the guards of each step hold, and what follows the change of mode touches only the ports and what is reported. -/
theorem activationCommandsComplete : Obligations.ActivationCommandsComplete := by
  refine ⟨?flash, ?verify, ?pause, ?resume, ?expiry, ?takeover⟩
  case flash =>
    intro s op a r pwrok queue
    have done (ok : Bool) : exec (.flashProgramDone ok) s = .next (State.settleUpd r.length
        (if ok then ((({ s with upd := { s.upd with flashQ := r } } : State).flashed op).tell a 0)
          else State.tell { s with upd := { s.upd with flashQ := r } } a 0x000E)) := by
      simp only [exec, execFlashProgramDone, queue, pwrok]
      rfl
    refine ⟨done true, done false, fun last => ?_⟩
    subst last
    exact ⟨done true, done false⟩
  case verify =>
    intro s a m works act manifest hashesOk
    have noneBad : m.comps.filter (fun k => !(s.flash.bank (!s.upd.running)).compOk k
        || ([] : List (BitVec 8)).any (fun t => t.toNat == k.ty)) = [] :=
      List.filter_eq_nil_iff.2 (fun k hk => by simp [hashesOk k hk])
    simp only [exec, execActivationVerifyDone, act, manifest, works, noneBad]
    rfl
  case pause =>
    intro s a works act later
    simp only [exec, execActivationPause, act, works, later]
    rfl
  case resume =>
    intro s a works act notFallback
    refine ⟨_, by simp only [exec, execActivationResume, act, works, notFallback]; rfl, ?_⟩
    have same := State.silent_resumed
    exact ⟨State.eq_of_silent (same ..) State.paused, State.eq_of_silent (same ..) (fun t => t.upd.act),
      State.eq_of_silent (same ..) (fun t => t.upd.trial), State.eq_of_silent (same ..) (fun t => t.upd.running),
      State.eq_of_silent (same ..) (fun t => t.upd.windowEnd), State.eq_of_silent (same ..) State.jobs⟩
  case expiry =>
    intro s works trial act ended
    simp only [exec, execConfirmWindowExpiry, act, works, trial, ended]
    rfl
  case takeover =>
    intro s live ready
    have same := State.silent_handOver { s with cvrSide := !s.cvrSide, takeover := 3 }
    exact ⟨_, execTakeoverSwitch_eq live ready, State.eq_of_silent same State.cvrSide, State.eq_of_silent same State.takeover,
      State.eq_of_silent same State.jobs,
      fun h o isOpen => State.mem_openCmds_handOver (s := { s with cvrSide := !s.cvrSide, takeover := 3 }) isOpen⟩

end Sys2Proof.Machine
end

section
/-! The scrub, and the events of links and drovers (R21, R396, R398, R401). -/
namespace Sys2Proof.Machine

/-- `live` in its parts. -/
theorem State.live_iff (s : State) : s.live = true ↔ s.pwrok = true ∧ s.ready = true ∧ s.fatal = false := by
  simp [State.live, and_assoc]

/-- A device-fatal error on a device that works leaves it fatal (R408). -/
theorem State.deviceFatal_fatal {s : State} (live : s.live = true) (cause : Option EventRec) (a b : Nat) :
    (s.deviceFatal cause a b).fatal = true := by
  obtain ⟨pwrok, _, notFatal⟩ := s.live_iff.1 live
  simp only [State.deviceFatal, pwrok, notFatal, Bool.not_true, Bool.false_eq_true, if_false, State.signal_fatal]

theorem execScrubLine_marked {s : State} {a : BitVec 48} (pwrok : s.pwrok = true) (ready : s.ready = true)
    (mem : (regionOf s.part (lineOf a.toNat)).isMem = true) (marked : s.marked.contains (lineOf a.toNat) = true) (o : LineRead) :
    execScrubLine a o s = .next (s.scrubBad (lineOf a.toNat)) := by
  simp only [execScrubLine, pwrok, ready, mem, marked]
  rfl

theorem execScrubLine_unmarked {s : State} {a : BitVec 48} (pwrok : s.pwrok = true) (ready : s.ready = true)
    (mem : (regionOf s.part (lineOf a.toNat)).isMem = true) (unmarked : s.marked.contains (lineOf a.toNat) = false) (o : LineRead) :
    execScrubLine a o s = .next (match o with
      | .clean => s
      | .corrected => s.corrected 0xFF 0xFFFFFFFF (lineOf a.toNat)
      | .uncorrectable => s.scrubBad (lineOf a.toNat)) := by
  simp only [execScrubLine, pwrok, ready, mem, unmarked]
  cases o <;> rfl

/-- Settles O38: posting an event leaves links, jobs and FATAL, and a device-fatal error sets FATAL. -/
theorem reliabilityEventsComplete : Obligations.ReliabilityEventsComplete := by
  refine ⟨?scrub, ?replay, ?linkFail, ?restart⟩
  case scrub =>
    intro a s pwrok ready mem
    exact ⟨fun unmarked => ⟨execScrubLine_unmarked pwrok ready mem unmarked .clean,
        execScrubLine_unmarked pwrok ready mem unmarked .corrected,
        execScrubLine_unmarked pwrok ready mem unmarked .uncorrectable⟩,
      fun o marked => execScrubLine_marked pwrok ready mem marked o⟩
  case replay =>
    intro l s live there
    obtain ⟨_, _, notFatal⟩ := s.live_iff.1 live
    refine ⟨_, by simp only [exec, execLinkFlitReplay, live, there]; rfl, ?_⟩
    simp only [State.post_fatal, State.post_jobs, State.post_linkRun, State.post_linkStage, notFatal, true_and, mgetD_mset, if_true,
      and_true]
    exact fun k other => if_neg other
  case linkFail =>
    intro l s live there replays
    refine ⟨_, by simp only [exec, execLinkFail, live, there, replays]; rfl, State.deviceFatal_fatal live _ _ _⟩
  case restart =>
    intro d s st hst live there missed
    refine ⟨fun g last recent => ?again, fun noJobs notRecent => ?first⟩
    case again =>
      have stillLive : State.live { s with drovers := mset s.drovers (dieCode d) ⟨0, some s.stage⟩ } = true := live
      refine ⟨_, by simp only [exec, execDroverRestart, hst, live, there, missed, last, recent]; rfl, ?_⟩
      exact State.deviceFatal_fatal stillLive _ _ _
    case first =>
      cases last : st.lastRestart with
      | none =>
        simp only [exec, execDroverRestart, hst, live, there, missed, noJobs, last]
        rfl
      | some g =>
        have old : ¬ s.stage < g + 1000 := Nat.not_lt.2 (notRecent g last)
        simp only [exec, execDroverRestart, hst, live, there, missed, noJobs, last, old]
        rfl

end Sys2Proof.Machine
end

section
/-! The pieces of a mover (R158 to R160, R303, R304). -/
namespace Sys2Proof.Machine

/-- A mover that carries a transfer and whose leg goes on takes its next piece. -/
theorem exec_moverPiece_of_movPiece {core : BitVec 7} {mv : BitVec 2} {f : Faults} {s t : State} {x : EngRun}
    (engine : s.engine (.mover core mv) = some x) (transfer : x.t.hdr.kind = 0x04) (goesOn : x.t.leg.any Leg.ended = false)
    (piece : s.movPiece x f = t) : exec (.moverPiece core mv f) s = .next (t.boundary x.j x.id) := by
  simp only [exec, execMoverPiece, State.onTile, engine, goesOn, transfer, piece, if_true, Bool.false_eq_true, if_false]

/-- A fabric piece whose requests all go out (R303, R304). -/
theorem State.fabricPiece_sent {s t : State} {x : EngRun} {f : Faults} {m : MovSt} {mover own peer off n p : Nat} {wr last : Bool}
    (entry : (mget x.jb.peers peer).isSome = true)
    (room : s.dmaRoom x.core (fabricReqs s f x mover wr own peer off n p).length = true)
    (sent : s.issueAll (fabricReqs s f x mover wr own peer off n p) = .sent t) :
    s.fabricPiece x f m mover wr own peer off n p last =
      (let ls := if wr then linesOf (own + 4096 * p) (min 4096 (n - 4096 * p)) else []
      (t.readMeet x f ls).modEng x (fun k => { k with eng := .mov { m with
        piece := p + 1, owed := m.owed + (fabricReqs s f x mover wr own peer off n p).length, issued := last
        psn := m.psn || ls.any (badLine s f) } })) := by
  have hasEntry : (mget x.jb.peers peer).isNone = false := by simpa using entry
  simp only [State.fabricPiece, hasEntry, room, sent]
  rfl

/-- Settles O48: each form of a transfer passes its own checks, and its piece is done. -/
theorem moverPieceCompletes : Obligations.MoverPieceCompletes := by
  refine ⟨?copy, ?fabric, ?box, ?ring⟩
  case copy =>
    intro core mv f s x o n a c m ls here engine transfer goesOn body eng notIssued aHere cHere hhere reach hls
    subst hhere hls
    refine exec_moverPiece_of_movPiece engine transfer goesOn ?_
    cases a with
    | fabric p q => exact absurd rfl (aHere p q)
    | job v =>
      have aReach := reach v (.inl rfl)
      cases c with
      | fabric p q => exact absurd rfl (cHere p q)
      | job w =>
        simp only [State.movPiece, body, eng, notIssued, aReach, reach w (.inr rfl)]
        rfl
      | ts b q =>
        simp only [State.movPiece, body, eng, notIssued, aReach]
        rfl
    | ts b q =>
      cases c with
      | fabric p q => exact absurd rfl (cHere p q)
      | job w =>
        simp only [State.movPiece, body, eng, notIssued, reach w (.inr rfl)]
        rfl
      | ts b q =>
        simp only [State.movPiece, body, eng, notIssued]
        rfl
  case fabric =>
    intro core mv f s x o n a c m wr b off p own reqs ls t engine transfer goesOn body eng notIssued direction entry hreqs room
      sent hls
    subst hreqs hls
    refine exec_moverPiece_of_movPiece engine transfer goesOn ?_
    rw [← State.fabricPiece_sent entry room sent]
    rcases direction with ⟨rfl, rfl, rfl⟩ | ⟨rfl, rfl, rfl⟩
    · simp only [State.movPiece, body, eng, notIssued]
      rfl
    · simp only [State.movPiece, body, eng, notIssued]
      rfl
  case box =>
    intro core mv f s x k so dO ext a d m q last r engine transfer goesOn body eng notIssued hq reach hlast notLast isLast
    have piece : r = if last then b0Scale s f x a d (boxPiece s f x a d q m.piece) else boxPiece s f x a d q m.piece := by
      cases last with
      | false => exact notLast rfl
      | true => exact isLast rfl
    subst piece hlast hq
    refine exec_moverPiece_of_movPiece engine transfer goesOn ?_
    simp only [State.movPiece, body, eng, notIssued, reach]
    rfl
  case ring =>
    intro core mv f s x o so ext a id strm st m rt b rm d k q r m1 t engine transfer goesOn body eng notIssued ring resident hd hk
      hq first later room hr ht hm
    have checks : (rt.spilled.isSome || (m.piece == 0 && ringTaken s x id strm)) = false
        ∧ ¬ (m.piece = 0 ∧ (!st.fits so ext a d) = true)
        ∧ (if m.piece = 0 then st.unreach s x so ext a d else boxUnreach s x a d q (unitsOf ext d k)) = none := by
      by_cases start : m.piece = 0
      · obtain ⟨alone, fits, reached⟩ := first start
        simp [resident, start, alone, fits, reached]
      · simp [resident, start, later start]
    obtain ⟨mayFill, fits, reached⟩ := checks
    have slotFree : ¬ (k = 0 ∧ b.ctl.slots ≤ ringAhead (nth rm.filled strm) (nth rm.freed strm)) :=
      fun ⟨start, full⟩ => absurd (room start) (Nat.not_lt.2 full)
    subst hd hk hq hr ht hm
    have isRing : s.movPiece x f = s.ringPiece x f m so ext a id strm st := by
      simp only [State.movPiece, body, eng, notIssued]
      rfl
    refine ⟨fun more => exec_moverPiece_of_movPiece engine transfer goesOn (isRing.trans ?_),
      fun ends => exec_moverPiece_of_movPiece engine transfer goesOn (isRing.trans ?_)⟩
    · simp only [State.ringPiece, ring, mayFill, fits, reached, slotFree, more]
      rfl
    · simp only [State.ringPiece, ring, mayFill, fits, reached, slotFree, ends]
      rfl

end Sys2Proof.Machine
end

section
/-! The number formats: powers of two, the one function that rounds (R44) and the one that clamps (R46), each said once, and the
statements on rounding and on requantisation with a given scale (R48). -/
namespace Sys2Proof.Machine

theorem pow2_eq (n : Nat) : pow2 n = 2 ^ n := by simp [pow2]

/-! ### What a shift makes of a value -/

theorem roundShift_of_nonpos {n : Int} (left : n ≤ 0) (x : Int) (mode u : Nat) : roundShift x n mode u = x * 2 ^ (-n).toNat := by
  rw [roundShift, if_pos left, pow2_eq]

/-- The fraction that a shift to the right drops, as the natural number of R44. -/
theorem toNat_emod_two_pow (x : Int) (n : Nat) : ((x % 2 ^ n).toNat : Int) = x % 2 ^ n :=
  Int.toNat_of_nonneg (Int.emod_nonneg x (by positivity))

theorem emod_two_pow_lt (x : Int) (n : Nat) : x % 2 ^ n < 2 ^ n := Int.emod_lt_of_pos x (by positivity)

/-- RNE: up beyond half a unit, and at half a unit from an odd value. -/
theorem roundShift_nearest (x : Int) {n : Nat} (right : 0 < n) (u : Nat) :
    roundShift x n 0 u = if 2 ^ (n - 1) < x % 2 ^ n ∨ (x % 2 ^ n = 2 ^ (n - 1) ∧ x / 2 ^ n % 2 = 1) then x / 2 ^ n + 1
      else x / 2 ^ n := by
  have positive : ¬ (n : Int) ≤ 0 := by omega
  have fraction := toNat_emod_two_pow x n
  have above : (x % 2 ^ n).toNat > 2 ^ (n - 1) ↔ 2 ^ (n - 1) < x % 2 ^ n := by rw [← fraction]; norm_cast
  have half : (x % 2 ^ n).toNat = 2 ^ (n - 1) ↔ x % 2 ^ n = 2 ^ (n - 1) := by rw [← fraction]; norm_cast
  simp only [roundShift, if_neg positive, Int.toNat_natCast, pow2_eq, above, half]

/-- The quotient that truncates is the floor, and one more for a negative value that is not whole. -/
theorem tdiv_two_pow (x : Int) (n : Nat) :
    x.tdiv (2 ^ n) = if x < 0 ∧ x % 2 ^ n ≠ 0 then x / 2 ^ n + 1 else x / 2 ^ n := by
  have sign : (2 ^ n : Int).sign = 1 := Int.sign_eq_one_of_pos (by positivity)
  have floor : (0 ≤ x ∨ (2 ^ n : Int) ∣ x) ↔ ¬ (x < 0 ∧ x % 2 ^ n ≠ 0) := by
    rw [Int.dvd_iff_emod_eq_zero]
    omega
  simp only [Int.tdiv_eq_ediv, sign, floor, ite_not]
  split
  next => rfl
  next => exact add_zero _

/-- RTZ is the quotient that truncates, which keeps the sign of the value. -/
theorem roundShift_towards_zero (x : Int) {n : Nat} (right : 0 < n) (u : Nat) : roundShift x n 1 u = x.tdiv (2 ^ n) := by
  have positive : ¬ (n : Int) ≤ 0 := by omega
  have inexact : (x % 2 ^ n).toNat ≠ 0 ↔ x % 2 ^ n ≠ 0 := by rw [← toNat_emod_two_pow x n]; norm_cast
  simp only [roundShift, if_neg positive, Int.toNat_natCast, pow2_eq, inexact, tdiv_two_pow]

/-- The random bits that R44 compares with a fraction of `n` bits. -/
def roundingBits (n u : Nat) : Nat := if n ≤ 32 then u / 2 ^ (32 - n) else u * 2 ^ (n - 32)

theorem roundingBits_lt {u : Nat} (word : u < 2 ^ 32) (n : Nat) : roundingBits n u < 2 ^ n := by
  unfold roundingBits
  split
  next short =>
    refine Nat.div_lt_of_lt_mul ?_
    rwa [← pow_add, Nat.sub_add_cancel short]
  next long =>
    calc u * 2 ^ (n - 32) < 2 ^ 32 * 2 ^ (n - 32) := Nat.mul_lt_mul_of_pos_right word (by positivity)
      _ = 2 ^ n := by rw [← pow_add, Nat.add_sub_cancel' (by omega)]

/-- RSTO: up exactly where the fraction and the random bits make a whole unit. -/
theorem roundShift_stochastic (x : Int) {n : Nat} (right : 0 < n) (mode u : Nat) :
    roundShift x n (mode + 2) u = if 2 ^ n ≤ x % 2 ^ n + roundingBits n u then x / 2 ^ n + 1 else x / 2 ^ n := by
  have positive : ¬ (n : Int) ≤ 0 := by omega
  have unit : 2 ^ n ≤ x % 2 ^ n + roundingBits n u ↔ (x % 2 ^ n).toNat + roundingBits n u ≥ 2 ^ n := by
    rw [← toNat_emod_two_pow x n]
    norm_cast
  simp only [unit, roundShift, if_neg positive, Int.toNat_natCast, pow2_eq]
  rfl

/-! ### How far a rounded value lies from the exact one -/

theorem floor_mul_sub (x m : Int) : x / m * m - x = -(x % m) := by
  linarith [Int.ediv_mul_add_emod x m]

theorem succ_floor_mul_sub (x m : Int) : (x / m + 1) * m - x = m - x % m := by
  linarith [Int.ediv_mul_add_emod x m]

/-- Whatever the mode, a value is rounded to one of its two neighbours, and upwards only where it is not exact. -/
theorem roundShift_neighbour (x : Int) {n u : Nat} (right : 0 < n) (word : u < 2 ^ 32) (mode : Nat) :
    roundShift x n mode u = x / 2 ^ n ∨ (x % 2 ^ n ≠ 0 ∧ roundShift x n mode u = x / 2 ^ n + 1) := by
  match mode with
  | 0 =>
    have half : (0 : Int) < 2 ^ (n - 1) := by positivity
    rw [roundShift_nearest x right]
    split
    next up => exact .inr ⟨by omega, rfl⟩
    next => exact .inl rfl
  | 1 =>
    rw [roundShift_towards_zero x right, tdiv_two_pow]
    split
    next negative => exact .inr ⟨negative.2, rfl⟩
    next => exact .inl rfl
  | mode + 2 =>
    have bits : (roundingBits n u : Int) < 2 ^ n := mod_cast roundingBits_lt word n
    rw [roundShift_stochastic x right]
    split
    next up => exact .inr ⟨by omega, rfl⟩
    next => exact .inl rfl

theorem roundShift_error_lt (x : Int) {n u : Nat} (right : 0 < n) (word : u < 2 ^ 32) (mode : Nat) :
    Int.natAbs (roundShift x n mode u * 2 ^ n - x) < 2 ^ n := by
  have nonneg := Int.emod_nonneg x (b := 2 ^ n) (by positivity)
  have below := emod_two_pow_lt x n
  zify
  rcases roundShift_neighbour x right word mode with floor | ⟨inexact, next⟩
  · rw [floor, floor_mul_sub, abs_lt]
    omega
  · rw [next, succ_floor_mul_sub, abs_lt]
    omega

theorem roundShift_exact {x : Int} {n u : Nat} (right : 0 < n) (word : u < 2 ^ 32) (whole : x % 2 ^ n = 0) (mode : Nat) :
    roundShift x n mode u * 2 ^ n = x := by
  rcases roundShift_neighbour x right word mode with floor | ⟨inexact, -⟩
  · rw [floor, Int.ediv_mul_cancel (Int.dvd_of_emod_eq_zero whole)]
  · exact absurd whole inexact

/-- RNE stays within half a unit, and reaches it only at an even value. -/
theorem roundShift_nearest_error (x : Int) {n : Nat} (right : 0 < n) (u : Nat) :
    2 * Int.natAbs (roundShift x n 0 u * 2 ^ n - x) ≤ 2 ^ n
    ∧ (2 * Int.natAbs (roundShift x n 0 u * 2 ^ n - x) = 2 ^ n → roundShift x n 0 u % 2 = 0) := by
  have nonneg := Int.emod_nonneg x (b := 2 ^ n) (by positivity)
  have below := emod_two_pow_lt x n
  have halves : (2 : Int) ^ n = 2 * 2 ^ (n - 1) := by rw [← pow_succ', Nat.sub_add_cancel right]
  rw [roundShift_nearest x right]
  zify
  split
  next up =>
    rw [succ_floor_mul_sub, abs_of_pos (by omega)]
    omega
  next =>
    rw [floor_mul_sub, abs_neg, abs_of_nonneg nonneg]
    omega

/-- RTZ keeps the whole units of the magnitude. -/
theorem natAbs_roundShift_towards_zero (x : Int) {n : Nat} (right : 0 < n) (u : Nat) :
    Int.natAbs (roundShift x n 1 u) = x.natAbs / 2 ^ n := by
  rw [roundShift_towards_zero x right, Int.natAbs_tdiv, Int.natAbs_pow]
  rfl

/-- Settles O57: each mode by its own law of `roundShift`, the bound of RSTO and exactness by that of all modes. -/
theorem roundingIsFaithful : Obligations.RoundingIsFaithful := by
  intro x n u word
  refine ⟨fun mode => ⟨?_, ?_⟩, fun right => (roundShift_nearest_error x right u).1,
    fun right => (roundShift_nearest_error x right u).2, fun right => ?_, fun right => roundShift_error_lt x right word 2,
    fun right mode whole => roundShift_exact right word whole mode⟩
  · simp [roundShift_of_nonpos]
  · simp [roundShift_of_nonpos]
  · rw [natAbs_roundShift_towards_zero x right]
    exact ⟨Nat.div_mul_le_self _ _, Nat.lt_mul_of_div_lt (Nat.lt_succ_self _) (by positivity)⟩

/-! ### Narrowing -/

/-- narrow() of R46 is the clamp to the type's range. -/
theorem narrow_eq_clamp (w : Nat) (x : Int) : narrow w x = max (-2 ^ (w - 1)) (min (2 ^ (w - 1) - 1) x) := by
  have positive : (0 : Int) < 2 ^ (w - 1) := by positivity
  unfold narrow typeMin typeMax
  rw [pow2_eq]
  split
  next => omega
  next => split <;> omega

theorem narrow_of_fits {w : Nat} {x : Int} (low : -2 ^ (w - 1) ≤ x) (high : x ≤ 2 ^ (w - 1) - 1) : narrow w x = x := by
  rw [narrow_eq_clamp, min_eq_right high, max_eq_right low]

theorem requantGiven_getElem? {xs : List (Int × Nat)} {k : Nat} {x : Int} {u : Nat} (element : xs[k]? = some (x, u)) (E e : Int)
    (w mode : Nat) : (requantGiven xs E e w mode).qs[k]?
      = some (narrow w (if e ≥ E then roundShift x (e - E) mode u else x * 2 ^ (E - e).toNat)) := by
  simp [requantGiven, element, pow2_eq]

/-- Settles O56: every element is one value narrowed, by the side of `E` on which the scale lies. -/
theorem givenScaleNarrowsEachElement : Obligations.GivenScaleNarrowsEachElement := by
  refine ⟨fun xs E e w mode k x u element => ?_, fun xs E e w mode => ⟨by simp [requantGiven], rfl⟩, narrow_eq_clamp⟩
  rw [requantGiven_getElem? element]
  refine ⟨fun above => by rw [if_pos above], fun below => by rw [if_neg below.not_ge], fun below low high => ?_⟩
  rw [if_neg below.not_ge, narrow_of_fits low high]

end Sys2Proof.Machine
end

section
/-! The tick (R58, R60, R307, R408). -/
namespace Sys2Proof.Machine

theorem execTick_fatal {s : State} (pwrok : s.pwrok = true) (ready : s.ready = true) (fatal : s.fatal = true) (i : TickIn) :
    execTick i s = .next s.newStage := by
  have stays : s.newStage.fatal = true := fatal
  simp only [execTick, pwrok, ready, stays]
  rfl

theorem execTick_working {s : State} (pwrok : s.pwrok = true) (ready : s.ready = true) (working : s.fatal = false) (i : TickIn) :
    execTick i s = .next (((s.newStage.takePeriod).slew).tickUnits i (!s.ticking) s.period) := by
  have stays : s.newStage.fatal = false := working
  simp only [execTick, pwrok, ready, stays]
  rfl

/-- The stage that ends has its length in cycles, the first tick ends none (R60, R307). -/
theorem State.newStage_now (s : State) : s.newStage.now
    = s.now + (if s.ticking then ((850 * s.period : Int) - s.offset - s.dom.stepErr).toNat else 0) := by
  have cycles : (s.periodCycles : Int) = 850 * s.period := by simp [State.periodCycles, mul_comm]
  simp only [State.newStage, cycles]
  split <;> rfl

theorem State.nextStage_eq (s : State) : s.nextStage = if s.ticking then (s.stage + 1) % 2 ^ 48 else 0 := rfl

/-- Settles O39: `newStage` is the clock's part of a tick, and a fatal device stops after it. -/
theorem tickBeginsAStage : Obligations.TickBeginsAStage := by
  intro i s pwrok ready
  refine ⟨fun fatal => ?_, fun working => ?_, s.nextStage_eq⟩
  · exact ⟨_, execTick_fatal pwrok ready fatal i, rfl, rfl, rfl, rfl, rfl, rfl⟩
  · exact ⟨execTick_working pwrok ready working i, rfl, rfl, s.newStage_now⟩

end Sys2Proof.Machine
end

section
/-! The commands of the device itself (R22, R58, R82, R353, R367, R370, R379, R411). -/
namespace Sys2Proof.Machine

/-- Parameters that are all zero. -/
theorem CmdRec.par_of_params_eq_zero {c : CmdRec} (none : c.params = 0#448) (off lo w : Nat) : c.par off lo w = 0 := by
  simp only [CmdRec.par, none, bits, BitVec.toNat_zero, Nat.zero_div, Nat.zero_mod]

theorem CmdRec.onlyFields_of_params_eq_zero {c : CmdRec} (none : c.params = 0#448) (fs : List (Nat × Nat × Nat)) :
    c.onlyFields fs = true := by
  simp only [CmdRec.onlyFields, none, BitVec.toNat_zero, Nat.zero_and, BEq.rfl]

/-- What the slot's taking leaves of its host's port. -/
theorem State.take_host (s : State) (h : HostId) (op : Nat) (c : CmdRec) : (s.take h op c).host h = { s.host h with
    cmdRing := mset (s.host h).cmdRing ((s.host h).cmdHead.toNat % 1024) (c.slot op)
    cmdHead := (s.host h).cmdHead + 1 } := match h with
  | .a => rfl
  | .b => rfl

/-- MBX_RESYNC without a list (R367). -/
theorem execMbxResync_counts {h : HostId} {c : CmdRec} {s : State} (slot : s.mayTake h = true) (turn : s.turnOf h = true)
    (hsn : c.hsn = 0#32) (rsvd : c.rsvd = 0#8) (job : c.job = 0xFF#8) (params : c.params = 0#448) :
    execMbxResync h c s = .next ((s.take h 0x0001 c).record h 0 0 0x0001 0xFF 0 s.stage
      ((s.host h).lastHsn + (s.host h).openCmds.length * 2 ^ 32 + (s.host h).notices.length * 2 ^ 48)) := by
  have noList := CmdRec.par_of_params_eq_zero params 0x08 0 64
  have fields := CmdRec.onlyFields_of_params_eq_zero params [(0x08, 0, 64)]
  simp only [execMbxResync, slot, turn, hsn, rsvd, job, noList, fields, State.take_host, State.take_stage]
  rfl

/-- Settles O12: each command passes the checks of its own part, down to its effect. -/
theorem deviceCommandsComplete : Obligations.DeviceCommandsComplete := by
  refine ⟨?deviceConfig, ?powerCapSet, ?partition, ?takeover, ?mirror, ?resync, ?report, ?reserved⟩
  case deviceConfig =>
    intro h c s b runs least most alone
    have inRange : ¬ (c.par 0x08 0 14 < 25 ∨ 10000 < c.par 0x08 0 14) := by omega
    refine congrArg Host.Outcome.next (runs.command_opened ?_)
    simp [inRange, alone]
  case powerCapSet =>
    intro h c s b runs least most
    have inRange : ¬ (100 * c.par 0x08 0 16 < 60 * b.part.pkgMaxW ∨ b.part.pkgMaxW < c.par 0x08 0 16) := by omega
    refine congrArg Host.Outcome.next (runs.command_completed ?_)
    simp only [inRange, if_false]
  case partition =>
    intro h c s b runs dual coresThere stacksThere halvesThere coresUsed stacksUsed halvesUsed someHalf
    have keepsHalf : (b.anyHalfB && c.par 0x18 16 2 == 0) = false := by
      rcases someHalf with noChannel | granted
      · simp [noChannel]
      · simp [granted]
    refine congrArg Host.Outcome.next (runs.command_completed ?_)
    simp only [dual, coresThere, stacksThere, halvesThere, coresUsed, stacksUsed, halvesUsed, keepsHalf]
    rfl
  case takeover =>
    intro h c s b runs dual running noReplay _
    refine congrArg Host.Outcome.next (runs.command_opened ?_)
    simp only [dual, running, noReplay]
    rfl
  case mirror =>
    intro h c s b runs aligned
    refine ⟨fun off => ?_, fun on inHost => ?_⟩
    · refine congrArg Host.Outcome.next (runs.command_completed ?_)
      simp only [aligned, off]
      rfl
    · refine congrArg Host.Outcome.next (runs.command_completed ?_)
      simp only [aligned, on, inHost.not_gt]
      rfl
  case resync =>
    intro h c s slot turn hsn rsvd job params
    exact execMbxResync_counts slot turn hsn rsvd job params
  case report =>
    intro h c s b r t runs aligned found written
    refine congrArg Host.Outcome.next (runs.command_completed ?_)
    simp only [aligned, found, written]
    rfl
  case reserved =>
    intro h op c s b notListed runs
    simp only [exec, execReservedOpcodeCommand, notListed, runs.command_eq (body := fun s => .done s 0x0003 0) rfl]
    rfl

end Sys2Proof.Machine
end

section
/-! The commands that load and submit steps (R65, R372 to R374, R476). -/
namespace Sys2Proof.Machine

theorem State.setJob_job (s : State) (j k : Nat) (v : Job) : (s.setJob j v).job k = if k = j then some v else s.job k := by
  simp only [State.job, State.setJob_jobs]
  split
  next same => rw [same, mget_mset_same]
  next other => exact mget_mset_ne _ _ _ _ other

theorem State.setHost_job (s : State) (h : HostId) (p : HostPort) (j : Nat) : (s.setHost h p).job j = s.job j :=
  congrArg (mget · j) (State.setHost_jobs s h p)

/-- A step in its job's queue, and the notice that it owes its host (R65, R372). -/
def State.queueStep (s : State) (j : Nat) (jb : Job) (q : QStep) : State :=
  let t := s.setJob j { jb with queue := jb.queue ++ [q] }
  t.setHost q.host { t.host q.host with notices := (t.host q.host).notices ++ [(q.hsn, j, q.step)] }

theorem State.queueStep_job (s : State) (j k : Nat) (jb : Job) (q : QStep) :
    (s.queueStep j jb q).job k = if k = j then some { jb with queue := jb.queue ++ [q] } else s.job k := by
  rw [State.queueStep, State.setHost_job, State.setJob_job]

theorem State.queueStep_notices (s : State) (j : Nat) (jb : Job) (q : QStep) :
    ((s.queueStep j jb q).host q.host).notices = (s.host q.host).notices ++ [(q.hsn, j, q.step)] := by
  rw [State.queueStep, State.setHost_host, State.setJob_host]

theorem State.queueStep_mem (s : State) (j : Nat) (jb : Job) (q : QStep) : (s.queueStep j jb q).mem = s.mem := by
  rw [State.queueStep, State.setHost_mem, State.setJob_mem]

/-- The step that a STEP_SUBMIT without channels submits (R372). -/
def submitted (h : HostId) (c : CmdRec) : QStep :=
  ⟨c.par 0x08 0 16, c.par 0x0C 0 32, c.par 0x08 16 1 == 1, [], h, c.hsn.toNat⟩

/-- Settles O14: each command passes the checks of its own part one after another, down to its effect. -/
theorem stepCommandsComplete : Obligations.StepCommandsComplete := by
  refine ⟨?load, ?unload, ?submit, ?log⟩
  case load =>
    intro h c f s b jb t id runs job aligned native noArea someTask most room loaded
    refine congrArg Host.Outcome.next (runs.command_completed ?_)
    have inLimits : ¬ (65536 < c.par 0x10 0 17 ∨ 64 ≤ jb.lists.length) := by omega
    simp only [job, aligned, native, noArea, someTask, inLimits, loaded]
    rfl
  case unload =>
    intro h c s b jb runs job isLoaded notQueued notRun
    have noneQueued : jb.queue.any (fun q => q.list == c.par 0x08 0 16) = false :=
      List.any_eq_false.2 (fun q hq => by simp [notQueued q hq])
    have noneRuns : jb.run.any (fun r => r.q.list == c.par 0x08 0 16) = false := by
      cases running : jb.run with
      | none => rfl
      | some r => simpa using notRun r running
    refine congrArg Host.Outcome.next (runs.command_completed ?_)
    simp only [job, Option.isNone_eq_false_iff.2 isLoaded, noneQueued, noneRuns]
    rfl
  case submit =>
    intro h c s b jb runs job isLoaded noChans room allowed
    have noneNamed : (List.range 4).filter (fun k => c.par (0x10 + k) 7 1 == 1) = [] :=
      List.filter_eq_nil_iff.2 (fun k hk => by simp [noChans k (List.mem_range.1 hk)])
    refine ⟨b.queueStep c.job.toNat jb (submitted h c), congrArg Host.Outcome.next (runs.command_completed ?_),
      (b.queueStep_job ..).trans (if_pos rfl), b.queueStep_notices .., fun j other => (b.queueStep_job ..).trans (if_neg other),
      b.queueStep_mem ..⟩
    simp only [job, noneNamed, Option.isNone_eq_false_iff.2 isLoaded, room.not_ge, allowed]
    rfl
  case log =>
    intro h c s b jb runs job
    refine ⟨fun stops => ?_, fun starts aligned mapped => ?_⟩
    · refine congrArg Host.Outcome.next (runs.command_completed ?_)
      simp only [job, stops]
      rfl
    · refine congrArg Host.Outcome.next (runs.command_completed ?_)
      simp only [job, starts, aligned, mapped]
      rfl

end Sys2Proof.Machine
end

section
/-! Register writes and reads (R78, R381 to R386). -/
namespace Sys2Proof.Machine

/-! ### Addresses of the blocks outside BAR0 (log 6) -/

theorem lt_of_blkPresent {p : Part} {i : Nat} (there : blkPresent p i = true) : i < 156 := by
  by_contra beyond
  simp [blkPresent, show ¬ i < 128 by omega, show ¬ i < 136 by omega, show ¬ i < 140 by omega, beyond] at there

theorem blkAddr_eq (i : Nat) : blkAddr i = blkBase + i * 4096 := rfl

theorem blkBase_eq : blkBase = regBase + 0x01000000 := rfl

/-- A register of a block by its device address: the address fits, lies above the registers of BAR0, and names the block
and the offset. -/
theorem blkAddr_names {p : Part} {i o : Nat} (there : blkPresent p i = true) (inBlock : o < 4096) :
    (BitVec.ofNat 48 (blkAddr i + o)).toNat = blkAddr i + o ∧ blkBase ≤ blkAddr i + o
      ∧ (blkAddr i + o - blkBase) / 4096 = i ∧ (blkAddr i + o - blkBase) % 4096 = o := by
  have few := lt_of_blkPresent there
  have fits : blkAddr i + o < 2 ^ 48 := by
    rw [blkAddr_eq, blkBase_eq, regBase]
    omega
  rw [BitVec.toNat_ofNat, Nat.mod_eq_of_lt fits, blkAddr_eq]
  omega

/-- A write by device address to a register of a block reaches that block. -/
theorem State.devWrite_blk {s : State} {i o : Nat} (there : blkPresent s.part i = true) (inBlock : o < 4096) (whole : o % 4 = 0)
    (w : Writer) (v : Nat) : s.devWrite w (blkAddr i + o) v = s.blkWrite w i o v := by
  obtain ⟨_, above, block, offset⟩ := blkAddr_names there inBlock
  have notBar0 : ¬ (blkAddr i + o < regBase ∨ (blkAddr i + o) % 4 ≠ 0) ∧ ¬ blkAddr i + o - regBase < 0x01000000 := by
    rw [blkBase_eq, regBase] at above
    rw [blkAddr_eq, blkBase_eq, regBase] at *
    omega
  simp only [State.devWrite, notBar0.1, notBar0.2, block, offset, if_false]

/-! ### What a write does -/

/-- The drover of a block writes its apply register (R78, R387). -/
theorem State.blkWrite_apply {s : State} {i : Nat} (there : blkPresent s.part i = true) (v : BitVec 32) :
    s.blkWrite (.drover (blkDrover i)) i 0xFFC v.toNat = s.setBlk i
      { s.blk i with apply := if v.getLsbD 16 then v.getLsbD 0 else (s.blk i).apply } := by
  simp only [State.blkWrite, mayWriteBlk, there, BEq.rfl]
  rfl

/-- The drover of a block writes one of its configuration registers: the pending copy and the shadow (R78, R385). -/
theorem State.blkWrite_cfg {s : State} {i o : Nat} (there : blkPresent s.part i = true) (low : o < 0x800) (whole : o % 4 = 0)
    (v : BitVec 32) : s.blkWrite (.drover (blkDrover i)) i o v.toNat = s.setBlk i { s.blk i with
      apply := false
      regs := mset (s.blk i).regs o ⟨(mgetD (s.blk i).regs o .init).cfg.write v, v, (mgetD (s.blk i).regs o .init).lastFault⟩ } := by
  have plain : o ≠ 0xFFC ∧ o ≠ 0xFF8 ∧ ¬ (blkPosted i = true ∧ 0x800 ≤ o) := by omega
  obtain ⟨notApply, notPosted, notDirect⟩ := plain
  simp only [State.blkWrite, mayWriteBlk, there, BEq.rfl, whole, notApply, notPosted, notDirect, BitVec.ofNat_toNat,
    BitVec.setWidth_eq]
  rfl

/-- A posted write that may be made (R386). -/
theorem execPostedWrite_eq {w : Writer} {block : BitVec 8} {off : BitVec 12} {s : State} (pwrok : s.pwrok = true)
    (there : blkPresent s.part block.toNat = true) (posted : 136 ≤ block.toNat) (may : mayWriteBlk w block.toNat = true)
    (low : 0x800 ≤ off.toNat) (high : off.toNat < 0xFF8) (whole : off.toNat % 4 = 0) (v : BitVec 32) :
    execPostedWrite w block off v s = .next (s.pwWrite block.toNat off.toNat v.toNat) := by
  simp [execPostedWrite, blkPosted, pwrok, there, posted, may, low, high, whole]

/-- PARITY_FAULT of DEV_CTL (R385). -/
theorem execParityFault_devCtl {s : State} (pwrok : s.pwrok = true) (g : BitVec 1) (active : Bool) :
    execParityFault (BitVec.ofNat 48 (regBase + 0x2014)) g active s = .next (s.parityDev g.toNat active) := by
  simp only [execParityFault, pwrok]
  rfl

/-- PARITY_FAULT of a register of a host's page (R385). -/
theorem execParityFault_page {s : State} (pwrok : s.pwrok = true) (h : HostId) (hi : Bool) (g : BitVec 1) (active : Bool) :
    execParityFault (BitVec.ofNat 48 (if hi then pageAddr h + 4 else pageAddr h)) g active s
      = .next (s.parityPage h hi g.toNat active) := by
  simp only [execParityFault, pwrok]
  cases h <;> cases hi <;> rfl

/-- A clause of a host's write to its own registers: its port answers, and the checks of the target hold. -/
theorem exec_registerWrite_host {s u : State} {h : HostId} {t : RegTarget} {v : BitVec 32} (own : s.hostRegWrite h t v = u) :
    exec (.registerWrite (.host h) t v) s = .next u := congrArg Host.Outcome.next own

/-- A write to HOST_APPLY of the writer's own page (R78, R387). -/
theorem State.hostApply_page {s : State} {h : HostId} (up : s.bar0Up h = true) (v : BitVec 32) :
    s.hostApply h (.bar0 0x3008) v = s.setHost h { s.host h with
      page := { (s.host h).page with apply := if v.getLsbD 16 then v.getLsbD 0 else (s.host h).page.apply } } := by
  simp only [State.hostApply, up]
  rfl

/-- APPLY of a block, by its drover (R78, R387). -/
theorem State.unitApply_blk {s : State} (pwrok : s.pwrok = true) {i : Nat} (there : blkPresent s.part i = true) (v : BitVec 32) :
    s.unitApply (.drover (blkDrover i)) (.dev (BitVec.ofNat 48 (blkAddr i + 0xFFC))) v = s.setBlk i
      { s.blk i with apply := if v.getLsbD 16 then v.getLsbD 0 else (s.blk i).apply } := by
  obtain ⟨fits, above, block, offset⟩ := blkAddr_names there (o := 0xFFC) (by decide)
  rw [← State.blkWrite_apply there]
  simp only [State.unitApply, pwrok, fits, above, block, offset]
  rfl

/-- Settles O26: each write passes the checks on its writer and its address, and does what its register does. -/
theorem registerCommandsComplete : Obligations.RegisterCommandsComplete := by
  refine ⟨?host, ?debugPort, ?block, ?posted, ?taken, ?parity⟩
  case host =>
    intro h s up
    refine ⟨by simp only [exec, execDevTimeLoRead, up]; rfl, fun v => by simp only [exec, execDevErrClear, up]; rfl,
      fun v => congrArg Host.Outcome.next (State.hostApply_page up v), fun off v whole => ?bar0, fun off v whole ide => ?ring,
      fun n v least most => ?barSize, fun v => ?msixEnable, fun k v on => ?unmask, fun k v off => ?mask⟩
    all_goals refine exec_registerWrite_host ?_
    case bar0 => simp [State.hostRegWrite, up, whole]
    case ring => simp [State.hostRegWrite, up, whole, ide]
    case barSize => simp [State.hostRegWrite, up, least, most]
    case msixEnable => simp [State.hostRegWrite, up]
    case unmask =>
      simp only [State.hostRegWrite, up, on]
      rfl
    case mask =>
      simp only [State.hostRegWrite, up, off]
      rfl
  case debugPort =>
    intro a v s pwrok
    simp only [exec, execRegisterWrite, State.unitRegWrite, pwrok, if_true]
  case block =>
    intro i d v s pwrok there drover
    subst drover
    refine ⟨congrArg Host.Outcome.next (State.unitApply_blk pwrok there v), fun o r low whole reg => ?_⟩
    subst reg
    obtain ⟨fits, _⟩ := blkAddr_names there (o := o) (by omega)
    rw [← State.blkWrite_cfg there low whole, ← State.devWrite_blk there (by omega) whole]
    simp only [exec, execRegisterWrite, State.unitRegWrite, pwrok, fits, if_true]
  case posted =>
    intro w block off v s pwrok there direct may low high whole
    have made := execPostedWrite_eq pwrok there direct may low high whole v
    refine ⟨fun free => made.trans ?_, fun busy => made.trans ?_⟩
    · simp only [State.pwWrite, free, BitVec.ofNat_toNat, BitVec.setWidth_eq]
    · obtain ⟨q, waits⟩ := Option.isSome_iff_exists.1 busy
      simp only [State.pwWrite, waits]
  case taken =>
    intro block s o v waits
    simp only [exec, execPostedWriteTaken, waits]
  case parity =>
    intro g s pwrok
    exact ⟨execParityFault_devCtl pwrok g true, execParityFault_devCtl pwrok g false,
      fun h => ⟨execParityFault_page pwrok h false g false, execParityFault_page pwrok h true g false⟩⟩

end Sys2Proof.Machine
end

section
/-! Legs: how they start, are suspended, overrun and are held (R63, R72 to R77, R109). -/
namespace Sys2Proof.Machine

/-! ### What spilling leaves -/

/-- The stage and the time, by which a leg that starts is marked. -/
def State.clock (s : State) : Nat × Nat := (s.stage, s.now)

theorem State.clock_scramble (s : State) (a n : Nat) : (s.scramble a n).clock = s.clock := rfl

theorem State.clock_spillArea (s : State) (jb : Job) (core : Nat) : (s.spillArea jb core).clock = s.clock :=
  foldl_keeps (fun t : State => t.clock = s.clock) _ _ _ (fun t _ same => (t.clock_scramble _ _).trans same) rfl

theorem State.clock_spillTask (s : State) (arr vec : Bool) (core j : Nat) (t : TaskRun) :
    (s.spillTask arr vec core j t).clock = s.clock := by
  unfold State.spillTask
  split
  next => rfl
  next =>
    dsimp only
    split
    next => rfl
    next =>
      split
      next => exact State.clock_spillArea ..
      next =>
        split
        next => exact State.clock_spillArea ..
        next => rfl

theorem State.clock_spillTasks (s : State) (arr vec : Bool) (core j : Nat) (held : List TaskRun) :
    (held.foldl (fun (x : State) t => x.spillTask arr vec core j t) s).clock = s.clock :=
  foldl_keeps (fun t : State => t.clock = s.clock) _ _ _ (fun t h same => (t.clock_spillTask arr vec core j h).trans same) rfl

/-- What suspended tasks hold in a core's vector group is spilled before a service leg. -/
def State.spillAll (s : State) (core : Nat) : State :=
  s.jobs.foldl (fun (x : State) (p : Nat × Job) =>
    (p.2.heldBy core 0xFFFFFFFFFF).foldl (fun (x : State) (h : TaskRun) => x.spillTask false true core p.1 h) x) s

theorem State.clock_spillAll (s : State) (core : Nat) : (s.spillAll core).clock = s.clock :=
  foldl_keeps (fun t : State => t.clock = s.clock) _ _ _ (fun t _ same => (t.clock_spillTasks _ _ _ _ _).trans same) rfl

theorem State.clock_spillOthers (s : State) (core j : Nat) (t : TaskRun) : (s.spillOthers core j t).clock = s.clock := by
  refine foldl_keeps (fun u : State => u.clock = s.clock) _ _ _ (fun u p same => ?_) rfl
  split
  next => exact same
  next => exact (u.clock_spillTasks _ _ _ _ _).trans same

/-! ### The start of a leg -/

/-- Marking a job as served touches the round-robin marks alone (R72). -/
theorem State.markTurn_eq (s : State) (g : GroupId) (j : Nat) : ∃ m, s.markTurn g j = { s with rrCur := m } := by
  unfold State.markTurn
  split
  next => exact ⟨s.rrCur, rfl⟩
  next => exact ⟨_, rfl⟩

theorem State.markTurn_svc (s : State) (g : GroupId) (j : Nat) : (s.markTurn g j).svc = s.svc := by
  obtain ⟨_, marked⟩ := s.markTurn_eq g j
  rw [marked]

theorem State.markTurn_cores (s : State) (g : GroupId) (j : Nat) : (s.markTurn g j).cores = s.cores := by
  obtain ⟨_, marked⟩ := s.markTurn_eq g j
  rw [marked]

theorem State.markTurn_stage (s : State) (g : GroupId) (j : Nat) : (s.markTurn g j).stage = s.stage := by
  obtain ⟨_, marked⟩ := s.markTurn_eq g j
  rw [marked]

/-- A service digest leg starts: it stands in its core's slot, and the lane accumulators are clear (R63, R272). -/
theorem State.startSvc_starts (s : State) (core j : Nat) (d : DigPage) :
    mget (s.startSvc core (j, d)).svc core = some ⟨j, d.group, d.page⟩
      ∧ ((s.startSvc core (j, d)).core core).la = [] ∧ (s.startSvc core (j, d)).stage = s.stage := by
  refine ⟨?_, ?_, ?_⟩
  · rw [State.startSvc, State.markTurn_svc]
    exact mget_mset_same ..
  · rw [State.core, State.startSvc, State.markTurn_cores]
    simp only [State.modTrain, State.modJob, State.setCore, mgetD_mset, if_true]
  · rw [State.startSvc, State.markTurn_stage]
    exact congrArg Prod.fst (s.clock_spillAll core)

/-! ### The first candidate -/

/-- What the groups of a leg hold of other jobs' tasks makes room (R74); a mover and a collective use none of it. -/
def State.makeRoom (s : State) (g : GroupId) (j : Nat) (t : TaskRun) : State :=
  match g with
  | .coll _ => s
  | .mover _ _ => s
  | _ => (s.spillOthers ((groupCore g).getD t.hdr.core) j t).restoreTask ((groupCore g).getD t.hdr.core) t

theorem State.clock_makeRoom (s : State) (g : GroupId) (j : Nat) {t : TaskRun} (unspilled : t.spilled = none) :
    (s.makeRoom g j t).clock = s.clock := by
  have nothing (x : State) (core : Nat) : x.restoreTask core t = x := by simp only [State.restoreTask, unspilled]
  cases g with
  | coll => rfl
  | mover => rfl
  | array => exact (congrArg State.clock (nothing _ _)).trans (s.clock_spillOthers _ _ _)
  | vector => exact (congrArg State.clock (nothing _ _)).trans (s.clock_spillOthers _ _ _)

/-- The task runs its next leg on the group, with the translations of its job (R29, R72, R73). -/
def State.placeLeg (s : State) (g : GroupId) (j id : Nat) (t : TaskRun) (pt : NMap Nat) : State :=
  ((s.useGrants g j id).modTask j id (fun (y : TaskRun) => { y with
    st := .running, legs := y.legs + 1, spilled := none
    hdr := { y.hdr with core := (groupCore g).getD t.hdr.core }
    leg := some ⟨g, s.stage, s.now, y.arrays, false, pt, y.hdr.kind == 0x05, false⟩ })).markTurn g j

/-- A leg of a task that holds nothing spilled begins in the state that `makeRoom` and `placeLeg` give. -/
theorem State.startLeg_unspilled {s u : State} {g : GroupId} {c : Cand} {jb : Job} {t : TaskRun} {y : EngRun} (f : Faults)
    (job : s.job c.j = some jb) (task : s.taskOf c.j c.t.hdr.id = some t) (unspilled : t.spilled = none)
    (hu : u = (s.makeRoom g c.j t).placeLeg g c.j c.t.hdr.id t jb.pt) (placed : u.engOf c.j c.t.hdr.id = some y) :
    s.startLeg g f c = u.legBegin y (t.legs == 0) f := by
  obtain ⟨stage, now⟩ : (s.makeRoom g c.j t).stage = s.stage ∧ (s.makeRoom g c.j t).now = s.now :=
    Prod.ext_iff.1 (s.clock_makeRoom g c.j unspilled)
  have started : s.startLeg g f c = (match u.engOf c.j c.t.hdr.id with
      | some x => u.legBegin x (t.legs == 0) f
      | none => u) := by
    rw [hu, State.placeLeg, stage, now]
    simp only [State.startLeg, job, task, unspilled]
    cases g <;> rfl
  rw [started, placed]

/-- The first candidate starts where no breakpoint holds it and its first placement does not (R72, R475). -/
theorem State.startFirst_cons {s v : State} {g : GroupId} {c : Cand} {jb : Job} {x : EngRun} {r : RunStep} (f : Faults)
    (rest : List Cand) (may : s.mayStart g c = true) (job : s.job c.j = some jb) (engine : s.engOf c.j c.t.hdr.id = some x)
    (run : jb.run = some r)
    (noHit : s.bpLegs c.j x.id (if c.pos < 2 ^ 17 then jb.hdrAddr r c.pos else none) (c.j, r.q.step, x.id, x.t.legs) = [])
    (placed : s.placeFirst f x = .go v) : State.startFirst g f (c :: rest) s = v.startLeg g f c := by
  simp only [State.startFirst, may, job, engine, run, noHit, placed]
  rfl

/-! ### How a leg ends, overruns and is held -/

/-- An engine's run names the job, the task and its own place again. -/
theorem State.engOf_some {s : State} {j id : Nat} {x : EngRun} (engine : s.engOf j id = some x) :
    s.job j = some x.jb ∧ s.taskOf j id = some x.t ∧ x.t.hdr.id = id := by
  simp only [State.engOf] at engine
  split at engine
  next jb t job task =>
    obtain ⟨r, _, rfl⟩ := Option.map_eq_some_iff.1 engine
    obtain ⟨r', _, found⟩ := Option.bind_eq_some_iff.1 task
    exact ⟨job, task, by simpa using List.find?_some found⟩
  next => cases engine

theorem State.stage_clocks (s : State) (x : EngRun) : ((s.matClock x).collClock x).stage = s.stage := by
  have collective (u : State) : (u.collClock x).stage = u.stage := by
    unfold State.collClock
    split <;> rfl
  rw [collective]
  unfold State.matClock
  split <;> rfl

/-- LEG_SUSPEND of an aborted job ends the task (R66). -/
theorem execLegSuspend_aborted {l : LegId} {s : State} {x : EngRun} {g : Leg}
    (engine : s.engOf l.job.toNat l.task.toNat = some x) (leg : x.t.leg = some g) (live : s.live = true)
    (runs : x.t.st = .running) (atBoundary : x.t.midTile = false) (aborted : x.jb.abort.isSome = true) :
    execLegSuspend l s = .next ((s.endAborted l.job.toNat x.t.hdr.id).taskOver l.job.toNat x.t) := by
  obtain ⟨job, task, _⟩ := State.engOf_some engine
  simp only [execLegSuspend, job, task, leg, live, runs, atBoundary, aborted]
  rfl

/-- LEG_SUSPEND after a tick suspends the leg (R73). -/
theorem execLegSuspend_past {l : LegId} {s : State} {x : EngRun} {g : Leg}
    (engine : s.engOf l.job.toNat l.task.toNat = some x) (leg : x.t.leg = some g) (live : s.live = true)
    (runs : x.t.st = .running) (atBoundary : x.t.midTile = false) (goesOn : x.jb.abort = none) (sound : x.t.fail = none)
    (unfinished : x.t.finished = false) (past : g.startStage < s.stage) :
    execLegSuspend l s = .next (s.suspend l.job.toNat x.jb x.t g) := by
  obtain ⟨job, task, _⟩ := State.engOf_some engine
  simp only [execLegSuspend, job, task, leg, live, runs, atBoundary, goesOn, sound, unfinished, past]
  rfl

/-- A suspended leg that is not held off (R73). -/
theorem State.suspend_free {s : State} {j : Nat} {x : EngRun} {g : Leg} (engine : s.engOf j x.t.hdr.id = some x)
    (notHeld : ¬ (x.jb.backhaul = true ∧ x.t.overrunsAfter g = 4)) : s.suspend j x.jb x.t g
      = State.legOver (((s.matClock x).collClock x).modTask j x.t.hdr.id (fun (t : TaskRun) => { t with
          st := .suspended, leg := none, overruns := x.t.overrunsAfter g })) (some g) := by
  have free : (x.jb.backhaul && x.t.overrunsAfter g == 4) = false := by simpa using notHeld
  simp only [State.suspend, engine, free]
  rfl

/-- The fourth overrun in a row of a backhaul task holds it off (R77). -/
theorem State.suspend_held {s v : State} {j : Nat} {x : EngRun} {g : Leg} (engine : s.engOf j x.t.hdr.id = some x)
    (backhaul : x.jb.backhaul = true) (fourth : x.t.overrunsAfter g = 4)
    (hv : v = ((s.matClock x).collClock x).modTask j x.t.hdr.id (fun (t : TaskRun) => { t with
      st := .suspended, leg := none, overruns := 0, heldUntil := some (((s.matClock x).collClock x).stage + 64) })) :
    s.suspend j x.jb x.t g = State.legOver (v.post { v.ev 0x0102 with
      job := j, task := x.t.hdr.id, srcType := x.t.src.1, srcIndex := x.t.src.2, arg0 := 64 }) (some g) := by
  subst hv
  simp only [State.suspend, engine, backhaul, fourth, State.stage_clocks]
  rfl

/-- STAGE_OVERRUN marks the leg and posts the event, and a lead leg's core counts it (R75, R76). -/
theorem execStageOverrun_eq {l : LegId} {s u v : State} {jb : Job} {t : TaskRun} {g : Leg} (job : s.job l.job.toNat = some jb)
    (task : s.taskOf l.job.toNat l.task.toNat = some t) (leg : t.leg = some g) (live : s.live = true) (runs : t.st = .running)
    (first : g.overran = false) (reached : s.budgetOf jb t ≤ (s.stage + 1 - g.startStage) * s.periodCycles)
    (hu : u = s.modTask l.job.toNat t.hdr.id (fun (t : TaskRun) => { t with leg := some { g with overran := true } }))
    (hv : v = u.post { u.ev 0x0101 with
      job := l.job.toNat, task := t.hdr.id, srcType := t.src.1, srcIndex := t.src.2
      arg0 := s.budgetOf jb t, arg1 := s.budgetOf jb t }) :
    (groupCore g.group = none ∨ jb.backhaul = true → execStageOverrun l s = .next v)
    ∧ ∀ c, groupCore g.group = some c → jb.backhaul = false → execStageOverrun l s = .next (v.leadOverrun c) := by
  subst hu hv
  refine ⟨fun uncounted => ?_, fun c core lead => ?_⟩
  · simp only [execStageOverrun, job, task, leg, live, runs, first, reached]
    rcases uncounted with noCore | backhaul
    · simp only [noCore]
      rfl
    · cases core : groupCore g.group <;> simp only [backhaul] <;> rfl
  · simp only [execStageOverrun, job, task, leg, live, runs, first, reached, core, lead]
    rfl

/-- The first lead overrun on a core is remembered (R76). -/
theorem State.leadOverrun_first {s : State} {c : Nat} (noHold : (s.core c).holdEnd = none) (none : (s.core c).overruns = []) :
    s.leadOverrun c = s.setCore c { s.core c with overruns := [s.stage] } := by
  simp only [State.leadOverrun, noHold, none]
  rfl

/-- A second one within four stages begins a hold (R76). -/
theorem State.leadOverrun_second {s : State} {c q : Nat} (noHold : (s.core c).holdEnd = none) (one : (s.core c).overruns = [q])
    (earlier : q < s.stage) (recent : s.stage ≤ q + 3) :
    s.leadOverrun c = s.setCore c { s.core c with overruns := [], holdEnd := some (s.stage + 16) } := by
  have two : dedup [q, s.stage] = [q, s.stage] := by simp [dedup, earlier.ne']
  simp [State.leadOverrun, noHold, one, recent, two]

/-- The drover starts the next leg of a free group where no service leg is due (R72). -/
theorem execStartLeg_noSvc {s : State} {g : GroupId} (f : Faults) (placing : s.placing = true) (free : s.groupFree g = true)
    (noSvc : s.svcFor g = none) :
    execStartLeg g f s = .next (State.startFirst g f (s.fillQueues.cands g) s.fillQueues) := by
  simp only [execStartLeg, placing, free, noSvc]
  rfl

/-- Settles O40: a leg starts by `startSvc`, or as the first candidate; it ends by `suspend`, or as an aborted one; overruns and holds
are counted on its core. -/
theorem legEventsComplete : Obligations.LegEventsComplete := by
  refine ⟨?service, ?nothing, ?first, ?suspend, ?overrun, ?leadHold, ?backhaulHold, ?fillLimit⟩
  case service =>
    intro g f s core j d placing free svc
    refine ⟨s.startSvc core (j, d), ?_, s.startSvc_starts core j d⟩
    simp only [exec, execStartLeg, placing, free, svc]
    rfl
  case nothing =>
    intro g f s u placing free noSvc filled none
    subst filled
    refine (execStartLeg_noSvc f placing free noSvc).trans ?_
    rw [none, State.startFirst]
  case first =>
    intro g f s u c rest jb x r v jv t w z y placing free noSvc filled cands may job engine run noHit go jobThen task unspilled
      room hz placed
    subst filled
    obtain rfl : w = v.makeRoom g c.j t := by cases g <;> exact room
    have starts : exec (.startLeg g f) s = .next (z.legBegin y (t.legs == 0) f) := by
      refine (execStartLeg_noSvc f placing free noSvc).trans ?_
      rw [cands, State.startFirst_cons f rest may job engine run noHit go,
        State.startLeg_unspilled f jobThen task unspilled hz placed]
    refine ⟨starts, fun m later mover => starts.trans ?_⟩
    have notFirst : (t.legs == 0) = false := by simpa using later
    simp only [State.legBegin, notFirst, mover]
    rfl
  case suspend =>
    intro l s x g n u engine leg live runs atBoundary
    refine ⟨execLegSuspend_aborted engine leg live runs atBoundary, fun goesOn sound unfinished past hn hu => ?_⟩
    obtain rfl : n = x.t.overrunsAfter g := hn
    subst hu
    obtain ⟨_, _, id⟩ := State.engOf_some engine
    have suspends := execLegSuspend_past engine leg live runs atBoundary goesOn sound unfinished past
    have again : s.engOf l.job.toNat x.t.hdr.id = some x := by rw [id, engine]
    exact ⟨fun notHeld => suspends.trans (congrArg _ (State.suspend_free again notHeld)),
      fun backhaul fourth v hv => suspends.trans (congrArg _ (State.suspend_held again backhaul fourth hv))⟩
  case overrun =>
    intro l s jb t g u v job task leg live runs first reached hu hv
    obtain ⟨uncounted, counted⟩ := execStageOverrun_eq job task leg live runs first reached hu hv
    refine ⟨uncounted, fun c core lead noHold => ⟨fun none => ?_, fun q one earlier recent => ?_⟩⟩
    · exact (counted c core lead).trans (congrArg _ (State.leadOverrun_first noHold none))
    · exact (counted c core lead).trans (congrArg _ (State.leadOverrun_second noHold one earlier recent))
  case leadHold =>
    intro core s e live hold ended
    simp only [exec, execLeadHoldEnd, hold, live, ended]
    rfl
  case backhaulHold =>
    intro l s t e live task held ended
    simp only [exec, execBackhaulHoldEnd, task, held, live, ended]
    rfl
  case fillLimit =>
    intro l s r t c s0 live run task gather seen ready unfilled reached
    simp only [exec, execGatherFillLimit, run, task, gather, seen, live, ready, unfilled, reached]
    rfl

end Sys2Proof.Machine
end

section
/-! The vector group's iterations (R131 to R157, R253, R268, R272). -/
namespace Sys2Proof.Machine

/-- A tile of a leg that goes on is done, and its boundary follows. -/
theorem State.onTile_eq {s t : State} {g : GroupId} {x : EngRun} {tile : EngRun → State} (engine : s.engine g = some x)
    (goesOn : x.t.leg.any Leg.ended = false) (done : tile x = t) : s.onTile g tile = t.boundary x.j x.id := by
  simp only [State.onTile, engine, goesOn, done, Bool.false_eq_true, if_false]

section
variable {core : BitVec 7} {s t : State} {f : Faults} {x : EngRun} (engine : s.engine (.vector core) = some x)
  (goesOn : x.t.leg.any Leg.ended = false)
include engine goesOn

/-- ELEMENT_ITERATION of an element program. -/
theorem exec_elementIteration_elem (noSvc : mget s.svc core.toNat = none) (elem : x.t.hdr.kind = 0x02)
    (done : s.elemIterate x f = t) : exec (.elementIteration core f) s = .next (t.boundary x.j x.id) := by
  simp only [exec, execElementIteration, noSvc]
  exact congrArg _ (State.onTile_eq engine goesOn (by simp only [elem, if_true, done]))

/-- ELEMENT_ITERATION of an update leg. -/
theorem exec_elementIteration_upd (noSvc : mget s.svc core.toNat = none) (upd : x.t.hdr.kind = updKind)
    (done : s.updIterate x f = t) : exec (.elementIteration core f) s = .next (t.boundary x.j x.id) := by
  have notElem : ¬ updKind = 0x02 := by decide
  simp only [exec, execElementIteration, noSvc]
  exact congrArg _ (State.onTile_eq engine goesOn (by simp only [upd, notElem, if_false, if_true, done]))

theorem exec_tapSweepIteration (tap : x.t.hdr.kind = 0x03) (done : s.tapIterate x f = t) :
    exec (.tapSweepIteration core f) s = .next (t.boundary x.j x.id) :=
  congrArg _ (State.onTile_eq engine goesOn (by simp only [tap, if_true, done]))

end

/-- What is done for each of at most two outputs is done for the first and then for the second (R131). -/
theorem foldl_zip_pair {α β γ : Type} (outs : List α) (a b : β) (g : γ → α × β → γ) (z : γ) :
    (outs.zip [a, b]).foldl g z
      = match outs[1]? with
        | some q => g (match outs[0]? with | some p => g z (p, a) | none => z) (q, b)
        | none => match outs[0]? with | some p => g z (p, a) | none => z := by
  match outs with
  | [] => rfl
  | [_] => rfl
  | _ :: _ :: _ => simp

/-- Settles O47: each leg does its iteration, and the last one's records follow. -/
theorem vectorGroupEventsComplete : Obligations.VectorGroupEventsComplete := by
  refine ⟨?elem, ?upd, ?digest, ?tap⟩
  case elem =>
    intro core f s x b e n ls r0 w0 w1 e1 fr last u engine noSvc kind goesOn body eng hn more hls hr0 hw0 hw1 he1 hfr hlast hu
    subst hn
    have step : s.elemIterate x f = if last then (b.outs.zip [e1.o0, e1.o1]).foldl
        (fun (t : State) q => t.writeBound x q.1.1.maxe q.2.maxByte) u else u := by
      subst hu hlast hfr he1 hw1 hw0 hr0 hls
      rw [foldl_zip_pair]
      simp only [State.elemIterate, body, eng, more.not_ge, if_false]
      cases b.outs[0]? <;> cases b.outs[1]? <;>
        simp only [Option.map_some, Option.map_none, Option.getD_some, Option.getD_none]
    refine ⟨fun notLast => exec_elementIteration_elem engine goesOn noSvc kind (step.trans ?_),
      fun isLast => exec_elementIteration_elem engine goesOn noSvc kind (step.trans ?_)⟩
    · rw [notLast, if_neg (by decide)]
    · rw [isLast, if_pos rfl]
  case upd =>
    intro core f s x y t g p r u engine noSvc kind goesOn eng group prog more hr hu
    have step : s.updIterate x f
        = if y.iter + 1 = cdiv (cdiv (t.elems g.g) 32) 16 then u.updBounds x p r.run else u := by
      subst hu hr
      simp only [State.updIterate, eng, group, prog, more.not_ge, if_false]
    refine ⟨fun notLast => exec_elementIteration_upd engine goesOn noSvc kind (step.trans (if_neg notLast)),
      fun last => exec_elementIteration_upd engine goesOn noSvc kind (step.trans (if_pos last))⟩
  case digest =>
    intro core f s v jb t g d hi ws ends u svc live job train group dig hhi hws hends hu
    have step : s.digIterate f core.toNat v = if ends then u.svcOver core.toNat else u := by
      subst hu hends hws hhi
      simp only [State.digIterate, job, train, group, dig, Option.bind_some, Option.map_some, digLanes]
      rfl
    have runs : exec (.elementIteration core f) s = .next (s.digIterate f core.toNat v) := by
      simp only [exec, execElementIteration, svc, live, if_true]
    refine ⟨fun goesOn => ?_, fun isOver => ?_⟩
    · rw [runs, step, goesOn, if_neg (by decide)]
    · rw [runs, step, isOver, if_pos rfl]
  case tap =>
    intro core f s x b e sums w e1 fr last u engine kind goesOn body eng more hsums hw he1 hfr hlast hu
    have step : s.tapIterate x f = if last then u.writeBound x b.o.maxe e1.o0.maxByte else u := by
      subst hu hlast hfr he1 hw hsums
      simp only [State.tapIterate, body, eng, more.not_ge, if_false]
    refine ⟨fun notLast => exec_tapSweepIteration engine goesOn kind (step.trans ?_),
      fun isLast => exec_tapSweepIteration engine goesOn kind (step.trans ?_)⟩
    · rw [notLast, if_neg (by decide)]
    · rw [isLast, if_pos rfl]

end Sys2Proof.Machine
end

section
/-! The stage clock across a domain and the switches at a stage (R59, R60, R285, R288, R298, R305 to R309). -/
namespace Sys2Proof.Machine

/-- A RESPONSE to the request under way on a time port: what it measures, and the port that is then in use (R305, R306). -/
theorem execTimeResponse_eq {fr : Frame} {s b u : State} {p : Port} {t1 : Stamp} (received : Received s fr b) (time : fr.typ = 9)
    (response : fld fr.payload 0 1 = 2) (port : b.port fr.port.toNat = p) (asked : p.t1 = some t1) (follower : b.follower = true)
    (timePort : b.dom.timePorts.contains fr.port.toNat = true) (same : fld fr.payload 4 4 = p.exchange)
    (hu : u = State.chooseTime (State.hearLock (b.setPort fr.port.toNat
      { p with t1 := none, rttNs := cap32 ((b.measure t1 fr.payload).1 * 1000 / 850) }) fr)) :
    execTimeResponse fr s = .next (if u.dom.inUse = some fr.port.toNat
      then u.follow fr.payload (b.measure t1 fr.payload).2.1 (b.measure t1 fr.payload).2.2 else u) := by
  subst hu port
  have isResponse : ¬ (fr.typ ≠ 9 ∨ fld fr.payload 0 1 ≠ 2) := by simp [time, response]
  rw [execTimeResponse, if_neg isResponse, State.receive_runs received]
  simp only [asked, follower, timePort, same, BEq.rfl]
  rfl

/-- A switch of the timekeeper that is pending takes place from its stage on, and its command completes (R309, R364, log 50). -/
theorem execTimekeeperSwitch_pending {s : State} {tk g : Nat} {tps : List Nat} (live : s.live = true)
    (pending : s.dom.tkAt = some (tk, tps, g)) :
    execTimekeeperSwitch s = .next ((if g ≤ s.stage then s.newTimekeeper tk tps else s).endSwitch 0x0508) := by
  simp only [execTimekeeperSwitch, live, pending]
  rfl

/-- Settles O55: each switch finds what is pending and its stage reached, and takes effect. -/
theorem domainEventsComplete : Obligations.DomainEventsComplete := by
  refine ⟨?request, ?response, ?renumber, ?period, ?key, ?erase, ?route, ?timekeeper, ?noSwitch⟩
  case request =>
    intro fr s b received time request
    have isRequest : ¬ (fr.typ ≠ 9 ∨ fld fr.payload 0 1 ≠ 1) := by simp [time, request]
    rw [exec, execTimeRequest, if_neg isRequest, State.receive_runs received]
  case response =>
    intro fr s b k p t1 m u received time response hk port asked follower timePort same hm hu
    subst hk hm
    have answered := execTimeResponse_eq received time response port asked follower timePort same hu
    exact ⟨fun other => answered.trans (by rw [if_neg other]), fun inUse => answered.trans (by rw [if_pos inUse])⟩
  case renumber =>
    intro g us s k u live follower renumber locked inUse up noJobs least most hu
    subst hu
    simp only [exec, execStageRenumber, live, follower, renumber, locked, inUse, up, noJobs, least, most, Option.any_some]
    rfl
  case period =>
    intro us g s live joined announced reached
    simp only [exec, execPeriodChange, announced, live, joined, reached]
    rfl
  case key =>
    intro g s up u live pending reached hup hu
    subst hup hu
    refine ⟨fun hasKey => ?_, fun noKey => ?_⟩
    · simp only [exec, execKeySwitch, pending, live, reached]
      exact congrArg (fun t : State => Host.Outcome.next (t.endSwitch 0x0504)) (if_pos hasKey)
    · have keyless : ¬ (s.dom.key (!s.dom.kgen)).isSome = true := by simp [noKey]
      simp only [exec, execKeySwitch, pending, live, reached]
      exact congrArg (fun t : State => Host.Outcome.next (t.endSwitch 0x0504)) (if_neg keyless)
  case erase =>
    intro g s live pending reached
    simp only [exec, execKeyOldErase, pending, live, reached]
    rfl
  case route =>
    intro g s live pending reached
    simp only [exec, execRouteSwitch, pending, live, reached]
    rfl
  case timekeeper =>
    intro tk tps g s live pending
    have switches := execTimekeeperSwitch_pending live pending
    exact ⟨fun reached => switches.trans (by rw [if_pos reached]), fun ahead => switches.trans (by rw [if_neg ahead.not_ge])⟩
  case noSwitch =>
    intro s live none
    simp only [exec, execTimekeeperSwitch, live, none]
    rfl

end Sys2Proof.Machine
end

section
/-! The array group's tiles, drains and halo stamps (R95, R101, R103, R115, R131, R168, R175 to R177). -/
namespace Sys2Proof.Machine

/-- A row of an engine whose leg runs does what it does there. -/
theorem State.onEngine_eq {s t : State} {g : GroupId} {x : EngRun} {row : EngRun → State} (engine : s.engine g = some x)
    (done : row x = t) : s.onEngine g row = t := by
  simp only [State.onEngine, engine, done]

section
variable {core : BitVec 7} {s t : State} {f : Faults} {x : EngRun} (engine : s.engine (.array core) = some x)
include engine

/-- MATRIX_TILE: the task's tile, over the accumulator lines that were lost before it. -/
theorem exec_matrixTile (kind : x.t.hdr.kind = 0x01 ∨ x.t.hdr.kind = 0x06) (goesOn : x.t.leg.any Leg.ended = false)
    (done : (s.accFault x f).matTile x f = t) : exec (.matrixTile core f) s = .next (t.boundary x.j x.id) :=
  congrArg _ (State.onTile_eq engine goesOn (by simp only [Bool.or_eq_true, decide_eq_true_eq, kind, if_true, done]))

theorem exec_outputDrain (kind : x.t.hdr.kind = 0x01 ∨ x.t.hdr.kind = 0x06) (done : (s.accFault x f).matDrain x f = t) :
    exec (.outputDrain core f) s = .next t :=
  congrArg _ (State.onEngine_eq engine (by simp only [Bool.or_eq_true, decide_eq_true_eq, kind, if_true, done]))

theorem exec_haloStampSeen (conv : x.t.hdr.kind = 0x06) (done : s.haloStamp x f = t) :
    exec (.haloStampSeen core f) s = .next t :=
  congrArg _ (State.onEngine_eq engine (by simp only [conv, if_true, done]))

theorem exec_haloPublish (conv : x.t.hdr.kind = 0x06) (done : s.haloPub x f = t) :
    exec (.haloPublish core f) s = .next t :=
  congrArg _ (State.onEngine_eq engine (by simp only [conv, if_true, done]))

end

/-- The core after the tile-load path: a skipped tile neither loads nor swaps (R168), any other swaps its operand in (R95). -/
theorem CoreSt.eq_ite_swapIn {c k : CoreSt} {skip : Bool} {loaded : StatSet} (stays : skip = true → k = c)
    (swaps : skip = false → k = { c with active := loaded, shadow := c.active }) : k = if skip then c else c.swapIn loaded := by
  cases skip
  · exact swaps rfl
  · exact stays rfl

/-- Settles O46: each row finds its task in the state that it needs, and takes its step. -/
theorem arrayGroupEventsComplete : Obligations.ArrayGroupEventsComplete := by
  refine ⟨?tile, ?drain, ?stamp, ?publish⟩
  case tile =>
    intro core f s x b m p v k1 r m1 u engine kind goesOn job eng start hp hv stays swaps hr hm1 hu
    have step : v.matTile x f = u := by
      have hk1 := CoreSt.eq_ite_swapIn stays swaps
      subst hu hm1 hr hk1 hp
      simp only [State.matTile, job, eng, start]
      rfl
    subst hv
    exact exec_matrixTile engine kind goesOn step
  case drain =>
    intro core f s x b m g j rest v last r m1 fr u engine kind job eng drain hv hlast hr hm1 hfr hu
    have step : v.matDrain x f
        = if last then (b.sets.zip r.2.1).foldl (fun (t : State) p => t.writeBound x p.1.maxe p.2.maxByte) u else u := by
      subst hu hfr hm1 hr hlast
      simp only [State.matDrain, job, eng, drain]
    subst hv
    refine ⟨fun notLast => exec_outputDrain engine kind (step.trans ?_),
      fun isLast => exec_outputDrain engine kind (step.trans ?_)⟩
    · rw [notLast, if_neg (by decide)]
    · rw [isLast, if_pos rfl]
  case stamp =>
    intro core f s x b m l at_ u engine conv job eng seen nonempty hat hu sound
    refine exec_haloStampSeen engine conv ?_
    have notEmpty : l.isEmpty = false := List.isEmpty_eq_false_iff.mpr nonempty
    subst hu hat
    simp only [State.haloStamp, job, eng, seen, notEmpty]
    exact if_pos sound
  case publish =>
    intro core f s x q m h p u engine conv job eng halo owed hu sound
    refine exec_haloPublish engine conv ?_
    subst hu
    simp only [State.haloPub, job, eng, halo, owed, sound]
    rfl

end Sys2Proof.Machine
end

section
/-! The cache commands (R185, R186, R213, R217, log 43). -/
namespace Sys2Proof.Machine

theorem CmdRec.par_lt (c : CmdRec) (off lo w : Nat) : c.par off lo w < 2 ^ w := Nat.mod_lt _ (Nat.two_pow_pos w)

/-- A sequence command with no earlier one open on its sequence runs its own part at once (R366). -/
theorem Runs.seqCmd_completed {sp : CmdSpec} {h : HostId} {op : Nat} {c : CmdRec} {s b t : State} {result : Nat}
    (runs : Runs sp h c s b) (free : b.seqBusy h c.job.toNat (c.par 0x08 0 32) = false)
    (own : seqBody op c b = .done t 0x0000 result) : s.command sp h c (seqCmd h op c) = completed sp h c t result :=
  runs.command_completed ((if_neg (by rw [free]; decide)).trans own)

/-- Settles O15: each command passes the checks of its own part one after another, down to its effect. -/
theorem cacheCommandsComplete : Obligations.CacheCommandsComplete := by
  refine ⟨?poolSet, ?kvAdmit, ?release, ?pin, ?unpin⟩
  case poolSet =>
    intro h c s b jb runs job noPool width someCache fewCaches somePage poolAligned ferryAligned mapped noFerry
      sbAligned sbLow sbHigh
    have fits : ¬ 2 ^ 44 < c.par 0x28 0 44 := (CmdRec.par_lt c 0x28 0 44).not_gt
    have isWidth : ¬ (c.par 0x08 0 8 ≠ 64 ∧ c.par 0x08 0 8 ≠ 128) := by omega
    refine congrArg Host.Outcome.next (runs.command_completed ?_)
    simp [-Nat.reducePow, job, noPool, isWidth, someCache, fewCaches.not_gt, somePage, poolAligned, ferryAligned, mapped,
      noFerry, fits, sbAligned, sbLow.not_gt, sbHigh.not_gt]
  case kvAdmit =>
    intro h c s b jb p a p1 runs free job pool fresh room taken
    have notThere : p.seqs.any (fun q => q.id == c.par 0x08 0 32) = false :=
      List.any_eq_false.2 (fun q hq => by simp [fresh q hq])
    refine congrArg Host.Outcome.next (runs.seqCmd_completed free ?_)
    simp only [seqBody, kvAdmitBody, job, pool, notThere, room.not_ge, taken]
    rfl
  case release =>
    intro h c s b p q runs free pool found notNamed
    have noneNames : (b.namedCaches c.job.toNat).any (fun n => n.1 == q.seqRec) = false :=
      List.any_eq_false.2 (fun n hn => by simp [notNamed n hn])
    refine congrArg Host.Outcome.next (runs.seqCmd_completed free ?_)
    simp only [seqBody, kvReleaseBody, pool, found, noneNames]
    rfl
  case pin =>
    intro h c s b p q runs free pool found resident
    refine congrArg Host.Outcome.next (runs.seqCmd_completed free ?_)
    simp only [seqBody, kvPinBody, pool, found, resident]
    rfl
  case unpin =>
    intro h c s b p q runs free pool found
    refine congrArg Host.Outcome.next (runs.seqCmd_completed free ?_)
    simp only [seqBody, kvUnpinBody, pool, found]
    rfl

end Sys2Proof.Machine
end

section
/-! Attention pairs, finishes, appends and saddlebag flushes (R192, R193, R195, R198, R204, R206, R211). -/
namespace Sys2Proof.Machine

section
variable {core : BitVec 7} {s t : State} {f : Faults} {x : EngRun} (engine : s.engine (.array core) = some x)
  (attention : x.t.hdr.kind = 0x05)
include engine attention

theorem exec_attentionPair (goesOn : x.t.leg.any Leg.ended = false) (done : (s.accFault x f).attPair x f = t) :
    exec (.attentionPair core f) s = .next (t.boundary x.j x.id) :=
  congrArg _ (State.onTile_eq engine goesOn ((if_pos attention).trans done))

theorem exec_attentionFinish (done : s.attFinish x = t) : exec (.attentionFinish core) s = .next t :=
  congrArg _ (State.onEngine_eq engine ((if_pos attention).trans done))

theorem exec_appendTokens (goesOn : x.t.leg.any Leg.ended = false) (done : s.attAppend x f = t) :
    exec (.appendTokens core f) s = .next (t.boundary x.j x.id) :=
  congrArg _ (State.onTile_eq engine goesOn ((if_pos attention).trans done))

theorem exec_saddlebagFlush (done : s.attFlush x f = t) : exec (.saddlebagFlush core f) s = .next t :=
  congrArg _ (State.onEngine_eq engine ((if_pos attention).trans done))

end

/-- An append has been begun and still owes tokens (R193, R206): the guard of its rows lets it through. -/
theorem AttBody.append_goes_on {b : AttBody} {a : AttSt} (begun : a.begun = true) (owed : b.appDone a = false) :
    (!(a.begun && !b.appDone a)) = false := by
  rw [begun, owed]
  rfl

/-- Settles O49: each row finds its task in the state that it needs, and takes its step. A pair's three outcomes are the branches
of one step: a row without bales, a bale group that the mask leaves out, and a pair that runs. -/
theorem attentionEventsComplete : Obligations.AttentionEventsComplete := by
  refine ⟨?pair, ?finish, ?append, ?flush⟩
  case pair =>
    intro core f s x b a0 p v row a groups n present live put engine attention goesOn hv body eng pool begun appended forward more
      may hrow hgroups hn ha hpresent hlive hput
    have guard : (!(a0.begun && b.appDone a0 && b.c.phase != 2 && decide (a0.row < b.c.rows) && b.mayPair a0)) = false := by
      simp [begun, appended, forward, more, may]
    have step := exec_attentionPair (f := f) engine attention goesOn rfl
    unfold State.attPair at step
    simp only [body, eng, pool, guard, Bool.false_eq_true, if_false] at step
    subst hput hlive hpresent ha hn hgroups hrow hv
    refine ⟨fun noBale => step.trans ?_, fun bales noLive => step.trans ?_, ?_⟩
    · simp only [noBale, if_true]
    · simp only [bales, noLive, List.isEmpty_nil, if_true, if_false]
    · intro s1 slots staged pr a1 q u bales someLive stagedAll hpr ha1 hq
      have notEmpty : (List.isEmpty _) = false := List.isEmpty_eq_false_iff.mpr someLive
      subst ha1 hpr
      refine ⟨fun r noOut hr => step.trans ?_, fun r dO lse dl hdO hlse hdl hr => step.trans ?_⟩ <;> subst hr
      · simp only [bales, notEmpty, stagedAll, hq, noOut, Bool.false_eq_true, if_false]
      · simp only [bales, notEmpty, stagedAll, hq, hdO, hlse, hdl, Bool.false_eq_true, if_false]
  case finish =>
    intro core s x b a p e rest r u engine attention body eng pool owed forward backward hu
    have step : s.attFinish x = if b.complete r.2
        then (b.outs.zip r.2.outs).foldl (fun (t : State) q => t.writeBound x q.1.1.maxe q.2.maxByte) u else u := by
      subst hu
      unfold State.attFinish
      cases lse : b.lse with
      | some l => simp only [body, eng, pool, owed, lse, forward l lse]
      | none => simp only [body, eng, pool, owed, lse, backward lse]
    exact ⟨fun goesOn => exec_attentionFinish engine attention (step.trans (by rw [goesOn, if_neg (by decide)])),
      fun complete => exec_attentionFinish engine attention (step.trans (if_pos complete))⟩
  case append =>
    intro core f s x b a p dk dv row q d n base w ls d1 p1 a1 r engine attention goesOn body eng pool newK newV begun owed hrow
      seq hd hn someToken hbase hw hls hd1 hp1 ha1 hr
    have guard := AttBody.append_goes_on begun owed
    subst hr ha1 hp1 hd1 hls hw hbase hn hd hrow
    refine exec_appendTokens engine attention goesOn ?_
    unfold State.attAppend
    simp only [body, eng, pool, newK, newV, guard, seq, someToken, Bool.false_eq_true, if_false]
  case flush =>
    intro core f s x b a p row q d bale rest dst more d1 p1 u engine attention body eng pool begun owed hrow seq bales hd full
      mapped hmore hd1 hp1 hu
    have guard := AttBody.append_goes_on begun owed
    subst hu hp1 hd1 hmore hd hrow
    refine exec_saddlebagFlush engine attention ?_
    unfold State.attFlush
    simp only [body, eng, pool, guard, seq, bales, full, mapped, ne_eq, not_true_eq_false, Bool.false_eq_true, if_false]

end Sys2Proof.Machine
end

section
/-! The media commands (R218, R220, R221, R223, R244, R366). -/
namespace Sys2Proof.Machine

/-- A job command whose own part runs finds its job (R370). -/
theorem Runs.job_found {sp : CmdSpec} {h : HostId} {c : CmdRec} {s b : State} (runs : Runs sp h c s b) (ofJob : sp.job = true) :
    ∃ jb, b.job c.job.toNat = some jb := by
  obtain ⟨takes, rfl⟩ := runs
  have passes : cmdCheck sp h c s = 0 := by
    simp only [State.runs, Bool.and_eq_true, beq_iff_eq] at takes
    exact takes.2
  rw [State.job, State.begun_jobs]
  cases found : mget s.jobs c.job.toNat with
  | some jb => exact ⟨jb, rfl⟩
  | none =>
    unfold cmdCheck at passes
    simp only [found, ofJob, Bool.not_true, Bool.false_eq_true, if_false] at passes
    split_ifs at passes

/-! ### Commands on an open channel -/

/-- With no earlier command on its channel a channel command does its own part (R366). -/
theorem chanCmd_of_free {h : HostId} {c : CmdRec} {s : State} (free : s.chanBusy h c.job.toNat (c.par 0x08 0 6) = false)
    (op : Nat) : chanCmd h op c s = chanBody op c s := by
  rw [chanCmd, free, if_neg Bool.false_ne_true]

/-- A part with no media half (R4). -/
theorem chanBody_absent {s : State} (noHalf : s.part.mediaHalves = 0) (op : Nat) (c : CmdRec) :
    chanBody op c s = .done s 0x0002 0 := if_pos noHalf

theorem chanBody_submit {s : State} (someHalf : s.part.mediaHalves ≠ 0) (c : CmdRec) : chanBody 0x0302 c s = submitBody c s := by
  rw [chanBody, if_neg someHalf, if_pos rfl]

theorem chanBody_close {s : State} (someHalf : s.part.mediaHalves ≠ 0) (c : CmdRec) : chanBody 0x0303 c s = closeBody c s := by
  rw [chanBody, if_neg someHalf, if_neg (by decide)]

/-- MEDIA_SUBMIT of 1 to 4,096 entries to an open channel of its job (R223). -/
theorem submitBody_opens {c : CmdRec} {s : State} {x : Chan} (chan : mget s.chans (c.par 0x08 0 6) = some x)
    (own : x.job = c.job.toNat) (notClosed : x.closed = false) (entries : c.par 0x18 0 13 ≠ 0) (few : c.par 0x18 0 13 ≤ 4096) :
    submitBody c s = .later (s.setChan (c.par 0x08 0 6) { x with taken := 0 }) (.submit (c.par 0x08 0 6)) := by
  have inRange : ¬ (c.par 0x18 0 13 = 0 ∨ 4096 < c.par 0x18 0 13) := by omega
  simp only [submitBody, chan, own, notClosed, inRange, ne_eq, not_true_eq_false, Bool.false_eq_true, if_false]

/-- MEDIA_CHANNEL_CLOSE of an open channel of its job (R244). -/
theorem closeBody_closes {c : CmdRec} {s : State} {x : Chan} (chan : mget s.chans (c.par 0x08 0 6) = some x)
    (own : x.job = c.job.toNat) (notClosed : x.closed = false) :
    closeBody c s = .done (s.setChan (c.par 0x08 0 6) { x with closed := true }) 0 0 := by
  simp only [closeBody, chan, own, notClosed, ne_eq, not_true_eq_false, Bool.false_eq_true, if_false]

/-! ### Opening a channel -/

/-- A checked channel whose window is free gets its pages and the lowest free number (R221). -/
theorem State.placeChan_done {s : State} {jb : Job} {ch : Chan} {pg : List Nat} {id : Nat} (window : windowTaken jb ch = false)
    (pages : s.allocJob jb.hbms (ch.buffers * ch.setPages) = some pg) (free : freshBelow 64 (s.chans.map Prod.fst) = some id) :
    s.placeChan jb ch = .done { s with chans := mset s.chans id { ch with sets := chunksOf ch.setPages pg } } 0 id := by
  simp only [State.placeChan, window, pages, free, Bool.false_eq_true, if_false]

/-- Settles O17: each command passes the checks of its own part one after another, down to its effect; on the PZ8-T the first of
them answers. -/
theorem mediaCommandsComplete : Obligations.MediaCommandsComplete := by
  refine ⟨?opens, ?submits, ?closes, ?absent⟩
  case opens =>
    intro h c f s b jb t r ch u qs pg id runs job someHalf aligned recordRead parsed granted halfOk room recipesRead window pages
      free
    have halfThere : ¬ (ch.half ≠ 0 ∧ (!b.part.mediaHalves.testBit (ch.half - 1)) = true) := by
      rintro ⟨fixed, absent⟩
      simp [(halfOk fixed).1] at absent
    have halfGranted : ¬ (t.mediaFor (some h) = 0 ∨ (ch.half ≠ 0 ∧ (!(t.mediaFor (some h)).testBit (ch.half - 1)) = true)) := by
      rintro (none | ⟨fixed, refused⟩)
      · exact granted none
      · simp [(halfOk fixed).2] at refused
    refine congrArg Host.Outcome.next (runs.command_completed ?_)
    rw [← State.placeChan_done window pages free]
    simp only [job, someHalf, aligned, recordRead, parsed, halfThere, halfGranted, room, recipesRead, ne_eq, not_true_eq_false,
      Bool.false_eq_true, if_false]
  case submits =>
    intro h c s b x runs someHalf free chan own notClosed entries few
    refine congrArg Host.Outcome.next (runs.command_opened ?_)
    rw [chanCmd_of_free free, chanBody_submit someHalf, submitBody_opens chan own notClosed entries few]
  case closes =>
    intro h c s b x runs someHalf free chan own notClosed
    refine congrArg Host.Outcome.next (runs.command_completed ?_)
    rw [chanCmd_of_free free, chanBody_close someHalf, closeBody_closes chan own notClosed]
  case absent =>
    intro h c f s b pz8t
    have noHalf : b.part.mediaHalves = 0 := by rw [pz8t]; rfl
    refine ⟨fun runs => ?_, fun runs free => ?_, fun runs free => ?_⟩
    · obtain ⟨jb, job⟩ := runs.job_found rfl
      refine congrArg Host.Outcome.next (runs.command_eq (r := .done b 0x0002 0) ?_)
      simp only [job, noHalf, if_true]
    · exact congrArg Host.Outcome.next (runs.command_eq ((chanCmd_of_free free _).trans (chanBody_absent noHalf _ c)))
    · exact congrArg Host.Outcome.next (runs.command_eq ((chanCmd_of_free free _).trans (chanBody_absent noHalf _ c)))

end Sys2Proof.Machine
end

section
/-! Media intake, decode and late drops (R218, R223 to R225, R239, R242). -/
namespace Sys2Proof.Machine

/-! ### Intake -/

/-- The next entry of an open MEDIA_SUBMIT is taken while its channel has room (R223). -/
theorem execMediaSampleTake_takes {n : BitVec 6} {s : State} {ch : Chan} {h : HostId} {o : OpenCmd} {jb : Job}
    (chan : mget s.chans n.toNat = some ch) (submit : s.submitOf n.toNat = some (h, o)) (job : s.job ch.job = some jb)
    (works : s.cvrWorks = true) (room : ch.samples.length < ch.inflight) (f : Faults) :
    execMediaSampleTake n f s = .next (s.takeSample f n.toNat ch h o jb) := by
  simp only [execMediaSampleTake, chan, submit, job, works, room, decide_true, Bool.and_self, if_true]

section
variable {s u : State} {f : Faults} {ch : Chan} {o : OpenCmd} {jb : Job} {half : Nat} {e : Option (List Byte)}
  (hhalf : half = s.pickHalf ch)
  (entry : s.mediaRead f half ch.job jb.pt (o.cmd.par 0x10 0 44 + ch.taken * (64 * (1 + ch.outs))) (64 * (1 + ch.outs)) = (u, e))
  (more : ch.taken + 1 < o.cmd.par 0x18 0 13)
include hhalf entry more

/-- An entry that cannot be read takes its position and is dropped with reason FETCH (R224, R239). -/
theorem State.takeSample_unreadable (unread : e = none) (n : Nat) (h : HostId) :
    s.takeSample f n ch h o jb = u.setChan n { ch with
      nextPos := ch.nextPos + 1, taken := ch.taken + 1, samples := ch.samples.filter (fun y => y.pos != ch.nextPos)
      drops := ch.drops ++ [⟨ch.nextPos, 0, 0, half, 5, 0, 0, s.stage⟩] } := by
  subst hhalf unread
  simp only [State.takeSample, entry, more, Option.isNone_none, if_true]
  rfl

/-- An entry whose descriptor and recipes are right becomes a sample in flight (R223). -/
theorem State.takeSample_kept {b : List Byte} {l : List RecipeData} {v : State} (read : e = some b) (noReserved : fld b 6 2 = 0)
    (zeros : zeroBytes b 0x0C 0x40 = true)
    (recipes : u.readParts f half ch.job jb.pt 0 (((ch.recipes.zip (chunksOf 64 (b.drop 64))).zip ch.planes).map
      (fun p => (p.1.1, p.1.2, p.2))) = (v, .ok l)) (n : Nat) (h : HostId) :
    s.takeSample f n ch h o jb = v.setChan n { ch with
      nextPos := ch.nextPos + 1, taken := ch.taken + 1
      samples := ch.samples ++ [⟨ch.nextPos, bits (fld b 0 8) 0 48, fld b 8 4, half, chunksOf 64 (b.drop 64), l, 0, [], false, 0,
        false, none⟩] } := by
  subst hhalf read
  simp only [State.takeSample, entry, more, Option.isNone_some, Option.getD_some, noReserved, zeros, recipes, bne_self_eq_false,
    Bool.not_true, Bool.or_self, Bool.false_eq_true, if_false, if_true]

end

/-! ### Decoding -/

/-- A free slot goes to the sample that is next on its half (R218, R225). -/
theorem execMediaDecodeStart_starts {half : BitVec 1} {s : State} {c : Nat} {m : Sample} {ch : Chan} (live : s.live = true)
    (there : s.part.mediaHalves.testBit half.toNat = true) (slotFree : s.slotsUsed half.toNat < 128)
    (next : s.nextSlot half.toNat = some (c, m)) (chan : mget s.chans c = some ch) :
    execMediaDecodeStart half s = .next { (s.setChan c (ch.setSample { m with started := m.started + 1 })) with
      rrHalf := mset s.rrHalf half.toNat c } := by
  simp only [execMediaDecodeStart, live, there, slotFree, next, chan, decide_true, Bool.and_self, Bool.not_true, Bool.false_eq_true,
    if_false]

/-- A part that holds a slot finishes. -/
theorem execMediaDecodeDone_finishes {n : BitVec 6} {pos : BitVec 64} {s : State} {ch : Chan} {m : Sample} {jb : Job}
    (chan : mget s.chans n.toNat = some ch) (found : ch.samples.find? (fun m => m.pos == pos.toNat) = some m)
    (job : s.job ch.job = some jb) (live : s.live = true) (holds : m.packed < m.started) (f : Faults) :
    execMediaDecodeDone n pos f s = .next (s.decodeDone f n.toNat ch m jb) := by
  simp only [execMediaDecodeDone, chan, found, job, live, holds, decide_true, Bool.and_self, if_true]

/-- What is made of a part's bytes (R224, R226, R227): packed planes and whether a value was clamped, or the reason of the drop. -/
def State.madeOf (s : State) (ch : Chan) (m : Sample) (jb : Job) (k : Nat) (q : Recipe) (p : PartD) :
    Option (List (List Byte)) → Except DropWhy (Packed × Bool)
  | none => .error ⟨5, 0⟩
  | some b => if q.media = 3 then textPart q (nth b 0) else finishPart s.mediaFw q p (nth m.recipes k)
      (fun st dn => mediaDraw jb.seed ch.salt m.idx k st dn) (decodePart s.mediaFw q p b)

/-- The channel once part `k` of a sample has finished in a stage: its planes are packed, or its sample is dropped (R225, R239). -/
def Chan.settlePart (ch : Chan) (m : Sample) (k stage : Nat) : Except DropWhy (Packed × Bool) → Chan
  | .error w => ch.drop stage m w k
  | .ok x => ch.setSample { m with done := mset m.done k x.1, clamp := m.clamp || x.2, doneStage := stage }

/-- Drawing the free value that picks the part (log 46) changes nothing that the rest of the event reads. -/
theorem State.decodeDone_eq {s u : State} {f : Faults} {ch : Chan} {m : Sample} {jb : Job} {k : Nat} {q : Recipe} {p : PartD}
    {raw : Option (List (List Byte))} (hk : k = m.finishing s.free.1) (recipe : parseRecipe (nth m.recipes k).recipe = some q)
    (part : parsePart (nth m.parts k) q = some p) (bytes : s.free.2.partBytes f m.half ch.job jb.pt p = (u, raw)) (n : Nat) :
    s.decodeDone f n ch m jb = u.setChan n (ch.settlePart m k s.stage (s.madeOf ch m jb k q p raw)) := by
  have settled (r : Except DropWhy (Packed × Bool)) : u.setChan n (ch.settlePart m k s.stage r) = match r with
      | .error w => u.setChan n (ch.drop s.stage m w k)
      | .ok x => u.setChan n (ch.setSample { m with
          done := mset m.done k x.1, clamp := m.clamp || x.2, doneStage := s.stage }) := by
    cases r <;> rfl
  unfold State.decodeDone
  rw [← hk, settled]
  simp only [recipe, part, bytes]
  cases raw <;> rfl

/-! ### Late samples -/

/-- A sample past its late limit that is not packed is dropped with reason LATE (R239, R242). -/
theorem execLateDrop_drops {n : BitVec 6} {pos : BitVec 64} {s : State} {ch : Chan} {m : Sample}
    (chan : mget s.chans n.toNat = some ch) (found : ch.samples.find? (fun m => m.pos == pos.toNat) = some m)
    (live : s.live = true) (late : ch.isLate s.stage m = true) (unpacked : m.complete = false)
    (noReplay : s.replayOf ch.job = none) :
    execLateDrop n pos s = .next (s.setChan n.toNat (ch.drop s.stage m ⟨4, 0⟩ 0)) := by
  simp only [execLateDrop, chan, found, live, late, unpacked, noReplay, Bool.not_false, Option.isNone_none, Bool.and_self, if_true]

/-- Settles O37: the guards of each event hold, and the one function that each comes to gives the channel after it. -/
theorem mediaEventsComplete : Obligations.MediaEventsComplete := by
  refine ⟨?intake, ?start, ?done, ?late⟩
  case intake =>
    intro n f s ch h o jb half u e chan submit job works room hhalf entry more
    have takes := execMediaSampleTake_takes chan submit job works room f
    refine ⟨fun unread => ?_, fun b l v read noReserved zeros recipes => ?_⟩
    · rw [exec, takes, State.takeSample_unreadable hhalf entry more unread]
    · rw [exec, takes, State.takeSample_kept hhalf entry more read noReserved zeros recipes]
  case start =>
    intro half s c m ch live there slotFree next chan
    exact execMediaDecodeStart_starts live there slotFree next chan
  case done =>
    intro n pos f s ch m jb k q p u raw chan found job live holds hk recipe part bytes
    have finishes : exec (.mediaDecodeDone n pos f) s = .next (s.decodeDone f n.toNat ch m jb) :=
      execMediaDecodeDone_finishes chan found job live holds f
    rw [finishes, State.decodeDone_eq hk recipe part bytes n.toNat]
    refine ⟨fun unread => ?_, fun b r read made => ?_⟩
    · rw [unread]
      rfl
    · have result : s.madeOf ch m jb k q p raw = r := by
        rw [made, read]
        rfl
      rw [result]
      refine ⟨fun w fails => ?_, fun x clamp packs => ?_⟩
      · rw [fails]
        rfl
      · rw [packs]
        rfl
  case late =>
    intro n pos s ch m chan found live late unpacked noReplay
    exact execLateDrop_drops chan found live late unpacked noReplay

end Sys2Proof.Machine
end

section
/-! The training, group and map commands (R246, R247, R251, R270, R312, R335, R341). -/
namespace Sys2Proof.Machine

/-- A job with no step running or queued passes the guard that its training and map commands share. -/
theorem Job.not_busy {jb : Job} (noRun : jb.run = none) (noStep : jb.queue = []) :
    ¬ (jb.run.isSome = true ∨ (!jb.queue.isEmpty) = true) := by
  simp [noRun, noStep]

/-- TRAIN_STATE_SET of a table that stands, whose pages are there (R251). -/
theorem trainRead_placed {f : Faults} {j kp : Nat} {jb : Job} {s1 u : State} {t0 : Train} {gs : List TGroup}
    (placed : s1.placeTrain f j jb t0 gs kp = some u) :
    trainRead f j jb (s1, .ok (t0, gs, kp)) = .done u 0 ((jb.train.map Train.unapplied).getD 0) := by
  rw [trainRead, placed, trainPlaced]

/-- COLL_GROUP_SET of a record that keeps its table, whose members are devices, each once, with this one at its rank (R312, R313). -/
theorem collGroupBody_puts {f : Faults} {c : CmdRec} {s s1 s2 : State} {jb : Job} {r ms : List Byte} {id ma : Nat} {g : CollGroup}
    (job : s.job c.job.toNat = some jb) (noRun : jb.run = none) (noStep : jb.queue = []) (aligned : c.par 0x08 0 44 % 64 = 0)
    (recordRead : s.cmdJobRead f c.job.toNat jb.pt (c.par 0x08 0 44) 64 = (s1, some r)) (parsed : parseCollGroup r = some (id, ma, g))
    (listRead : s1.cmdJobRead f c.job.toNat jb.pt ma (2 * g.size) = (s2, some ms))
    (devices : ∀ m ∈ (chunksOf 2 ms).map leNat, m ≤ 8191)
    (distinct : (dedup ((chunksOf 2 ms).map leNat)).length = (chunksOf 2 ms).length)
    (own : nth ((chunksOf 2 ms).map leNat) g.rank = s.dom.deviceId) :
    collGroupBody f c s = .done (s2.modJob c.job.toNat (fun (b : Job) =>
      { b with groups := mset b.groups id { g with members := (chunksOf 2 ms).map leNat } })) 0 0 := by
  have membersOk : ¬ (((chunksOf 2 ms).map leNat).any (fun m => decide (8191 < m)) = true
      ∨ (dedup ((chunksOf 2 ms).map leNat)).length ≠ ((chunksOf 2 ms).map leNat).length
      ∨ nth ((chunksOf 2 ms).map leNat) g.rank ≠ s.dom.deviceId) := by
    have noneAbove : ((chunksOf 2 ms).map leNat).any (fun m => decide (8191 < m)) = false :=
      List.any_eq_false.2 (fun m hm => by simp [(devices m hm).not_gt])
    simp [noneAbove, distinct, own]
  simp only [collGroupBody, job, Job.not_busy noRun noStep, aligned, recordRead, parsed, listRead, membersOk, ne_eq,
    not_true_eq_false, if_false]

/-- Settles O18: each command passes the checks of its own part one after another, down to its effect. -/
theorem trainingCommandsComplete : Obligations.TrainingCommandsComplete := by
  refine ⟨?trainStateSet, ?variantLoad, ?variantUnload, ?collGroupSet, ?jobMapSet, ?jobReshard⟩
  case trainStateSet =>
    intro h c f s b jb s1 t0 gs kp u runs job noRun noStep tableRead placed
    refine congrArg Host.Outcome.next (runs.command_completed ?_)
    rw [← trainRead_placed placed, ← tableRead]
    simp only [job, Job.not_busy noRun noStep, if_false]
  case variantLoad =>
    intro h c s b runs someRank rankOk
    have inRange : ¬ (c.par 0x08 16 9 = 0 ∨ 256 < c.par 0x08 16 9) := by omega
    exact congrArg Host.Outcome.next (runs.command_completed (if_neg inRange))
  case variantUnload =>
    intro h c s b runs
    exact congrArg Host.Outcome.next (runs.command_completed rfl)
  case collGroupSet =>
    intro h c f s b jb s1 r id ma g s2 ms runs free job noRun noStep aligned recordRead parsed listRead devices distinct own
    have puts := collGroupBody_puts job noRun noStep aligned recordRead parsed listRead devices distinct own
    exact congrArg Host.Outcome.next (runs.command_completed ((if_neg (by rw [free]; decide)).trans puts))
  case jobMapSet =>
    intro h c f s b jb s1 m runs job noRun noStep mapRead
    refine congrArg Host.Outcome.next (runs.command_completed ?_)
    simp only [job, Job.not_busy noRun noStep, mapRead, if_false]
  case jobReshard =>
    intro h c f s b jb s1 m runs job noRun noStep noReshard lead group aligned mapRead
    have idle : ¬ (jb.run.isSome = true ∨ (!jb.queue.isEmpty) = true ∨ jb.reshard.isSome = true) := by
      simp [noRun, noStep, noReshard]
    have fieldsOk : ¬ (c.par 0x30 0 48 < b.stage + 16 ∨ (mget jb.groups (c.par 0x18 0 8)).isNone = true
        ∨ c.par 0x20 0 44 % 64 ≠ 0) := by
      simp only [aligned, Option.isNone_eq_false_iff.2 group, lead.not_gt]
      decide
    refine ⟨fun o train leaves => ?_, fun s2 t gs kp tableRead apart => ?_⟩ <;>
      refine congrArg Host.Outcome.next (runs.command_opened ?_) <;>
      simp only [job, idle, fieldsOk, mapRead, if_false]
    · simp only [train, leaves]
    · cases train : jb.train with
      | none => simp [tableRead]
      | some o =>
        obtain ⟨stays, noShared⟩ := apart o train
        simp only [stays, tableRead, noShared, Option.map_some, Option.getD_some]
        rfl

end Sys2Proof.Machine
end

section
/-! The close of an update step: settling, tallies and bisection (R253, R255 to R257, R272 to R274). -/
namespace Sys2Proof.Machine

/-! ### The training state of a job -/

theorem mget_mmodify_same {α : Type} (m : NMap α) (k : Nat) (g : α → α) : mget (mmodify m k g) k = (mget m k).map g := by
  induction m with
  | nil => rfl
  | cons p r ih =>
    by_cases same : p.1 = k
    · simp [mmodify, mget, same]
    · simpa [mmodify, mget, same] using ih

theorem State.modJob_job_same (s : State) (j : Nat) (g : Job → Job) : (s.modJob j g).job j = (s.job j).map g :=
  mget_mmodify_same ..

theorem State.modTrain_train (s : State) (j : Nat) (g : Train → Train) :
    ((s.modTrain j g).job j).bind Job.train = ((s.job j).bind Job.train).map g := by
  rw [State.modTrain, State.modJob_job_same]
  cases s.job j <;> rfl

theorem State.post_job (s : State) (e : EventRec) (j : Nat) : (s.post e).job j = s.job j := by
  rw [State.job, State.post_jobs, State.job]

/-! ### The rows of the close -/

section
variable {j : BitVec 4} {id : BitVec 16} {s : State} {jb : Job} {r : RunStep} {t : Train} {g : TrainGrp}
  (job : s.job j.toNat = some jb) (run : jb.run = some r) (train : jb.train = some t)
include job run train

/-- A group whose counter has reached its value settles, and its update leg is placed unless it has none (R253). -/
theorem execGroupSettle_settles (group : t.group id.toNat = some g) (live : s.live = true) (update : r.q.update = true)
    (openStep : r.close = 0) (noAbort : jb.abort = none) (inStep : g.inStep = true) (unsettled : g.settled = false)
    (reached : g.g.settleVal ≤ mgetD jb.ctrs g.g.settleCtr 0) {f : Faults} {n : Nat} {u : State} (hn : n = t.elems g.g)
    (hu : u = State.setGroup (s.meet (s.cmdReader j.toNat) f (jobLines jb.pt (g.g.grad + g.g.gradScale n) (cdiv n 32))) j.toNat
      { g with settled := true, settleAt := s.now, gradPoison := gradPoisoned s f jb.pt g.g n }) :
    execGroupSettle j id f s = .next (if n = 0 ∨ g.g.tier = 2 then u else u.modRun j.toNat (fun (q : RunStep) => { q with
      upds := q.upds.filter (fun y => !t.settledAfter s.now g.g.id y)
        ++ [TaskRun.init (fwHdr (updId g.g.id) g.g.homeCore) .ready] ++ q.upds.filter (t.settledAfter s.now g.g.id) })) := by
  subst hu hn
  simp only [execGroupSettle, job, run, train, group, live, update, openStep, noAbort, inStep, unsettled, reached]
  exact (apply_ite Host.Outcome.next _ _ _).symm

/-- The digest of a replicated group is known: it goes to the data group, and the roots are compared (R272, R273). -/
theorem execReplicaTally_compares {roots : List (BitVec 64)} {own : Nat}
    (group : t.replicas.find? (fun g => g.g.id == id.toNat) = some g) (works : s.cvrWorks = true) (closing : r.close = 2)
    (noAbort : jb.abort = none) (untallied : t.tallied.contains g.g.id = false) (oneEach : roots.length = t.dpSize)
    (digested : t.digested g.g.id = true) (hown : own = t.digOf g.g.id 0 (t.bankPages g)) :
    execReplicaTally j id roots s = .next (((s.shareValue (jb.dataGroup t) own).modTrain j.toNat (fun _ =>
      if agree (t.withOwn roots own) then ({ t with tallied := t.tallied ++ [g.g.id] } : Train).cleanAt s jb.pt g.g.id
      else { t with tallied := t.tallied ++ [g.g.id],
                    bisect := t.bisect ++ [(g.g.id, 0, t.bankPages g, t.withOwn roots own)] })).tallyStep j.toNat) := by
  subst hown
  simp only [execReplicaTally, job, run, train, group, works, closing, noAbort, untallied, oneEach, digested, BEq.rfl]
  rfl

end

/-! ### A page that no device vouches for -/

/-- Where every device's log shows an event on a page, its repair has no candidate and asks for a rollback (R274). -/
theorem State.repairPage_no_candidate {s : State} {j : Nat} {jb : Job} {t : Train} (g : TrainGrp) {q : OpenRange × List Bool}
    (job : s.job j = some jb) (train : jb.train = some t)
    (events : ∀ k < t.dpSize, (if k = t.dpRank then s.pageEvent jb.pt t g q.1.2.1 else q.2.getD k false) = true) :
    s.repairPage j g q = (s.post { s.ev 0x0406 with job := j, arg0 := q.1.1, arg1 := q.1.2.1 }).modTrain j
      (fun (t : Train) => { t with rollback := true }) := by
  have noCandidate : (List.range t.dpSize).filter
      (fun k => !(if k = t.dpRank then s.pageEvent jb.pt t g q.1.2.1 else q.2.getD k false)) = [] :=
    List.filter_eq_nil_iff.2 (fun k hk => by simp only [events k (List.mem_range.1 hk)]; decide)
  simp only [State.repairPage, job, train, noCandidate]

/-- Settles O42: each row's guard holds, and its step follows; a page that no device vouches for asks for a rollback, which the
round keeps. -/
theorem stepCloseEventsComplete : Obligations.StepCloseEventsComplete := by
  refine ⟨?settle, ?close, ?poison, ?replica, ?bisect⟩
  case settle =>
    intro j id f s jb r t g n u job run train group live update openStep noAbort inStep unsettled reached hn hu
    have settles := execGroupSettle_settles job run train group live update openStep noAbort inStep unsettled reached hn hu
    refine ⟨fun noLeg => settles.trans (by rw [if_pos noLeg]), fun someElems notSlow => settles.trans ?_⟩
    have hasLeg : ¬ (n = 0 ∨ g.g.tier = 2) := not_or.2 ⟨someElems, notSlow⟩
    rw [if_neg hasLeg]
  case close =>
    intro j s jb r t job run train works closable
    simp only [exec, execStepClose, job, run, train, works, closable]
    rfl
  case poison =>
    intro j total s jb r t job run train works closing noAbort noImage own
    have noneOpen : jb.way.all (fun (w : Way) => w.open_.isNone) = true := by
      cases way : jb.way with
      | none => rfl
      | some w => simp [noImage w way]
    simp only [exec, execPoisonTally, job, run, train, works, closing, noAbort, noneOpen, own]
    rfl
  case replica =>
    intro j id roots s jb r t g own u job run train group works closing noAbort untallied oneEach digested hown hu
    have compares := execReplicaTally_compares job run train group works closing noAbort untallied oneEach digested hown
    subst hu
    refine ⟨fun equal => compares.trans ?_, fun differ => compares.trans ?_⟩
    · simp only [equal, if_true]
    · simp only [differ, Bool.false_eq_true, if_false]
  case bisect =>
    intro j id lower logs s jb r t g mine u z v job run train group works closing noAbort hmine someOpen digested hu hz hv
    have notEmpty : mine.isEmpty = false := List.isEmpty_eq_false_iff.2 someOpen
    have round : exec (.tallyBisectRound j id lower logs) s = .next (State.tallyStep (((z.singles.zipIdx).foldl
          (fun (x : State) q => x.repairPage j.toNat g (q.1, List.getD logs q.2 [])) v).modTrain j.toNat (fun (y : Train) =>
        if y.rollback || y.bisect.any (fun (q : OpenRange) => q.1 == g.g.id) then y else y.cleanAt u jb.pt g.g.id)) j.toNat) := by
      subst hv hz hu hmine
      simp only [exec, execTallyBisectRound, job, run, train, group, works, closing, noAbort, notEmpty, digested]
      rfl
    refine ⟨round, fun q single noRange notFailed repaired events => ⟨_, round, ?_⟩⟩
    have asks := State.repairPage_no_candidate g (q := (q, List.getD logs 0 [])) repaired rfl events
    rw [single]
    simp only [List.zipIdx_singleton, List.foldl_cons, List.foldl_nil, asks, State.modTrain_train, State.post_job, repaired]
    rfl

end Sys2Proof.Machine
end

section
/-! The slow tier: a part's state is fetched, its slots are applied, and its image goes back (R256, R260, R261, R263). -/
namespace Sys2Proof.Machine

/-- What a part's application comes to: its due slots in order, or with none its working copy alone (R261). -/
def partApplied (s : State) (f : Faults) (x : EngRun) (t : Train) (g : TrainGrp) (p : Nat) (prog : OptProg) : SlotRes :=
  if (g.dueSlots t.ordinal).isEmpty then
    ⟨{ s with mem := (workOnly s f x t g p).1.foldl (fun (m : NMap Byte) b => memPut m b.1 b.2) s.mem },
      (workOnly s f x t g p).2.1, (workOnly s f x t g p).2.2, .init, false⟩
  else (g.dueSlots t.ordinal).foldl (applySlot f x t g p prog) (.init s)

/-- Settles O43: the guards of both rows hold. With a program the part's application comes to `z`, and each outcome of `z` is one
branch of the row. -/
theorem slowTierEventsComplete : Obligations.SlowTierEventsComplete := by
  refine ⟨?writeback, ?fetch⟩
  case writeback =>
    intro j id part s f jb t g p bytes job train group owed live hp noAbort hostThere
    have isPart : (p == part.toNat) = true := beq_iff_eq.2 hp
    simp only [exec, execSlowTierWriteback, job, train, group, owed, live, isPart, noAbort, hostThere]
    rfl
  case fetch =>
    intro j id part s f jb r t g n p base job run train group hn hp live update openStep noAbort inStep slow fresh turn inParts
      someBlock noneOwed hostThere hbase bankThere
    subst hn hp hbase
    have isTurn : (part.toNat == t.ordinal % g.g.delay) = true := beq_iff_eq.2 turn
    have hasBlock : ((g.g.part (t.elems g.g) part.toNat).2 != 0) = true := bne_iff_ne.2 someBlock
    have step : exec (.slowTierFetchDone j id part f) s = execSlowTierFetchDone j id part f s := rfl
    simp only [execSlowTierFetchDone, job, run, train, group, live, update, openStep, noAbort, inStep, slow, fresh, isTurn, inParts,
      hasBlock, noneOwed, hostThere, bankThere, Option.isNone_none, Option.map_none, Option.getD_none, BEq.rfl, decide_true,
      Bool.and_self, Bool.not_true, Bool.false_eq_true, if_false] at step
    refine ⟨fun noProg => step.trans (by simp only [noProg, inStep, noneOwed]), fun prog z x u someProg hx noSlot someSlot hu => ?_⟩
    subst hx hu
    have applied : partApplied s f (slowRun j.toNat jb g r.q.step jb.pt) t g part.toNat prog = z := by
      unfold partApplied
      split_ifs with empty
      · exact (noSlot (List.isEmpty_iff.1 empty)).symm
      · exact (someSlot (fun noDue => empty (List.isEmpty_iff.2 noDue))).symm
    unfold partApplied at applied
    simp only [someProg, applied] at step
    refine ⟨fun broken => step.trans ?_, fun sound poisoned => step.trans ?_, fun wk b v sound clean hwk hb hv => step.trans ?_⟩
    · simp only [broken, inStep, noneOwed, if_true]
    · simp only [sound, poisoned, inStep, noneOwed, ne_eq, not_false_eq_true, Bool.false_eq_true, if_false, if_true]
    · have span (k : Nat) : 32 * k * (wk.ty.width / 8) = b * k := by rw [hb, Nat.mul_right_comm]
      subst hv hwk
      simp only [sound, clean, span, inStep, noneOwed, ne_eq, not_true_eq_false, Bool.false_eq_true, if_false,
        List.isEmpty_iff]

end Sys2Proof.Machine
end

section
/-! The fabric commands (R285, R288, R290, R295 to R298, R303 to R311). -/
namespace Sys2Proof.Machine

/-- Ports that the part has pass the check for one that it lacks. -/
theorem any_absent_eq_false {ports : Nat} {l : List Nat} (there : ∀ k ∈ l, k < ports) :
    l.any (fun k => decide (ports ≤ k)) = false :=
  List.any_eq_false.2 (fun k hk => by simp [(there k hk).not_ge])

/-- Settles O20: each command passes the checks of its own part one after another, down to its effect. -/
theorem fabricCommandsComplete : Obligations.FabricCommandsComplete := by
  refine ⟨?join, ?leave, ?keySet, ?keySwitch, ?portSet, ?windowSet, ?peersSet⟩
  case join =>
    intro h c s b u runs noReplay noJobs fewPorts portsThere hu
    subst hu
    refine congrArg Host.Outcome.next (runs.command_completed ?_)
    simp only [noReplay, noJobs, fewPorts.not_gt, any_absent_eq_false portsThere]
    rfl
  case leave =>
    intro h c s b u runs joined untagged hu
    have noneTagged : b.jobs.any (fun (p : Nat × Job) => p.2.tag != 0) = false :=
      List.any_eq_false.2 (fun p hp => by simp [untagged p hp])
    subst hu
    refine congrArg Host.Outcome.next (runs.command_completed ?_)
    simp only [joined, noneTagged]
    rfl
  case keySet =>
    intro h c s b runs
    exact congrArg Host.Outcome.next (runs.command_completed rfl)
  case keySwitch =>
    intro h c s b runs lead nonePending
    refine congrArg Host.Outcome.next (runs.command_opened ?_)
    simp only [lead.not_gt, nonePending]
    rfl
  case portSet =>
    intro h c s b runs action portsThere
    refine congrArg Host.Outcome.next (runs.command_completed ?_)
    simp only [action, portsThere]
    rfl
  case windowSet =>
    intro h c s b runs aligned fewPages inSpace
    have fieldsOk : ¬ (c.par 0x10 0 44 % 2 ^ 21 ≠ 0 ∨ 2048 < c.par 0x18 0 12
        ∨ 2 ^ 44 < c.par 0x10 0 44 + c.par 0x18 0 12 * 2 ^ 21) := by omega
    exact congrArg Host.Outcome.next (runs.command_completed (if_neg fieldsOk))
  case peersSet =>
    intro h c f s b jb s1 es runs job fewPeers tableRead
    refine congrArg Host.Outcome.next (runs.command_completed ?_)
    simp only [job, fewPeers.not_gt, tableRead, if_false]

/-- Settles O21: each command passes the checks of its own part one after another, down to its effect. -/
theorem fabricRoutingAndTimeCommandsComplete : Obligations.FabricRoutingAndTimeCommandsComplete := by
  refine ⟨?routeLoad, ?routeSwitch, ?timekeeperSet, ?portStatus, ?domainStatus⟩
  case routeLoad =>
    intro h c s b es runs aligned someEntry fewEntries noOldEpoch tableRead entries
    have fieldsOk : ¬ (c.par 0x08 0 64 % 8 ≠ 0 ∨ c.par 0x10 0 14 = 0 ∨ 8192 < c.par 0x10 0 14) := by omega
    have wellFormed : ((chunksOf 4 es).map leNat).any (fun e => decide (4 < bits e 24 3) || bits e 28 4 != 0) = false :=
      List.any_eq_false.2 (fun e he => by simp [(entries e he).1.not_gt, (entries e he).2.1])
    have portsThere : ((chunksOf 4 es).map leNat).any (fun e =>
        ((List.range (bits e 24 3)).map (fun i => bits e (6 * i) 6)).any (fun k => decide (b.part.ports ≤ k))) = false := by
      refine List.any_eq_false.2 (fun e he => ?_)
      obtain ⟨-, -, egress⟩ := entries e he
      rw [any_absent_eq_false (by simpa using egress)]
      decide
    refine congrArg Host.Outcome.next (runs.command_completed ?_)
    simp only [fieldsOk, noOldEpoch, tableRead, wellFormed, portsThere]
    rfl
  case routeSwitch =>
    intro h c s b runs lead nonePending
    refine congrArg Host.Outcome.next (runs.command_opened ?_)
    simp only [lead.not_gt, nonePending]
    rfl
  case timekeeperSet =>
    intro h c s b runs joined ahead fewPorts portsThere nonePending
    have fieldsOk : ¬ (c.par 0x10 0 48 ≤ b.stage ∨ 4 < c.par 0x0C 24 3) := by omega
    refine congrArg Host.Outcome.next (runs.command_opened ?_)
    simp only [joined, fieldsOk, any_absent_eq_false portsThere, nonePending]
    rfl
  case portStatus =>
    intro h c s b t runs aligned portsThere written
    refine congrArg Host.Outcome.next (runs.command_completed ?_)
    simp only [aligned, portsThere, written]
    rfl
  case domainStatus =>
    intro h c s b t runs aligned written
    refine congrArg Host.Outcome.next (runs.command_completed ?_)
    simp only [List.append_assoc] at written
    simp only [aligned, List.flatMap_cons, List.flatMap_nil, List.append_nil, written]
    rfl

end Sys2Proof.Machine
end

section
/-! Frames that a port receives (R281, R289, R298 to R304, R399, R406). -/
namespace Sys2Proof.Machine

/-- The row of a received frame, named by its type, is its own part. -/
theorem Received.next_eq {s b t : State} {fr : Frame} (received : Received s fr b) {otherType : Prop} [Decidable otherType]
    (named : ¬ otherType) {own : State → State} (done : own b = t) :
    (Host.Outcome.next (if otherType then s else s.receive fr own) : Host.Outcome State Fault Refusal) = .next t := by
  rw [if_neg named, State.receive_runs received, done]

/-! ### Requests -/

/-- JOB_TAG 0 names no job (R303). -/
theorem State.fabTarget_of_tag_zero {fr : Frame} (noTag : fr.tag = 0) (s : State) (len : Nat) (perm : Window → Bool) :
    s.fabTarget fr len perm = .error 1 := by
  rw [State.fabTarget, noTag]
  rfl

/-! ### Transit -/

/-- A frame of the current generation that is another device's goes on (R299, R300). -/
theorem State.receive_transit {s : State} {fr : Frame} (live : s.live = true) (joined : s.dom.joined = true)
    (up : (s.port fr.port.toNat).st = .up) (key : s.keyHeld fr.port.toNat fr.kgen = true) (notTime : fr.typ ≠ 9)
    (other : fr.dest.toNat ≠ s.dom.deviceId) (own : State → State) :
    s.receive fr own = (s.setPort fr.port.toNat { s.port fr.port.toNat with
      rxSeq := (s.port fr.port.toNat).rxSeq + 1
      rxBytes := (s.port fr.port.toNat).rxBytes + fr.payload.length
      ctlOut := merase (s.port fr.port.toNat).ctlOut 2 }).forward fr := by
  have transit : (fr.typ == 9 || fr.dest.toNat == s.dom.deviceId) = false :=
    Bool.or_eq_false_iff.2 ⟨beq_eq_false_iff_ne.2 notTime, beq_eq_false_iff_ne.2 other⟩
  simp only [State.receive, live, joined, up, key, transit]
  rfl

/-- Settles O51: the row of each frame is its own part, which the window's answer, the transaction's use or the route decides. -/
theorem fabricFramesComplete : Obligations.FabricFramesComplete := by
  refine ⟨?write, ?read, ?signal, ?answer, ?service, ?reserved, ?transit⟩
  case write =>
    intro fr s b received typ
    refine ⟨fun j jb va tagged target => ⟨fun clean => ?lands, fun poisoned => ?landsMarked⟩, fun e tagged refused => ?refused,
      fun noTag hosted => ?image, fun noTag notHosted => ?noImage⟩ <;>
      refine received.next_eq (not_not.2 typ) ?_
    case lands =>
      simp only [tagged, target, clean]
      rfl
    case landsMarked =>
      simp only [tagged, target, poisoned]
      rfl
    case refused =>
      simp only [tagged, refused]
      rfl
    case image => exact if_pos ⟨noTag, hosted⟩
    case noImage =>
      have notImage : ¬ (fr.tag = 0 ∧ b.hostsImages fr.src.toNat = true) := by simp [notHosted]
      simp only [notImage, State.fabTarget_of_tag_zero noTag, if_false]
  case read =>
    intro fr f s b n received typ hn
    have inRange (someLine : n ≠ 0) (fewLines : n ≤ 8) : ¬ (n = 0 ∨ 8 < n) := by omega
    subst hn
    refine ⟨fun j jb va bad someLine fewLines target hbad => ?answers, fun e someLine fewLines refused => ?refused,
      fun outOfRange => ?badLength⟩ <;>
      refine received.next_eq (not_not.2 typ) ?_
    case answers =>
      subst hbad
      simp only [inRange someLine fewLines, target, if_false]
    case refused => simp only [inRange someLine fewLines, refused, if_false]
    case badLength => exact if_pos outOfRange
  case signal =>
    intro fr s b received typ
    refine ⟨fun noJob => ?noJob, fun j jb job => ⟨fun noWindow => ?noWindow, fun w window =>
      ⟨fun allows => ?counts, fun forbids => ?forbidden⟩⟩⟩ <;>
      refine received.next_eq (not_not.2 typ) ?_
    case noJob => simp only [noJob]
    case noWindow => simp only [job, noWindow]
    case counts =>
      simp only [job, window, allows]
      rfl
    case forbidden =>
      simp only [job, window, forbids]
      rfl
  case answer =>
    intro fr s b x u received ended
    refine ⟨fun j t typ use => received.next_eq (not_not.2 typ) ?writeAck,
      fun j n typ use => received.next_eq (not_not.2 typ) ?wayAck,
      fun typ => received.next_eq (not_not.2 typ) ?signalAck, fun typ => received.next_eq (not_not.2 typ) ?refused,
      fun j t a n e w v typ use engine hw hv => ?readData⟩
    case writeAck => simp only [ended, use]
    case wayAck => simp only [ended, use]
    case signalAck => simp only [ended]
    case refused => simp only [ended]
    case readData =>
      subst hv hw
      refine ⟨fun clean => received.next_eq (not_not.2 typ) ?_, fun poisoned => received.next_eq (not_not.2 typ) ?_⟩
      · simp only [ended, use, engine, clean]
        rfl
      · simp only [ended, use, engine, poisoned]
        rfl
  case service =>
    intro fr s b received typ
    exact ⟨fun noTag => received.next_eq (not_not.2 typ) (if_pos noTag),
      fun tagged => received.next_eq (not_not.2 typ) (if_neg tagged)⟩
  case reserved =>
    intro fr s b received typ
    have reservedType : ¬ (fr.typ ≠ 7 ∧ fr.typ.toNat < 11) := fun ⟨not7, below⟩ => typ.elim not7 below.not_ge
    exact received.next_eq reservedType rfl
  case transit =>
    intro fr s b p port live joined up key typ other hb
    have notTime : fr.typ ≠ 9 := by
      rw [typ]
      decide
    subst port hb
    have goesOn : exec (.frameWrite fr) s = .next _ := congrArg Host.Outcome.next
      ((if_neg (not_not.2 typ)).trans (State.receive_transit live joined up key notTime other _))
    refine ⟨fun k sw route => goesOn.trans ?_, fun noRoute => goesOn.trans ?_⟩
    · simp only [State.forward, State.setPort_dom, route]
    · simp only [State.forward, State.setPort_dom, noRoute]

end Sys2Proof.Machine
end

section
/-! Control frames, and what happens to a port (R278, R282, R283, R287, R294, R299, R301, R302). -/
namespace Sys2Proof.Machine

/-- A port in a session passes the guard that the rows of its link share. -/
theorem Port.st_session {p : Port} (session : p.st = .up ∨ p.st = .narrowing) : (p.st == .up || p.st == .narrowing) = true := by
  simpa using session

/-- A control frame that is received is taken by its own part. -/
theorem ReceivedCtl.next_eq {s b t : State} {c : CtrlFrame} (received : ReceivedCtl s c b) {own : State → State} (done : own b = t) :
    (Host.Outcome.next (s.receiveCtl c own) : Host.Outcome State Fault Refusal) = .next t := by
  rw [State.receiveCtl_runs received, done]

/-! ### A narrowing request -/

/-- An end that has sent a request of its own has it open (R283, R294). -/
theorem Port.asks_of_tries {p : Port} (narrowing : p.st = .narrowing) (tries : p.narrowTries ≠ 0) : p.asks = true := by
  simp [Port.asks, narrowing, tries]

theorem Port.asks_of_up {p : Port} (up : p.st = .up) : p.asks = false := by
  rw [Port.asks, up]
  rfl

section
variable {s b : State} {c : CtrlFrame} {p : Port} (received : ReceivedCtl s c b) (port : b.port c.port.toNat = p)
  (someSet : c.lambdaNew ≠ 0)
include received port someSet

/-- The answer with the set that this end asks for ends its asking (R294). -/
theorem execCtrlNarrow_answer (asks : p.asks = true) (linked : p.st = .up ∨ p.st = .narrowing) (reply : c.reply = true)
    (same : p.narrowTo = c.lambdaNew) :
    execCtrlNarrow c s = .next (b.modPort c.port.toNat (fun q => { q with narrowAgreed := true })) := by
  refine received.next_eq ?_
  simp only [port, Port.st_session linked, beq_eq_false_iff_ne.2 someSet, reply, asks, same, BEq.rfl]
  rfl

/-- An end that has asked for nothing takes the set that its peer asks for (R294). -/
theorem execCtrlNarrow_follows (up : p.st = .up) (request : c.reply = false) :
    execCtrlNarrow c s = .next (State.sendCtl ((b.narrow c.port.toNat c.lambdaNew 0).modPort c.port.toNat (fun q => { q with
      lambdaOk := p.okAfter c.lambdaNew c.lambdaNew, narrowAgreed := true })) c.port.toNat 4 0 false true c.lambdaNew 0) := by
  refine received.next_eq ?_
  simp only [port, up, BEq.rfl, beq_eq_false_iff_ne.2 someSet, request, Port.asks_of_up up, someSet, Bool.true_or, Bool.not_true,
    Bool.or_false, Bool.not_false, Bool.or_true, Bool.false_eq_true, if_false, if_true]

/-- Where both ends ask, both take the set that neither request leaves out (R294). -/
theorem execCtrlNarrow_both (narrowing : p.st = .narrowing) (asks : p.asks = true) (request : c.reply = false) {set : BitVec 4}
    (hset : set = lambdaPick (p.narrowTo &&& c.lambdaNew)) :
    execCtrlNarrow c s = .next (if set = 0 then b.portTo c.port.toNat .down else State.sendCtl
      ((if p.narrowTo = set then b else b.narrow c.port.toNat set p.narrowTries).modPort c.port.toNat
        (fun q => { q with lambdaOk := p.okAfter c.lambdaNew set })) c.port.toNat 4 0 false true set 0) := by
  have turns : (if (p.st == .up || p.narrowTo != set) = true then b.narrow c.port.toNat set p.narrowTries else b)
      = if p.narrowTo = set then b else b.narrow c.port.toNat set p.narrowTries := by
    by_cases same : p.narrowTo = set <;> simp [narrowing, same]
  refine received.next_eq ?_
  simp only [port, Port.st_session (.inr narrowing), beq_eq_false_iff_ne.2 someSet, request, asks, ← hset, turns, Bool.not_true,
    Bool.or_false, Bool.false_eq_true, if_false, if_true]

end

/-- Settles O52: a control frame is taken by its own part; what this end sends passes the guards of its row. -/
theorem controlFramesComplete : Obligations.ControlFramesComplete := by
  refine ⟨?received, ?sent⟩
  case received =>
    intro c s b k p received hk port
    subst hk
    refine ⟨received.next_eq rfl, received.next_eq ?ack, received.next_eq ?nak, fun noClass => received.next_eq (if_pos noClass),
      fun key d r someClass hkey hd hr => received.next_eq ?credit, fun narrowing someSet reply tries same => ?answer,
      fun up someSet request => execCtrlNarrow_follows received port someSet up request,
      fun set u narrowing tries someSet request hset => ?both⟩
    case ack => simp only [beq_iff_eq]
    case nak => simp only [beq_iff_eq, Bool.or_eq_true, decide_eq_true_eq]
    case credit =>
      subst hkey hd hr
      exact if_neg someClass
    case answer =>
      exact execCtrlNarrow_answer received port someSet (Port.asks_of_tries narrowing tries) (.inr narrowing) reply same
    case both =>
      have both := execCtrlNarrow_both received port someSet narrowing (Port.asks_of_tries narrowing tries) request hset
      refine ⟨fun noneLeft => both.trans (by rw [if_pos noneLeft]), fun someLeft differs agrees => both.trans ?_⟩
      rw [if_neg someLeft]
      split_ifs with same
      · rw [agrees same]
      · rw [differs same]
  case sent =>
    intro k s n p hn live port session
    subst hn port
    have linked : ¬ (!(s.live && ((s.port k.toNat).st == .up || (s.port k.toNat).st == .narrowing))) = true := by
      simp [live, Port.st_session session]
    have takes : ¬ (!(s.live && ((s.port k.toNat).st == .up || (s.port k.toNat).st == .narrowing
        || ((s.port k.toNat).st == .training && (s.port k.toNat).phase == 5)))) = true := by
      simp [live, Port.st_session session]
    refine ⟨if_neg linked, fun lacks => (if_neg linked).trans (congrArg Host.Outcome.next (if_pos lacks)), if_neg linked,
      fun narrowing tries notAgreed => ?narrow, fun up => if_neg ?lost, fun up => if_neg ?badTag, if_neg takes, if_neg takes⟩
    case narrow =>
      have asking : ((s.port k.toNat).asks && !(s.port k.toNat).narrowAgreed) = true := by
        simp [Port.asks_of_tries narrowing tries, notAgreed]
      exact ⟨fun few => (if_neg linked).trans ((if_pos asking).trans (if_neg few.not_ge)),
        fun many => (if_neg linked).trans ((if_pos asking).trans (if_pos many))⟩
    case lost => simp [live, up]
    case badTag => simp [live, up]

/-- Settles O53: the guard of each row holds, and its effect follows; a wavelength's failure turns on the set in use. -/
theorem portEventsComplete : Obligations.PortEventsComplete := by
  refine ⟨?codeword, ?wavelength, ?narrowed, ?authDown, ?discard, ?stall, ?timeout⟩
  case codeword =>
    intro k w s p port live session used
    subst port
    exact if_neg (by simp [live, Port.st_session session, used])
  case wavelength =>
    intro k w s p ok used u port live session healthy hok hup hnarrowing hu
    have inUse : (if p.st == .narrowing then p.narrowTo else p.lambdaUsed) = used := by
      rcases session with up | narrowing
      · simp [up, hup up]
      · simp [narrowing, hnarrowing narrowing]
    have row : exec (.wavelengthFail k w) s = if (!used.getLsbD w.toNat) = true then .next u
        else if lambdaPick ok = 0 then .next (u.portTo k.toNat .down)
        else .next (State.sendCtl (u.narrow k.toNat (lambdaPick ok) 1) k.toNat 4 0 false false (lambdaPick ok) 0) := by
      subst port hok hu
      rw [← inUse]
      exact if_neg (by simp [live, Port.st_session session, healthy])
    refine ⟨fun spare => row.trans (if_pos (by simp [spare])), fun lost noneLeft => row.trans ?_,
      fun lost someLeft => row.trans ?_⟩ <;>
      rw [if_neg (by simp [lost])]
    · exact if_pos noneLeft
    · exact if_neg someLeft
  case narrowed =>
    intro k s p port live narrowing agreed
    subst port
    exact if_neg (by simp [live, narrowing, agreed])
  case authDown =>
    intro k s p port live session failing noUncorrectable
    subst port
    exact if_neg (by simp [live, Port.st_session session, failing, noUncorrectable])
  case discard =>
    intro k s p g port live since long
    have past : (s.live && p.downAt.any (fun t => decide (t + secondCycles < s.now))) = true :=
      Bool.and_eq_true_iff.2 ⟨live, (Option.any_eq_true _ _).2 ⟨g, since, decide_eq_true long⟩⟩
    simp only [exec, execPortDownDiscard, State.dropHeld, port, past, if_true]
  case stall =>
    intro k cls vl s w g live waits hcls hvl since long
    have stalled : (s.port k.toNat).waiting.any (fun w =>
        w.2.2.cls == cls && w.2.2.vl == vl && w.1.any (fun g => decide (g + 10 ≤ s.stage))) = true :=
      List.any_eq_true.2 ⟨w, waits, by simp [hcls, hvl, since, long]⟩
    exact if_pos (by rw [live, stalled]; rfl)
  case timeout =>
    intro n s x u found live late hu
    have noAnswer : (!(s.live && decide (x.at_ + 2 * secondCycles ≤ s.now))) = false := by simp [live, late]
    subst hu
    simp only [exec, execTransactionTimeout, found, noAnswer, Bool.false_eq_true, if_false]

end Sys2Proof.Machine
end

section
/-! The training of a port (R290 to R294). -/
namespace Sys2Proof.Machine

/-- The limit that the table "Training phases" gives a phase other than 4 (R291). -/
theorem phaseLimit_of_mem {n lim : Nat} (limit : (n, lim) ∈ [(1, 8500000), (2, 17000000), (3, 1700000), (5, 85000)]) :
    phaseLimit n = lim ∧ n ≠ 4 := by
  simp only [List.mem_cons, Prod.mk.injEq, List.not_mem_nil, or_false] at limit
  rcases limit with ⟨rfl, rfl⟩ | ⟨rfl, rfl⟩ | ⟨rfl, rfl⟩ | ⟨rfl, rfl⟩ <;> decide

/-- Settles O54: the guards of each row hold; the phase, or what the peer's message says, names the branch. -/
theorem portTrainingComplete : Obligations.PortTrainingComplete := by
  refine ⟨?start, ?phases, ?message⟩
  case start =>
    intro k s p port live
    subst port
    refine ⟨fun dark => if_pos ?_, if_neg ?_, fun refused waited => if_pos ?_, fun down waited => if_pos ?_⟩
    · simp [live, dark]
    · simp
    · simp [live, refused, waited]
    · simp [live, down, waited]
  case phases =>
    intro k s p port live training
    have guard : (!(s.live && p.st == .training)) = false := by simp [live, training]
    have overdue (late : p.phaseAt + phaseLimit p.phase < s.now) :
        ¬ (!(s.live && p.st == .training && decide (p.phaseAt + phaseLimit p.phase < s.now))) = true := by
      simp [live, training, late]
    have phaseDone (ok : BitVec 4) : exec (.trainingPhaseDone k ok) s = execTrainingPhaseDone k ok s := rfl
    simp only [execTrainingPhaseDone, port, guard, Bool.false_eq_true, if_false] at phaseDone
    refine ⟨fun phase late => ?proofLate, fun lim limit late => ?late, fun ok phase => ?light, fun ok phase => ?align,
      fun ok phase noneLeft => ?noWavelength, fun ok u phase someLeft hu => ⟨fun apart => ?apart, fun joined noKey => ?noKey,
      fun joined key => ?proves⟩, fun ok phase proven nonce => ?proven, fun ok phase acked => ?acked⟩
    case proofLate =>
      have late : p.phaseAt + phaseLimit p.phase < s.now := by rwa [phase]
      subst port
      exact (if_neg (overdue late)).trans (if_pos phase)
    case late =>
      obtain ⟨hlim, notProof⟩ := phaseLimit_of_mem limit
      subst port hlim
      exact (if_neg (overdue late)).trans (if_neg notProof)
    case light =>
      simp only [phaseDone, phase]
      rfl
    case align =>
      simp only [phaseDone, phase]
      rfl
    case noWavelength => simp only [phaseDone, phase, noneLeft, if_true]
    case apart =>
      subst hu
      simp only [phaseDone, phase, someLeft, apart]
      rfl
    case noKey =>
      subst hu
      simp only [phaseDone, phase, someLeft, joined, noKey]
      rfl
    case proves =>
      subst hu
      simp only [phaseDone, phase, someLeft, joined, Option.isNone_eq_false_iff.2 key]
      rfl
    case proven =>
      have both : (p.peerOk && p.peerNonce.isSome) = true := Bool.and_eq_true_iff.2 ⟨proven, nonce⟩
      simp only [phaseDone, phase, both]
      rfl
    case acked => simp only [phaseDone, phase, acked, if_true]
  case message =>
    intro k m s p port live training phase length magic crc
    have guard : (!(s.live && p.st == .training && (p.phase == 4 || p.phase == 5))) = false := by
      have proving : (p.phase == 4 || p.phase == 5) = true := by simpa using phase
      simp [live, training, proving]
    have valid : ¬ (m.length ≠ 128 ∨ fld m 0 4 ≠ 0x49545A50 ∨ fld m 0x7C 4 ≠ crc32 (m.take 124)) :=
      fun bad => bad.elim (· length) (·.elim (· magic) (· crc))
    have row : exec (.trainingMessage k m) s = execTrainingMessage k m s := rfl
    simp only [execTrainingMessage, port, guard, valid, Bool.false_eq_true, if_false] at row
    refine ⟨fun version => row.trans (if_pos version), fun version foreign => ?_, fun u version joined domain loop hu => ?_,
      fun u version joined domain peer hu => ?_⟩ <;>
      have known : ¬ bits (fld m 4 4) 0 8 ≠ 1 := not_not.2 version
    · have notOurs : (!bit (fld m 4 4) 8) = true ∨ fld m 8 4 ≠ s.dom.domainId := foreign.imp_left (by simp)
      exact row.trans ((if_neg known).trans (if_pos notOurs))
    all_goals
      have ours : ¬ ((!bit (fld m 4 4) 8) = true ∨ fld m 8 4 ≠ s.dom.domainId) := by simp [joined, domain]
      subst hu
    · rw [row, if_neg known, if_neg ours, if_pos loop, loop]
    · simp only [known, ours, peer, if_false] at row
      refine ⟨fun noProof => ?noProof, fun given noKey => ?noKey,
        fun key proof given hasKey hproof => ⟨fun proven => ?proven, fun disproven => ?disproven⟩⟩
      case noProof =>
        simp only [noProof] at row
        exact row
      case noKey =>
        simp only [given, noKey] at row
        exact row
      case proven =>
        simp only [given, hasKey, ← hproof, proven] at row
        exact row
      case disproven =>
        simp only [given, hasKey, ← hproof, disproven] at row
        exact row

end Sys2Proof.Machine
end

section
/-! The waystation commands, and the generations that a waystation keeps (R346 to R351, log 49). -/
namespace Sys2Proof.Machine

/-! ### WAYSTATION_SET and WAYSTATION_HOST -/

/-- The partner that WAYSTATION_SET names by its PARTNER field (R346). -/
def Job.wayPartner (jb : Job) (p : Nat) : Option Nat :=
  if p = 0xFFFF then jb.map.bind (fun m => if m.dp = 1 then none else some m.nextData)
  else if 8191 < p then none else some p

theorem Job.wayPartner_of_device {p : Nat} (device : p ≤ 8191) (jb : Job) : jb.wayPartner p = some p := by
  rw [Job.wayPartner, if_neg (by omega), if_neg device.not_gt]

theorem Job.wayPartner_of_next {jb : Job} {m : MapRec} (map : jb.map = some m) (several : m.dp ≠ 1) :
    jb.wayPartner 0xFFFF = some m.nextData := by
  simp only [Job.wayPartner, map, Option.bind_some, several, if_false, if_true]

/-! ### WAYSTATION_STATUS -/

/-- What WAYSTATION_STATUS writes of a kept generation, or in the place of one (R350). -/
def statusEntry : Option WayImage → List Byte
  | some w => toLE 8 w.ordinal ++ toLE 8 (w.stage % 2 ^ 48)
  | none => toLE 8 0xFFFFFFFF ++ zeros 8

/-! ### WAYSTATION_COMMIT -/

/-- Nothing is listed at the key, so nothing changes. -/
theorem mmodify_of_mget_none {α : Type} {m : NMap α} {k : Nat} (absent : mget m k = none) (g : α → α) : mmodify m k g = m := by
  induction m with
  | nil => rfl
  | cons p r ih =>
    obtain ⟨a, v⟩ := p
    by_cases same : a = k
    · simp [mget, same] at absent
    · simp only [mget, same, if_false] at absent
      simpa [mmodify, same] using ih absent

/-- Of a generation of another device the region keeps its header alone (R349). -/
theorem execWaystationCommit_hosted {s : State} {owner : BitVec 16} (live : s.live = true) (other : owner.toNat ≠ s.dom.deviceId)
    (tag : BitVec 16) (ordinal : BitVec 32) (stage : BitVec 48) :
    execWaystationCommit owner tag ordinal stage s = .next { s with
      ways := mmodify s.ways (owner.toNat * 65536 + tag.toNat) (fun (w : WayRegion) =>
        { w with gens := ((ordinal.toNat, stage.toNat) :: w.gens).take 2 }) } := by
  simp only [execWaystationCommit, live, beq_eq_false_iff_ne.2 other, if_true]
  rfl

/-- The owner's generation commits once its last page is there (R348, R349). -/
theorem execWaystationCommit_own {s : State} {owner tag : BitVec 16} {ordinal : BitVec 32} {j : Nat} {jb : Job} {w : Way}
    {img : WayImage} (live : s.live = true) (own : owner.toNat = s.dom.deviceId)
    (noRegion : mget s.ways (owner.toNat * 65536 + tag.toNat) = none) (job : s.tagged tag.toNat = some (j, jb))
    (way : jb.way = some w) (isOpen : w.open_ = some img) (same : img.ordinal = ordinal.toNat) (allSent : w.pend = [])
    (allAnswered : w.acks = 0) (stage : BitVec 48) :
    execWaystationCommit owner tag ordinal stage s = .next (s.modJob j (fun (b : Job) => { b with way := some { w with
      open_ := none, waitFrom := none, late := false, full := false, kept := (img :: w.kept).take 2 } })) := by
  have complete : ¬ (img.ordinal ≠ ordinal.toNat ∨ (!w.pend.isEmpty) = true ∨ w.acks ≠ 0) := by
    simp [same, allSent, allAnswered]
  simp only [execWaystationCommit, live, beq_iff_eq.2 own, mmodify_of_mget_none noRegion, job, way, isOpen, complete, Bool.and_self,
    Bool.not_true, Bool.false_eq_true, if_false, if_true]

/-- Settles O19: each command passes the checks of its own part one after another, down to its effect; a commit is the host's of the
region, or the owner's. -/
theorem waystationCommandsComplete : Obligations.WaystationCommandsComplete := by
  refine ⟨?set, ?host, ?status, ?restore, ?hosted, ?own⟩
  case set =>
    intro h c s b jb d runs job partner somePage someK
    have named : jb.wayPartner (c.par 0x08 0 16) = some d := by
      obtain ⟨device, rfl⟩ | ⟨next, m, map, several, rfl⟩ := partner
      · exact Job.wayPartner_of_device device jb
      · rw [next, Job.wayPartner_of_next map several]
    have fieldsOk : ¬ (c.par 0x10 0 18 = 0 ∨ c.par 0x18 0 16 = 0) := not_or.2 ⟨somePage, someK⟩
    refine congrArg Host.Outcome.next (runs.command_completed ?_)
    unfold Job.wayPartner at named
    simp only [job, named, fieldsOk, Bool.not_true, Bool.false_eq_true, if_false]
  case host =>
    intro h c s b u key pages runs device someTag hkey hu
    have fieldsOk : ¬ (8191 < c.par 0x08 0 16 ∨ c.par 0x08 16 16 = 0) := not_or.2 ⟨device.not_gt, someTag⟩
    subst hkey hu
    refine ⟨fun noPage => congrArg Host.Outcome.next (runs.command_completed ?_),
      fun somePage room taken => congrArg Host.Outcome.next (runs.command_completed ?_)⟩
    · simp only [fieldsOk, noPage, if_false, if_true]
    · simp only [fieldsOk, somePage, room.not_gt, taken, if_false]
  case status =>
    intro h c s b jb t ent runs job aligned noneKept kept written
    have entry (k : Nat) : ent k = statusEntry ((jb.way.map Way.kept).getD [])[k]? := by
      cases image : ((jb.way.map Way.kept).getD [])[k]? with
      | none => exact noneKept k image
      | some g => exact kept k g image
    rw [entry, entry] at written
    refine congrArg Host.Outcome.next (runs.command_completed ?_)
    simp only [job, aligned, ne_eq, not_true_eq_false, if_false]
    split
    next u landed => rw [Option.some.inj (landed.symm.trans written)]
    next lost => cases lost.symm.trans written
  case restore =>
    intro h c s b jb w img s1 runs job noRun noStep noReshard way ownPartner generation placed
    have idle : ¬ (jb.run.isSome = true ∨ (!jb.queue.isEmpty) = true ∨ jb.reshard.isSome = true) := by
      simp [noRun, noStep, noReshard]
    refine congrArg Host.Outcome.next (runs.command_opened ?_)
    simp only [job, idle, way, ownPartner, generation, placed, Option.filter, BEq.rfl, Option.isNone_some, Bool.false_eq_true, ne_eq,
      not_true_eq_false, false_and, and_false, true_or, if_false, if_true]
  case hosted =>
    intro owner tag ordinal stage s live other
    exact execWaystationCommit_hosted live other tag ordinal stage
  case own =>
    intro owner tag ordinal stage s j jb w img live own noRegion job way isOpen same allSent allAnswered
    exact execWaystationCommit_own live own noRegion job way isOpen same allSent allAnswered stage

end Sys2Proof.Machine
end

section
/-! A reshard: the ledger's end and the move at its stage, and the switch after the confirmation (R318, R341 to R344, R350, log 49). -/
namespace Sys2Proof.Machine

/-- Step 1 of a reshard (R342, R343): the training state with its ledger empty, as it stands or out of the partner's image; a job without
training state has nothing to send, and none is left where the step fails. -/
def State.reshardSource (s : State) (j : Nat) (jb : Job) (r : Reshard) (x : ReshardIn) : Option (Option (State × Train)) :=
  match jb.train with
  | none => some none
  | some _ => (if jb.reshardMode r = 1 then x.image.bind (fun w => (s.wayIn j (jb.ownImage w)).flushLedger j)
      else s.flushLedger j).bind (fun z => ((z.job j).bind Job.train).map (fun t => some (z, t)))

/-- The state in which the blocks move (R342 step 2): through a waystation the device keeps its own, but for host memory. -/
def State.reshardBase (s : State) (j : Nat) (jb : Job) (r : Reshard) (f : Faults) : Option (State × Train) → State
  | none => s
  | some (z, t) => if jb.reshardMode r = 1 then s.takeHost j jb t z else z.meet (z.cmdReader j) f (t.shardLines jb.pt)

/-- What follows step 1 (R342 step 2, R344): the PERMUTE, after which this member is counted as finished, or a failure. -/
def State.reshardNext (s : State) (j : Nat) (jb : Job) (r : Reshard) (x : ReshardIn) :
    Option (Option (State × Train)) → Host.Outcome State Fault Refusal
  | none => .next (s.reshardFail j 1)
  | some src =>
    match (s.reshardBase j jb r x.f src).cmdJobRead x.f j jb.pt r.segs (16 * r.entries), mget jb.groups r.group with
    | (_, some table), some g =>
      match (s.reshardBase j jb r x.f src).reshardMove (if jb.reshardMode r = 1 then noFaults else x.f) j jb r g src table x.recv with
      | none => .next ((if jb.reshardMode r = 1 then s else s.reshardBase j jb r x.f src).reshardFail j 2)
      | some v => .next ((v.modJob j (fun (b : Job) => { b with reshard := some { r with
          moved := true, movedAt := s.stage, carry := src.map (fun p => p.2.carry jb)
          counts := if jb.reshardMode r = 1 then (src.map (fun p => p.2.groups.map (fun g => (g.g.id, (g.updates, g.lastStep))))).getD []
            else [] } })).shareValue g.members 1)
    | (u, _), _ => .next ((if jb.reshardMode r = 1 then s else u).reshardFail j 2)

/-- At its stage a reshard of a job at rest takes step 1, and what follows it. -/
theorem execReshardStart_eq {j : BitVec 4} {s : State} {jb : Job} {r : Reshard} (job : s.job j.toNat = some jb)
    (reshard : jb.reshard = some r) (works : s.cvrWorks = true) (notMoved : r.moved = false) (due : r.stage ≤ s.stage)
    (noRun : jb.run = none) (noAbort : jb.abort = none) (x : ReshardIn) :
    execReshardStart j x s = s.reshardNext j.toNat jb r x (s.reshardSource j.toNat jb r x) := by
  simp only [execReshardStart, job, reshard, works, notMoved, due, noRun, noAbort]
  rfl

section
variable {s : State} {j : Nat} {jb : Job} {r : Reshard} {x : ReshardIn}

theorem State.reshardSource_of_untrained (untrained : jb.train = none) : s.reshardSource j jb r x = some none := by
  rw [State.reshardSource, untrained]

theorem State.reshardSource_direct {z : State} {t : Train} (trained : jb.train.isSome = true) (direct : jb.reshardMode r ≠ 1)
    (flushed : s.flushLedger j = some z) (kept : (z.job j).bind Job.train = some t) :
    s.reshardSource j jb r x = some (some (z, t)) := by
  obtain ⟨o, train⟩ := Option.isSome_iff_exists.1 trained
  simp only [State.reshardSource, train, direct, flushed, kept, if_false, Option.bind_some, Option.map_some]

theorem State.reshardSource_through {w : WayImage} {z : State} {t : Train} (trained : jb.train.isSome = true)
    (through : jb.reshardMode r = 1) (image : x.image = some w)
    (flushed : (s.wayIn j (jb.ownImage w)).flushLedger j = some z) (kept : (z.job j).bind Job.train = some t) :
    s.reshardSource j jb r x = some (some (z, t)) := by
  obtain ⟨o, train⟩ := Option.isSome_iff_exists.1 trained
  simp only [State.reshardSource, train, through, image, flushed, kept, if_true, Option.bind_some, Option.map_some]

/-- Step 1 fails where the ledger cannot be applied, or where the partner has no image (R344). -/
theorem State.reshardSource_fails (trained : jb.train.isSome = true)
    (fails : (jb.reshardMode r ≠ 1 ∧ s.flushLedger j = none) ∨ (jb.reshardMode r = 1 ∧ x.image = none)) :
    s.reshardSource j jb r x = none := by
  obtain ⟨o, train⟩ := Option.isSome_iff_exists.1 trained
  obtain ⟨direct, stuck⟩ | ⟨through, noImage⟩ := fails
  · simp only [State.reshardSource, train, direct, stuck, if_false, Option.bind_none]
  · simp only [State.reshardSource, train, through, noImage, if_true, Option.bind_none]

end

/-- Settles O44: step 1 gives what the move starts from, and the move's outcome decides; at the switch a device leaves, lacks pages or
takes up its new state. -/
theorem reshardEventsComplete : Obligations.ReshardEventsComplete := by
  refine ⟨?start, ?switch⟩
  case start =>
    intro j recv img f s jb r job reshard works notMoved due noRun noAbort
    have row := execReshardStart_eq job reshard works notMoved due noRun noAbort ⟨recv, img, f⟩
    refine ⟨fun trained fails => ?_, fun src base u table g origin tableRead group => ?_⟩
    · exact row.trans (by rw [State.reshardSource_fails trained fails]; rfl)
    · have step1 : s.reshardSource j.toNat jb r ⟨recv, img, f⟩ = some src ∧ s.reshardBase j.toNat jb r f src = base := by
        obtain ⟨untrained, rfl, rfl⟩ | ⟨trained, direct, z, t, flushed, kept, rfl, rfl⟩
          | ⟨trained, through, w, z, t, image, flushed, kept, rfl, rfl⟩ := origin
        · exact ⟨State.reshardSource_of_untrained untrained, rfl⟩
        · exact ⟨State.reshardSource_direct trained direct flushed kept, if_neg direct⟩
        · exact ⟨State.reshardSource_through trained through image flushed kept, if_pos through⟩
      obtain ⟨source, rfl⟩ := step1
      rw [source] at row
      refine ⟨fun stuck => row.trans ?_, fun v moved => row.trans ?_⟩
      · simp only [State.reshardNext, tableRead, group, stuck]
      · simp only [State.reshardNext, tableRead, group, moved]
  case switch =>
    intro j s jb r job reshard works moved later noAbort
    have due : (!(s.cvrWorks && r.moved && decide (r.movedAt < s.stage) && jb.abort.isNone)) = false := by
      simp [works, moved, later, noAbort]
    refine ⟨?unconfirmed, fun c bare hbare => ?confirmed⟩
    case unconfirmed => simp only [exec, execReshardSwitch, job, reshard, due, Bool.false_eq_true, if_false]
    case confirmed =>
      subst hbare
      refine ⟨fun leaving => ?leaves, fun stays noRoom => ?noRoom, fun pages t u stays taken ht hu => ?switches⟩
      case leaves => simp only [exec, execReshardSwitch, job, reshard, due, leaving, Bool.false_eq_true, if_false, if_true]
      case noRoom => simp only [exec, execReshardSwitch, job, reshard, due, stays, noRoom, Bool.false_eq_true, if_false]
      case switches =>
        subst hu ht
        simp only [exec, execReshardSwitch, job, reshard, due, stays, taken, Bool.false_eq_true, if_false]

end Sys2Proof.Machine
end

section
/-! Collectives: chunk-steps, the silence of a peer, and the messages of the members (R303, R320, R325 to R327, R330, R332; log 48 for
data of no job or task, log 62 for the answer to data with JOB_TAG 0). -/
namespace Sys2Proof.Machine

/-! ### Chunk-steps and timeouts -/

section
variable {s : State} {c : CollCtx} {f : Faults} {q : CollSt} {i : Nat} {t : CStep}
  (reached : (c.touches t).findSome? (fun p => s.unreachIn c.x.pt p.1 p.2) = none)
include reached

/-- A chunk-step that sends nothing does its work (R325). -/
theorem State.collRun_quiet (quiet : c.gives t = none) : s.collRun c f q i t = (s.collWork c f q i t).1.collDone c i 0 0 := by
  simp only [State.collRun, reached, quiet]

/-- A chunk-step whose frames may go does its work and sends them (R326). -/
theorem State.collRun_sends {m : CMsg} {u : State} (gives : c.gives t = some m)
    (sent : (s.collWork c f q i t).1.issueAll (c.frames t m (s.collWork c f q i t).2) = .sent u) :
    s.collRun c f q i t
      = u.collDone c i (s.collWork c f q i t).2.length (c.frames t m (s.collWork c f q i t).2).length := by
  simp only [State.collRun, reached, gives, sent]

end

/-- The first chunk-step that may run is run, and a tile's boundary follows (R73, R325). -/
theorem execCollectiveChunkStep_runs {n : BitVec 2} {l : LegId} {f : Faults} {s u : State} {x : EngRun} {c : CollCtx} {q : CollSt}
    {i : Nat} {t : CStep} (leg : s.collLeg l = some (x, c, q)) (serai : c.b.serai = n.toNat)
    (goesOn : x.t.leg.any Leg.ended = false) (next : c.next q = some (i, t)) (run : s.collRun c f q i t = u) :
    execCollectiveChunkStep n l f s = .next (u.boundary x.j x.id) := by
  have here : ¬ (c.b.serai ≠ n.toNat ∨ x.t.leg.any Leg.ended = true) := by simp [serai, goesOn]
  simp only [execCollectiveChunkStep, leg, here, next, run, if_false]

/-! ### READY -/

/-- A READY counts as heard by its task, where it has one (R330). -/
def State.readyHeard (s : State) (h : CollHdr) : Option CollCtx → State
  | some c => s.collArrive c h.src
  | none => s

/-- A READY that is kept fails a collective that has begun, where one of its peers disagrees (R330). -/
def State.readyChecked (s : State) : Option CollCtx → State
  | none => s
  | some c => if (s.collOf c.x).isNone then s else match c.badReady with
    | some z => s.collFail c z.src 0x03 0
    | none => s

theorem State.readyChecked_keeps {s : State} {o : Option CollCtx}
    (agrees : ∀ c, o = some c → s.collOf c.x = none ∨ c.badReady = none) : s.readyChecked o = s := by
  cases o with
  | none => rfl
  | some c =>
    rcases agrees c rfl with notBegun | noneBad
    · simp only [State.readyChecked, notBegun, Option.isNone_none, if_true]
    · simp only [State.readyChecked, noneBad, ite_self]

theorem State.readyChecked_fails {s : State} {c : CollCtx} {z : ReadyRec} (begun : (s.collOf c.x).isSome = true)
    (bad : c.badReady = some z) : s.readyChecked (some c) = s.collFail c z.src 0x03 0 := by
  simp only [State.readyChecked, Option.isNone_eq_false_iff.2 begun, bad, Bool.false_eq_true, if_false]

/-- READY of a job here is heard, kept and checked (R326, R330). -/
theorem execCollectiveReady_eq {fr : Frame} {s b v u : State} {h : CollHdr} {j : Nat} {jb : Job} (received : Received s fr b)
    (typ : fr.typ = 8) (tagged : fr.tag ≠ 0) (hh : h = collHdr fr.payload) (sub : h.sub = 1)
    (job : b.tagged fr.tag.toNat = some (j, jb)) (hv : v = b.readyHeard h (b.collTask j jb h))
    (hu : u = v.modJob j (fun (k : Job) => { k with
      readies := k.readies ++ [⟨h.group, h.step, h.seq, h.src, h.phase, h.ring, h.chunk, h.sig, h.len⟩] })) :
    execCollectiveReady fr s = .next (u.readyChecked ((u.job j).bind (fun k => u.collTask j k h))) := by
  subst hu hv hh
  have isReady : ¬ ((collHdr fr.payload).sub ≠ 1 ∨ fr.tag = 0) := not_or.2 ⟨not_not.2 sub, tagged⟩
  refine received.next_eq (not_not.2 typ) ?_
  simp only [isReady, job, if_false]
  rfl

/-- Settles O50: each row finds its leg, or its frame's job and task, and takes its branch. -/
theorem collectiveEventsComplete : Obligations.CollectiveEventsComplete := by
  refine ⟨?chunkStep, ?timeout, ?dataOfNone, ?data, ?ready, ?ack, ?abort⟩
  case chunkStep =>
    intro n l f s x c q i t r leg serai goesOn next reached hr
    subst hr
    exact ⟨fun quiet => execCollectiveChunkStep_runs leg serai goesOn next (State.collRun_quiet reached quiet),
      fun m u gives sent => execCollectiveChunkStep_runs leg serai goesOn next (State.collRun_sends reached gives sent)⟩
  case timeout =>
    intro l peer s x c q leg waits idle silent awaited
    have timedOut : ((c.next q).isNone && decide (q.lastStage + c.timeout ≤ s.stage ∧ q.heardAt peer.toNat + c.timeout ≤ s.stage)
        && (c.awaits q).contains peer.toNat) = true := by
      simp only [waits, idle, silent, awaited, and_self, decide_true, Option.isNone_none, Bool.and_self]
    simp only [exec, execCollectivePeerTimeout, leg, timedOut, if_true]
  case dataOfNone =>
    intro fr s b h received typ hh sub
    subst hh
    have isData : ¬ (collHdr fr.payload).sub ≠ 0 := not_not.2 sub
    refine ⟨fun noTag => ?service, fun tagged noJob => ?noJob, fun j jb tagged job noTask => ?noTask⟩ <;>
      refine received.next_eq (not_not.2 typ) ?_
    case service => simp only [isData, noTag, if_false, if_true]
    case noJob => simp only [isData, tagged, noJob, if_false]
    case noTask => simp only [isData, tagged, job, noTask, if_false]
  case data =>
    intro fr s b j jb c q t i h received message hh state step
    obtain ⟨typ, tagged, sub, job, task⟩ := message
    subst hh
    have isData : ¬ (collHdr fr.payload).sub ≠ 0 := not_not.2 sub
    refine ⟨fun otherSig => ?otherSig, fun sig otherLen => ?otherLen, fun sig len granted notDone inChunk => ?held⟩ <;>
      refine received.next_eq (not_not.2 typ) ?_
    case otherSig => simp only [isData, tagged, job, task, state, otherSig, if_false, if_true, ne_eq, not_false_eq_true]
    case otherLen =>
      simp only [isData, tagged, job, task, state, sig, step, otherLen, if_false, if_true, ne_eq, not_false_eq_true,
        not_true_eq_false]
    case held =>
      have takes : (!q.granted.contains i || q.done.contains i || decide (c.chunkLen t < fr.offset.toNat)) = false := by
        simp only [granted, notDone, inChunk.not_gt]
        decide
      simp only [isData, tagged, job, task, state, sig, step, len, takes, Bool.false_eq_true, if_false, ne_eq, not_true_eq_false]
  case ready =>
    intro fr s b j jb h v y u received typ tagged hh sub job noTask task hy hu
    have heard : v = b.readyHeard h (b.collTask j jb h) := by
      cases found : b.collTask j jb h with
      | none => exact noTask found
      | some c => exact task c found
    subst hy
    have row : exec (.collectiveReady fr) s = _ := execCollectiveReady_eq received typ tagged hh sub job heard hu
    refine ⟨fun agrees => row.trans ?_, fun c z task begun bad => row.trans ?_⟩
    · rw [State.readyChecked_keeps agrees]
    · rw [task, State.readyChecked_fails begun bad]
  case ack =>
    intro fr s b x u received typ sub ended
    have isAck : ¬ (fr.typ ≠ 8 ∨ (collHdr fr.payload).sub ≠ 2) := by simp [typ, sub]
    refine ⟨fun j t use => received.next_eq isAck ?_, fun noColl => received.next_eq isAck ?_⟩
    · simp only [ended, use]
    · cases use : x.use_ with
      | coll j t => exact absurd use (noColl j t)
      | _ => simp only [ended, use]
  case abort =>
    intro fr s b j jb c received message
    obtain ⟨typ, tagged, sub, job, task⟩ := message
    refine received.next_eq (not_not.2 typ) ?_
    simp only [sub, tagged, job, task, ne_eq, not_true_eq_false, or_self, if_false]

end Sys2Proof.Machine
end

section
/-! The record of a command and its slot (R361, R370): reading back what was written, and the command that an opcode names. -/
namespace Sys2Proof
open Sys2Proof.Machine

/-- What a mailbox command meets outside its record: faulty lines, and the answers of a waystation partner. -/
def Instr.surroundings : Instr → Faults × Bool × Option WayImage
  | .tasklistLoad _ _ f => (f, false, none)
  | .mediaChannelOpen _ _ f => (f, false, none)
  | .trainStateSet _ _ f => (f, false, none)
  | .collGroupSet _ _ f => (f, false, none)
  | .jobMapSet _ _ f => (f, false, none)
  | .jobReshard _ _ f => (f, false, none)
  | .fabricPeersSet _ _ f => (f, false, none)
  | .waystationSet _ _ reserved => (default, reserved, none)
  | .waystationRestore _ _ image => (default, false, image)
  | _ => default

/-- A field of a number: what stands `lo` bits up between a part below it and a part above it. -/
theorem extractLsb'_ofNat_field {m lo w n : Nat} {v : BitVec w} (low high : Nat) (below : low < 2 ^ lo) (fits : lo + w ≤ m)
    (sum : n = low + v.toNat * 2 ^ lo + high * 2 ^ (lo + w)) : (BitVec.ofNat m n).extractLsb' lo w = v := by
  apply BitVec.eq_of_toNat_eq
  have size : 2 ^ m = 2 ^ lo * 2 ^ (m - lo) := by rw [← Nat.pow_add, Nat.add_sub_cancel' (Nat.le_of_add_right_le fits)]
  have upper : n / 2 ^ lo = v.toNat + high * 2 ^ w := by
    rw [sum, Nat.pow_add, Nat.add_assoc, Nat.mul_left_comm, Nat.mul_comm v.toNat, ← Nat.mul_add,
      Nat.add_mul_div_left _ _ (Nat.two_pow_pos lo), Nat.div_eq_of_lt below, Nat.zero_add]
  rw [BitVec.extractLsb'_toNat, BitVec.toNat_ofNat, Nat.shiftRight_eq_div_pow, size, Nat.mod_mul_right_div_self,
    Nat.mod_mod_of_dvd _ (Nat.pow_dvd_pow 2 (Nat.le_sub_of_add_le' fits)), upper, Nat.add_mul_mod_self_right,
    Nat.mod_eq_of_lt v.isLt]

/-- The fields of a record do not overlap in its slot (R361). -/
theorem recordOf_slot (c : CmdRec) (op : BitVec 16) : recordOf (c.slot op.toNat) = (op, c) := by
  obtain ⟨job, rsvd, hsn, params⟩ := c
  have small : op.toNat % 2 ^ 16 = op.toNat := Nat.mod_eq_of_lt op.isLt
  simp only [recordOf, CmdRec.slot, small, Prod.mk.injEq, CmdRec.mk.injEq]
  refine ⟨?op, ?job, ?rsvd, ?hsn, ?params⟩
  case op =>
    exact extractLsb'_ofNat_field 0 (job.toNat + rsvd.toNat * 2 ^ 8 + hsn.toNat * 2 ^ 16 + params.toNat * 2 ^ 48)
      (by decide) (by decide) (by ring)
  case job =>
    exact extractLsb'_ofNat_field op.toNat (rsvd.toNat + hsn.toNat * 2 ^ 8 + params.toNat * 2 ^ 40)
      (by omega) (by decide) (by ring)
  case rsvd =>
    exact extractLsb'_ofNat_field (op.toNat + job.toNat * 2 ^ 16) (hsn.toNat + params.toNat * 2 ^ 32)
      (by omega) (by decide) (by ring)
  case hsn =>
    exact extractLsb'_ofNat_field (op.toNat + job.toNat * 2 ^ 16 + rsvd.toNat * 2 ^ 24) params.toNat
      (by omega) (by decide) (by ring)
  case params =>
    exact extractLsb'_ofNat_field (op.toNat + job.toNat * 2 ^ 16 + rsvd.toNat * 2 ^ 24 + hsn.toNat * 2 ^ 32) 0
      (by omega) (by decide) (by rw [Nat.zero_mul, Nat.add_zero])

/-- Every opcode that the dispatch on an opcode lists is in the catalogue (R370). -/
theorem commandOf_unlisted {op : BitVec 16} (unlisted : opcodes.contains op.toNat = false) (h : HostId) (c : CmdRec)
    (f : Faults) (x : Bool) (w : Option WayImage) : commandOf op h c f x w = .reservedOpcodeCommand h op c := by
  unfold commandOf
  split
  case h_54 => rfl
  all_goals exact absurd unlisted (by decide)

/-- The opcode and the record of a mailbox command name it, given what it meets outside its record (R370). -/
theorem commandOf_mailbox {i : Instr} {h : HostId} {op : BitVec 16} {c : CmdRec} (named : i.mailbox = some (h, op, c)) :
    commandOf op h c i.surroundings.1 i.surroundings.2.1 i.surroundings.2.2 = i := by
  cases i
  case reservedOpcodeCommand =>
    obtain ⟨unlisted, same⟩ := Option.ite_none_left_eq_some.mp named
    cases same
    exact commandOf_unlisted (Bool.eq_false_iff.mpr unlisted) ..
  all_goals cases named -- leaves the commands of the catalogue
  all_goals rfl

end Sys2Proof

namespace Sys2Proof.Machine

/-- Settles O6: the record is read back from its slot, and with its opcode it names the command. -/
theorem slotNamesItsCommand : Obligations.SlotNamesItsCommand := by
  intro i h op c named
  refine ⟨i.surroundings.1, i.surroundings.2.1, i.surroundings.2.2, ?_⟩
  rw [slotCommand, recordOf_slot]
  exact commandOf_mailbox named

end Sys2Proof.Machine
end

section
/-! The state after reset, a command that waits in its ring or is out of sequence, and what a completion leaves on its host's port
(R359, R360, R362 to R364). -/
namespace Sys2Proof.Machine

/-- Settles O3: each field by its value in `State.reset`, and both ports start alike. -/
theorem resetState : Obligations.ResetState := by
  refine ⟨rfl, rfl, rfl, rfl, rfl, rfl, rfl, rfl, rfl, rfl, rfl, fun h => ?_, rfl, rfl, rfl⟩
  cases h <;> exact ⟨rfl, rfl, rfl, rfl, rfl, rfl, rfl⟩

/-- Settles O7: every mailbox command but MBX_RESYNC is one use of `State.command`, which answers an HSN out of sequence. -/
theorem outOfSequenceCommand : Obligations.OutOfSequenceCommand := by
  intro i h op c s named notResync slot turn outOfSequence
  obtain ⟨sp, body, hop, runs⟩ := exec_mailbox_eq_command named notResync s
  rw [runs, State.command_outOfSequence slot turn outOfSequence, hop]

/-- Opcode 0x0001 is MBX_RESYNC's alone (R370). -/
theorem eq_mbxResync_of_mailbox {i : Instr} {h : HostId} {c : CmdRec} (named : i.mailbox = some (h, 0x0001#16, c)) :
    i = .mbxResync h c := (commandOf_mailbox named).symm

/-- Settles O8: `State.command` leaves the state of a host whose slot is not taken, and MBX_RESYNC, which is outside it, makes the
same test first. -/
theorem commandWaitsInItsRing : Obligations.CommandWaitsInItsRing := by
  intro i h op c s named waits
  have notTaken : (s.mayTake h && s.turnOf h) = false := Bool.and_eq_false_iff.mpr waits
  by_cases resync : op = 0x0001#16
  · subst resync
    rw [eq_mbxResync_of_mailbox named]
    simp only [exec, execMbxResync, notTaken, Bool.not_false, if_true]
  · obtain ⟨sp, body, -, runs⟩ := exec_mailbox_eq_command named resync s
    rw [runs, State.command_waits notTaken]

/-- What signalling a vector leaves of a port: its rings, their indices, its sequence numbers and its open commands. -/
def HostPort.rings (p : HostPort) : HostPort :=
  { p with msixPend := 0, msixDefer := 0, msixLast := [], msixSent := [] }

@[simp] theorem HostPort.rings_latch (p : HostPort) (v : Nat) : (p.latch v).rings = p.rings := rfl

@[simp] theorem HostPort.rings_send (p : HostPort) (now v : Nat) : (p.send now v).rings = p.rings := rfl

@[simp] theorem HostPort.rings_signal (p : HostPort) (now v : Nat) : (p.signal now v).rings = p.rings := by
  unfold HostPort.signal
  split
  · rfl
  · split
    · split <;> rfl
    · rfl

/-- A completion record goes to the slot of MBX_CPL_TAIL, under the next DSN (R363). -/
theorem State.rings_record (s : State) (h : HostId) (kind hsn op job status stage result : Nat) :
    ((s.record h kind hsn op job status stage result).host h).rings = HostPort.rings { s.host h with
      cplRing := mset (s.host h).cplRing ((s.host h).cplTail.toNat % 1024)
        ⟨(s.host h).nextDsn, hsn, status, kind, job, op, stage, result % 2 ^ 64⟩
      cplTail := (s.host h).cplTail + 1
      nextDsn := if (s.host h).nextDsn = 0xFFFFFFFF then 1 else (s.host h).nextDsn + 1 } := by
  unfold State.record
  dsimp only
  rw [State.setHost_host, HostPort.rings_signal]

/-- A field that `HostPort.rings` keeps is the same in two ports that agree there. -/
theorem HostPort.eq_of_rings {α : Type} {p q : HostPort} (same : p.rings = q.rings) (f : HostPort → α)
    (kept : ∀ r : HostPort, f r.rings = f r := by intro; rfl) : f p = f q := by
  rw [← kept p, same, kept q]

/-- Settles O11: the completion is one record, and its signal moves nothing but the port's messages. -/
theorem completionRecord : Obligations.CompletionRecord := by
  intro sp h c s r
  have port := State.rings_record s h 0 c.hsn.toNat sp.op c.job.toNat 0x0000 s.stage r
  have quiet : (completed sp h c s r).silent = s.silent := State.silent_record ..
  have ring : ((completed sp h c s r).host h).cplRing = _ := HostPort.eq_of_rings port HostPort.cplRing
  refine ⟨_, rfl, ?slot, fun k other => ?others, HostPort.eq_of_rings port HostPort.cplTail,
    HostPort.eq_of_rings port HostPort.nextDsn, HostPort.eq_of_rings port HostPort.cplHead,
    HostPort.eq_of_rings port HostPort.cmdHead, HostPort.eq_of_rings port HostPort.cmdTail,
    HostPort.eq_of_rings port HostPort.openCmds, State.record_mem .., State.eq_of_silent quiet State.jobs, ?events⟩
  case slot => rw [ring, mget_mset_same]
  case others => rw [ring, mget_mset_ne _ _ _ _ other]
  case events => exact State.setHost_events s h _

end Sys2Proof.Machine
end

section
/-! MSI-X messages that waited (R358) and the accesses of a host through BAR4 (R356, R357, R395). -/
namespace Sys2Proof.Machine

/-- A bit that is masked out is clear. -/
theorem getLsbD_and_not_two_pow (x : BitVec 64) (v : Nat) : (x &&& ~~~(BitVec.ofNat 64 (2 ^ v))).getLsbD v = false := by
  rw [BitVec.getLsbD_and, BitVec.getLsbD_not, BitVec.getLsbD_ofNat, Nat.testBit_two_pow_self]
  simp

/-- Settles O28: the guard of each row holds, and a message that is sent is neither pending nor deferred any more. -/
theorem messagesThatWaitedAreSent : Obligations.MessagesThatWaitedAreSent := by
  intro h v s pwrok canSend
  refine ⟨fun pending => ?pending, fun deferred due => ?deferred, getLsbD_and_not_two_pow _ _,
    getLsbD_and_not_two_pow _ _, ?sent⟩
  case pending =>
    simp only [exec, execMsixPendingSend, pwrok, pending, canSend, Bool.and_self, if_true]
  case deferred =>
    have gone : mgetD (s.host h).msixLast v.toNat 0 + msixGap ≤ s.now := due
    simp only [exec, execMsixDeferredSend, pwrok, deferred, gone, canSend, decide_true, Bool.and_self, if_true]
  case sent =>
    exact (mgetD_mset _ _ _ _ _).trans (if_pos rfl)

/-! ### What reads and writes of lines leave -/

/-- A step that reads clean lines alone counts and marks nothing (R395). -/
theorem State.meet_clean {s : State} {f : Faults} {ls : List Nat} (noneBad : badLines s f ls = []) (noneCorrected : f.corr = [])
    (r : Reader) : s.meet r f ls = s := by
  refine List.foldlRecOn (motive := fun t => t = s) ls _ rfl (fun t same l mem => ?_)
  have clean : ¬ badLine s f l = true := List.filter_eq_nil_iff.mp noneBad l mem
  simp only [clean, noneCorrected, List.any_nil, Bool.false_eq_true, if_false, same]

/-- The reads before a partial write that meet no corrected line can only mark lines (R395, R398). -/
theorem State.merge_marks {f : Faults} (noneCorrected : f.corr = []) (s : State) (r : Reader) (ls : List Nat) :
    ∃ lines, s.merge r f ls = { s with marked := lines } := by
  refine foldl_keeps (fun t : State => ∃ lines, t = { s with marked := lines }) _ ls s (fun t l marks => ?_) ⟨s.marked, rfl⟩
  obtain ⟨lines, rfl⟩ := marks
  simp only [noneCorrected, List.any_nil, Bool.false_eq_true, if_false]
  split
  · unfold State.mark
    split
    · exact ⟨_, rfl⟩
    · exact ⟨_, rfl⟩
  · exact ⟨_, rfl⟩

/-- A mirror takes no event number (R379). -/
theorem State.mirror_nextSeq (s : State) (h : HostId) (e : EventRec) : (s.mirror h e).nextSeq = s.nextSeq := by
  unfold State.mirror
  dsimp only
  split
  · rw [State.setHost_nextSeq, State.store_nextSeq]
  · rfl

/-- An event whose source is not the Caravaneer takes one number, whatever state that firmware is in (R378, R474). -/
theorem State.post_nextSeq {s : State} {e : EventRec} (pwrok : s.pwrok = true) (source : (e.srcType == 0) = false) :
    (s.post e).nextSeq = s.nextSeq + 1 := by
  simp only [State.post, pwrok, source, Bool.not_true, Bool.false_and, Bool.or_self, Bool.false_eq_true, if_false,
    apply_ite State.nextSeq, State.mirror_nextSeq, ite_self]

theorem State.bar0Up_pwrok {s : State} {h : HostId} (up : s.bar0Up h = true) : s.pwrok = true := by
  simp only [State.bar0Up, Bool.and_eq_true] at up
  obtain ⟨⟨⟨pwrok, -⟩, -⟩, -⟩ := up
  exact pwrok

/-- Settles O29: the access passes its guards; clean lines are read as they are, what a write covers is as written and the
rest as before, and an access out of reach posts its event. -/
theorem hostMemoryAccess : Obligations.HostMemoryAccess := by
  refine ⟨?read, ?write, ?outOfReach⟩
  case read =>
    intro h off len ide f s a up ready allowed inWindow nonzero atMost reach reachEnd clean corrected
    have fits : ¬ 4096 < len.toNat := Nat.not_lt.mpr atMost
    simp only [exec, execBar4Read, up, ready, allowed, inWindow, beq_false_of_ne nonzero, fits, reach, reachEnd, clean,
      State.meet_clean clean corrected, List.isEmpty_nil, Bool.not_true, Bool.and_self, Bool.or_self, decide_false,
      Bool.false_eq_true, if_false]
  case write =>
    intro h off data ide f s a up ready allowed nonempty atMost inWindow reach reachEnd notLog notLogEnd _ corrected inv
    have nonzero : data.length ≠ 0 := mt List.length_eq_zero_iff.mp nonempty
    have fits : ¬ 4096 < data.length := Nat.not_lt.mpr atMost
    obtain ⟨lines, merged⟩ := State.merge_marks corrected s (hostReader h)
      ((linesOf a data.length).filter (fun l => !decide (a ≤ l ∧ l + 64 ≤ a + data.length)))
    have marksOnly : Inv { s with marked := lines } := inv
    have runs : exec (.bar4Write h off data ide f) s = .next ({ s with marked := lines }.store a data) := by
      simp only [exec, execBar4Write, up, ready, allowed, inWindow, beq_false_of_ne nonzero, fits, reach, reachEnd, notLog,
        notLogEnd, State.put, merged, Bool.not_true, Bool.and_self, Bool.or_self, decide_false, Bool.false_eq_true, if_false]
    refine ⟨_, runs, fun k hk => ?written, fun x outside => ?kept, rfl, rfl, rfl, rfl⟩
    case written =>
      rw [State.byte_store marksOnly, if_pos ⟨Nat.le_add_right a k, Nat.add_lt_add_left hk a⟩, Nat.add_sub_cancel_left,
        List.getD_eq_getElem _ _ hk]
    case kept => exact (State.byte_store marksOnly a x data).trans (if_neg (by omega))
  case outOfReach =>
    intro h off len ide f s a up ready allowed inWindow nonzero atMost unreachable
    have fits : ¬ 4096 < len.toNat := Nat.not_lt.mpr atMost
    have runs : exec (.bar4Read h off len ide f) s = .next ((s.hostAddrFault h a).setHost h
        { (s.hostAddrFault h a).host h with rd := some (List.replicate len.toNat 0xFF#8, false) }) := by
      simp only [exec, execBar4Read, up, ready, allowed, inWindow, beq_false_of_ne nonzero, fits, unreachable,
        Bool.not_true, Bool.false_and, Bool.not_false, Bool.or_self, decide_false, Bool.false_eq_true, if_false, if_true]
    refine ⟨_, runs, by rw [State.setHost_host], ?numbered⟩
    rw [State.setHost_nextSeq]
    exact State.post_nextSeq (State.bar0Up_pwrok up) rfl

end Sys2Proof.Machine
end

section
/-! The IDE key messages of a port's secured session (R355, R448, R461). -/
namespace Sys2Proof.Machine

section
variable {s : State} {h : HostId} (session : s.ideSession h = true)
include session

/-- In the pause of an activation a message is answered with Busy, whatever it asks (R461). -/
theorem State.ideRow_paused (paused : s.upd.act.any (fun p => p.1 == ActPhase.paused) = true) (own : State → State) :
    s.ideRow h own = spdmReply s (.doe h) [0x12, 0x7F, 0x03, 0] := by
  simp only [State.ideRow, session, paused, Bool.not_true, Bool.false_eq_true, if_false, if_true]
  rfl

/-- Outside the pause the message's own part runs. -/
theorem State.ideRow_runs (awake : s.upd.act.any (fun p => p.1 == ActPhase.paused) = false) (own : State → State) :
    s.ideRow h own = own s := by
  simp only [State.ideRow, session, awake, Bool.not_true, Bool.false_eq_true, if_false]

end

/-- A programmed key set is started or stopped. -/
theorem State.ideGo_programmed {s : State} {h : HostId} {stream k : Nat} {st : IdeStream}
    (found : mget (s.host h).streams stream = some st) (programmed : (mget st.keys k).isSome = true) (go : Bool) :
    s.ideGo h stream k go = (s.setHost h { s.host h with
      streams := mset (s.host h).streams stream ⟨st.keys, st.ivs, mset st.go k go⟩ }).ideAnswer h 0x06 [Byte.of stream, 0] := by
  simp only [State.ideGo, found, programmed, if_true, BitVec.ofNat_eq_ofNat]

/-- Settles O31: each message is one use of `ideRow`; the streams of the port decide what its own part does. -/
theorem linkKeyCommandsComplete : Obligations.LinkKeyCommandsComplete := by
  intro h s session
  refine ⟨fun paused n set dir sub key iv t ht => ?paused, fun awake => ⟨?query, fun n set dir sub key iv => ?program,
    fun n set dir sub st found programmed => ?run⟩⟩
  case paused =>
    subst ht
    have busy (own : State → State) :=
      congrArg (Host.Outcome.next (φ := Fault) (ρ := Refusal)) (State.ideRow_paused session paused own)
    exact ⟨busy _, busy _, busy _, busy _⟩
  case query =>
    simp only [exec, execIdeKmQuery, State.ideRow_runs session awake]
  case program =>
    refine ⟨fun new full => ?_, fun new room => ?_, fun st found => ?_⟩
    · simp only [exec, execIdeKmKeyProg, State.ideRow_runs session awake, State.ideProg, new, full, if_true,
        BitVec.ofNat_eq_ofNat]
    · simp only [exec, execIdeKmKeyProg, State.ideRow_runs session awake, State.ideProg, new, Nat.not_le.mpr room, if_false,
        BitVec.ofNat_eq_ofNat]
    · simp only [exec, execIdeKmKeyProg, State.ideRow_runs session awake, State.ideProg, found, BitVec.ofNat_eq_ofNat]
  case run =>
    constructor
    · simp only [exec, execIdeKmKSetGo, State.ideRow_runs session awake, State.ideGo_programmed found programmed]
    · simp only [exec, execIdeKmKSetStop, State.ideRow_runs session awake, State.ideGo_programmed found programmed]

end Sys2Proof.Machine
end

section
/-! The lands of the package, the device-fatal errors that they and the rails cause, and the regulator bridge (R354, R392, R408,
R423, R425, R428). -/
namespace Sys2Proof.Machine

/-! ### What a device-fatal error leaves -/

/-- A device-fatal error after the first logs its cause and changes nothing more (R407). -/
theorem State.deviceFatal_again {s : State} (pwrok : s.pwrok = true) (fatal : s.fatal = true) (cause : Option EventRec)
    (a b : Nat) : s.deviceFatal cause a b = (cause.map s.post).getD s := by
  simp only [State.deviceFatal, pwrok, fatal, Bool.not_true, Bool.false_eq_true, if_false, if_true]

/-- A device with power is fatal after a device-fatal error, the first one or a later one (R407, R408). -/
theorem State.deviceFatal_fatal_of_pwrok {s : State} (pwrok : s.pwrok = true) (cause : Option EventRec) (a b : Nat) :
    (s.deviceFatal cause a b).fatal = true := by
  cases fatal : s.fatal with
  | true =>
    rw [State.deviceFatal_again pwrok fatal]
    cases cause with
    | none => exact fatal
    | some e => exact (s.post_fatal e).trans fatal
  | false => simp only [State.deviceFatal, pwrok, fatal, Bool.not_true, Bool.false_eq_true, if_false, State.signal_fatal]

/-- Where no Caravaneer works, no event and no report is written (R408, log 72). -/
theorem State.deviceFatal_unlogged {s : State} (down : s.cvrUp = false) (a b : Nat) :
    (s.deviceFatal none a b).mem = s.mem ∧ (s.deviceFatal none a b).events = s.events
      ∧ (s.deviceFatal none a b).jobs = s.jobs := by
  unfold State.deviceFatal
  split
  · exact ⟨rfl, rfl, rfl⟩
  · split
    · exact ⟨rfl, rfl, rfl⟩
    · simp only [Option.map_none, Option.getD_none, down, Bool.false_eq_true, if_false]
      exact ⟨rfl, rfl, rfl⟩

theorem State.post_thermtrip (s : State) (e : EventRec) : (s.post e).thermtrip = s.thermtrip :=
  State.eq_of_silent (s.silent_post e) State.thermtrip

theorem State.signal_thermtrip (s : State) (h : HostId) (v : Nat) : (s.signal h v).thermtrip = s.thermtrip :=
  State.eq_of_silent (s.silent_signal h v) State.thermtrip

theorem State.fatalReports_thermtrip (s : State) (c n : Nat) : (s.fatalReports c n).thermtrip = s.thermtrip := by
  refine foldl_keeps (fun t : State => t.thermtrip = s.thermtrip) _ _ _ (fun t p same => ?_) rfl
  split <;> exact same

/-- THERMTRIP_N is no part of a device-fatal error. -/
theorem State.deviceFatal_thermtrip (s : State) (cause : Option EventRec) (a b : Nat) :
    (s.deviceFatal cause a b).thermtrip = s.thermtrip := by
  cases cause <;> simp only [State.deviceFatal, Option.map_some, Option.map_none, Option.getD_some, Option.getD_none,
    apply_ite State.thermtrip, State.signal_thermtrip, State.post_thermtrip, State.fatalReports_thermtrip, ite_self]

/-! ### The thermal trip, the rails and the bridge -/

/-- The device with THERMTRIP_N asserted. -/
def State.tripLine (s : State) : State := { s with thermtrip := true }

/-- What the thermal trip does to a device with power: THERMTRIP_N, then a device-fatal error (R428). -/
def State.tripped (s : State) (u : ThermUnit) (temp : Nat) : State :=
  s.tripLine.deviceFatal (if s.cvrUp then some (s.thermalEvent u temp 3) else none) 0x0701 0

theorem State.tripped_thermtrip (s : State) (u : ThermUnit) (temp : Nat) : (s.tripped u temp).thermtrip = true :=
  State.deviceFatal_thermtrip ..

theorem State.tripped_fatal {s : State} (pwrok : s.pwrok = true) (u : ThermUnit) (temp : Nat) : (s.tripped u temp).fatal = true :=
  State.deviceFatal_fatal_of_pwrok (s := s.tripLine) pwrok _ _ _

theorem State.tripped_unlogged {s : State} (down : s.cvrUp = false) (u : ThermUnit) (temp : Nat) :
    (s.tripped u temp).mem = s.mem ∧ (s.tripped u temp).events = s.events ∧ (s.tripped u temp).jobs = s.jobs := by
  rw [State.tripped, down]
  exact State.deviceFatal_unlogged (s := s.tripLine) down _ _

/-- The trip of a device that is fatal already: THERMTRIP_N, and its event where a Caravaneer works. -/
theorem State.tripped_again {s : State} (pwrok : s.pwrok = true) (fatal : s.fatal = true) (u : ThermUnit) (temp : Nat) :
    s.tripped u temp = if s.cvrUp then s.tripLine.post (s.thermalEvent u temp 3) else s.tripLine := by
  rw [State.tripped, State.deviceFatal_again (s := s.tripLine) pwrok fatal]
  split <;> rfl

/-- The trip of a unit that the part has, from 105 °C on; a boot in progress stops (R428, R439). -/
theorem execThermalTrip_trips {s : State} {u : ThermUnit} {temp : BitVec 8} (pwrok : s.pwrok = true) (hot : 105 ≤ temp.toNat)
    (there : u.present s.part = true) : exec (.thermalTrip u temp) s = .next (if s.ready || s.fatal then s.tripped u temp.toNat
      else { s.tripped u temp.toNat with phaseReached := s.phase, phase := 0xF }) := by
  have trips : ¬ (!s.pwrok || decide (temp.toNat < 105) || !u.present s.part) = true := by
    simp only [pwrok, there, Nat.not_lt.mpr hot, decide_false, Bool.not_true, Bool.or_self, Bool.false_eq_true, not_false_eq_true]
  exact if_neg trips

/-- Without a faulting rail of the part, nothing happens (R423). -/
theorem State.readRails_none {s : State} {rails : List RailStatus} (sound : faultingRail s.part rails = none) :
    s.readRails rails = s := by
  simp only [State.readRails, sound, ite_self]

/-- The first faulting rail is device-fatal (R423). -/
theorem State.readRails_faulting {s : State} {rails : List RailStatus} {r : Nat} (pwrok : s.pwrok = true) (ready : s.ready = true)
    (faulting : faultingRail s.part rails = some r) : s.readRails rails = s.deviceFatal none 0 r := by
  simp only [State.readRails, pwrok, ready, faulting, Bool.and_self, if_true]

/-- An idle bridge keeps of a write the bits that VRB_CMD has (R392). -/
theorem State.vrbWrite_idle {s : State} (idle : s.vrb.busy = false) (v : BitVec 32) :
    s.vrbWrite v.toNat = { s with vrb := { s.vrb with next := v &&& 0x3FF1F, busy := true } } := by
  have masked : BitVec.ofNat 32 (v.toNat &&& 0x3FF1F) = v &&& 0x3FF1F := BitVec.eq_of_toNat_eq (by simp)
  simp only [State.vrbWrite, idle, masked, Bool.false_eq_true, if_false]

/-- Settles O24: each land and each row of the bridge passes its guards; the rails, the clock and the trip come to a device-fatal
error. -/
theorem landsAndRegulatorsComplete : Obligations.LandsAndRegulatorsComplete := by
  refine ⟨fun h s => rfl, fun h s => ?release, fun s => ⟨rfl, fun pwrok => State.deviceFatal_fatal_of_pwrok pwrok _ _ _⟩,
    fun u temp s pwrok hot there => ?trip, fun s => rfl, fun rails s sound => ?sound,
    fun rails r s pwrok ready _ faulting => ?faulting, fun v s up => ?hostA, fun v s => ?hostB, fun r s busy => ?done⟩
  case release =>
    simp only [exec, execPerstRelease, HostPort.train, Bool.not_false, Bool.and_true]
  case trip =>
    refine ⟨_, execThermalTrip_trips pwrok hot there, ?thermtrip, ?fatal, fun booting working => ?phase,
      fun down => ?unlogged, fun fatal down => ?again, fun fatal up => ?logged⟩
    case thermtrip => simp only [apply_ite State.thermtrip, State.tripped_thermtrip, ite_self]
    case fatal => simp only [apply_ite State.fatal, State.tripped_fatal pwrok, ite_self]
    case phase =>
      rw [booting, working]
      exact ⟨rfl, rfl⟩
    case unlogged =>
      simpa only [apply_ite State.mem, apply_ite State.events, apply_ite State.jobs, ite_self]
        using State.tripped_unlogged down u temp.toNat
    case again =>
      rw [if_pos (Bool.or_eq_true_iff.mpr (.inr fatal)), State.tripped_again pwrok fatal, down]
      rfl
    case logged =>
      rw [if_pos (Bool.or_eq_true_iff.mpr (.inr fatal)), State.tripped_again pwrok fatal, up]
      rfl
  case sound =>
    have same := congrArg (Host.Outcome.next (φ := Fault) (ρ := Refusal)) (State.readRails_none sound)
    exact ⟨same, same⟩
  case faulting =>
    have fails := congrArg (Host.Outcome.next (φ := Fault) (ρ := Refusal)) (State.readRails_faulting pwrok ready faulting)
    exact ⟨fails, fails, State.deviceFatal_fatal_of_pwrok pwrok _ _ _⟩
  case hostA =>
    refine ⟨fun idle => ?_, fun busy => ?_, fun clears => ?_⟩
    · simp only [exec, execVrbCmdWrite, up, State.vrbWrite_idle idle, and_self, if_true]
    · simp only [exec, execVrbCmdWrite, up, State.vrbWrite, busy, and_self, if_true]
    · simp only [exec, execVrbDroppedClear, up, clears, and_self, if_true]
  case hostB =>
    constructor
    · simp only [exec, execVrbCmdWrite, reduceCtorEq, and_false, if_false]
    · simp only [exec, execVrbDroppedClear, reduceCtorEq, false_and, and_false, if_false]
  case done =>
    refine ⟨fun unsent => ?_, fun sends => ?_, fun sends => ?_, fun d sends word => ?_, fun d sends byte => ?_⟩
    · simp only [exec, execVrbTransactionDone, busy, unsent, Bool.not_true, Bool.not_false, Bool.false_eq_true, if_false, if_true]
    · simp only [exec, execVrbTransactionDone, busy, sends, Bool.not_true, Bool.false_eq_true, if_false]
    · simp only [exec, execVrbTransactionDone, busy, sends, Bool.not_true, Bool.false_eq_true, if_false]
    · simp only [exec, execVrbTransactionDone, busy, sends, word, Bool.not_true, Bool.false_eq_true, if_false, if_true,
        Nat.one_ne_zero, BitVec.ofNat_eq_ofNat]
    · simp only [exec, execVrbTransactionDone, busy, sends, byte, Bool.not_true, Bool.false_eq_true, if_false, if_true,
        BitVec.ofNat_eq_ofNat]

end Sys2Proof.Machine
end

section
/-! What a step may leave: predicates that say of each kind of result that every state in it meets the invariant, and how
they pass through choices, folds and equal memories. -/
namespace Sys2Proof.Machine

/-- The state that a command answers meets the invariant. -/
@[reducible] def Answers : Host.Outcome State Fault Refusal → Prop
  | .next t => Inv t
  | .fault _ => True
  | .refused _ => True

/-- The state that a command's own part leaves meets the invariant. -/
@[reducible] def CmdRes.Keeps : CmdRes → Prop
  | .done t _ _ => Inv t
  | .doneAt t _ _ _ => Inv t
  | .later t _ => Inv t

/-- The state that an update request's turn leaves meets the invariant. -/
@[reducible] def DlvRes.Keeps : DlvRes → Prop
  | .answer t _ _ => Inv t
  | .opened t => Inv t
  | .write _ => True

/-- The state in which a request has been issued meets the invariant. -/
@[reducible] def IssueRes.Keeps : IssueRes → Prop
  | .sent t => Inv t
  | .unreachable => True
  | .stall => True

/-- The state that placing an attention task leaves meets the invariant. -/
@[reducible] def AttGo.Keeps : AttGo → Prop
  | .go t => Inv t
  | .hold t => Inv t

/-- The state that an optional result holds meets the invariant. -/
@[reducible] def OptKeeps : Option State → Prop
  | some t => Inv t
  | none => True

/-- The state of an optional result that holds more than a state meets the invariant. -/
@[reducible] def OptKeepsFst {α : Type} : Option (State × α) → Prop
  | some p => Inv p.1
  | none => True

/-- The state of an optional result that names it second meets the invariant. -/
@[reducible] def OptKeepsSnd {α : Type} : Option (α × State) → Prop
  | some p => Inv p.2
  | none => True

/-- The state of a result that may be a status instead meets the invariant. -/
@[reducible] def ExceptKeeps {ε : Type} : Except ε State → Prop
  | .ok t => Inv t
  | .error _ => True

/-- The state of a result that may be a status, or holds more than a state, meets the invariant. -/
@[reducible] def ExceptKeepsFst {ε α : Type} : Except ε (State × α) → Prop
  | .ok p => Inv p.1
  | .error _ => True

/-! ### From the result back to its state -/

theorem Answers.of_next {x : Host.Outcome State Fault Refusal} {t : State} (e : x = .next t) (k : Answers x) : Inv t := by
  rw [e] at k
  exact k

theorem DlvRes.of_answer {x : DlvRes} {t : State} {a b : Nat} (e : x = .answer t a b) (k : x.Keeps) : Inv t := by
  rw [e] at k
  exact k

theorem DlvRes.of_opened {x : DlvRes} {t : State} (e : x = .opened t) (k : x.Keeps) : Inv t := by
  rw [e] at k
  exact k

theorem IssueRes.of_sent {x : IssueRes} {t : State} (e : x = .sent t) (k : x.Keeps) : Inv t := by
  rw [e] at k
  exact k

theorem AttGo.of_go {x : AttGo} {t : State} (e : x = .go t) (k : x.Keeps) : Inv t := by
  rw [e] at k
  exact k

theorem AttGo.of_hold {x : AttGo} {t : State} (e : x = .hold t) (k : x.Keeps) : Inv t := by
  rw [e] at k
  exact k

theorem OptKeeps.of_eq {x : Option State} {t : State} (e : x = some t) (k : OptKeeps x) : Inv t := by
  rw [e] at k
  exact k

theorem OptKeepsFst.of_eq {α : Type} {x : Option (State × α)} {t : State} {a : α} (e : x = some (t, a))
    (k : OptKeepsFst x) : Inv t := by
  rw [e] at k
  exact k

theorem OptKeepsSnd.of_eq {α : Type} {x : Option (α × State)} {t : State} {a : α} (e : x = some (a, t))
    (k : OptKeepsSnd x) : Inv t := by
  rw [e] at k
  exact k

theorem ExceptKeeps.of_eq {ε : Type} {x : Except ε State} {t : State} (e : x = .ok t) (k : ExceptKeeps x) : Inv t := by
  rw [e] at k
  exact k

theorem ExceptKeepsFst.of_eq {ε α : Type} {x : Except ε (State × α)} {t : State} {a : α} (e : x = .ok (t, a))
    (k : ExceptKeepsFst x) : Inv t := by
  rw [e] at k
  exact k

theorem fst_of_eq {α : Type} {x : State × α} {t : State} {a : α} (e : x = (t, a)) (k : Inv x.1) : Inv t := by
  rw [e] at k
  exact k

theorem snd_of_eq {α : Type} {x : α × State} {t : State} {a : α} (e : x = (a, t)) (k : Inv x.2) : Inv t := by
  rw [e] at k
  exact k

/-! ### Choices and shared shapes -/

/-- A choice between two results that both have a property. -/
theorem keeps_ite {α : Type} {P : α → Prop} {c : Prop} [Decidable c] {x y : α} (a : P x) (b : P y) :
    P (if c then x else y) := by
  split
  · exact a
  · exact b

theorem inv_getD {o : Option State} {s : State} (k : OptKeeps o) (i : Inv s) : Inv (o.getD s) := by
  cases o with
  | none => exact i
  | some _ => exact k

theorem OptKeeps.map {β : Type} {o : Option β} {f : β → State} (h : ∀ b, Inv (f b)) : OptKeeps (o.map f) := by
  cases o with
  | none => trivial
  | some b => exact h b

theorem OptKeepsFst.map {α β : Type} {o : Option β} {f : β → State × α} (h : ∀ b, Inv (f b).1) :
    OptKeepsFst (o.map f) := by
  cases o with
  | none => trivial
  | some b => exact h b

theorem OptKeeps.mapState {o : Option State} {f : State → State} (k : OptKeeps o) (h : ∀ t, Inv t → Inv (f t)) :
    OptKeeps (o.map f) := by
  cases o with
  | none => trivial
  | some t => exact h t k

theorem OptKeeps.bind {o : Option State} {f : State → Option State} (k : OptKeeps o) (h : ∀ t, Inv t → OptKeeps (f t)) :
    OptKeeps (o.bind f) := by
  cases o with
  | none => trivial
  | some t => exact h t k

/-- A mailbox command keeps what its own part keeps. -/
theorem State.inv_commandRes {s : State} (i : Inv s) (sp : CmdSpec) (h : HostId) (c : CmdRec) (body : State → CmdRes)
    (b : ∀ t, Inv t → (body t).Keeps) : Inv (s.command sp h c body) :=
  State.inv_command i sp h c body (fun t k => by
    have r := b t k
    revert r
    cases body t <;> exact id)

/-- A host command that writes host memory. -/
theorem State.hostWrite_keeps {s : State} (i : Inv s) (h : HostId) (a : Nat) (d : List Byte) :
    OptKeeps (s.hostWrite h a d) := by
  unfold State.hostWrite
  exact keeps_ite (State.inv_store i _ _) trivial

/-! ### Record updates of the state -/

theorem State.inv_setHost {s : State} (i : Inv s) (h : HostId) (p : HostPort) : Inv (s.setHost h p) :=
  inv_of_mem (State.setHost_mem s h p) i

theorem State.inv_setBlk {s : State} (i : Inv s) (n : Nat) (b : Blk) : Inv (s.setBlk n b) :=
  inv_of_mem (State.setBlk_mem s n b) i

theorem State.inv_setJob {s : State} (i : Inv s) (j : Nat) (b : Job) : Inv (s.setJob j b) :=
  inv_of_mem (State.setJob_mem s j b) i

theorem State.inv_modJob {s : State} (i : Inv s) (j : Nat) (f : Job → Job) : Inv (s.modJob j f) :=
  inv_of_mem (State.modJob_mem s j f) i

theorem State.inv_modRun {s : State} (i : Inv s) (j : Nat) (f : RunStep → RunStep) : Inv (s.modRun j f) :=
  inv_of_mem (State.modRun_mem s j f) i

theorem State.inv_modTask {s : State} (i : Inv s) (j id : Nat) (f : TaskRun → TaskRun) : Inv (s.modTask j id f) :=
  inv_of_mem (State.modTask_mem s j id f) i

theorem State.inv_modTrain {s : State} (i : Inv s) (j : Nat) (f : Train → Train) : Inv (s.modTrain j f) :=
  inv_of_mem (State.modTrain_mem s j f) i

theorem State.inv_modEng {s : State} (i : Inv s) (x : EngRun) (f : TaskRun → TaskRun) : Inv (s.modEng x f) :=
  inv_of_mem (State.modEng_mem s x f) i

theorem State.inv_setEng {s : State} (i : Inv s) (x : EngRun) (e : Eng) : Inv (s.setEng x e) :=
  inv_of_mem (State.setEng_mem s x e) i

theorem State.inv_setCore {s : State} (i : Inv s) (n : Nat) (c : CoreSt) : Inv (s.setCore n c) :=
  inv_of_mem (State.setCore_mem s n c) i

theorem State.inv_setPort {s : State} (i : Inv s) (n : Nat) (p : Port) : Inv (s.setPort n p) :=
  inv_of_mem (State.setPort_mem s n p) i

theorem State.inv_modPort {s : State} (i : Inv s) (n : Nat) (f : Port → Port) : Inv (s.modPort n f) :=
  inv_of_mem (State.modPort_mem s n f) i

theorem State.inv_setChan {s : State} (i : Inv s) (n : Nat) (c : Chan) : Inv (s.setChan n c) :=
  inv_of_mem (State.setChan_mem s n c) i

theorem State.inv_completeBoth {s : State} (i : Inv s) (f : OpenCmd → Option (Nat × Nat)) : Inv (s.completeBoth f) :=
  inv_of_mem (State.completeBoth_mem s f) i

theorem State.inv_record {s : State} (i : Inv s) (h : HostId) (kind hsn op job status stage result : Nat) :
    Inv (s.record h kind hsn op job status stage result) :=
  inv_of_mem (State.record_mem s h kind hsn op job status stage result) i

theorem State.inv_sendBy {s : State} (i : Inv s) (k : Nat) (l : Bool) (f : Frame) : Inv (s.sendBy k l f) :=
  inv_of_mem (State.sendBy_mem s k l f) i

/-! ### Registers -/

theorem State.inv_writeDevCtl {s : State} (i : Inv s) (v : Nat) : Inv (s.writeDevCtl v) := by
  unfold State.writeDevCtl
  exact inv_ite i i

theorem State.inv_writeWin {s : State} (i : Inv s) (h : HostId) (hi : Bool) (v : Nat) : Inv (s.writeWin h hi v) := by
  unfold State.writeWin
  exact State.inv_setHost i _ _

theorem State.inv_clearErr {s : State} (i : Inv s) (h : HostId) (v : Nat) : Inv (s.clearErr h v) := by
  unfold State.clearErr
  split <;> exact i

theorem State.inv_writeApply {s : State} (i : Inv s) (h : HostId) (dev : Bool) (v : Nat) :
    Inv (s.writeApply h dev v) := by
  unfold State.writeApply
  exact inv_ite (inv_ite i i) (State.inv_setHost i _ _)

theorem State.inv_vrbWrite {s : State} (i : Inv s) (v : Nat) : Inv (s.vrbWrite v) := by
  unfold State.vrbWrite
  exact inv_ite i i

theorem State.inv_bar0Write {s : State} (i : Inv s) (h : HostId) (off v : Nat) : Inv (s.bar0Write h off v) := by
  unfold State.bar0Write
  split
  · exact State.inv_clearErr i _ _
  · exact inv_ite (State.inv_writeDevCtl i _) i
  · exact State.inv_writeApply i _ _ _
  · exact State.inv_writeWin i _ _ _
  · exact State.inv_writeWin i _ _ _
  · exact State.inv_writeApply i _ _ _
  · exact inv_ite (State.inv_vrbWrite i _) i
  · exact inv_ite i i
  · exact i

theorem State.inv_pwWrite {s : State} (inv : Inv s) (i o v : Nat) : Inv (s.pwWrite i o v) := by
  unfold State.pwWrite
  dsimp only
  split <;> exact State.inv_setBlk inv _ _

theorem State.inv_blkWrite {s : State} (inv : Inv s) (w : Writer) (i o v : Nat) : Inv (s.blkWrite w i o v) := by
  unfold State.blkWrite
  refine inv_ite inv ?_
  refine inv_ite (State.inv_setBlk inv _ _) ?_
  refine inv_ite ?_ ?_
  · exact inv_ite (State.inv_setBlk inv _ _) inv
  · exact inv_ite (State.inv_pwWrite inv _ _ _) (State.inv_setBlk inv _ _)

theorem State.inv_devWrite {s : State} (i : Inv s) (w : Writer) (addr v : Nat) : Inv (s.devWrite w addr v) := by
  unfold State.devWrite
  refine inv_ite ?_ ?_
  · exact i
  · exact inv_ite (inv_ite (State.inv_bar0Write i _ _ _) (State.inv_bar0Write i _ _ _)) (State.inv_blkWrite i _ _ _ _)

theorem State.inv_sampleDev {s : State} (i : Inv s) : Inv s.sampleDev := by
  unfold State.sampleDev
  exact inv_ite i (inv_ite (State.inv_post (by exact i) _) (inv_ite (State.inv_post (by exact i) _) i))

theorem State.inv_postPage {s : State} (i : Inv s) (h : HostId) (hi : Bool) (copy : Nat) :
    Inv (s.postPage h hi copy) := by
  unfold State.postPage
  exact State.inv_post i _

theorem State.inv_samplePage {s : State} (i : Inv s) (h : HostId) : Inv (s.samplePage h) := by
  unfold State.samplePage
  refine inv_ite i ?_
  refine inv_ite ?_ ?_
  · refine inv_ite ?_ ?_
    · exact inv_ite (State.inv_setHost i _ _) (State.inv_postPage (State.inv_setHost i _ _) _ _ _)
    · exact State.inv_postPage (inv_ite (State.inv_setHost i _ _)
        (State.inv_postPage (State.inv_setHost i _ _) _ _ _)) _ _ _
  · exact inv_ite (State.inv_post (State.inv_setHost i _ _) _) (State.inv_setHost i _ _)

theorem State.inv_sampleBlk {s : State} (inv : Inv s) (i : Nat) : Inv (s.sampleBlk i) := by
  unfold State.sampleBlk
  refine inv_ite (State.inv_setBlk inv _ _) ?_
  split
  · exact foldl_keeps Inv _ _ _ (fun _ _ h1 => State.inv_post h1 _) (State.inv_setBlk inv _ _)
  · refine inv_ite ?_ ?_
    · exact inv_ite (State.inv_setBlk inv _ _) (State.inv_setBlk inv _ _)
    · exact State.inv_post (State.inv_setBlk inv _ _) _

theorem State.inv_boundaryApply {s : State} (inv : Inv s) (i : Nat) : Inv (s.boundaryApply i) := by
  unfold State.boundaryApply
  dsimp only
  split
  · exact inv
  · exact State.inv_setBlk inv _ _

theorem State.inv_sampleAll {s : State} (i : Inv s) : Inv s.sampleAll := by
  unfold State.sampleAll
  exact foldl_keeps Inv _ _ _ (fun _ _ h => State.inv_sampleBlk h _)
    (State.inv_samplePage (State.inv_samplePage (State.inv_sampleDev i) _) _)

theorem State.inv_parityDev {s : State} (i : Inv s) (g : Nat) (active : Bool) : Inv (s.parityDev g active) := by
  unfold State.parityDev
  exact inv_ite (State.inv_post (by exact i) _) i

theorem State.inv_parityPage {s : State} (i : Inv s) (h : HostId) (hi : Bool) (g : Nat) (active : Bool) :
    Inv (s.parityPage h hi g active) := by
  unfold State.parityPage
  exact inv_ite (State.inv_postPage (State.inv_setHost i _ _) _ _ _) (State.inv_setHost i _ _)

theorem State.inv_parityBlk {s : State} (inv : Inv s) (i o g : Nat) (active : Bool) :
    Inv (s.parityBlk i o g active) := by
  unfold State.parityBlk
  refine inv_ite ?_ ?_
  · dsimp only
    split
    · exact inv_ite (State.inv_deviceFatal inv _ _ _) (State.inv_post (State.inv_setBlk inv _ _) _)
    · exact State.inv_post (State.inv_setBlk inv _ _) _
  · exact State.inv_setBlk inv _ _

theorem execParityFault_answers {s : State} (i : Inv s) (addr : BitVec 48) (group : BitVec 1) (active : Bool) :
    Answers (execParityFault addr group active s) := by
  unfold execParityFault
  refine keeps_ite i ?_
  refine keeps_ite (State.inv_parityDev i _ _) ?_
  refine keeps_ite (State.inv_parityPage i _ _ _ _) ?_
  refine keeps_ite (State.inv_parityPage i _ _ _ _) ?_
  refine keeps_ite ?_ ?_
  · exact State.inv_parityPage i _ _ _ _
  · exact keeps_ite (State.inv_parityPage i _ _ _ _) (keeps_ite (State.inv_parityBlk i _ _ _ _) i)

theorem execPostedWriteTaken_answers {s : State} (i : Inv s) (block : BitVec 8) :
    Answers (execPostedWriteTaken block s) := by
  unfold execPostedWriteTaken
  dsimp only
  split
  · exact State.inv_setBlk i _ _
  · exact i

theorem execVrbTransactionDone_answers {s : State} (i : Inv s) (r : VrbReply) :
    Answers (execVrbTransactionDone r s) := by
  unfold execVrbTransactionDone
  refine keeps_ite i ?_
  refine keeps_ite i ?_
  split <;> exact i

theorem execDevTimeLoRead_answers {s : State} (i : Inv s) (h : HostId) : Answers (execDevTimeLoRead h s) := by
  unfold execDevTimeLoRead
  exact keeps_ite (State.inv_setHost i _ _) i

theorem execDevErrClear_answers {s : State} (i : Inv s) (h : HostId) (value : BitVec 32) :
    Answers (execDevErrClear h value s) := by
  unfold execDevErrClear
  exact keeps_ite (State.inv_clearErr i _ _) i

theorem State.inv_hostApply {s : State} (i : Inv s) (h : HostId) (t : RegTarget) (value : BitVec 32) :
    Inv (s.hostApply h t value) := by
  unfold State.hostApply
  split
  · exact inv_ite (State.inv_writeApply i _ _ _) (inv_ite (State.inv_writeApply i _ _ _) i)
  · exact i

theorem State.inv_unitApply {s : State} (i : Inv s) (w : Writer) (t : RegTarget) (value : BitVec 32) :
    Inv (s.unitApply w t value) := by
  unfold State.unitApply
  split
  · exact inv_ite (State.inv_blkWrite i _ _ _ _) (inv_ite (State.inv_devWrite i _ _ _) i)
  · exact i

theorem execApply_answers {s : State} (i : Inv s) (w : Writer) (t : RegTarget) (value : BitVec 32) :
    Answers (execApply w t value s) := by
  unfold execApply
  split
  · exact State.inv_hostApply i _ _ _
  · exact State.inv_unitApply i _ _ _

theorem execVrbCmdWrite_answers {s : State} (i : Inv s) (h : HostId) (value : BitVec 32) :
    Answers (execVrbCmdWrite h value s) := by
  unfold execVrbCmdWrite
  exact keeps_ite (State.inv_vrbWrite i _) i

theorem execVrbDroppedClear_answers {s : State} (i : Inv s) (h : HostId) (value : BitVec 32) :
    Answers (execVrbDroppedClear h value s) := by
  unfold execVrbDroppedClear
  exact keeps_ite i i

theorem execPostedWrite_answers {s : State} (i : Inv s) (w : Writer) (block : BitVec 8) (off : BitVec 12)
    (value : BitVec 32) : Answers (execPostedWrite w block off value s) := by
  unfold execPostedWrite
  exact keeps_ite (State.inv_pwWrite i _ _ _) i

theorem State.inv_hostRegWrite {s : State} (i : Inv s) (h : HostId) (t : RegTarget) (value : BitVec 32) :
    Inv (s.hostRegWrite h t value) := by
  unfold State.hostRegWrite
  refine inv_ite i ?_
  split
  · exact inv_ite (State.inv_bar0Write i _ _ _) i
  · exact inv_ite (State.inv_setHost i _ _) i
  · exact inv_ite (State.inv_setHost i _ _) i
  · exact inv_ite (State.inv_setHost i _ _) i
  · exact inv_ite (State.inv_setHost i _ _) i
  · exact State.inv_setHost i _ _
  · exact State.inv_setHost i _ _
  · exact State.inv_setHost i _ _
  · exact i

theorem State.inv_unitRegWrite {s : State} (i : Inv s) (w : Writer) (t : RegTarget) (value : BitVec 32) :
    Inv (s.unitRegWrite w t value) := by
  unfold State.unitRegWrite
  split
  · exact inv_ite (State.inv_devWrite i _ _ _) i
  · exact i

theorem execRegisterWrite_answers {s : State} (i : Inv s) (w : Writer) (t : RegTarget) (value : BitVec 32) :
    Answers (execRegisterWrite w t value s) := by
  unfold execRegisterWrite
  split
  · exact State.inv_hostRegWrite i _ _ _
  · exact State.inv_unitRegWrite i _ _ _

/-! ### Jobs and tasks -/

theorem State.inv_fatalMeet {s : State} (i : Inv s) (r : Reader) (f : Faults) (ls : List Nat) :
    Inv (s.fatalMeet r f ls) := by
  unfold State.fatalMeet
  refine foldl_keeps Inv _ _ _ (fun t a h => ?_) i
  refine inv_ite ?_ ?_
  · exact State.inv_wear (State.inv_jobFatal (inv_of_mem (State.countUnc_mem _ _)
      (inv_of_mem (State.mark_mem _ _) h)) _ _ _) _ _
  · exact inv_ite (State.inv_corrected h _ _ _) h

theorem execJobRelease_answers {s : State} (i : Inv s) (job : BitVec 4) : Answers (execJobRelease job s) := by
  unfold execJobRelease
  split
  · split
    · exact keeps_ite (State.inv_releaseJob i _) i
    · exact i
  · exact i

theorem State.inv_updFailed {s : State} (i : Inv s) (j id : Nat) : Inv (s.updFailed j id) := by
  unfold State.updFailed
  exact State.inv_modTrain (State.inv_modTask i _ _ _) _ _

/-! ### The boot flash, settings, updates -/

theorem State.inv_checkSettings {s : State} (i : Inv s) : Inv s.checkSettings := by
  unfold State.checkSettings
  exact foldl_keeps Inv _ _ _ (fun _ _ h => inv_ite (by exact h) (inv_ite (by exact h) h)) i

theorem State.inv_postSettings {s : State} (i : Inv s) : Inv s.postSettings := by
  unfold State.postSettings
  exact inv_of_mem rfl (foldl_keeps Inv _ _ _ (fun _ _ h => State.inv_post h _) i)

theorem State.inv_burnSvn {s : State} (i : Inv s) : Inv s.burnSvn := by
  unfold State.burnSvn
  split <;> exact i

theorem State.inv_queueFlash {s : State} (i : Inv s) (op : FlashOp) (a : Asker) : Inv (s.queueFlash op a) := by
  unfold State.queueFlash
  exact i

theorem State.inv_mctpAnswer {s : State} (i : Inv s) (b : List Byte) : Inv (s.mctpAnswer b) := by
  unfold State.mctpAnswer
  exact i

theorem State.inv_tellRes {s : State} (i : Inv s) (a : Asker) (st res : Nat) : Inv (s.tellRes a st res) := by
  unfold State.tellRes
  split
  · exact State.inv_mctpAnswer i _
  · exact inv_of_mem (State.completeWhere_mem _ _ _) i

theorem State.inv_tell {s : State} (i : Inv s) (a : Asker) (st : Nat) : Inv (s.tell a st) := by
  unfold State.tell
  exact State.inv_tellRes i _ _ _

theorem State.inv_flashed {s : State} (i : Inv s) (op : FlashOp) : Inv (s.flashed op) := by
  unfold State.flashed
  dsimp only
  split <;> exact i

theorem State.inv_startActivation {s : State} (i : Inv s) (a : Asker) : Inv (s.startActivation a) := by
  unfold State.startActivation
  exact i

theorem State.inv_confirm {s : State} (i : Inv s) : Inv s.confirm.1 := by
  unfold State.confirm
  split
  · exact State.inv_burnSvn i
  · exact i

theorem dlvRes_keeps {s : State} (i : Inv s) (x : Nat ⊕ FlashOp) : (dlvRes s x).Keeps := by
  unfold dlvRes
  split
  · exact i
  · exact trivial

theorem State.runChunk_keeps {s : State} (inv : Inv s) (h : HostId) (addr i : Nat) : (s.runChunk h addr i).Keeps := by
  unfold State.runChunk
  split
  · refine keeps_ite inv ?_
    split
    · exact inv
    · exact dlvRes_keeps inv _
  · exact inv

theorem State.runStatus_keeps {s : State} (i : Inv s) (h : HostId) (addr n : Nat) : (s.runStatus h addr n).Keeps := by
  unfold State.runStatus
  split
  · exact i
  · split
    · exact i
    next h2 => exact OptKeeps.of_eq h2 (State.hostWrite_keeps i _ _ _)

theorem State.runSetting_keeps {s : State} (i : Inv s) (n v : Nat) : (s.runSetting n v).Keeps := by
  unfold State.runSetting
  exact keeps_ite i trivial

theorem State.runUpd_keeps {s : State} (i : Inv s) (op : FlashOp) (a : Asker) : (s.runUpd op a).Keeps := by
  unfold State.runUpd
  split
  · exact State.runSetting_keeps i _ _
  · exact keeps_ite i (dlvRes_keeps i _)
  · exact keeps_ite i (dlvRes_keeps i _)
  · exact keeps_ite i (State.runChunk_keeps i _ _ _)
  · exact keeps_ite i (State.runStatus_keeps i _ _ _)
  · exact i
  · exact keeps_ite i (keeps_ite i (State.inv_startActivation i _))
  · exact keeps_ite i (State.inv_confirm i)

theorem State.inv_answerUpd {s : State} (i : Inv s) (op : FlashOp) (a : Asker) (st res : Nat) :
    Inv (s.answerUpd op a st res) := by
  unfold State.answerUpd
  split
  · exact inv_ite (State.inv_mctpAnswer i _) (State.inv_mctpAnswer i _)
  · exact State.inv_tellRes i _ _ _

theorem State.inv_settleUpd (n : Nat) {s : State} (i : Inv s) : Inv (State.settleUpd n s) := by
  induction n generalizing s with
  | zero => exact i
  | succ n ih =>
    unfold State.settleUpd
    split
    · exact i
    · split
      next e =>
        have k := DlvRes.of_answer e (State.runUpd_keeps i _ _)
        exact ih (State.inv_answerUpd (by exact k) _ _ _ _)
      next e =>
        have k := DlvRes.of_opened e (State.runUpd_keeps i _ _)
        exact ih (by exact k)
      · exact i

theorem execFlashProgramDone_answers {s : State} (i : Inv s) (ok : Bool) : Answers (execFlashProgramDone ok s) := by
  unfold execFlashProgramDone
  split
  · exact i
  · refine keeps_ite ?_ ?_
    · exact i
    · exact State.inv_settleUpd _ (inv_ite (State.inv_tell (State.inv_flashed (by exact i) _) _ _)
        (State.inv_tell (by exact i) _ _))

theorem State.askUpd_keeps {s : State} (i : Inv s) (op : FlashOp) (h : HostId) (hsn : Nat) (kind : OpenKind) :
    (s.askUpd op h hsn kind).Keeps := by
  unfold State.askUpd
  refine keeps_ite (State.inv_queueFlash i _ _) ?_
  split
  next h1 => exact DlvRes.of_answer h1 (State.runUpd_keeps i _ _)
  next h1 => exact DlvRes.of_opened h1 (State.runUpd_keeps i _ _)
  · exact State.inv_queueFlash i _ _

theorem State.inv_askMctp {s : State} (i : Inv s) (op : FlashOp) : Inv (s.askMctp op) := by
  unfold State.askMctp
  refine inv_ite (State.inv_queueFlash i _ _) ?_
  split
  next h => exact State.inv_answerUpd (DlvRes.of_answer h (State.runUpd_keeps i _ _)) _ _ _ _
  next h => exact DlvRes.of_opened h (State.runUpd_keeps i _ _)
  · exact State.inv_queueFlash i _ _

theorem execActivationVerifyDone_answers {s : State} (i : Inv s) (failed : List (BitVec 8)) :
    Answers (execActivationVerifyDone failed s) := by
  unfold execActivationVerifyDone
  split
  · exact keeps_ite i (keeps_ite i (State.inv_tell (by exact i) _ _))
  · exact i

theorem execActivationPause_answers {s : State} (i : Inv s) : Answers (execActivationPause s) := by
  unfold execActivationPause
  split
  · exact keeps_ite (State.inv_checkSettings i) i
  · exact i

theorem execActivationResume_answers {s : State} (i : Inv s) (switched : Bool) :
    Answers (execActivationResume switched s) := by
  unfold execActivationResume
  split
  · refine keeps_ite i ?_
    refine keeps_ite ?_ ?_
    · refine inv_ite ?_ ?_
      · exact State.inv_mctpAnswer (State.inv_postSettings (State.inv_post (by exact i) _)) _
      · exact State.inv_postSettings (State.inv_post (by exact i) _)
    · refine keeps_ite ?_ ?_
      · exact State.inv_postSettings (State.inv_post (State.inv_tell (by exact i) _ _) _)
      · exact State.inv_postSettings (State.inv_post (State.inv_tell (by exact i) _ _) _)
  · exact i

theorem execConfirmWindowExpiry_answers {s : State} (i : Inv s) : Answers (execConfirmWindowExpiry s) := by
  unfold execConfirmWindowExpiry
  exact keeps_ite (State.inv_checkSettings i) i

theorem execUpdateBegin_answers {s : State} (i : Inv s) (h : HostId) (c : CmdRec) :
    Answers (execUpdateBegin h c s) := by
  unfold execUpdateBegin
  refine State.inv_commandRes i _ _ _ _ (fun _ h1 => ?_)
  refine keeps_ite h1 ?_
  refine keeps_ite h1 ?_
  split
  · exact h1
  · exact State.askUpd_keeps h1 _ _ _ _

theorem execUpdateChunk_answers {s : State} (i : Inv s) (h : HostId) (c : CmdRec) :
    Answers (execUpdateChunk h c s) := by
  unfold execUpdateChunk
  exact State.inv_commandRes i _ _ _ _ (fun _ h1 => keeps_ite h1 (keeps_ite h1 (State.askUpd_keeps h1 _ _ _ _)))

theorem execUpdateStatus_answers {s : State} (i : Inv s) (h : HostId) (c : CmdRec) :
    Answers (execUpdateStatus h c s) := by
  unfold execUpdateStatus
  exact State.inv_commandRes i _ _ _ _ (fun _ h1 => keeps_ite h1 (keeps_ite h1 (State.askUpd_keeps h1 _ _ _ _)))

theorem execUpdateActivate_answers {s : State} (i : Inv s) (h : HostId) (c : CmdRec) :
    Answers (execUpdateActivate h c s) := by
  unfold execUpdateActivate
  exact State.inv_commandRes i _ _ _ _ (fun _ h1 => State.askUpd_keeps h1 _ _ _ _)

theorem execUpdateConfirm_answers {s : State} (i : Inv s) (h : HostId) (c : CmdRec) :
    Answers (execUpdateConfirm h c s) := by
  unfold execUpdateConfirm
  exact State.inv_commandRes i _ _ _ _ (fun _ h1 => State.askUpd_keeps h1 _ _ _ _)

theorem execSettingsSet_answers {s : State} (i : Inv s) (h : HostId) (c : CmdRec) :
    Answers (execSettingsSet h c s) := by
  unfold execSettingsSet
  refine State.inv_commandRes i _ _ _ _ (fun _ h1 => ?_)
  dsimp only
  split
  · exact h1
  · exact keeps_ite h1 (State.askUpd_keeps h1 _ _ _ _)

theorem execSettingsGet_answers {s : State} (i : Inv s) (h : HostId) (c : CmdRec) :
    Answers (execSettingsGet h c s) := by
  unfold execSettingsGet
  exact State.inv_commandRes i _ _ _ _ (fun _ h1 => keeps_ite h1 h1)

theorem execUpdManifestPiece_answers {s : State} (i : Inv s) (total : BitVec 32) (piece : BitVec 6)
    (data : List Byte) : Answers (execUpdManifestPiece total piece data s) := by
  unfold execUpdManifestPiece
  refine keeps_ite i ?_
  refine keeps_ite (State.inv_mctpAnswer i _) ?_
  refine keeps_ite (State.inv_mctpAnswer i _) ?_
  refine keeps_ite ?_ ?_
  · exact State.inv_mctpAnswer i _
  · exact keeps_ite (State.inv_askMctp (by exact i) _) (State.inv_mctpAnswer (by exact i) _)

theorem execUpdChunkPiece_answers {s : State} (i : Inv s) (chunk : BitVec 32) (piece : BitVec 6)
    (data : List Byte) : Answers (execUpdChunkPiece chunk piece data s) := by
  unfold execUpdChunkPiece
  refine keeps_ite i ?_
  refine keeps_ite (State.inv_mctpAnswer i _) ?_
  refine keeps_ite (State.inv_mctpAnswer i _) ?_
  split
  · refine keeps_ite ?_ ?_
    · exact State.inv_mctpAnswer i _
    · exact keeps_ite (State.inv_askMctp (by exact i) _) (State.inv_mctpAnswer (by exact i) _)
  · exact State.inv_mctpAnswer i _

theorem execUpdStatus_answers {s : State} (i : Inv s) (offset : BitVec 16) : Answers (execUpdStatus offset s) := by
  unfold execUpdStatus
  exact keeps_ite i (keeps_ite (State.inv_mctpAnswer i _) (State.inv_askMctp i _))

theorem execUpdActivate_answers {s : State} (i : Inv s) : Answers (execUpdActivate s) := by
  unfold execUpdActivate
  exact keeps_ite i (keeps_ite (State.inv_mctpAnswer i _) (State.inv_askMctp i _))

theorem execUpdConfirm_answers {s : State} (i : Inv s) : Answers (execUpdConfirm s) := by
  unfold execUpdConfirm
  exact keeps_ite i (keeps_ite (State.inv_mctpAnswer i _) (keeps_ite i (State.inv_askMctp i _)))

/-! ### Boot, lands, regulators, management -/

theorem State.inv_cold {s : State} (i : Inv s) : Inv s.cold := Memory.wf_filter i _

theorem State.inv_bootStop {s : State} (i : Inv s) (code : Nat) : Inv (s.bootStop code) := by
  unfold State.bootStop
  exact i

theorem execPwrokRise_answers {s : State} (i : Inv s) (straps : BitVec 5) (railsInRange : Bool) :
    Answers (execPwrokRise straps railsInRange s) := by
  unfold execPwrokRise
  refine keeps_ite i ?_
  refine inv_ite ?_ ?_
  · exact inv_of_mem rfl (State.inv_cold i)
  · exact State.inv_bootStop (by exact inv_of_mem rfl (State.inv_cold i)) _

theorem State.inv_bootBad {s : State} (i : Inv s) : Inv s.bootBad := by
  unfold State.bootBad
  exact State.inv_bootStop (by exact i) _

theorem State.inv_bootFirmware {s : State} (i : Inv s) : Inv s.bootFirmware := by
  unfold State.bootFirmware
  exact inv_ite (inv_of_mem rfl (State.inv_checkSettings i)) (State.inv_bootBad i)

theorem State.inv_bootReady {s : State} (i : Inv s) : Inv s.bootReady := by
  unfold State.bootReady
  refine State.inv_postSettings (inv_ite (State.inv_post ?_ _) ?_)
  · exact State.inv_burnSvn (Memory.wf_filter i _)
  · exact State.inv_burnSvn (Memory.wf_filter i _)

theorem execBootPhaseDone_answers {s : State} (i : Inv s) : Answers (execBootPhaseDone s) := by
  unfold execBootPhaseDone
  refine keeps_ite i ?_
  split
  · exact i
  · refine keeps_ite (State.inv_bootStop i _) ?_
    split
    · exact State.inv_bootStop i _
    · exact i
  · exact State.inv_bootFirmware i
  · exact Memory.wf_filter i _
  · exact i
  · exact i
  · exact State.inv_bootReady i
  · exact i

theorem execBootPhaseTimeout_answers {s : State} (i : Inv s) (code : BitVec 8) :
    Answers (execBootPhaseTimeout code s) := by
  unfold execBootPhaseTimeout
  exact keeps_ite (inv_ite (State.inv_bootBad i) (State.inv_bootStop i _)) i

theorem execPwrokFall_answers {s : State} (i : Inv s) : Answers (execPwrokFall s) := by
  unfold execPwrokFall
  exact State.inv_cold i

theorem execPerstAssert_answers {s : State} (i : Inv s) (h : HostId) : Answers (execPerstAssert h s) := by
  unfold execPerstAssert
  exact State.inv_setHost i _ _

theorem execPerstRelease_answers {s : State} (i : Inv s) (h : HostId) : Answers (execPerstRelease h s) := by
  unfold execPerstRelease
  exact State.inv_setHost i _ _

theorem execRefclkLoss_answers {s : State} (i : Inv s) : Answers (execRefclkLoss s) := by
  unfold execRefclkLoss
  exact State.inv_deviceFatal i _ _ _

theorem execThermalTrip_answers {s : State} (i : Inv s) (u : ThermUnit) (temp : BitVec 8) :
    Answers (execThermalTrip u temp s) := by
  unfold execThermalTrip
  refine keeps_ite ?_ ?_
  · exact i
  · exact inv_ite (State.inv_deviceFatal (by exact i) _ _ _)
      (inv_of_mem rfl (State.inv_deviceFatal (by exact i) _ _ _))

theorem State.inv_readRails {s : State} (i : Inv s) (rails : List RailStatus) : Inv (s.readRails rails) := by
  unfold State.readRails
  refine inv_ite ?_ ?_
  · split
    · exact State.inv_deviceFatal i _ _ _
    · exact i
  · exact i

theorem execPmbAlert_answers {s : State} (i : Inv s) (rails : List RailStatus) : Answers (execPmbAlert rails s) := by
  unfold execPmbAlert
  exact State.inv_readRails i _

theorem execRegulatorPoll_answers {s : State} (i : Inv s) (rails : List RailStatus) :
    Answers (execRegulatorPoll rails s) := by
  unfold execRegulatorPoll
  exact State.inv_readRails i _

theorem execTrstN_answers {s : State} (i : Inv s) : Answers (execTrstN s) := by
  unfold execTrstN
  exact i

theorem execGetState_answers {s : State} (i : Inv s) : Answers (execGetState s) := by
  unfold execGetState
  exact keeps_ite (State.inv_mctpAnswer i _) i

theorem execGetThermal_answers {s : State} (i : Inv s) : Answers (execGetThermal s) := by
  unfold execGetThermal
  exact keeps_ite (State.inv_mctpAnswer i _) i

theorem execGetPower_answers {s : State} (i : Inv s) : Answers (execGetPower s) := by
  unfold execGetPower
  exact keeps_ite (State.inv_mctpAnswer i _) i

theorem execSetEndpointId_answers {s : State} (i : Inv s) (eid : BitVec 8) : Answers (execSetEndpointId eid s) := by
  unfold execSetEndpointId
  exact keeps_ite i (keeps_ite (State.inv_mctpAnswer i _) i)

theorem execGetEndpointId_answers {s : State} (i : Inv s) : Answers (execGetEndpointId s) := by
  unfold execGetEndpointId
  exact keeps_ite (State.inv_mctpAnswer i _) i

theorem execGetMctpVersionSupport_answers {s : State} (i : Inv s) (msgType : BitVec 8) :
    Answers (execGetMctpVersionSupport msgType s) := by
  unfold execGetMctpVersionSupport
  exact keeps_ite i (keeps_ite (State.inv_mctpAnswer i _) (State.inv_mctpAnswer i _))

theorem execGetMessageTypeSupport_answers {s : State} (i : Inv s) : Answers (execGetMessageTypeSupport s) := by
  unfold execGetMessageTypeSupport
  exact keeps_ite (State.inv_mctpAnswer i _) i

theorem execMctpUnknownRequest_answers {s : State} (i : Inv s) (code : BitVec 8) :
    Answers (execMctpUnknownRequest code s) := by
  unfold execMctpUnknownRequest
  exact keeps_ite (State.inv_mctpAnswer i _) i

/-! ### Mailboxes and messages -/

theorem State.inv_badIndex {s : State} (i : Inv s) (h : HostId) (v : Nat) : Inv (s.badIndex h v) := by
  unfold State.badIndex
  exact State.inv_post (State.inv_setHost i _ _) _

theorem execMbxCmdTailWrite_answers {s : State} (i : Inv s) (h : HostId) (value : BitVec 32) (whole ide : Bool) :
    Answers (execMbxCmdTailWrite h value whole ide s) := by
  unfold execMbxCmdTailWrite
  exact keeps_ite i (keeps_ite (State.inv_setHost i _ _) (State.inv_badIndex i _ _))

theorem execMbxCplHeadWrite_answers {s : State} (i : Inv s) (h : HostId) (value : BitVec 32) (whole ide : Bool) :
    Answers (execMbxCplHeadWrite h value whole ide s) := by
  unfold execMbxCplHeadWrite
  exact keeps_ite i (keeps_ite (State.inv_setHost i _ _) (State.inv_badIndex i _ _))

theorem execMsixDeferredSend_answers {s : State} (i : Inv s) (h : HostId) (v : BitVec 6) :
    Answers (execMsixDeferredSend h v s) := by
  unfold execMsixDeferredSend
  exact keeps_ite (State.inv_setHost i _ _) i

theorem execMsixPendingSend_answers {s : State} (i : Inv s) (h : HostId) (v : BitVec 6) :
    Answers (execMsixPendingSend h v s) := by
  unfold execMsixPendingSend
  exact keeps_ite (State.inv_setHost i _ _) i

theorem State.inv_surviveOpen {s : State} (i : Inv s) (h : HostId) : Inv (s.surviveOpen h) := by
  unfold State.surviveOpen
  exact foldl_keeps Inv _ _ _ (fun _ _ h1 => inv_ite (inv_of_mem (State.free_mem _) h1)
    (State.inv_setHost (inv_of_mem (State.free_mem _) h1) _ _)) i

theorem execTakeoverSwitch_answers {s : State} (i : Inv s) : Answers (execTakeoverSwitch s) := by
  unfold execTakeoverSwitch
  refine keeps_ite ?_ ?_
  · exact inv_of_mem (State.signal_mem _ _ _) (inv_of_mem (State.signal_mem _ _ _)
      (State.inv_completeBoth (State.inv_surviveOpen (State.inv_surviveOpen (State.inv_post (by exact i) _) _) _) _))
  · exact i

theorem State.inv_hostAddrFault {s : State} (i : Inv s) (h : HostId) (a : Nat) : Inv (s.hostAddrFault h a) := by
  unfold State.hostAddrFault
  exact State.inv_post i _

theorem execBar4Read_answers {s : State} (i : Inv s) (h : HostId) (off : BitVec 48) (len : BitVec 13) (ide : Bool)
    (f : Faults) : Answers (execBar4Read h off len ide f s) := by
  unfold execBar4Read
  refine keeps_ite i ?_
  refine keeps_ite (State.inv_setHost i _ _) ?_
  split
  · exact State.inv_setHost i _ _
  · refine keeps_ite (State.inv_setHost i _ _) ?_
    refine keeps_ite ?_ ?_
    · exact State.inv_setHost (State.inv_hostAddrFault i _ _) _ _
    · exact State.inv_setHost (State.inv_meet i _ _ _) _ _

theorem execBar4Write_answers {s : State} (i : Inv s) (h : HostId) (off : BitVec 48) (data : List Byte)
    (ide : Bool) (f : Faults) : Answers (execBar4Write h off data ide f s) := by
  unfold execBar4Write
  refine keeps_ite i ?_
  split
  · exact i
  · exact keeps_ite (State.inv_hostAddrFault i _ _) (State.inv_put i _ _ _ _)

theorem execMbxResync_answers {s : State} (i : Inv s) (h : HostId) (c : CmdRec) : Answers (execMbxResync h c s) := by
  unfold execMbxResync
  refine keeps_ite i ?_
  refine keeps_ite (State.inv_record (inv_of_mem (State.take_mem _ _ _ _) i) _ _ _ _ _ _ _ _) ?_
  refine keeps_ite (State.inv_record (inv_of_mem (State.take_mem _ _ _ _) i) _ _ _ _ _ _ _ _) ?_
  split
  next h1 => exact State.inv_record (OptKeeps.of_eq h1
      (State.hostWrite_keeps (inv_of_mem (State.take_mem _ _ _ _) i) _ _ _)) _ _ _ _ _ _ _ _
  · exact State.inv_record (inv_of_mem (State.take_mem _ _ _ _) i) _ _ _ _ _ _ _ _

theorem execDeviceConfig_answers {s : State} (i : Inv s) (h : HostId) (c : CmdRec) :
    Answers (execDeviceConfig h c s) := by
  unfold execDeviceConfig
  exact State.inv_commandRes i _ _ _ _ (fun _ h1 => keeps_ite h1
    (keeps_ite (keeps_ite h1 h1) (keeps_ite (by exact h1) (by exact h1))))

theorem execPowerCapSet_answers {s : State} (i : Inv s) (h : HostId) (c : CmdRec) :
    Answers (execPowerCapSet h c s) := by
  unfold execPowerCapSet
  exact State.inv_commandRes i _ _ _ _ (fun _ h1 => keeps_ite h1 (by exact h1))

theorem execHostBPartitionSet_answers {s : State} (i : Inv s) (h : HostId) (c : CmdRec) :
    Answers (execHostBPartitionSet h c s) := by
  unfold execHostBPartitionSet
  exact State.inv_commandRes i _ _ _ _ (fun _ h1 => keeps_ite h1 (keeps_ite (by exact h1) h1))

theorem execCaravaneerTakeover_answers {s : State} (i : Inv s) (h : HostId) (c : CmdRec) :
    Answers (execCaravaneerTakeover h c s) := by
  unfold execCaravaneerTakeover
  exact State.inv_commandRes i _ _ _ _ (fun _ h1 => keeps_ite h1 (keeps_ite h1 (by exact h1)))

theorem execEventMirrorSet_answers {s : State} (i : Inv s) (h : HostId) (c : CmdRec) :
    Answers (execEventMirrorSet h c s) := by
  unfold execEventMirrorSet
  refine State.inv_commandRes i _ _ _ _ (fun t k => ?_)
  have on := fun p => State.inv_setHost k h p
  dsimp only
  split
  · exact k
  · split
    · exact on _
    · generalize 2 ^ 46 = n
      exact keeps_ite k (on _)

theorem execFaultReportGet_answers {s : State} (i : Inv s) (h : HostId) (c : CmdRec) :
    Answers (execFaultReportGet h c s) := by
  unfold execFaultReportGet
  refine State.inv_commandRes i _ _ _ _ (fun _ h1 => ?_)
  refine keeps_ite h1 ?_
  split
  · exact h1
  · dsimp only
    split
    next h3 => exact OptKeeps.of_eq h3 (State.hostWrite_keeps h1 _ _ _)
    · exact h1

theorem execReservedOpcodeCommand_answers {s : State} (i : Inv s) (h : HostId) (op : BitVec 16) (c : CmdRec) :
    Answers (execReservedOpcodeCommand h op c s) := by
  unfold execReservedOpcodeCommand
  exact keeps_ite i (State.inv_commandRes i _ _ _ _ (fun _ h1 => h1))

/-! ### Commands that create, map and load -/

theorem State.inv_runWaiting {s : State} (i : Inv s) (h : HostId) (sel : OpenCmd → Bool)
  (body : OpenCmd → State → CmdRes)
    (b : ∀ o t, Inv t → (body o t).Keeps) : Inv (s.runWaiting h sel body) := by
  unfold State.runWaiting
  refine foldl_keeps (fun z : State × Bool => Inv z.1) _ _ _ (fun z o k => ?_) i
  dsimp only
  split
  · exact k
  · have r := b o z.1 k
    split
    next e =>
      rw [e] at r
      exact State.inv_setHost r _ _
    next e =>
      rw [e] at r
      exact State.inv_record (State.inv_setHost r _ _) _ _ _ _ _ _ _ _
    next e =>
      rw [e] at r
      exact State.inv_record (State.inv_setHost r _ _) _ _ _ _ _ _ _ _

theorem State.inv_cmdJobRead {s : State} (i : Inv s) (f : Faults) (j : Nat) (pt : NMap Nat) (va n : Nat) :
    Inv (s.cmdJobRead f j pt va n).1 := by
  unfold State.cmdJobRead
  split
  · exact i
  · dsimp only
    split <;> exact State.inv_meet i _ _ _

theorem State.inv_tableRead {s : State} (i : Inv s) (f : Faults) (j : Nat) (pt : NMap Nat) (va n : Nat) :
    Inv (s.tableRead f j pt va n).1 := by
  unfold State.tableRead
  split
  · exact i
  · dsimp only
    split <;> exact State.inv_fatalMeet i _ _ _

theorem execJobCreate_answers {s : State} (i : Inv s) (h : HostId) (c : CmdRec) : Answers (execJobCreate h c s) := by
  unfold execJobCreate
  refine State.inv_commandRes i _ _ _ _ (fun _ h1 => ?_)
  refine keeps_ite h1 ?_
  refine keeps_ite h1 ?_
  refine keeps_ite h1 ?_
  refine keeps_ite h1 ?_
  split
  · exact h1
  · refine keeps_ite h1 ?_
    split
    · exact h1
    · exact State.inv_setJob h1 _ _

theorem execJobDestroy_answers {s : State} (i : Inv s) (h : HostId) (c : CmdRec) :
    Answers (execJobDestroy h c s) := by
  unfold execJobDestroy
  exact State.inv_commandRes i _ _ _ _ (fun _ h1 => State.inv_abortJob h1 _)

theorem execMemMap_answers {s : State} (i : Inv s) (h : HostId) (c : CmdRec) : Answers (execMemMap h c s) := by
  unfold execMemMap
  refine State.inv_commandRes i _ _ _ _ (fun _ h1 => ?_)
  split
  · exact h1
  · refine keeps_ite h1 ?_
    refine keeps_ite h1 ?_
    refine keeps_ite h1 ?_
    refine keeps_ite (State.inv_setJob h1 _ _) ?_
    dsimp only
    split
    · exact h1
    · exact State.inv_setJob h1 _ _

theorem execMemUnmap_answers {s : State} (i : Inv s) (h : HostId) (c : CmdRec) : Answers (execMemUnmap h c s) := by
  unfold execMemUnmap
  refine State.inv_commandRes i _ _ _ _ (fun _ h1 => ?_)
  split
  · exact h1
  · exact keeps_ite h1 (State.inv_setJob h1 _ _)

theorem State.loadList_keeps {s : State} (i : Inv s) (j : Nat) (jb : Job) (at_ : Option Nat) (hdrs : List TaskHdr) :
    (s.loadList j jb at_ hdrs).Keeps := by
  unfold State.loadList
  split
  · exact i
  · exact State.inv_setJob i _ _

theorem State.loadNative_keeps {s : State} (i : Inv s) (f : Faults) (j : Nat) (jb : Job) (va n : Nat) :
    (s.loadNative f j jb va n).Keeps := by
  unfold State.loadNative
  split
  next h => exact fst_of_eq h (State.inv_cmdJobRead i _ _ _ _ _)
  next h =>
    have k := fst_of_eq h (State.inv_cmdJobRead i _ _ _ _ _)
    exact keeps_ite (State.loadList_keeps k _ _ _ _) k

theorem State.inv_convertH2 {s : State} (i : Inv s) (f : Faults) (j : Nat) (jb : Job) (area k : Nat) (e : H2Entry)
    (wait : Option (Nat × Nat)) (signal : Option Nat) : Inv (s.convertH2 f j jb area k e wait signal).1 := by
  unfold State.convertH2
  dsimp only
  split
  · split
    next h3 =>
      have k1 := fst_of_eq h3 (State.inv_cmdJobRead (State.inv_cmdJobRead
        (State.inv_cmdJobRead (State.inv_cmdJobRead i _ _ _ _ _) _ _ _ _ _) _ _ _ _ _) _ _ _ _ _)
      split
      · exact k1
      · split
        · exact k1
        · exact State.inv_jobPut (inv_of_mem (State.free_mem _) k1) _ _ _
    next h3 => exact fst_of_eq h3 (State.inv_cmdJobRead
        (State.inv_cmdJobRead (State.inv_cmdJobRead (State.inv_cmdJobRead
          i _ _ _ _ _) _ _ _ _ _) _ _ _ _ _) _ _ _ _ _)
  · exact State.inv_cmdJobRead (State.inv_cmdJobRead (State.inv_cmdJobRead i _ _ _ _ _) _ _ _ _ _) _ _ _ _ _

theorem State.inv_convertAll (f : Faults) (j : Nat) (jb : Job) (area : Nat)
    (l : List ((Nat × H2Entry) × Option (Nat × Nat) × Option Nat)) {s : State} (i : Inv s) :
    Inv (s.convertAll f j jb area l).1 := by
  induction l generalizing s with
  | nil => exact i
  | cons e r ih =>
    obtain ⟨ke, w, g⟩ := e
    unfold State.convertAll
    split
    next e => exact ih (fst_of_eq e (State.inv_convertH2 i _ _ _ _ _ _ _ _))
    next e => exact fst_of_eq e (State.inv_convertH2 i _ _ _ _ _ _ _ _)

theorem State.loadH2_keeps {s : State} (i : Inv s) (f : Faults) (j : Nat) (jb : Job) (va area : Nat) :
    (s.loadH2 f j jb va area).Keeps := by
  unfold State.loadH2
  split
  next h => exact fst_of_eq h (State.inv_cmdJobRead i _ _ _ _ _)
  next h =>
    have k := fst_of_eq h (State.inv_cmdJobRead i _ _ _ _ _)
    refine keeps_ite k ?_
    split
    next h1 => exact fst_of_eq h1 (State.inv_cmdJobRead k _ _ _ _ _)
    next h1 =>
      have k1 := fst_of_eq h1 (State.inv_cmdJobRead k _ _ _ _ _)
      refine keeps_ite k1 ?_
      refine keeps_ite k1 ?_
      refine keeps_ite k1 ?_
      refine keeps_ite k1 ?_
      split
      · exact State.loadList_keeps (State.inv_convertAll _ _ _ _ _ k1) _ _ _ _
      · exact State.inv_convertAll _ _ _ _ _ k1

theorem execTasklistLoad_answers {s : State} (i : Inv s) (h : HostId) (c : CmdRec) (f : Faults) :
    Answers (execTasklistLoad h c f s) := by
  unfold execTasklistLoad
  refine State.inv_commandRes i _ _ _ _ (fun _ h1 => ?_)
  split
  · exact h1
  · refine keeps_ite h1 ?_
    refine keeps_ite ?_ ?_
    · exact keeps_ite h1 (keeps_ite h1 (State.loadNative_keeps h1 _ _ _ _ _))
    · exact keeps_ite h1 (keeps_ite h1 (State.loadH2_keeps h1 _ _ _ _ _))

theorem execTasklistUnload_answers {s : State} (i : Inv s) (h : HostId) (c : CmdRec) :
    Answers (execTasklistUnload h c s) := by
  unfold execTasklistUnload
  refine State.inv_commandRes i _ _ _ _ (fun _ h1 => ?_)
  split
  · exact h1
  · exact keeps_ite h1 (keeps_ite h1 (State.inv_setJob h1 _ _))

theorem execStepSubmit_answers {s : State} (i : Inv s) (h : HostId) (c : CmdRec) :
    Answers (execStepSubmit h c s) := by
  unfold execStepSubmit
  refine State.inv_commandRes i _ _ _ _ (fun _ h1 => ?_)
  split
  · exact h1
  · exact keeps_ite h1 (keeps_ite h1 (keeps_ite h1 (State.inv_setHost (State.inv_setJob h1 _ _) _ _)))

theorem execReplayLogSet_answers {s : State} (i : Inv s) (h : HostId) (c : CmdRec) :
    Answers (execReplayLogSet h c s) := by
  unfold execReplayLogSet
  refine State.inv_commandRes i _ _ _ _ (fun _ h1 => ?_)
  split
  · exact h1
  · exact keeps_ite (State.inv_setJob h1 _ _) (keeps_ite h1 (State.inv_setJob h1 _ _))

/-! ### Halts and breakpoints -/

theorem State.inv_bpStage {s : State} (i : Inv s) : Inv s.bpStage := by
  unfold State.bpStage
  exact foldl_keeps Inv _ _ _ (fun _ _ h => inv_ite (inv_of_mem (State.halt_mem _ _)
    (inv_of_mem (State.bpHit_mem _ _ _ _ _ _) h)) h) i

theorem State.inv_ungrant {s : State} (i : Inv s) (u : HaltUnit) : Inv (s.ungrant u) := by
  unfold State.ungrant
  exact i

/-! ### Tasks becoming ready -/

theorem State.inv_fillQueues {s : State} (i : Inv s) : Inv s.fillQueues := by
  unfold State.fillQueues
  exact i

/-! ### What every engine shares -/

theorem State.inv_boundary {s : State} (i : Inv s) (j id : Nat) : Inv (s.boundary j id) := by
  unfold State.boundary
  split
  · exact i
  · exact State.inv_modTask i _ _ _

theorem State.inv_onTile {s : State} (i : Inv s) (g : GroupId) (f : EngRun → State)
    (h : ∀ x, s.engine g = some x → Inv (f x)) : Inv (s.onTile g f) := by
  unfold State.onTile
  split
  next e => exact inv_ite i (State.inv_boundary (h _ e) _ _)
  · exact i

theorem State.inv_accFault {s : State} (i : Inv s) (x : EngRun) (f : Faults) : Inv (s.accFault x f) := by
  unfold State.accFault
  exact foldl_keeps Inv _ _ _ (fun _ _ h => State.inv_post (State.inv_setCore h _ _) _) i

/-! ### The cache pool -/

theorem State.inv_setKv {s : State} (i : Inv s) (j : Nat) (p : KvPool) : Inv (s.setKv j p) := by
  unfold State.setKv
  exact State.inv_modJob i _ _

theorem State.inv_writeDir {s : State} (i : Inv s) (pt : NMap Nat) (q : KvSeq) (c : Nat) :
    Inv (s.writeDir pt q c) := by
  unfold State.writeDir
  exact State.inv_jobStore i _ _ _

theorem State.inv_writeList {s : State} (inv : Inv s) (pt : NMap Nat) (d : KvDir) (i : Nat) :
    Inv (s.writeList pt d i) := by
  unfold State.writeList
  refine foldl_keeps Inv _ _ _ (fun t a h => ?_) inv
  split
  · exact State.inv_jobStore h _ _ _
  · exact h

theorem State.inv_kvCopy {s : State} (i : Inv s) (f : Faults) (j : Nat) (pt : NMap Nat) (src dst : Option Nat)
    (n : Nat) : Inv (s.kvCopy f j pt src dst n) := by
  unfold State.kvCopy
  split
  · exact State.inv_carry i _ _ _ _ _ _ _
  · exact i

theorem State.inv_stow {s : State} (i : Inv s) (f : Faults) (j : Nat) (pt : NMap Nat) (p : KvPool) (q : KvSeq)
    (c : Nat) (b : Option Nat) (pg : List Nat) : Inv (s.stow f j pt p q c b pg).1 := by
  unfold State.stow
  dsimp only
  split
  · exact State.inv_writeDir i _ _ _
  · exact State.inv_writeDir (State.inv_writeList (State.inv_kvCopy i _ _ _ _ _ _) _ _ _) _ _ _

theorem State.tryStow_keeps {s : State} (i : Inv s) (f : Faults) (j : Nat) (pt : NMap Nat) (p : KvPool)
    (q : KvSeq) (c : Nat) : OptKeepsFst (s.tryStow f j pt p q c) := by
  unfold State.tryStow
  refine keeps_ite (State.inv_stow i _ _ _ _ _ _ _ _) ?_
  split
  · exact trivial
  · exact OptKeepsFst.map (fun _ => State.inv_stow i _ _ _ _ _ _ _ _)

theorem State.getSlot_keeps {s : State} (i : Inv s) (f : Faults) (j : Nat) (pt : NMap Nat) (p : KvPool)
    (core : Nat) (named : List (Nat × Nat)) : OptKeepsFst (s.getSlot f j pt p core named) := by
  unfold State.getSlot
  split
  · exact i
  · split
    · exact trivial
    · split
      · exact trivial
      next h2 => exact OptKeepsFst.map (fun _ => (OptKeepsFst.of_eq h2 (State.tryStow_keeps i _ _ _ _ _ _)))

theorem State.openSb_keeps {s : State} (i : Inv s) (f : Faults) (j : Nat) (pt : NMap Nat) (p : KvPool)
    (seqRec c core : Nat) (named : List (Nat × Nat)) : OptKeepsFst (s.openSb f j pt p seqRec c core named) := by
  unfold State.openSb
  split
  · exact trivial
  · refine keeps_ite i ?_
    split
    · exact trivial
    next h1 =>
      have k := OptKeepsFst.of_eq h1 (State.getSlot_keeps i _ _ _ _ _ _)
      split
      · exact trivial
      · refine keeps_ite (State.inv_writeDir (State.inv_kvCopy k _ _ _ _ _ _) _ _ _) ?_
        refine keeps_ite ?_ ?_
        · split
          · exact trivial
          · exact State.inv_writeDir (State.inv_kvCopy k _ _ _ _ _ _) _ _ _
        · exact State.inv_writeDir k _ _ _

theorem State.moveCache_keeps {s : State} (i : Inv s) (f : Faults) (j : Nat) (pt : NMap Nat) (back : Bool)
    (p : KvPool) (d : KvDir) : OptKeepsFst (s.moveCache f j pt back p d) := by
  unfold State.moveCache
  dsimp only
  split
  · exact trivial
  · exact State.inv_writeList (foldl_keeps Inv _ _ _ (fun _ _ h1 => State.inv_kvCopy h1 _ _ _ _ _ _)
      (foldl_keeps Inv _ _ _ (fun _ _ h1 => State.inv_kvCopy h1 _ _ _ _ _ _) i)) _ _ _

theorem State.moveSeq_keeps {s : State} (i : Inv s) (f : Faults) (j : Nat) (pt : NMap Nat) (back : Bool) (p : KvPool)
    (q : KvSeq) : OptKeepsFst (s.moveSeq f j pt back p q) := by
  unfold State.moveSeq
  refine foldl_keeps OptKeepsFst _ _ _ (fun a c h => ?_) i
  obtain _ | ⟨t, p1, r⟩ := a
  · trivial
  · dsimp only
    split
    · trivial
    next e => exact State.inv_writeDir (OptKeepsFst.of_eq e (State.moveCache_keeps h _ _ _ _ _ _)) _ _ _

/-! ### The fabric -/

theorem State.inv_noteStall {s : State} (i : Inv s) (k : Nat) : Inv (s.noteStall k) := by
  unfold State.noteStall
  exact State.inv_setPort i _ _

theorem State.inv_chooseTime {s : State} (i : Inv s) : Inv s.chooseTime := by
  unfold State.chooseTime
  refine inv_ite i ?_
  split
  · exact i
  · exact inv_ite i (State.inv_post (by exact i) _)

theorem State.inv_timePortLost {s : State} (i : Inv s) (k : Nat) : Inv (s.timePortLost k) := by
  unfold State.timePortLost
  exact inv_ite (State.inv_chooseTime i) i

theorem State.inv_portTo {s : State} (i : Inv s) (k : Nat) (st : PortSt) : Inv (s.portTo k st) := by
  unfold State.portTo
  refine inv_ite ?_ ?_
  · refine State.inv_timePortLost ?_ _
    refine inv_ite ?_ ?_
    · exact State.inv_post (State.inv_noteStall (State.inv_setPort i _ _) _) _
    · exact State.inv_noteStall (State.inv_setPort i _ _) _
  · refine inv_ite ?_ ?_
    · exact State.inv_post (State.inv_noteStall (State.inv_setPort i _ _) _) _
    · exact State.inv_noteStall (State.inv_setPort i _ _) _

theorem State.inv_portTrain {s : State} (i : Inv s) (k : Nat) : Inv (s.portTrain k) := by
  unfold State.portTrain
  exact State.inv_modPort (State.inv_portTo (inv_of_mem (State.draw_mem _) i) _ _) _ _

theorem State.inv_sendTraining {s : State} (i : Inv s) (k : Nat) : Inv (s.sendTraining k) := by
  unfold State.sendTraining
  exact State.inv_modPort i _ _

theorem State.inv_portRefuse {s : State} (i : Inv s) (k reason : Nat) : Inv (s.portRefuse k reason) := by
  unfold State.portRefuse
  exact State.inv_post (State.inv_portTo (inv_ite (State.inv_sendTraining (State.inv_modPort i _ _) _)
    (State.inv_modPort i _ _)) _ _) _

theorem State.inv_returnCredits {s : State} (i : Inv s) (k lane n : Nat) : Inv (s.returnCredits k lane n) := by
  unfold State.returnCredits
  exact State.inv_modPort i _ _

theorem State.inv_pumpAll {s : State} (i : Inv s) : Inv s.pumpAll := by
  unfold State.pumpAll
  exact foldl_keeps Inv _ _ _ (fun _ _ h => inv_ite h (inv_of_mem (State.pump_mem _ _) h)) i

theorem State.issue_keeps {s : State} (i : Inv s) (q : Req) : (s.issue q).Keeps := by
  unfold State.issue
  split
  · trivial
  · refine keeps_ite trivial (keeps_ite trivial ?_)
    split
    · trivial
    · exact State.inv_sendBy (by exact i) _ _ _

theorem State.inv_sendService {s : State} (i : Inv s) (typ dest : Nat) (payload : List Byte) :
    Inv (s.sendService typ dest payload) := by
  unfold State.sendService
  refine inv_ite i ?_
  split
  · exact i
  · exact State.inv_sendBy i _ _ _

theorem State.inv_sendBytes {s : State} (i : Inv s) (dest : Nat) (d : List Byte) : Inv (s.sendBytes dest d) := by
  unfold State.sendBytes
  exact foldl_keeps Inv _ _ _ (fun _ _ h => State.inv_sendService h _ _ _) i

theorem State.inv_shareValue {s : State} (i : Inv s) (members : List Nat) (v : Nat) :
    Inv (s.shareValue members v) := by
  unfold State.shareValue
  exact foldl_keeps Inv _ _ _ (fun _ _ h => State.inv_sendService h _ _ _) i

theorem State.endTxn_keeps {s : State} (i : Inv s) (f : Frame) : OptKeepsSnd (s.endTxn f) := by
  unfold State.endTxn
  split
  · trivial
  · exact i

theorem State.inv_sendNak {s : State} (i : Inv s) (k : Nat) : Inv (s.sendNak k) := by
  unfold State.sendNak
  exact inv_of_mem (State.sendCtl_mem _ _ _ _ _ _ _ _) i

theorem State.inv_sendAck {s : State} (i : Inv s) (k : Nat) : Inv (s.sendAck k) := by
  unfold State.sendAck
  exact inv_of_mem (State.sendCtl_mem _ _ _ _ _ _ _ _) i

theorem State.inv_tagFailed {s : State} (i : Inv s) (k : Nat) : Inv (s.tagFailed k) := by
  unfold State.tagFailed
  exact State.inv_modPort i _ _

/-! ### Element programs -/

theorem State.inv_withTables {s : State} (i : Inv s) (x : EngRun) (f : Faults) (offs : List Nat)
    (put : List (List Byte) → Eng) : Inv (s.withTables x f offs put) := by
  unfold State.withTables
  refine inv_ite (State.inv_ctlMeet i _ _ _ _) ?_
  refine inv_ite ?_ ?_
  · exact State.inv_badBody (State.inv_ctlMeet i _ _ _ _) _
  · exact State.inv_setEng (State.inv_ctlMeet i _ _ _ _) _ _

theorem State.inv_loadTables {s : State} (i : Inv s) (x : EngRun) (f : Faults) (offs : List Nat) (e : ElemSt) :
    Inv (s.loadTables x f offs e) := by
  unfold State.loadTables
  exact State.inv_withTables i _ _ _ _

theorem State.inv_clearLa {s : State} (i : Inv s) (core : Nat) : Inv (s.clearLa core) := by
  unfold State.clearLa
  exact State.inv_setCore i _ _

theorem State.inv_elemBegin {s : State} (i : Inv s) (x : EngRun) (f : Faults) : Inv (s.elemBegin x f) := by
  unfold State.elemBegin
  split
  · exact State.inv_badBody i _
  · split
    · exact State.inv_badAddr i _ _
    · split
      · exact State.inv_badAddr i _ _
      · refine inv_ite ?_ ?_
        · exact State.inv_ctlMeet (State.inv_clearLa i _) _ _ _ _
        · exact State.inv_loadTables (State.inv_ctlMeet (State.inv_clearLa i _) _ _ _ _) _ _ _ _

theorem State.inv_elemResume {s : State} (i : Inv s) (x : EngRun) (f : Faults) (e : ElemSt) :
    Inv (s.elemResume x f e) := by
  unfold State.elemResume
  split
  · exact i
  · exact State.inv_loadTables i _ _ _ _

theorem State.inv_elemIterate {s : State} (i : Inv s) (x : EngRun) (f : Faults) : Inv (s.elemIterate x f) := by
  unfold State.elemIterate
  split
  · refine inv_ite i ?_
    refine inv_ite ?_ ?_
    · dsimp only
      split
      · refine State.inv_writeBound ?_ _ _ _
        dsimp only
        split
        · exact State.inv_writeBound (State.inv_modEng
            (State.inv_setCore (State.inv_engWrite (inv_of_mem (State.freeIn_mem _ _ _ _)
              (State.inv_readMeet i _ _ _)) _ _ _) _ _) _ _) _ _ _
        · exact State.inv_modEng (State.inv_setCore (State.inv_engWrite
            (inv_of_mem (State.freeIn_mem _ _ _ _) (State.inv_readMeet i _ _ _)) _ _ _) _ _) _ _
      · dsimp only
        split
        · exact State.inv_writeBound (State.inv_modEng
            (State.inv_setCore (State.inv_engWrite (inv_of_mem (State.freeIn_mem _ _ _ _)
              (State.inv_readMeet i _ _ _)) _ _ _) _ _) _ _) _ _ _
        · exact State.inv_modEng (State.inv_setCore (State.inv_engWrite
            (inv_of_mem (State.freeIn_mem _ _ _ _) (State.inv_readMeet i _ _ _)) _ _ _) _ _) _ _
    · exact State.inv_modEng (State.inv_setCore (State.inv_engWrite
        (inv_of_mem (State.freeIn_mem _ _ _ _) (State.inv_readMeet i _ _ _)) _ _ _) _ _) _ _
  · exact i

/-! ### Tap sweeps -/

theorem State.inv_tapBegin {s : State} (i : Inv s) (x : EngRun) : Inv (s.tapBegin x) := by
  unfold State.tapBegin
  split
  · exact State.inv_badBody i _
  · split
    · exact State.inv_badAddr i _ _
    · refine inv_ite (State.inv_writeBound (State.inv_modEng i _ _) _ _ _) ?_
      refine inv_ite ?_ ?_
      · exact State.inv_badBody i _
      · exact inv_ite (State.inv_writeBound (State.inv_modEng i _ _) _ _ _) (State.inv_modEng i _ _)

theorem State.inv_tapIterate {s : State} (i : Inv s) (x : EngRun) (f : Faults) : Inv (s.tapIterate x f) := by
  unfold State.tapIterate
  split
  · refine inv_ite i ?_
    refine inv_ite ?_ ?_
    · exact State.inv_writeBound (State.inv_modEng (State.inv_engWrite
        (inv_of_mem (State.freeIn_mem _ _ _ _) (State.inv_readMeet i _ _ _)) _ _ _) _ _) _ _ _
    · exact State.inv_modEng (State.inv_engWrite (inv_of_mem (State.freeIn_mem _ _ _ _)
        (State.inv_readMeet i _ _ _)) _ _ _) _ _
  · exact i

theorem execTapSweepIteration_answers {s : State} (i : Inv s) (core : BitVec 7) (f : Faults) :
    Answers (execTapSweepIteration core f s) := by
  unfold execTapSweepIteration
  exact State.inv_onTile i _ _ (fun _ _ => inv_ite (State.inv_tapIterate i _ _) i)

/-! ### Matrix and convolution tasks -/

theorem State.inv_gatherTags {s : State} (i : Inv s) (x : EngRun) (f : Faults) (c : MatCtl) :
    Inv (s.gatherTags x f c) := by
  unfold State.gatherTags
  refine inv_ite i ?_
  refine inv_ite ?_ ?_
  · exact State.inv_ctlMeet i _ _ _ _
  · exact State.inv_modEng (State.inv_engWrite (State.inv_ctlMeet i _ _ _ _) _ _ _) _ _

theorem State.inv_matBegin {s : State} (i : Inv s) (x : EngRun) (f : Faults) : Inv (s.matBegin x f) := by
  unfold State.matBegin
  split
  · exact State.inv_badBody i _
  · split
    · exact State.inv_badAddr i _ _
    · refine inv_ite (foldl_keeps Inv _ _ _ (fun _ _ h2 => State.inv_writeBound h2 _ _ _) (State.inv_modEng i _ _)) ?_
      split
      · exact State.inv_badAddr i _ _
      · refine inv_ite ?_ ?_
        · exact State.inv_ctlMeet i _ _ _ _
        · exact State.inv_gatherTags (State.inv_setEng (State.inv_ctlMeet i _ _ _ _) _ _) _ _ _

theorem State.inv_matResume {s : State} (i : Inv s) (x : EngRun) (m : MatSt) : Inv (s.matResume x m) := by
  unfold State.matResume
  exact State.inv_setEng i _ _

theorem State.inv_matClock {s : State} (i : Inv s) (x : EngRun) : Inv (s.matClock x) := by
  unfold State.matClock
  split
  · exact State.inv_setEng i _ _
  · exact i

theorem State.inv_matTile {s : State} (i : Inv s) (x : EngRun) (f : Faults) : Inv (s.matTile x f) := by
  unfold State.matTile
  split
  · exact inv_ite i (State.inv_modEng (State.inv_setCore (State.inv_readMeet i _ _ _) _ _) _ _)
  · exact i

theorem execMatrixTile_answers {s : State} (i : Inv s) (core : BitVec 7) (f : Faults) :
    Answers (execMatrixTile core f s) := by
  unfold execMatrixTile
  exact State.inv_onTile i _ _ (fun _ _ => inv_ite (State.inv_matTile (State.inv_accFault i _ _) _ _) i)

theorem State.inv_matDrain {s : State} (i : Inv s) (x : EngRun) (f : Faults) : Inv (s.matDrain x f) := by
  unfold State.matDrain
  split
  · split
    · exact i
    · refine inv_ite ?_ ?_
      · exact foldl_keeps Inv _ _ _ (fun _ _ h3 => State.inv_writeBound h3 _ _ _)
          (State.inv_modEng (State.inv_engWrite (inv_of_mem (State.freeIn_mem _ _ _ _)
            (State.inv_readMeet i _ _ _)) _ _ _) _ _)
      · exact State.inv_modEng (State.inv_engWrite (inv_of_mem (State.freeIn_mem _ _ _ _)
          (State.inv_readMeet i _ _ _)) _ _ _) _ _
  · exact i

theorem execOutputDrain_answers {s : State} (i : Inv s) (core : BitVec 7) (f : Faults) :
    Answers (execOutputDrain core f s) := by
  unfold execOutputDrain
  exact State.inv_onEngine i _ _ (fun _ _ => inv_ite (State.inv_matDrain (State.inv_accFault i _ _) _ _) i)

theorem State.inv_haloStamp {s : State} (i : Inv s) (x : EngRun) (f : Faults) : Inv (s.haloStamp x f) := by
  unfold State.haloStamp
  split
  · exact inv_ite i (inv_ite (State.inv_setEng (State.inv_ctlMeet i _ _ _ _) _ _) (State.inv_ctlMeet i _ _ _ _))
  · exact i

theorem execHaloStampSeen_answers {s : State} (i : Inv s) (core : BitVec 7) (f : Faults) :
    Answers (execHaloStampSeen core f s) := by
  unfold execHaloStampSeen
  exact State.inv_onEngine i _ _ (fun _ _ => inv_ite (State.inv_haloStamp i _ _) i)

theorem State.inv_haloPub {s : State} (i : Inv s) (x : EngRun) (f : Faults) : Inv (s.haloPub x f) := by
  unfold State.haloPub
  split
  · split
    · exact i
    · split
      · exact i
      · refine inv_ite ?_ ?_
        · exact inv_ite i (State.inv_ctlMeet i _ _ _ _)
        · exact State.inv_modEng (State.inv_engWrite (State.inv_engWrite
            (inv_ite i (State.inv_ctlMeet i _ _ _ _)) _ _ _) _ _ _) _ _
  · exact i

theorem execHaloPublish_answers {s : State} (i : Inv s) (core : BitVec 7) (f : Faults) :
    Answers (execHaloPublish core f s) := by
  unfold execHaloPublish
  exact State.inv_onEngine i _ _ (fun _ _ => inv_ite (State.inv_haloPub i _ _) i)

theorem State.inv_haloAck {s : State} (i : Inv s) (x : EngRun) (f : Faults) : Inv (s.haloAck x f) := by
  unfold State.haloAck
  split
  · split
    · exact i
    · exact foldl_keeps Inv _ _ _ (fun _ _ h3 => State.inv_engWrite h3 _ _ _) i
  · exact i

/-! ### Mover transfers -/

theorem State.inv_movBegin {s : State} (i : Inv s) (x : EngRun) : Inv (s.movBegin x) := by
  unfold State.movBegin
  dsimp only
  split
  · exact State.inv_badBody i _
  · refine inv_ite (State.inv_badBody i _) ?_
    refine inv_ite (State.inv_modEng i _ _) ?_
    split
    · exact State.inv_badAddr i _ _
    · exact State.inv_badAddr i _ _
    · exact State.inv_setEng i _ _
  · refine inv_ite (State.inv_badBody i _) ?_
    split
    · exact State.inv_badAddr i _ _
    · exact State.inv_setEng i _ _
  · exact inv_ite (State.inv_badBody i _) (State.inv_setEng i _ _)

theorem State.inv_pieceDone {s : State} (i : Inv s) (x : EngRun) (m : MovSt) (p : Nat) (last : Bool) :
    Inv (s.pieceDone x m p last) := by
  unfold State.pieceDone
  exact State.inv_modEng i _ _

theorem State.issueAll_keeps (l : List Req) {s : State} (i : Inv s) : (s.issueAll l).Keeps := by
  induction l generalizing s with
  | nil => exact i
  | cons q r ih =>
    unfold State.issueAll
    split
    next e => exact ih (IssueRes.of_sent e (State.issue_keeps i q))
    · exact State.issue_keeps i q

theorem State.inv_fabricPiece {s : State} (i : Inv s) (x : EngRun) (f : Faults) (m : MovSt) (mover : Nat)
    (wr : Bool) (own peer off n p : Nat) (last : Bool) :
    Inv (s.fabricPiece x f m mover wr own peer off n p last) := by
  unfold State.fabricPiece
  refine inv_ite (State.inv_badAddr i _ _) ?_
  refine inv_ite i ?_
  split
  · exact i
  · exact State.inv_taskFault i _ _ _ _
  next h => exact State.inv_modEng (State.inv_readMeet (IssueRes.of_sent h (State.issueAll_keeps _ i)) _ _ _) _ _

theorem State.inv_ringPiece {s : State} (i : Inv s) (x : EngRun) (f : Faults) (m : MovSt) (so ext : Idx)
    (a : Desc) (id strm : Nat) (st : RingSteps) : Inv (s.ringPiece x f m so ext a id strm st) := by
  unfold State.ringPiece
  split
  · exact State.inv_taskFault i _ _ _ _
  · exact i
  · refine inv_ite i ?_
    refine inv_ite (State.inv_badBody i _) ?_
    split
    · exact State.inv_badAddr i _ _
    · refine inv_ite i ?_
      refine State.inv_pieceDone ?_ _ _ _ _
      refine inv_ite ?_ ?_
      · exact State.inv_modTask (State.inv_moveWrite (State.inv_readMeet i _ _ _) _ _ _ _) _ _ _
      · exact State.inv_moveWrite (State.inv_readMeet i _ _ _) _ _ _ _

theorem State.inv_movPiece {s : State} (i : Inv s) (x : EngRun) (f : Faults) : Inv (s.movPiece x f) := by
  unfold State.movPiece
  split
  · refine inv_ite i ?_
    split
    · dsimp only
      split
      · exact State.inv_fabricPiece i _ _ _ _ _ _ _ _ _ _ _
      · exact State.inv_fabricPiece i _ _ _ _ _ _ _ _ _ _ _
      · split
        · exact State.inv_badAddr i _ _
        · exact State.inv_badAddr i _ _
        · exact State.inv_pieceDone (State.inv_moveWrite (State.inv_readMeet i _ _ _) _ _ _ _) _ _ _ _
    · dsimp only
      split
      · exact State.inv_badAddr i _ _
      · exact State.inv_pieceDone (State.inv_moveWrite (State.inv_readMeet i _ _ _) _ _ _ _) _ _ _ _
    · exact State.inv_ringPiece i _ _ _ _ _ _ _ _ _
  · exact i

theorem execMoverPiece_answers {s : State} (i : Inv s) (core : BitVec 7) (mv : BitVec 2) (f : Faults) :
    Answers (execMoverPiece core mv f s) := by
  unfold execMoverPiece
  exact State.inv_onTile i _ _ (fun _ _ => inv_ite (State.inv_movPiece i _ _) i)

theorem State.inv_movAnswered {s : State} (i : Inv s) (j task : Nat) : Inv (s.movAnswered j task) := by
  unfold State.movAnswered
  exact State.inv_modTask i _ _ _

/-! ### Attention tasks -/

theorem attReserve_keeps {s : State} (i : Inv s) (f : Faults) (x : EngRun) (b : AttBody) (p : KvPool)
  (rows : List AttRow)
    (named : List (Nat × Nat)) : OptKeepsFst (attReserve s f x b p rows named) := by
  have opened : ∀ mine, OptKeepsFst (rows.foldl (fun (a : Option (State × KvPool)) r => match a with
      | none => none
      | some (t, q) => t.openSb f x.j x.pt q r.seqRec b.c.cache x.core (named ++ mine)) (some (s, p))) := fun mine
        => by
    refine foldl_keeps OptKeepsFst _ _ _ (fun a r h => ?_) i
    obtain _ | ⟨t, q⟩ := a
    · trivial
    · exact State.openSb_keeps h _ _ _ _ _ _ _ _
  unfold attReserve
  dsimp only
  split
  · trivial
  next e =>
    refine foldl_keeps OptKeepsFst _ _ _ (fun a r h => ?_) (OptKeepsFst.of_eq e (opened _))
    obtain _ | ⟨t, q, bl, lp⟩ := a
    · trivial
    · dsimp only
      split
      · trivial
      · split
        · trivial
        · exact OptKeepsFst.map (fun _ => h)

theorem State.inv_kvWait {s : State} (i : Inv s) (x : EngRun) : Inv (s.kvWait x) := by
  unfold State.kvWait
  exact inv_ite i (State.inv_modEng (State.inv_post i _) _ _)

theorem State.attPlace_keeps {s : State} (i : Inv s) (f : Faults) (x : EngRun) : (s.attPlace f x).Keeps := by
  unfold State.attPlace
  refine keeps_ite i ?_
  split
  · refine keeps_ite ?_ ?_
    · split
      · exact i
      · exact keeps_ite i (State.inv_kvWait i _)
    · refine keeps_ite i ?_
      split
      next h1 => exact State.inv_setEng (State.inv_setKv
          (OptKeepsFst.of_eq h1 (attReserve_keeps i _ _ _ _ _ _)) _ _) _ _
      · split
        · exact i
        · exact State.inv_kvWait i _
  · exact i

theorem State.inv_scramble {s : State} (i : Inv s) (a n : Nat) : Inv (s.scramble a n) := by
  unfold State.scramble
  exact inv_of_mem rfl (State.inv_store i _ _)

theorem State.inv_attBegin {s : State} (i : Inv s) (x : EngRun) (f : Faults) : Inv (s.attBegin x f) := by
  unfold State.attBegin
  split
  · exact State.inv_badBody i _
  · exact State.inv_badAddr i _ _
  · exact State.inv_modEng i _ _
  · dsimp only
    split
    · exact State.inv_badAddr i _ _
    · exact State.inv_badAddr i _ _
    · refine inv_ite (State.inv_ctlMeet (State.inv_fatalMeet i _ _ _) _ _ _ _) ?_
      refine State.inv_setEng ?_ _ _
      refine inv_ite ?_ ?_
      · refine State.inv_store ?_ _ _
        refine inv_ite ?_ ?_
        · exact State.inv_ctlMeet (State.inv_fatalMeet i _ _ _) _ _ _ _
        · exact State.inv_scramble (State.inv_ctlMeet (State.inv_fatalMeet i _ _ _) _ _ _ _) _ _
      · refine inv_ite ?_ ?_
        · exact State.inv_ctlMeet (State.inv_fatalMeet i _ _ _) _ _ _ _
        · exact State.inv_scramble (State.inv_ctlMeet (State.inv_fatalMeet i _ _ _) _ _ _ _) _ _

theorem State.stageBale_keeps {s : State} (i : Inv s) (f : Faults) (x : EngRun) (b : AttBody) (p : KvPool)
    (d : KvDir) (row pos : Nat) (slots : NMap (Nat × Nat)) : ExceptKeepsFst (s.stageBale f x b p d row pos slots) :=
      by
  unfold State.stageBale
  split
  · exact i
  · exact trivial
  · exact keeps_ite i (State.inv_carry i _ _ _ _ _ _ _)

theorem State.stageAll_keeps (f : Faults) (x : EngRun) (b : AttBody) (p : KvPool) (d : KvDir) (row grp : Nat)
  (l : List Nat)
    {s : State} (i : Inv s) (slots : NMap (Nat × Nat)) : ExceptKeepsFst (s.stageAll f x b p d row grp slots l) := by
  induction l generalizing s slots with
  | nil => exact i
  | cons a r ih =>
    unfold State.stageAll
    split
    · trivial
    next e =>
      have k := ih (ExceptKeepsFst.of_eq e (State.stageBale_keeps i _ _ _ _ _ _ _ _))
      split
      · trivial
      next e => exact ExceptKeepsFst.of_eq e (k _)

theorem State.inv_attPair {s : State} (i : Inv s) (x : EngRun) (f : Faults) : Inv (s.attPair x f) := by
  unfold State.attPair
  split
  · refine inv_ite i ?_
    refine inv_ite (State.inv_modEng (State.inv_setCore i _ _) _ _) ?_
    refine inv_ite (State.inv_modEng (State.inv_setCore i _ _) _ _) ?_
    split
    · exact State.inv_badAddr i _ _
    next h3 =>
      have k := ExceptKeepsFst.of_eq h3 (State.stageAll_keeps _ _ _ _ _ _ _ _ i _)
      dsimp only
      split
      · exact i
      · split
        · exact State.inv_modEng (State.inv_setCore (State.inv_engWrite (State.inv_readMeet k _ _ _) _ _ _) _ _) _ _
        · exact State.inv_modEng (State.inv_setCore (State.inv_readMeet k _ _ _) _ _) _ _
  · exact i

theorem execAttentionPair_answers {s : State} (i : Inv s) (core : BitVec 7) (f : Faults) :
    Answers (execAttentionPair core f s) := by
  unfold execAttentionPair
  exact State.inv_onTile i _ _ (fun _ _ => inv_ite (State.inv_attPair (State.inv_accFault i _ _) _ _) i)

theorem State.inv_attFinish {s : State} (i : Inv s) (x : EngRun) : Inv (s.attFinish x) := by
  unfold State.attFinish
  split
  · split
    · exact i
    · refine inv_ite ?_ ?_
      · exact foldl_keeps Inv _ _ _ (fun _ _ h4 => State.inv_writeBound h4 _ _ _)
          (State.inv_modEng (State.inv_moveWrite i _ _ _ _) _ _)
      · exact State.inv_modEng (State.inv_moveWrite i _ _ _ _) _ _
  · exact i

theorem execAttentionFinish_answers {s : State} (i : Inv s) (core : BitVec 7) :
    Answers (execAttentionFinish core s) := by
  unfold execAttentionFinish
  exact State.inv_onEngine i _ _ (fun _ _ => inv_ite (State.inv_attFinish i _) i)

theorem State.inv_appRowDone {s : State} (i : Inv s) (x : EngRun) (b : AttBody) (p : KvPool) (a : AttSt) :
    Inv (s.appRowDone x b p a).1 := by
  unfold State.appRowDone
  dsimp only
  split
  · exact i
  · split
    · exact State.inv_writeDir i _ _ _
    · exact i

theorem State.inv_appPut {s : State} (i : Inv s) (x : EngRun) (b : AttBody) (p : KvPool) (a : AttSt) :
    Inv (s.appPut x b p a) := by
  unfold State.appPut
  exact State.inv_modEng (State.inv_setKv i _ _) _ _

theorem State.inv_attAppend {s : State} (i : Inv s) (x : EngRun) (f : Faults) : Inv (s.attAppend x f) := by
  unfold State.attAppend
  split
  · split
    · refine inv_ite i ?_
      dsimp only
      split
      · exact i
      · refine inv_ite ?_ ?_
        · exact i
        · exact State.inv_appPut (State.inv_appRowDone
            (State.inv_engWrite (State.inv_readMeet i _ _ _) _ _ _) _ _ _ _) _ _ _ _
    · exact i
  · exact i

theorem execAppendTokens_answers {s : State} (i : Inv s) (core : BitVec 7) (f : Faults) :
    Answers (execAppendTokens core f s) := by
  unfold execAppendTokens
  exact State.inv_onTile i _ _ (fun _ _ => inv_ite (State.inv_attAppend i _ _) i)

theorem State.inv_attFlush {s : State} (i : Inv s) (x : EngRun) (f : Faults) : Inv (s.attFlush x f) := by
  unfold State.attFlush
  split
  · refine inv_ite i ?_
    dsimp only
    split
    · refine inv_ite i ?_
      split
      · exact State.inv_badAddr i _ _
      · exact State.inv_appPut (State.inv_appRowDone (State.inv_writeList
          (State.inv_carry i _ _ _ _ _ _ _) _ _ _) _ _ _ _) _ _ _ _
    · exact i
  · exact i

theorem execSaddlebagFlush_answers {s : State} (i : Inv s) (core : BitVec 7) (f : Faults) :
    Answers (execSaddlebagFlush core f s) := by
  unfold execSaddlebagFlush
  exact State.inv_onEngine i _ _ (fun _ _ => inv_ite (State.inv_attFlush i _ _) i)

/-! ### Replay -/

theorem State.inv_logStep {s : State} (i : Inv s) (j : Nat) (base : Chan → Nat → Nat) : Inv (s.logStep j base) := by
  unfold State.logStep
  split
  · exact i
  · split
    · exact inv_ite i (State.inv_modJob (State.inv_jobPut (State.inv_jobPut i _ _ _) _ _ _) _ _)
    · exact i

theorem State.inv_logColl {s : State} (i : Inv s) (j task group seq inD outD : Nat) (planes : List Byte) :
    Inv (s.logColl j task group seq inD outD planes) := by
  unfold State.logColl
  split
  · exact i
  · split
    · exact State.inv_modRun (inv_ite (State.inv_jobPut i _ _ _) i) _ _
    · exact i

theorem State.inv_modReplay {s : State} (i : Inv s) (f : Replay → Replay) : Inv (s.modReplay f) := by
  unfold State.modReplay
  exact i

theorem State.inv_replayBegin {s : State} (i : Inv s) (j step : Nat) : Inv (s.replayBegin j step) := by
  unfold State.replayBegin
  split
  · exact i
  · dsimp only
    split
    · exact State.inv_modJob (inv_ite (State.inv_modReplay i _) (State.inv_modReplay (State.inv_modReplay i _) _)) _ _
    · exact State.inv_modReplay i _

theorem State.inv_replayEnd {s : State} (i : Inv s) (j : Nat) : Inv (s.replayEnd j) := by
  unfold State.replayEnd
  split
  · dsimp only
    split
    · exact State.inv_post (State.inv_modReplay i _) _
    · refine inv_ite (State.inv_modReplay i _) ?_
      split <;> exact State.inv_post (State.inv_modReplay i _) _
  · exact i

/-! ### Training state -/

theorem State.inv_loadTier0 {s : State} (i : Inv s) (f : Faults) (j : Nat) (pt : NMap Nat) (t : Train) :
    Inv (s.loadTier0 f j pt t) := by
  unfold State.loadTier0
  refine foldl_keeps Inv _ _ _ (fun t1 a h => ?_) i
  refine foldl_keeps Inv _ _ _ (fun t2 a1 h1 => ?_) h
  split
  · exact State.inv_carry h1 _ _ _ _ _ _ _
  · exact h1

theorem State.inv_trainTable {s : State} (i : Inv s) (f : Faults) (j : Nat) (jb : Job) (va : Nat) :
    Inv (s.trainTable f j jb va).1 := by
  unfold State.trainTable
  split
  · exact i
  · split
    next h1 => exact fst_of_eq h1 (State.inv_tableRead i _ _ _ _ _)
    next h1 =>
      have k := fst_of_eq h1 (State.inv_tableRead i _ _ _ _ _)
      split
      · exact k
      · split
        next h3 => exact fst_of_eq h3 (State.inv_tableRead k _ _ _ _ _)
        next h3 =>
          have k1 := fst_of_eq h3 (State.inv_tableRead k _ _ _ _ _)
          split
          · exact k1
          · split <;> exact k1

theorem State.placeTrain_keeps {s : State} (i : Inv s) (f : Faults) (j : Nat) (jb : Job) (t0 : Train)
    (gs : List TGroup) (keepPages : Nat) : OptKeeps (s.placeTrain f j jb t0 gs keepPages) := by
  unfold State.placeTrain
  exact OptKeeps.map (fun _ => State.inv_loadTier0 (State.inv_setJob (State.inv_setJob i _ _) _ _) _ _ _ _)

theorem trainPlaced_keeps {s : State} (i : Inv s) (jb : Job) (x : Option State) (k : OptKeeps x) :
  (trainPlaced jb s x).Keeps := by
  cases x with
  | none => exact i
  | some u => exact k

theorem trainRead_keeps (f : Faults) (j : Nat) (jb : Job) (x : State × Except Nat (Train × List TGroup × Nat))
  (k : Inv x.1) :
    (trainRead f j jb x).Keeps := by
  obtain ⟨t, e | ⟨t0, gs, kp⟩⟩ := x
  · exact k
  · exact trainPlaced_keeps k _ _ (State.placeTrain_keeps k _ _ _ _ _ _)

theorem execTrainStateSet_answers {s : State} (i : Inv s) (h : HostId) (c : CmdRec) (f : Faults) :
    Answers (execTrainStateSet h c f s) := by
  unfold execTrainStateSet
  refine State.inv_commandRes i _ _ _ _ (fun _ h1 => ?_)
  split
  · exact h1
  · exact keeps_ite h1 (trainRead_keeps _ _ _ _ (State.inv_trainTable h1 _ _ _ _))

theorem execVariantLoad_answers {s : State} (i : Inv s) (h : HostId) (c : CmdRec) :
    Answers (execVariantLoad h c s) := by
  unfold execVariantLoad
  exact State.inv_commandRes i _ _ _ _ (fun _ h1 => keeps_ite h1 (State.inv_modJob h1 _ _))

theorem execVariantUnload_answers {s : State} (i : Inv s) (h : HostId) (c : CmdRec) :
    Answers (execVariantUnload h c s) := by
  unfold execVariantUnload
  exact State.inv_commandRes i _ _ _ _ (fun _ h1 => State.inv_modJob h1 _ _)

theorem State.inv_headroomRec {s : State} (i : Inv s) (j : Nat) (t : Train) (step : Nat) :
    Inv (s.headroomRec j t step) := by
  unfold State.headroomRec
  exact State.inv_jobPut i _ _ _

theorem State.inv_trainBegin {s : State} (i : Inv s) (j step : Nat) (update : Bool) :
    Inv (s.trainBegin j step update) := by
  unfold State.trainBegin
  split
  · exact i
  · split
    · exact i
    · refine inv_ite (State.inv_headroomRec i _ _ _) ?_
      refine State.inv_modJob ?_ _ _
      refine inv_ite ?_ ?_
      · exact State.inv_post (inv_ite (State.inv_headroomRec i _ _ _)
          (State.inv_meet (State.inv_headroomRec i _ _ _) _ _ _)) _
      · exact inv_ite (State.inv_headroomRec i _ _ _) (State.inv_meet (State.inv_headroomRec i _ _ _) _ _ _)

theorem State.inv_keepTick {s : State} (i : Inv s) (j : Nat) : Inv (s.keepTick j) := by
  unfold State.keepTick
  split
  · exact i
  · exact State.inv_modTrain i _ _

theorem State.inv_setGroup {s : State} (i : Inv s) (j : Nat) (g : TrainGrp) : Inv (s.setGroup j g) := by
  unfold State.setGroup
  exact State.inv_modTrain i _ _

theorem execGroupSettle_answers {s : State} (i : Inv s) (job : BitVec 4) (group : BitVec 16) (f : Faults) :
    Answers (execGroupSettle job group f s) := by
  unfold execGroupSettle
  dsimp only
  split
  · exact i
  · split
    · split
      · exact i
      · refine keeps_ite i ?_
        refine keeps_ite ?_ ?_
        · exact State.inv_setGroup (State.inv_meet i _ _ _) _ _
        · exact State.inv_modRun (State.inv_setGroup (State.inv_meet i _ _ _) _ _) _ _
    · exact i

theorem State.inv_updBounds {s : State} (i : Inv s) (x : EngRun) (p : OptProg) (e : ElemSt) :
    Inv (s.updBounds x p e) := by
  unfold State.updBounds
  exact foldl_keeps Inv _ _ _ (fun _ _ h => State.inv_writeBound h _ _ _) i

theorem State.inv_updTables {s : State} (i : Inv s) (x : EngRun) (f : Faults) (p : OptProg) (u : UpdSt) :
    Inv (s.updTables x f p u) := by
  unfold State.updTables
  split
  · exact State.inv_setEng i _ _
  · exact State.inv_withTables i _ _ _ _

theorem State.inv_updBegin {s : State} (i : Inv s) (x : EngRun) (f : Faults) : Inv (s.updBegin x f) := by
  unfold State.updBegin
  split
  · exact State.inv_badBody i _
  · split
    · exact State.inv_badBody i _
    · dsimp only
      split
      · exact State.inv_badAddr i _ _
      · exact State.inv_badAddr i _ _
      · split
        · exact State.inv_badAddr i _ _
        · refine inv_ite ?_ ?_
          · exact State.inv_ctlMeet (State.inv_clearLa i _) _ _ _ _
          · exact State.inv_updTables (State.inv_ctlMeet (State.inv_clearLa i _) _ _ _ _) _ _ _ _

theorem State.inv_updResume {s : State} (i : Inv s) (x : EngRun) (f : Faults) (u : UpdSt) :
    Inv (s.updResume x f u) := by
  unfold State.updResume
  split
  · exact i
  · split
    · exact State.inv_badBody i _
    · exact State.inv_updTables i _ _ _ _

theorem State.inv_updIterate {s : State} (i : Inv s) (x : EngRun) (f : Faults) : Inv (s.updIterate x f) := by
  unfold State.updIterate
  split
  · split
    · exact State.inv_badBody i _
    · refine inv_ite i ?_
      refine inv_ite ?_ ?_
      · exact State.inv_updBounds (State.inv_modEng (State.inv_setCore
          (State.inv_engWrite (State.inv_readMeet i _ _ _) _ _ _) _ _) _ _) _ _ _
      · exact State.inv_modEng (State.inv_setCore (State.inv_engWrite (State.inv_readMeet i _ _ _) _ _ _) _ _) _ _
  · exact i

theorem State.inv_svcOver {s : State} (i : Inv s) (core : Nat) : Inv (s.svcOver core) := by
  unfold State.svcOver
  exact inv_ite i (State.inv_boundaryApply (by exact i) _)

theorem State.inv_digIterate {s : State} (i : Inv s) (f : Faults) (core : Nat) (v : SvcLeg) :
    Inv (s.digIterate f core v) := by
  unfold State.digIterate
  split
  · exact State.inv_svcOver i _
  · split
    · exact State.inv_svcOver i _
    · refine inv_ite ?_ ?_
      · exact State.inv_svcOver (State.inv_modTrain (State.inv_meet i _ _ _) _ _) _
      · exact State.inv_modTrain (State.inv_meet i _ _ _) _ _

theorem State.inv_svcTick {s : State} (i : Inv s) : Inv s.svcTick := by
  unfold State.svcTick
  exact foldl_keeps Inv _ _ _ (fun _ _ h => State.inv_svcOver (State.inv_modTrain h _ _) _) i

theorem execElementIteration_answers {s : State} (i : Inv s) (core : BitVec 7) (f : Faults) :
    Answers (execElementIteration core f s) := by
  unfold execElementIteration
  split
  · exact inv_ite (State.inv_digIterate i _ _ _) i
  · exact State.inv_onTile i _ _ (fun _ _ => inv_ite (State.inv_elemIterate i _ _)
      (inv_ite (State.inv_updIterate i _ _) i))

theorem State.inv_updDone {s : State} (i : Inv s) (j id : Nat) : Inv (s.updDone j id) := by
  unfold State.updDone
  exact State.inv_modTrain (State.inv_modTask i _ _ _) _ _

theorem execSlowTierFetchDone_answers {s : State} (i : Inv s) (job : BitVec 4) (group : BitVec 16)
    (part : BitVec 32) (f : Faults) : Answers (execSlowTierFetchDone job group part f s) := by
  unfold execSlowTierFetchDone
  dsimp only
  split
  · exact i
  · split
    · split
      · exact i
      · refine keeps_ite i ?_
        split
        · exact State.inv_modTrain (State.inv_setGroup i _ _) _ _
        · refine keeps_ite (State.inv_modTrain (State.inv_setGroup (State.inv_meet i _ _ _) _ _) _ _) ?_
          refine keeps_ite (State.inv_modTrain (State.inv_post
            (State.inv_setGroup (State.inv_meet i _ _ _) _ _) _) _ _) ?_
          refine State.inv_setGroup ?_ _ _
          refine inv_ite ?_ ?_
          · exact State.inv_jobPut (State.inv_jobPut (State.inv_meet i _ _ _) _ _ _) _ _ _
          · exact State.inv_updBounds (State.inv_jobPut (State.inv_jobPut (State.inv_meet i _ _ _) _ _ _) _ _ _) _ _ _
    · exact i

theorem State.inv_slowBack {s : State} (i : Inv s) (f : Faults) (j : Nat) (jb : Job) (t : Train) (g : TrainGrp)
    (p : Nat) (bytes : List Byte) : Inv (s.slowBack f j jb t g p bytes) := by
  unfold State.slowBack
  exact State.inv_setGroup (State.inv_moveWrite (State.inv_meet i _ _ _) _ _ _ _) _ _

theorem execSlowTierWriteback_answers {s : State} (i : Inv s) (job : BitVec 4) (group : BitVec 16)
    (part : BitVec 32) (f : Faults) : Answers (execSlowTierWriteback job group part f s) := by
  unfold execSlowTierWriteback
  dsimp only
  split
  · exact i
  · split
    · exact i
    · split
      · exact i
      · split
        · exact i
        · exact keeps_ite i (State.inv_slowBack i _ _ _ _ _ _ _)

/-! ### Collectives -/

theorem State.collPlain_keeps {s : State} (i : Inv s) (c : CollCtx) (rank flow : Nat) (d : List Byte) :
    OptKeeps (s.collPlain c rank flow d) := by
  unfold State.collPlain
  dsimp only
  split
  · exact trivial
  · exact State.inv_sendBy i _ _ _

theorem State.inv_modColl {s : State} (i : Inv s) (x : EngRun) (f : CollSt → CollSt) : Inv (s.modColl x f) := by
  unfold State.modColl
  exact State.inv_modEng i _ _

theorem State.inv_collFail {s : State} (i : Inv s) (c : CollCtx) (peer reason detail : Nat) :
    Inv (s.collFail c peer reason detail) := by
  unfold State.collFail
  exact State.inv_jobFatal (foldl_keeps Inv _ _ _ (fun _ _ h => inv_getD (State.collPlain_keeps h _ _ _ _) h) i) _ _ _

theorem State.inv_collContained {s : State} (i : Inv s) (c : CollCtx) (e : EventRec) : Inv (s.collContained c e) := by
  unfold State.collContained
  exact State.inv_post i _

theorem State.inv_collTxnFail {s : State} (i : Inv s) (j task dest : Nat) (e : EventRec) :
    Inv (s.collTxnFail j task dest e) := by
  unfold State.collTxnFail
  split
  · exact i
  · exact State.inv_collFail (State.inv_collContained i _ _) _ _ _ _

theorem State.inv_collGrant {s : State} (i : Inv s) (c : CollCtx) : Inv (s.collGrant c) := by
  unfold State.collGrant
  split
  · exact i
  · refine foldl_keeps Inv _ _ _ (fun t a h1 => ?_) i
    split
    · exact h1
    · refine inv_ite h1 ?_
      split
      · exact State.inv_collFail h1 _ _ _ _
      next h3 => exact State.inv_modColl (OptKeeps.of_eq h3 (State.collPlain_keeps h1 _ _ _ _)) _ _

theorem State.inv_collWrite {s : State} (i : Inv s) (c : CollCtx) (f : Faults) (w : Writes) :
    Inv (s.collWrite c f w) := by
  unfold State.collWrite
  exact State.inv_engWrite (inv_of_mem (State.freeIn_mem _ _ _ _) i) _ _ _

theorem State.inv_collPut {s : State} (i : Inv s) (c : CollCtx) (f : Faults) (d : Desc) (off len p0 : Nat)
    (wire : List Byte) : Inv (s.collPut c f d off len p0 wire) := by
  unfold State.collPut
  exact State.inv_modColl (State.inv_collWrite (by exact i) _ _ _) _ _

theorem State.inv_collOwn {s : State} (i : Inv s) (c : CollCtx) (f : Faults) (q : CollSt) (a : Nat)
    (sums : List Int) : Inv (s.collOwn c f q a sums) := by
  unfold State.collOwn
  exact State.inv_modColl (State.inv_collWrite (by exact i) _ _ _) _ _

theorem State.inv_collDone {s : State} (inv : Inv s) (c : CollCtx) (i sent frames : Nat) :
    Inv (s.collDone c i sent frames) := by
  unfold State.collDone
  dsimp only
  split
  · exact State.inv_modEng inv _ _
  · refine inv_ite ?_ ?_
    · exact State.inv_writeBound (State.inv_modEng inv _ _) _ _ _
    · exact State.inv_collGrant (State.inv_modEng inv _ _) _

theorem State.inv_collWork {s : State} (inv : Inv s) (c : CollCtx) (f : Faults) (q : CollSt) (i : Nat) (t : CStep) :
    Inv (s.collWork c f q i t).1 := by
  unfold State.collWork
  dsimp only
  split
  · refine inv_ite ?_ ?_
    · exact inv_ite inv (State.inv_modColl (State.inv_readMeet inv _ _ _) _ _)
    · exact State.inv_modColl (inv_ite inv (State.inv_modColl (State.inv_readMeet inv _ _ _) _ _)) _ _
  · split
    · split
      · exact State.inv_readMeet (by exact inv) _ _ _
      · split
        · exact State.inv_collOwn (State.inv_readMeet (by exact inv) _ _ _) _ _ _ _ _
        · split
          · exact State.inv_collOwn (State.inv_readMeet (by exact inv) _ _ _) _ _ _ _ _
          · exact State.inv_modColl (State.inv_readMeet (by exact inv) _ _ _) _ _
    · split
      · split
        · refine inv_ite ?_ ?_
          · exact State.inv_collPut (State.inv_modColl (State.inv_readMeet inv _ _ _) _ _) _ _ _ _ _ _ _
          · exact State.inv_modColl (State.inv_readMeet inv _ _ _) _ _
        · exact State.inv_collPut inv _ _ _ _ _ _ _
      · split
        · exact inv
        · split
          · exact State.inv_modColl (State.inv_readMeet inv _ _ _) _ _
          · split
            · exact State.inv_collPut inv _ _ _ _ _ _ _
            · split
              · exact State.inv_collPut (State.inv_modColl (State.inv_readMeet inv _ _ _) _ _) _ _ _ _ _ _ _
              · exact State.inv_modColl (State.inv_readMeet inv _ _ _) _ _

theorem State.inv_collRun {s : State} (inv : Inv s) (c : CollCtx) (f : Faults) (q : CollSt) (i : Nat) (t : CStep) :
    Inv (s.collRun c f q i t) := by
  unfold State.collRun
  split
  · exact State.inv_badAddr inv _ _
  · dsimp only
    split
    · exact State.inv_collDone (State.inv_collWork inv _ _ _ _ _) _ _ _ _
    · split
      · exact inv
      · exact State.inv_collFail (State.inv_collContained inv _ _) _ _ _ _
      next h2 => exact State.inv_collDone (IssueRes.of_sent h2
          (State.issueAll_keeps _ (State.inv_collWork inv _ _ _ _ _))) _ _ _ _

theorem execCollectiveChunkStep_answers {s : State} (i : Inv s) (serai : BitVec 2) (l : LegId) (f : Faults) :
    Answers (execCollectiveChunkStep serai l f s) := by
  unfold execCollectiveChunkStep
  split
  · exact i
  · refine keeps_ite i ?_
    split
    · exact i
    · exact State.inv_boundary (State.inv_collRun i _ _ _ _ _) _ _

theorem execCollectivePeerTimeout_answers {s : State} (i : Inv s) (l : LegId) (peer : BitVec 13) :
    Answers (execCollectivePeerTimeout l peer s) := by
  unfold execCollectivePeerTimeout
  split
  · exact i
  · exact keeps_ite (State.inv_collFail i _ _ _ _) i

theorem State.inv_collBegin {s : State} (i : Inv s) (x : EngRun) (f : Faults) : Inv (s.collBegin x f) := by
  unfold State.collBegin
  split
  · exact State.inv_badBody i _
  · refine inv_ite (State.inv_badBody i _) ?_
    split
    · exact State.inv_badAddr i _ _
    · refine inv_ite ?_ ?_
      · dsimp only
        split
        · exact State.inv_collFail (State.inv_modEng i _ _) _ _ _ _
        · exact inv_ite (State.inv_writeBound (State.inv_modEng i _ _) _ _ _)
            (State.inv_collGrant (State.inv_modEng i _ _) _)
      · split
        · exact State.inv_badAddr i _ _
        · refine inv_ite (State.inv_ctlMeet i _ _ _ _) ?_
          split
          · exact State.inv_badBody (State.inv_ctlMeet i _ _ _ _) _
          · dsimp only
            split
            · exact State.inv_collFail (State.inv_modEng (State.inv_ctlMeet i _ _ _ _) _ _) _ _ _ _
            · refine inv_ite ?_ ?_
              · exact State.inv_writeBound (State.inv_modEng (State.inv_ctlMeet i _ _ _ _) _ _) _ _ _
              · exact State.inv_collGrant (State.inv_modEng (State.inv_ctlMeet i _ _ _ _) _ _) _

theorem State.inv_collResume {s : State} (i : Inv s) (x : EngRun) : Inv (s.collResume x) := by
  unfold State.collResume
  split
  · exact i
  · exact State.inv_collGrant (State.inv_modColl i _ _) _

theorem State.inv_collClock {s : State} (i : Inv s) (x : EngRun) : Inv (s.collClock x) := by
  unfold State.collClock
  split
  · exact i
  · exact State.inv_modColl i _ _

theorem State.inv_collArrive {s : State} (i : Inv s) (c : CollCtx) (peer : Nat) : Inv (s.collArrive c peer) := by
  unfold State.collArrive
  split
  · exact i
  · exact inv_ite (State.inv_modColl i _ _) (State.inv_modColl (State.inv_modColl i _ _) _ _)

theorem execCollectiveData_answers {s : State} (i : Inv s) (fr : Frame) : Answers (execCollectiveData fr s) := by
  unfold execCollectiveData
  refine inv_ite i ?_
  refine State.inv_receive i _ _ (fun _ h => ?_)
  refine inv_ite h ?_
  refine inv_ite (inv_of_mem (State.reply_mem _ _ _ _ _ _) h) ?_
  split
  · exact inv_of_mem (State.nack_mem _ _ _) h
  · split
    · exact inv_of_mem (State.nack_mem _ _ _) h
    · split
      · exact inv_of_mem (State.nack_mem _ _ _) h
      · refine inv_ite (State.inv_collFail h _ _ _ _) ?_
        split
        · exact inv_of_mem (State.reject_mem _ _) h
        · refine inv_ite (State.inv_collFail h _ _ _ _) ?_
          refine inv_ite ?_ ?_
          · exact inv_of_mem (State.reject_mem _ _) h
          · exact inv_of_mem (State.reply_mem _ _ _ _ _ _) (State.inv_modColl (State.inv_collArrive h _ _) _ _)

theorem execCollectiveReady_answers {s : State} (i : Inv s) (fr : Frame) : Answers (execCollectiveReady fr s) := by
  unfold execCollectiveReady
  refine inv_ite i (State.inv_receive i _ _ (fun t h => inv_ite h ?_))
  split
  · exact inv_of_mem (State.reject_mem _ _) h
  · extract_lets y s1 s2
    have i1 : Inv s1 := by
      dsimp only [s1]
      split
      · exact State.inv_collArrive h _ _
      · exact h
    have i2 : Inv s2 := State.inv_modJob i1 _ _
    split
    · exact i2
    · refine inv_ite i2 ?_
      split
      · exact State.inv_collFail i2 _ _ _ _
      · exact i2

theorem State.inv_collAnswered {s : State} (i : Inv s) (j task : Nat) : Inv (s.collAnswered j task) := by
  unfold State.collAnswered
  split
  · exact i
  · exact State.inv_modTask i _ _ _

theorem execCollectiveAck_answers {s : State} (i : Inv s) (fr : Frame) : Answers (execCollectiveAck fr s) := by
  unfold execCollectiveAck
  refine inv_ite i ?_
  refine State.inv_receive i _ _ (fun _ h => ?_)
  split
  · exact h
  next h1 =>
    have k := OptKeepsSnd.of_eq h1 (State.endTxn_keeps h _)
    split
    · exact State.inv_collAnswered k _ _
    · exact k

theorem execCollectiveAbort_answers {s : State} (i : Inv s) (fr : Frame) : Answers (execCollectiveAbort fr s) := by
  unfold execCollectiveAbort
  refine inv_ite i ?_
  refine State.inv_receive i _ _ (fun _ h => ?_)
  refine inv_ite h ?_
  split
  · exact inv_of_mem (State.reject_mem _ _) h
  · split
    · exact h
    · exact State.inv_collFail h _ _ _ _

theorem collGroupBody_keeps {s : State} (i : Inv s) (f : Faults) (c : CmdRec) : (collGroupBody f c s).Keeps := by
  unfold collGroupBody
  dsimp only
  split
  · exact i
  · refine keeps_ite i ?_
    refine keeps_ite i ?_
    split
    next h1 => exact fst_of_eq h1 (State.inv_cmdJobRead i _ _ _ _ _)
    next h1 =>
      have k := fst_of_eq h1 (State.inv_cmdJobRead i _ _ _ _ _)
      split
      · exact k
      · split
        next h3 => exact fst_of_eq h3 (State.inv_cmdJobRead k _ _ _ _ _)
        next h3 =>
          have k1 := fst_of_eq h3 (State.inv_cmdJobRead k _ _ _ _ _)
          exact keeps_ite k1 (State.inv_modJob k1 _ _)

theorem execCollGroupSet_answers {s : State} (i : Inv s) (h : HostId) (c : CmdRec) (f : Faults) :
    Answers (execCollGroupSet h c f s) := by
  unfold execCollGroupSet
  exact State.inv_commandRes i _ _ _ _ (fun _ h1 => keeps_ite h1 (collGroupBody_keeps h1 _ _))

/-! ### Mappings, reshards, waystations -/

theorem State.inv_readMap {s : State} (i : Inv s) (f : Faults) (j : Nat) (jb : Job) (va : Nat)
    (ok : MapRec → Bool) : Inv (s.readMap f j jb va ok).1 := by
  unfold State.readMap
  split
  · exact i
  · split
    next h1 => exact fst_of_eq h1 (State.inv_cmdJobRead i _ _ _ _ _)
    next h1 =>
      have k := fst_of_eq h1 (State.inv_cmdJobRead i _ _ _ _ _)
      split
      · exact k
      · split
        next h3 => exact fst_of_eq h3 (State.inv_cmdJobRead k _ _ _ _ _)
        next h3 =>
          have k1 := fst_of_eq h3 (State.inv_cmdJobRead k _ _ _ _ _)
          split
          next h4 => exact fst_of_eq h4 (State.inv_cmdJobRead k1 _ _ _ _ _)
          next h4 =>
            dsimp only
            split <;> exact (fst_of_eq h4 (State.inv_cmdJobRead k1 _ _ _ _ _))

theorem execJobMapSet_answers {s : State} (i : Inv s) (h : HostId) (c : CmdRec) (f : Faults) :
    Answers (execJobMapSet h c f s) := by
  unfold execJobMapSet
  refine State.inv_commandRes i _ _ _ _ (fun _ h1 => ?_)
  dsimp only
  split
  · exact h1
  · refine keeps_ite h1 ?_
    split
    next h3 => exact fst_of_eq h3 (State.inv_readMap h1 _ _ _ _ _)
    next h3 => exact State.inv_modJob (fst_of_eq h3 (State.inv_readMap h1 _ _ _ _ _)) _ _

/-- A slot's results land on the scratch state alone (R261). -/
theorem inv_applySlot {z : SlotRes} (i : Inv z.st) (f : Faults) (x : EngRun) (t : Train) (g : TrainGrp) (p : Nat)
  (prog : OptProg)
    (l : LedSlot) : Inv (applySlot f x t g p prog z l).st := by
  unfold applySlot
  dsimp only
  split
  · exact i
  · exact foldl_keeps (fun m => Memory.wf m = true) _ _ _ (fun _ _ h => Memory.wf_memPut h _ _) i

theorem State.flushPart_keeps {s : State} (i : Inv s) (j id : Nat) (prog : OptProg) (p : Nat) :
    OptKeeps (s.flushPart j id prog p) := by
  unfold State.flushPart
  split
  · exact i
  · refine keeps_ite i (keeps_ite trivial ?_)
    refine State.inv_setGroup ?_ _ _
    exact foldl_keeps (fun z : SlotRes => Inv z.st) _ _ (SlotRes.init s) (fun _ _ h => inv_applySlot h _ _ _ _ _ _ _)
      i

theorem State.flushGroup_keeps {s : State} (i : Inv s) (j id : Nat) : OptKeeps (s.flushGroup j id) := by
  have clear : ∀ z : State, Inv z → Inv (match z.trainGrp j id with
      | none => z
      | some (_, _, y) => z.setGroup j { y with ledger := y.ledger.map (fun (l : LedSlot) => { l with mark := 0 }) })
        := fun z k => by
    split
    · exact k
    · exact State.inv_setGroup k _ _
  unfold State.flushGroup
  split
  · exact i
  next jb t g e =>
    have back : Inv (match g.owed with
        | some (p, b) => s.slowBack noFaults j jb t g p b
        | none => s) := by
      split
      · exact State.inv_slowBack i _ _ _ _ _ _ _
      · exact i
    refine keeps_ite (clear _ back) ?_
    split
    · trivial
    next prog _ =>
      have parts : OptKeeps ((List.range g.g.delay).foldl
        (fun (z : Option State) p => z.bind (fun y => y.flushPart j id prog p))
          (some (match g.owed with
            | some (p, b) => s.slowBack noFaults j jb t g p b
            | none => s))) :=
        foldl_keeps OptKeeps _ _ _ (fun _ _ h => OptKeeps.bind h (fun _ k => State.flushPart_keeps k _ _ _ _)) back
      exact OptKeeps.mapState parts clear

theorem State.flushLedger_keeps {s : State} (i : Inv s) (j : Nat) : OptKeeps (s.flushLedger j) := by
  unfold State.flushLedger
  split
  · exact i
  · exact foldl_keeps OptKeeps _ _ _ (fun _ _ h => OptKeeps.bind h (fun _ k => State.flushGroup_keeps k _ _)) i

theorem execJobReshard_answers {s : State} (i : Inv s) (h : HostId) (c : CmdRec) (f : Faults) :
    Answers (execJobReshard h c f s) := by
  unfold execJobReshard
  refine State.inv_commandRes i _ _ _ _ (fun _ h1 => ?_)
  dsimp only
  split
  · exact h1
  · refine keeps_ite h1 ?_
    refine keeps_ite h1 ?_
    split
    next h3 => exact fst_of_eq h3 (State.inv_readMap h1 _ _ _ _ _)
    next h3 =>
      have k := fst_of_eq h3 (State.inv_readMap h1 _ _ _ _ _)
      split
      · exact State.inv_modJob k _ _
      · split
        next h5 => exact fst_of_eq h5 (State.inv_trainTable k _ _ _ _)
        next h5 =>
          have k1 := fst_of_eq h5 (State.inv_trainTable k _ _ _ _)
          exact keeps_ite k1 (State.inv_modJob k1 _ _)

theorem State.inv_endReshard {s : State} (i : Inv s) (j status : Nat) : Inv (s.endReshard j status) := by
  unfold State.endReshard
  exact State.inv_runWaiting (State.inv_runWaiting (State.inv_completeBoth i _) _ _ _
    (fun _ _ h => collGroupBody_keeps h _ _)) _ _ _ (fun _ _ h => collGroupBody_keeps h _ _)

theorem State.inv_reshardFail {s : State} (i : Inv s) (j step : Nat) : Inv (s.reshardFail j step) := by
  unfold State.reshardFail
  exact State.inv_endReshard (State.inv_post (State.inv_modJob i _ _) _) _ _

theorem State.inv_wayIn {s : State} (i : Inv s) (j : Nat) (w : WayImage) : Inv (s.wayIn j w) := by
  unfold State.wayIn
  split
  · exact i
  · split
    · exact i
    · dsimp only
      split
      · refine State.inv_loadTier0 ?_ _ _ _ _
        refine foldl_keeps Inv _ _ _ (fun t a h3 => ?_)
          (foldl_keeps Inv _ _ _ (fun _ _ h3 => inv_ite h3 (inv_ite (State.inv_jobPut h3 _ _ _) h3))
            (State.inv_modJob i _ _))
        refine foldl_keeps Inv _ _ _ (fun t1 a1 h4 => ?_) h3
        split
        · exact h4
        · exact foldl_keeps Inv _ _ _ (fun _ _ h6 => State.inv_store h6 _ _) h4
      · refine foldl_keeps Inv _ _ _ (fun t a h3 => ?_)
          (foldl_keeps Inv _ _ _ (fun _ _ h3 => inv_ite h3 (inv_ite (State.inv_jobPut h3 _ _ _) h3))
            (State.inv_modJob i _ _))
        refine foldl_keeps Inv _ _ _ (fun t1 a1 h4 => ?_) h3
        split
        · exact h4
        · exact foldl_keeps Inv _ _ _ (fun _ _ h6 => State.inv_store h6 _ _) h4

theorem State.wayTable_keeps {s : State} (i : Inv s) (j : Nat) (jb : Job) (w : WayImage) :
    ExceptKeeps (s.wayTable j jb w) := by
  unfold State.wayTable
  split
  · exact i
  · split
    · refine keeps_ite trivial ?_
      split
      next h3 => exact OptKeeps.of_eq h3 (State.placeTrain_keeps i _ _ _ _ _ _)
      · exact trivial
    · exact trivial

theorem State.inv_wayRestore {s : State} (i : Inv s) (j : Nat) (w : WayImage) : Inv (s.wayRestore j w) := by
  unfold State.wayRestore
  exact inv_getD (State.flushLedger_keeps (State.inv_wayIn i _ _) _) (State.inv_wayIn i _ _)

theorem State.inv_putBlocks {s : State} (i : Inv s) (j : Nat) (bs : List BlockAt) (d : List Byte) : Inv
  (s.putBlocks j bs d) :=
  foldl_keeps (fun z : State × List Byte => Inv z.1) _ _ _
    (fun _ _ h => State.inv_jobPut (State.inv_jobPut h _ _ _) _ _ _) i

theorem State.reshardMove_keeps {s : State} (i : Inv s) (f : Faults) (j : Nat) (jb : Job) (r : Reshard)
    (g : CollGroup) (src : Option (State × Train)) (table : List Byte) (recv : List (List Byte)) :
    OptKeeps (s.reshardMove f j jb r g src table recv) := by
  unfold State.reshardMove
  dsimp only
  split
  · exact trivial
  · split
    · exact trivial
    · refine keeps_ite ?_ ?_
      · exact trivial
      · exact foldl_keeps Inv _ _ _ (fun _ _ h2 => inv_ite h2 (State.inv_sendBytes h2 _ _))
          (foldl_keeps Inv _ _ _ (fun _ _ h2 => State.inv_putBlocks h2 _ _ _) i)

theorem State.inv_takeHost {s : State} (i : Inv s) (z : State) (j : Nat) (jb : Job) (t : Train) :
    Inv (s.takeHost j jb t z) := by
  unfold State.takeHost
  exact foldl_keeps Inv _ _ _ (fun _ _ h => State.inv_jobPut h _ _ _) i

theorem execReshardStart_answers {s : State} (i : Inv s) (job : BitVec 4) (x : ReshardIn) :
    Answers (execReshardStart job x s) := by
  unfold execReshardStart
  extract_lets j
  split
  · exact i
  · split
    · exact i
    next jb _ _ r _ =>
      refine keeps_ite i ?_
      extract_lets through z src
      have ledger : OptKeeps z := by
        refine keeps_ite ?_ (State.flushLedger_keeps i _)
        cases x.image with
        | none => trivial
        | some w => exact State.flushLedger_keeps (State.inv_wayIn i _ _) _
      have source : ∀ y t, src = some (some (y, t)) → Inv y := fun y t e => by
        dsimp only [src] at e
        split at e
        · cases e
        · obtain ⟨y1, e1, e2⟩ := Option.bind_eq_some_iff.mp e
          obtain ⟨t1, _, e3⟩ := Option.map_eq_some_iff.mp e2
          cases e3
          exact OptKeeps.of_eq e1 ledger
      clear_value src
      split
      · exact State.inv_reshardFail i _ _
      next src =>
        extract_lets base
        have k : Inv base := by
          obtain _ | ⟨y, t⟩ := src
          · exact i
          · have l := source y t rfl
            exact inv_ite (State.inv_takeHost i _ _ _ _) (State.inv_meet l _ _ _)
        clear_value base
        split
        · split
          · exact State.inv_reshardFail (inv_ite i k) _ _
          next e =>
            exact State.inv_shareValue (State.inv_modJob
              (OptKeeps.of_eq e (State.reshardMove_keeps k _ _ _ _ _ _ _ _)) _ _) _ _
        next e _ => exact State.inv_reshardFail (inv_ite i (fst_of_eq e (State.inv_cmdJobRead k _ _ _ _ _))) _ _

theorem execReshardSwitch_answers {s : State} (i : Inv s) (job : BitVec 4) (confirm : Option Carry) :
    Answers (execReshardSwitch job confirm s) := by
  unfold execReshardSwitch
  extract_lets j
  split
  · exact i
  · split
    · exact i
    · refine keeps_ite i ?_
      split
      · exact State.inv_reshardFail i _ _
      · refine keeps_ite (State.inv_endReshard (State.inv_setJob i _ _) _ _) ?_
        split
        · exact State.inv_reshardFail i _ _
        · have loaded := fun (b : Job) pt t => State.inv_loadTier0 (State.inv_setJob i j b) noFaults j pt t
          exact State.inv_endReshard (inv_ite (State.inv_jobPut (loaded _ _ _) _ _ _) (loaded _ _ _)) _ _

theorem State.inv_modWay {s : State} (i : Inv s) (j : Nat) (f : Way → Way) : Inv (s.modWay j f) := by
  unfold State.modWay
  exact State.inv_modJob i _ _

theorem State.inv_wayFail {s : State} (i : Inv s) (j ordinal : Nat) : Inv (s.wayFail j ordinal) := by
  unfold State.wayFail
  exact State.inv_modWay (State.inv_post i _) _ _

theorem State.inv_waySend (j n : Nat) {s : State} (i : Inv s) : Inv (State.waySend j n s) := by
  induction n generalizing s with
  | zero => exact i
  | succ n ih =>
    unfold State.waySend
    split
    · exact i
    · split
      · dsimp only
        split
        · exact i
        · exact State.inv_wayFail i _ _
        next e => exact ih (State.inv_modWay (IssueRes.of_sent e (State.issue_keeps i _)) _ _)
      · exact i

theorem State.inv_wayPump {s : State} (i : Inv s) (j : Nat) : Inv (s.wayPump j) := by
  unfold State.wayPump
  exact State.inv_waySend _ _ i

theorem State.inv_wayAnswered {s : State} (i : Inv s) (j ordinal : Nat) : Inv (s.wayAnswered j ordinal) := by
  unfold State.wayAnswered
  split
  · exact i
  · exact inv_ite (State.inv_wayPump (State.inv_modWay i _ _) _) i

theorem State.inv_wayLost {s : State} (i : Inv s) (j ordinal : Nat) (e : EventRec) : Inv (s.wayLost j ordinal e) := by
  unfold State.wayLost
  split
  · exact i
  · exact inv_ite (State.inv_wayFail (State.inv_post i _) _ _) i

theorem State.inv_wayBegin {s : State} (i : Inv s) (j ordinal : Nat) : Inv (s.wayBegin j ordinal) := by
  unfold State.wayBegin
  split
  · exact i
  · split
    · exact inv_ite i (inv_ite (State.inv_wayFail i _ _) (State.inv_wayPump (State.inv_modWay i _ _) _))
    · exact i

theorem State.inv_wayLate {s : State} (i : Inv s) (j : Nat) : Inv (s.wayLate j) := by
  unfold State.wayLate
  split
  · exact i
  · split
    · exact inv_ite i (State.inv_modJob (State.inv_post i _) _ _)
    · exact i

theorem execWaystationSet_answers {s : State} (i : Inv s) (h : HostId) (c : CmdRec) (reserved : Bool) :
    Answers (execWaystationSet h c reserved s) := by
  unfold execWaystationSet
  refine State.inv_commandRes i _ _ _ _ (fun _ h1 => ?_)
  split
  · exact h1
  · dsimp only
    split
    · exact h1
    · exact keeps_ite h1 (keeps_ite h1 (State.inv_modJob h1 _ _))

theorem execWaystationHost_answers {s : State} (i : Inv s) (h : HostId) (c : CmdRec) :
    Answers (execWaystationHost h c s) := by
  unfold execWaystationHost
  refine State.inv_commandRes i _ _ _ _ (fun _ h1 => ?_)
  refine keeps_ite h1 ?_
  refine keeps_ite (by exact h1) ?_
  refine keeps_ite h1 ?_
  split <;> exact h1

theorem execWaystationCommit_answers {s : State} (i : Inv s) (owner tag : BitVec 16) (ordinal : BitVec 32)
    (stage : BitVec 48) : Answers (execWaystationCommit owner tag ordinal stage s) := by
  unfold execWaystationCommit
  refine keeps_ite (inv_ite i i) ?_
  split
  · exact inv_ite i i
  · split
    · exact inv_ite i i
    · split
      · exact inv_ite i i
      · exact keeps_ite (inv_ite i i) (State.inv_modJob (inv_ite (by exact i) i) _ _)

theorem execWaystationStatus_answers {s : State} (i : Inv s) (h : HostId) (c : CmdRec) :
    Answers (execWaystationStatus h c s) := by
  unfold execWaystationStatus
  refine State.inv_commandRes i _ _ _ _ (fun _ h1 => ?_)
  split
  · exact h1
  · refine keeps_ite h1 ?_
    split
    next h3 => exact OptKeeps.of_eq h3 (State.hostWrite_keeps h1 _ _ _)
    · exact h1

theorem execWaystationRestore_answers {s : State} (i : Inv s) (h : HostId) (c : CmdRec) (image : Option WayImage) :
    Answers (execWaystationRestore h c image s) := by
  unfold execWaystationRestore
  refine State.inv_commandRes i _ _ _ _ (fun _ h1 => ?_)
  dsimp only
  split
  · exact h1
  · refine keeps_ite h1 ?_
    refine keeps_ite h1 ?_
    refine keeps_ite h1 ?_
    split
    · exact h1
    · split
      · exact h1
      next h4 => exact State.inv_shareValue (State.inv_wayRestore
          (ExceptKeeps.of_eq h4 (State.wayTable_keeps h1 _ _ _)) _ _) _ _

/-! ### The close of an update step -/

theorem execStepClose_answers {s : State} (i : Inv s) (job : BitVec 4) : Answers (execStepClose job s) := by
  unfold execStepClose
  dsimp only
  split
  · exact i
  · split
    · refine keeps_ite ?_ ?_
      · exact i
      · exact State.inv_modJob (State.inv_shareValue (foldl_keeps Inv _ _ _ (fun _ _ h3 => State.inv_post h3 _)
          i) _ _) _ _
    · exact i

theorem State.inv_mirrorTier0 {s : State} (i : Inv s) (f : Faults) (j : Nat) (pt : NMap Nat) (t : Train)
    (pick : TrainGrp → Bool) : Inv (s.mirrorTier0 f j pt t pick) := by
  unfold State.mirrorTier0
  refine foldl_keeps Inv _ _ _ (fun t1 a h => ?_) i
  refine foldl_keeps Inv _ _ _ (fun t2 a1 h1 => ?_) h
  split
  · exact State.inv_carry h1 _ _ _ _ _ _ _
  · exact h1

theorem State.inv_closeEnd {s : State} (i : Inv s) (j : Nat) : Inv (s.closeEnd j) := by
  unfold State.closeEnd
  split
  · exact i
  · split
    · exact inv_ite (State.inv_post (State.inv_modJob i _ _) _) (State.inv_wayBegin (State.inv_modRun i _ _) _ _)
    · exact i

theorem State.inv_tallyTotal {s : State} (i : Inv s) (j devTally total : Nat) :
    Inv (s.tallyTotal j devTally total).2 := by
  unfold State.tallyTotal
  split
  · exact inv_ite i (State.inv_modReplay i _)
  · exact i

theorem State.inv_applyTally {s : State} (i : Inv s) (j : Nat) (jb : Job) (r : RunStep) (t : Train) (total : Nat) :
    Inv (s.applyTally j jb r t total) := by
  unfold State.applyTally
  extract_lets clean t1 s1 _ s2 _ s3 s4 s5 s6
  have i1 : Inv s1 := State.inv_modJob i _ _
  have i2 : Inv s2 := inv_ite i1 (State.inv_post i1 _)
  have i3 : Inv s3 := inv_ite (State.inv_post i2 _) i2
  have i4 : Inv s4 := inv_ite (State.inv_mirrorTier0 i3 _ _ _ _ _) i3
  have i5 : Inv s5 := State.inv_jobPut i4 _ _ _
  have i6 : Inv s6 := by
    dsimp only [s6]
    split
    · exact State.inv_headroomRec i5 _ _ _
    · exact i5
  exact inv_ite (State.inv_modTrain (State.inv_modRun i6 _ _) _ _) (State.inv_closeEnd i6 _)

theorem execPoisonTally_answers {s : State} (i : Inv s) (job : BitVec 4) (total : BitVec 64) :
    Answers (execPoisonTally job total s) := by
  unfold execPoisonTally
  dsimp only
  split
  · exact i
  · split
    · exact keeps_ite i (State.inv_applyTally (State.inv_tallyTotal i _ _ _) _ _ _ _ _)
    · exact i

theorem State.inv_tallyStep {s : State} (i : Inv s) (j : Nat) : Inv (s.tallyStep j) := by
  unfold State.tallyStep
  split
  · exact inv_ite (State.inv_closeEnd i _) i
  · exact i

theorem execReplicaTally_answers {s : State} (i : Inv s) (job : BitVec 4) (group : BitVec 16)
    (roots : List (BitVec 64)) : Answers (execReplicaTally job group roots s) := by
  unfold execReplicaTally
  dsimp only
  split
  · exact i
  · split
    · split
      · exact i
      · exact keeps_ite i (State.inv_tallyStep (State.inv_modTrain (State.inv_shareValue i _ _) _ _) _)
    · exact i

theorem State.inv_repairPage {s : State} (i : Inv s) (j : Nat) (g : TrainGrp) (q : OpenRange × List Bool) :
    Inv (s.repairPage j g q) := by
  unfold State.repairPage
  split
  · exact i
  · split
    · exact i
    · dsimp only
      split
      · exact State.inv_modTrain (State.inv_post i _) _ _
      · refine inv_ite (State.inv_modTrain (State.inv_post i _) _ _) ?_
        refine State.inv_modTrain ?_ _ _
        refine inv_ite (foldl_keeps Inv _ _ _ (fun _ _ h3 => State.inv_sendBytes h3 _ _)
          (foldl_keeps Inv _ _ _ (fun _ _ h3 => State.inv_post h3 _) (State.inv_post i _))) ?_
        refine inv_ite ?_ ?_
        · exact State.inv_mirrorTier0 (foldl_keeps Inv _ _ _ (fun _ _ h3 => State.inv_scramble h3 _ _)
            (foldl_keeps Inv _ _ _ (fun _ _ h3 => State.inv_post h3 _) (State.inv_post i _))) _ _ _ _ _
        · exact foldl_keeps Inv _ _ _ (fun _ _ h3 => State.inv_post h3 _) (State.inv_post i _)

theorem execTallyBisectRound_answers {s : State} (i : Inv s) (job : BitVec 4) (group : BitVec 16)
    (lower : List (List (BitVec 64))) (logs : List (List Bool)) :
    Answers (execTallyBisectRound job group lower logs s) := by
  unfold execTallyBisectRound
  dsimp only
  split
  · exact i
  · split
    · split
      · exact i
      · refine keeps_ite ?_ ?_
        · exact i
        · exact State.inv_tallyStep (State.inv_modTrain
            (foldl_keeps Inv _ _ _ (fun _ _ h4 => State.inv_repairPage h4 _ _ _)
              (State.inv_modTrain (foldl_keeps Inv _ _ _ (fun _ _ h4 => State.inv_shareValue h4 _ _) i) _ _)) _ _) _
    · exact i

/-! ### The debug port -/

theorem execDbgXferUpdate_answers {s : State} (i : Inv s) (req : BitVec 512) : Answers (execDbgXferUpdate req s) := by
  unfold execDbgXferUpdate
  exact keeps_ite i (keeps_ite i (keeps_ite (inv_of_mem (State.answer_mem _ _ _ _ _) i) i))

theorem execDbgXferCapture_answers {s : State} (i : Inv s) : Answers (execDbgXferCapture s) := by
  unfold execDbgXferCapture
  refine keeps_ite i ?_
  split <;> exact i

theorem State.inv_setLevel {s : State} (i : Inv s) (n : Nat) : Inv (s.setLevel n) := by
  unfold State.setLevel
  exact inv_ite i (State.inv_post (by exact i) _)

theorem execDbgStatus_answers {s : State} (i : Inv s) : Answers (execDbgStatus s) := by
  unfold execDbgStatus
  exact State.inv_request i _ _ (fun _ _ h => h)

theorem execDbgChallenge_answers {s : State} (i : Inv s) : Answers (execDbgChallenge s) := by
  unfold execDbgChallenge
  refine State.inv_request i _ _ (fun _ _ h => ?_)
  split
  · exact h
  · exact inv_of_mem rfl (inv_of_mem (State.draw_mem _) h)

theorem execDbgUnlockPiece_answers {s : State} (i : Inv s) : Answers (execDbgUnlockPiece s) := by
  unfold execDbgUnlockPiece
  refine State.inv_request i _ _ (fun _ _ h => ?_)
  dsimp only
  split
  · exact h
  · split
    · exact h
    · split
      · split
        · split
          · exact h
          · split
            · exact State.inv_setLevel (by exact h) _
            · exact h
        · split
          · exact h
          · split
            · exact State.inv_setLevel (by exact h) _
            · exact h
      · exact h

theorem execDbgLock_answers {s : State} (i : Inv s) : Answers (execDbgLock s) := by
  unfold execDbgLock
  refine State.inv_request i _ _ (fun _ _ h => ?_)
  split
  · exact h
  · exact State.inv_setLevel h _

theorem execDbgRead_answers {s : State} (i : Inv s) (f : Faults) : Answers (execDbgRead f s) := by
  unfold execDbgRead
  refine State.inv_request i _ _ (fun _ _ h => ?_)
  dsimp only
  split
  · exact h
  · split
    · exact h
    · split
      · exact h
      · exact inv_of_mem rfl (State.inv_meet h _ _ _)

theorem execDbgWrite_answers {s : State} (i : Inv s) (f : Faults) : Answers (execDbgWrite f s) := by
  unfold execDbgWrite
  refine State.inv_request i _ _ (fun _ _ h => ?_)
  dsimp only
  split
  · exact h
  · split
    · exact h
    · split
      · exact foldl_keeps Inv _ _ _ (fun _ _ h4 => State.inv_devWrite h4 _ _ _) h
      · exact State.inv_put h _ _ _ _

theorem execDbgHalt_answers {s : State} (i : Inv s) : Answers (execDbgHalt s) := by
  unfold execDbgHalt
  refine State.inv_request i _ _ (fun _ _ h => ?_)
  split
  · exact h
  · split
    · exact inv_of_mem (State.halt_mem _ _) h
    · exact h

theorem execDbgStep_answers {s : State} (i : Inv s) : Answers (execDbgStep s) := by
  unfold execDbgStep
  refine State.inv_request i _ _ (fun _ _ h => ?_)
  split
  · exact h
  · split
    · exact h
    · split
      · exact h
      · split
        · exact h
        · split
          · exact h
          · split <;> exact h

theorem State.inv_unhalt {s : State} (i : Inv s) (u : HaltUnit) : Inv (s.unhalt u) := by
  unfold State.unhalt
  dsimp only
  split <;> exact i

theorem execDbgResume_answers {s : State} (i : Inv s) : Answers (execDbgResume s) := by
  unfold execDbgResume
  refine State.inv_request i _ _ (fun _ _ h => ?_)
  split
  · exact h
  · split
    · exact State.inv_unhalt h _
    · exact h

theorem execDbgHaltStatus_answers {s : State} (i : Inv s) : Answers (execDbgHaltStatus s) := by
  unfold execDbgHaltStatus
  exact State.inv_request i _ _ (fun _ _ h => h)

theorem execDbgBpSet_answers {s : State} (i : Inv s) : Answers (execDbgBpSet s) := by
  unfold execDbgBpSet
  refine State.inv_request i _ _ (fun _ _ h => ?_)
  split <;> exact h

theorem execDbgBpClear_answers {s : State} (i : Inv s) : Answers (execDbgBpClear s) := by
  unfold execDbgBpClear
  exact State.inv_request i _ _ (fun _ _ h => by exact h)

theorem execDbgBpHit_answers {s : State} (i : Inv s) : Answers (execDbgBpHit s) := by
  unfold execDbgBpHit
  refine State.inv_request i _ _ (fun _ _ h => ?_)
  split <;> exact h

theorem execDbgReplayEnter_answers {s : State} (i : Inv s) : Answers (execDbgReplayEnter s) := by
  unfold execDbgReplayEnter
  refine State.inv_request i _ _ (fun _ _ h => ?_)
  dsimp only
  split
  · exact h
  · split
    · split <;> exact h
    · exact h

theorem execDbgReplayExit_answers {s : State} (i : Inv s) : Answers (execDbgReplayExit s) := by
  unfold execDbgReplayExit
  refine State.inv_request i _ _ (fun _ _ h => ?_)
  split
  · exact h
  · split <;> exact h

theorem execDbgReplayStatus_answers {s : State} (i : Inv s) : Answers (execDbgReplayStatus s) := by
  unfold execDbgReplayStatus
  refine State.inv_request i _ _ (fun _ _ h => ?_)
  split <;> exact h

theorem execDbgReservedOp_answers {s : State} (i : Inv s) : Answers (execDbgReservedOp s) := by
  unfold execDbgReservedOp
  split
  · exact i
  · exact keeps_ite i (inv_of_mem (State.answer_mem _ _ _ _ _) i)

/-! ### Frames -/

theorem execFrameWrite_answers {s : State} (i : Inv s) (fr : Frame) : Answers (execFrameWrite fr s) := by
  unfold execFrameWrite
  refine inv_ite i ?_
  refine State.inv_receive i _ _ (fun _ h => ?_)
  refine inv_ite (inv_of_mem (State.reply_mem _ _ _ _ _ _) h) ?_
  split
  · exact inv_of_mem (State.nack_mem _ _ _) h
  · refine inv_of_mem (State.reply_mem _ _ _ _ _ _) ?_
    refine inv_ite ?_ ?_
    · exact foldl_keeps Inv _ _ _ (fun _ _ h2 => inv_of_mem (State.mark_mem _ _) h2) (State.inv_jobPut h _ _ _)
    · exact State.inv_jobPut h _ _ _

theorem execFrameRead_answers {s : State} (i : Inv s) (fr : Frame) (f : Faults) : Answers (execFrameRead fr f s) := by
  unfold execFrameRead
  refine inv_ite i ?_
  refine State.inv_receive i _ _ (fun _ h => ?_)
  refine inv_ite (inv_of_mem (State.nack_mem _ _ _) h) ?_
  split
  · exact inv_of_mem (State.nack_mem _ _ _) h
  · exact inv_of_mem (State.reply_mem _ _ _ _ _ _) (State.inv_meet h _ _ _)

theorem execFrameSignal_answers {s : State} (i : Inv s) (fr : Frame) : Answers (execFrameSignal fr s) := by
  unfold execFrameSignal
  refine inv_ite i ?_
  refine State.inv_receive i _ _ (fun _ h => ?_)
  split
  · exact inv_of_mem (State.nack_mem _ _ _) h
  · split
    · exact inv_of_mem (State.nack_mem _ _ _) h
    · refine inv_ite ?_ ?_
      · exact inv_of_mem (State.nack_mem _ _ _) h
      · exact inv_of_mem (State.reply_mem _ _ _ _ _ _) (State.inv_bump h _ _ _)

theorem execFrameWriteAck_answers {s : State} (i : Inv s) (fr : Frame) : Answers (execFrameWriteAck fr s) := by
  unfold execFrameWriteAck
  refine inv_ite i ?_
  refine State.inv_receive i _ _ (fun _ h => ?_)
  split
  · exact h
  next h1 =>
    have k := OptKeepsSnd.of_eq h1 (State.endTxn_keeps h _)
    split
    · exact State.inv_movAnswered k _ _
    · exact State.inv_wayAnswered k _ _
    · exact k

theorem execFrameSignalAck_answers {s : State} (i : Inv s) (fr : Frame) : Answers (execFrameSignalAck fr s) := by
  unfold execFrameSignalAck
  refine inv_ite i ?_
  refine State.inv_receive i _ _ (fun _ h => ?_)
  split
  · exact h
  next h1 => exact OptKeepsSnd.of_eq h1 (State.endTxn_keeps h _)

theorem execFrameReadData_answers {s : State} (i : Inv s) (fr : Frame) : Answers (execFrameReadData fr s) := by
  unfold execFrameReadData
  refine inv_ite i ?_
  refine State.inv_receive i _ _ (fun _ h => ?_)
  split
  · exact h
  next h1 =>
    have k := OptKeepsSnd.of_eq h1 (State.endTxn_keeps h _)
    split
    · split
      · exact k
      · exact State.inv_movAnswered (inv_ite (State.inv_modTask (State.inv_moveWrite k _ _ _ _) _ _ _)
          (State.inv_moveWrite k _ _ _ _)) _ _
    · exact k

theorem State.inv_txnFail {s : State} (i : Inv s) (x : Txn) (e : EventRec) : Inv (s.txnFail x e) := by
  unfold State.txnFail
  split
  · exact State.inv_taskFault i _ _ _ _
  · exact State.inv_taskFault i _ _ _ _
  · exact State.inv_collTxnFail i _ _ _ _
  · exact State.inv_wayLost i _ _ _

theorem execFrameTxnNack_answers {s : State} (i : Inv s) (fr : Frame) : Answers (execFrameTxnNack fr s) := by
  unfold execFrameTxnNack
  refine inv_ite i ?_
  refine State.inv_receive i _ _ (fun _ h => ?_)
  split
  · exact h
  next h1 => exact State.inv_txnFail (OptKeepsSnd.of_eq h1 (State.endTxn_keeps h _)) _ _

theorem execFrameService_answers {s : State} (i : Inv s) (fr : Frame) : Answers (execFrameService fr s) := by
  unfold execFrameService
  exact inv_ite i (State.inv_receive i _ _ (fun _ h => inv_ite h (inv_of_mem (State.reject_mem _ _) h)))

theorem execFrameReservedType_answers {s : State} (i : Inv s) (fr : Frame) :
    Answers (execFrameReservedType fr s) := by
  unfold execFrameReservedType
  exact inv_ite i (State.inv_receive i _ _ (fun _ h => inv_of_mem (State.reject_mem _ _) h))

theorem execTransactionTimeout_answers {s : State} (i : Inv s) (txn : BitVec 15) :
    Answers (execTransactionTimeout txn s) := by
  unfold execTransactionTimeout
  split
  · exact i
  · exact keeps_ite i (State.inv_txnFail (by exact i) _ _)

theorem State.inv_dropHeld {s : State} (i : Inv s) (k : Nat) : Inv (s.dropHeld k) := by
  unfold State.dropHeld
  exact foldl_keeps Inv _ _ _ (fun _ _ h => inv_of_mem (State.freeIngress_mem _ _ _) h) (State.inv_setPort i _ _)

theorem execPortDownDiscard_answers {s : State} (i : Inv s) (port : BitVec 6) :
    Answers (execPortDownDiscard port s) := by
  unfold execPortDownDiscard
  exact keeps_ite (State.inv_dropHeld i _) i

theorem execFabricStallDetect_answers {s : State} (i : Inv s) (port : BitVec 6) (cls : BitVec 2) (vl : Bool) :
    Answers (execFabricStallDetect port cls vl s) := by
  unfold execFabricStallDetect
  exact keeps_ite (State.inv_post i _) i

theorem execCtrlIdle_answers {s : State} (i : Inv s) (c : CtrlFrame) : Answers (execCtrlIdle c s) := by
  unfold execCtrlIdle
  exact State.inv_receiveCtl i _ _ (fun _ h => h)

theorem execCtrlAck_answers {s : State} (i : Inv s) (c : CtrlFrame) : Answers (execCtrlAck c s) := by
  unfold execCtrlAck
  exact State.inv_receiveCtl i _ _ (fun _ h => State.inv_modPort h _ _)

theorem execCtrlNak_answers {s : State} (i : Inv s) (c : CtrlFrame) : Answers (execCtrlNak c s) := by
  unfold execCtrlNak
  exact State.inv_receiveCtl i _ _ (fun _ h => State.inv_modPort h _ _)

theorem execCtrlCredit_answers {s : State} (i : Inv s) (c : CtrlFrame) : Answers (execCtrlCredit c s) := by
  unfold execCtrlCredit
  exact State.inv_receiveCtl i _ _ (fun _ h => inv_ite h (inv_of_mem (State.pump_mem _ _) (State.inv_modPort h _ _)))

theorem State.inv_narrow {s : State} (i : Inv s) (k : Nat) (lam : BitVec 4) (tries : Nat) :
    Inv (s.narrow k lam tries) := by
  unfold State.narrow
  exact State.inv_post (State.inv_modPort (inv_ite (State.inv_portTo i _ _) i) _ _) _

theorem execCtrlNarrow_answers {s : State} (i : Inv s) (c : CtrlFrame) : Answers (execCtrlNarrow c s) := by
  unfold execCtrlNarrow
  refine State.inv_receiveCtl i _ _ (fun _ h => ?_)
  refine inv_ite h ?_
  refine inv_ite (inv_ite (State.inv_modPort h _ _) h) ?_
  refine inv_ite ?_ ?_
  · exact State.inv_portTo h _ _
  · exact inv_of_mem (State.sendCtl_mem _ _ _ _ _ _ _ _)
      (State.inv_modPort (inv_ite (State.inv_narrow h _ _ _) h) _ _)

theorem execControlFrameResend_answers {s : State} (i : Inv s) (port : BitVec 6) (ctype : BitVec 4) :
    Answers (execControlFrameResend port ctype s) := by
  unfold execControlFrameResend
  refine keeps_ite i ?_
  split
  · exact State.inv_sendAck i _
  · exact inv_ite (State.inv_sendNak i _) i
  · exact foldl_keeps Inv _ _ _ (fun _ _ h1 => inv_of_mem (State.sendCtl_mem _ _ _ _ _ _ _ _) h1) i
  · refine keeps_ite ?_ ?_
    · exact keeps_ite (State.inv_portTo i _ _) (inv_of_mem (State.sendCtl_mem _ _ _ _ _ _ _ _)
        (State.inv_modPort i _ _))
    · exact i
  · exact i

theorem execDataFrameReceiveFail_answers {s : State} (i : Inv s) (port : BitVec 6) (tagFail : Bool) :
    Answers (execDataFrameReceiveFail port tagFail s) := by
  unfold execDataFrameReceiveFail
  exact keeps_ite i (State.inv_sendNak (inv_ite (State.inv_tagFailed i _) i) _)

theorem execControlFrameDiscard_answers {s : State} (i : Inv s) (port : BitVec 6) (tagFail : Bool) :
    Answers (execControlFrameDiscard port tagFail s) := by
  unfold execControlFrameDiscard
  exact keeps_ite i (inv_ite (State.inv_tagFailed i _) (inv_of_mem (State.reject_mem _ _) i))

theorem execCodewordUncorrectable_answers {s : State} (i : Inv s) (port : BitVec 6) (wave : BitVec 2) :
    Answers (execCodewordUncorrectable port wave s) := by
  unfold execCodewordUncorrectable
  exact keeps_ite i (State.inv_setPort i _ _)

theorem execWavelengthFail_answers {s : State} (i : Inv s) (port : BitVec 6) (wave : BitVec 2) :
    Answers (execWavelengthFail port wave s) := by
  unfold execWavelengthFail
  refine keeps_ite i ?_
  refine keeps_ite (State.inv_setPort i _ _) ?_
  refine keeps_ite ?_ ?_
  · exact State.inv_portTo (State.inv_setPort i _ _) _ _
  · exact inv_of_mem (State.sendCtl_mem _ _ _ _ _ _ _ _) (State.inv_narrow (State.inv_setPort i _ _) _ _ _)

theorem execNarrowComplete_answers {s : State} (i : Inv s) (port : BitVec 6) :
    Answers (execNarrowComplete port s) := by
  unfold execNarrowComplete
  refine keeps_ite ?_ ?_
  · exact i
  · exact inv_of_mem (State.pump_mem _ _) (State.inv_sendNak (State.inv_portTo (State.inv_setPort i _ _) _ _) _)

theorem execPortAuthDown_answers {s : State} (i : Inv s) (port : BitVec 6) : Answers (execPortAuthDown port s) := by
  unfold execPortAuthDown
  exact keeps_ite i (State.inv_post (State.inv_portTo i _ _) _)

/-! ### The stage clock and port training -/

theorem State.inv_sendTime {s : State} (i : Inv s) (k : Nat) (payload : List Byte) : Inv (s.sendTime k payload) := by
  unfold State.sendTime
  exact State.inv_sendBy i _ _ _

theorem State.inv_timeAsk {s : State} (i : Inv s) (k : Nat) : Inv (s.timeAsk k) := by
  unfold State.timeAsk
  exact State.inv_sendTime (State.inv_modPort i _ _) _ _

theorem State.inv_timeExchange {s : State} (i : Inv s) : Inv s.timeExchange := by
  unfold State.timeExchange
  exact inv_ite (foldl_keeps Inv _ _ _ (fun _ _ h => State.inv_timeAsk h _) i) i

theorem State.inv_hearLock {s : State} (i : Inv s) (fr : Frame) : Inv (s.hearLock fr) := by
  unfold State.hearLock
  exact State.inv_modPort i _ _

theorem execTimeRequest_answers {s : State} (i : Inv s) (fr : Frame) : Answers (execTimeRequest fr s) := by
  unfold execTimeRequest
  exact inv_ite i (State.inv_receive i _ _ (fun _ h => State.inv_sendTime (State.inv_hearLock h _) _ _))

theorem State.inv_follow {s : State} (i : Inv s) (b : List Byte) (raw ahead : Int) : Inv (s.follow b raw ahead) := by
  unfold State.follow
  exact inv_ite i (inv_ite i (inv_ite (State.inv_post (by exact i) _) i))

theorem execTimeResponse_answers {s : State} (i : Inv s) (fr : Frame) : Answers (execTimeResponse fr s) := by
  unfold execTimeResponse
  refine inv_ite i ?_
  refine State.inv_receive i _ _ (fun _ h => ?_)
  dsimp only
  split
  · exact h
  · refine inv_ite h ?_
    refine inv_ite ?_ ?_
    · exact State.inv_follow (State.inv_chooseTime (State.inv_hearLock (State.inv_setPort h _ _) _)) _ _ _
    · exact State.inv_chooseTime (State.inv_hearLock (State.inv_setPort h _ _) _)

theorem State.inv_setPeriod {s : State} (i : Inv s) (us : Nat) : Inv (s.setPeriod us) := by
  unfold State.setPeriod
  exact i

theorem execStageRenumber_answers {s : State} (i : Inv s) (stage : BitVec 48) (periodUs : BitVec 14) :
    Answers (execStageRenumber stage periodUs s) := by
  unfold execStageRenumber
  exact keeps_ite i (State.inv_post (State.inv_setPeriod (by exact i) _) _)

theorem execPeriodChange_answers {s : State} (i : Inv s) : Answers (execPeriodChange s) := by
  unfold execPeriodChange
  split
  · exact i
  · exact keeps_ite i (State.inv_completeBoth (State.inv_setPeriod (by exact i) _) _)

theorem State.inv_endSwitch {s : State} (i : Inv s) (op : Nat) : Inv (s.endSwitch op) := by
  unfold State.endSwitch
  exact State.inv_completeBoth i _

theorem execKeySwitch_answers {s : State} (i : Inv s) : Answers (execKeySwitch s) := by
  unfold execKeySwitch
  split
  · exact i
  · refine keeps_ite i ?_
    refine State.inv_endSwitch ?_ _
    refine inv_ite ?_ ?_
    · exact foldl_keeps Inv _ _ _ (fun _ _ h1 => inv_of_mem (State.deriveKeys_mem _ _ _) (State.inv_modPort h1 _ _))
        (by exact i)
    · exact foldl_keeps Inv _ _ _ (fun _ _ h1 => State.inv_portRefuse h1 _ _) (by exact i)

theorem execKeyOldErase_answers {s : State} (i : Inv s) : Answers (execKeyOldErase s) := by
  unfold execKeyOldErase
  split
  · exact i
  · exact keeps_ite i i

theorem execRouteSwitch_answers {s : State} (i : Inv s) : Answers (execRouteSwitch s) := by
  unfold execRouteSwitch
  split
  · exact i
  · exact keeps_ite i (State.inv_endSwitch (by exact i) _)

theorem State.inv_newTimekeeper {s : State} (i : Inv s) (tk : Nat) (tps : List Nat) :
    Inv (s.newTimekeeper tk tps) := by
  unfold State.newTimekeeper
  refine inv_ite i ?_
  split
  · exact i
  · exact inv_ite i (State.inv_post (by exact i) _)

theorem execTimekeeperSwitch_answers {s : State} (i : Inv s) : Answers (execTimekeeperSwitch s) := by
  unfold execTimekeeperSwitch
  refine keeps_ite i ?_
  split
  · exact State.inv_endSwitch i _
  · exact State.inv_endSwitch (inv_ite (State.inv_newTimekeeper i _ _) i) _

theorem execPortLightSample_answers {s : State} (i : Inv s) (port : BitVec 6) (light : Bool) :
    Answers (execPortLightSample port light s) := by
  unfold execPortLightSample
  exact keeps_ite (State.inv_portTrain i _) i

theorem execRefusedRetry_answers {s : State} (i : Inv s) (port : BitVec 6) : Answers (execRefusedRetry port s) := by
  unfold execRefusedRetry
  exact keeps_ite (State.inv_portTrain i _) i

theorem execDownRetrain_answers {s : State} (i : Inv s) (port : BitVec 6) : Answers (execDownRetrain port s) := by
  unfold execDownRetrain
  exact keeps_ite (State.inv_portTrain i _) i

theorem execTrainingTimeout_answers {s : State} (i : Inv s) (port : BitVec 6) :
    Answers (execTrainingTimeout port s) := by
  unfold execTrainingTimeout
  exact keeps_ite i (keeps_ite (State.inv_portRefuse i _ _) (State.inv_portTo i _ _))

theorem State.inv_portUp {s : State} (i : Inv s) (k : Nat) : Inv (s.portUp k) := by
  unfold State.portUp
  refine inv_of_mem (State.pump_mem _ _) ?_
  refine inv_ite ?_ ?_
  · exact State.inv_chooseTime (State.inv_portTo (State.inv_setPort i _ _) _ _)
  · exact State.inv_portTo (State.inv_setPort i _ _) _ _

theorem execTrainingPhaseDone_answers {s : State} (i : Inv s) (port : BitVec 6) (healthy : BitVec 4) :
    Answers (execTrainingPhaseDone port healthy s) := by
  unfold execTrainingPhaseDone
  refine keeps_ite i ?_
  split
  · exact State.inv_setPort i _ _
  · exact State.inv_setPort i _ _
  · refine keeps_ite (State.inv_portTo (State.inv_setPort i _ _) _ _) ?_
    refine keeps_ite (State.inv_portRefuse (State.inv_setPort i _ _) _ _) ?_
    refine keeps_ite ?_ ?_
    · exact State.inv_portRefuse (State.inv_setPort i _ _) _ _
    · exact State.inv_sendTraining (State.inv_setPort i _ _) _
  · exact keeps_ite (State.inv_sendAck (inv_of_mem (State.deriveKeys_mem _ _ _) (State.inv_setPort i _ _)) _) i
  · exact keeps_ite (State.inv_portUp i _) i
  · exact i

theorem execTrainingMessage_answers {s : State} (i : Inv s) (port : BitVec 6) (msg : List Byte) :
    Answers (execTrainingMessage port msg s) := by
  unfold execTrainingMessage
  refine keeps_ite i ?_
  refine keeps_ite i ?_
  refine keeps_ite (State.inv_portRefuse i _ _) ?_
  refine keeps_ite (State.inv_portRefuse i _ _) ?_
  refine keeps_ite (State.inv_post (State.inv_portRefuse i _ _) _) ?_
  refine keeps_ite (State.inv_sendTraining (State.inv_setPort i _ _) _) ?_
  split
  · exact State.inv_portRefuse (State.inv_sendTraining (State.inv_setPort i _ _) _) _ _
  · refine keeps_ite ?_ ?_
    · exact State.inv_modPort (State.inv_sendTraining (State.inv_setPort i _ _) _) _ _
    · exact State.inv_portRefuse (State.inv_sendTraining (State.inv_setPort i _ _) _) _ _

/-! ### The FABRIC commands -/

theorem State.inv_portsDown {s : State} (i : Inv s) : Inv s.portsDown := by
  unfold State.portsDown
  exact foldl_keeps Inv _ _ _ (fun _ _ h => State.inv_portTo h _ _) i

theorem execFabricJoin_answers {s : State} (i : Inv s) (h : HostId) (c : CmdRec) :
    Answers (execFabricJoin h c s) := by
  unfold execFabricJoin
  refine State.inv_commandRes i _ _ _ _ (fun _ h1 => ?_)
  refine keeps_ite ?_ ?_
  · exact h1
  · exact keeps_ite h1 (keeps_ite h1 (keeps_ite h1 (by exact inv_of_mem rfl (State.inv_portsDown (by exact h1)))))

theorem execFabricLeave_answers {s : State} (i : Inv s) (h : HostId) (c : CmdRec) :
    Answers (execFabricLeave h c s) := by
  unfold execFabricLeave
  exact State.inv_commandRes i _ _ _ _ (fun _ h1 => keeps_ite h1
    (keeps_ite h1 (by exact inv_of_mem rfl (State.inv_portsDown (by exact h1)))))

theorem execFabricKeySet_answers {s : State} (i : Inv s) (h : HostId) (c : CmdRec) :
    Answers (execFabricKeySet h c s) := by
  unfold execFabricKeySet
  exact State.inv_commandRes i _ _ _ _ (fun _ h1 => by exact h1)

theorem execFabricKeySwitch_answers {s : State} (i : Inv s) (h : HostId) (c : CmdRec) :
    Answers (execFabricKeySwitch h c s) := by
  unfold execFabricKeySwitch
  exact State.inv_commandRes i _ _ _ _ (fun _ h1 => keeps_ite h1 (keeps_ite h1 (by exact h1)))

theorem State.inv_portSet {s : State} (i : Inv s) (action k : Nat) : Inv (s.portSet action k) := by
  unfold State.portSet
  dsimp only
  split
  · exact inv_ite i (State.inv_dropHeld (State.inv_portTo i _ _) _)
  · exact inv_ite (State.inv_portTo i _ _) i
  · exact inv_ite i (State.inv_portTo i _ _)

theorem execFabricPortSet_answers {s : State} (i : Inv s) (h : HostId) (c : CmdRec) :
    Answers (execFabricPortSet h c s) := by
  unfold execFabricPortSet
  exact State.inv_commandRes i _ _ _ _ (fun _ h1 => keeps_ite h1
    (keeps_ite h1 (foldl_keeps Inv _ _ _ (fun _ _ h2 => State.inv_portSet h2 _ _) h1)))

theorem execFabricRouteLoad_answers {s : State} (i : Inv s) (h : HostId) (c : CmdRec) :
    Answers (execFabricRouteLoad h c s) := by
  unfold execFabricRouteLoad
  refine State.inv_commandRes i _ _ _ _ (fun _ h1 => ?_)
  refine keeps_ite h1 ?_
  refine keeps_ite h1 ?_
  split
  · exact h1
  · exact keeps_ite h1 (keeps_ite h1 h1)

theorem execFabricRouteSwitch_answers {s : State} (i : Inv s) (h : HostId) (c : CmdRec) :
    Answers (execFabricRouteSwitch h c s) := by
  unfold execFabricRouteSwitch
  exact State.inv_commandRes i _ _ _ _ (fun _ h1 => keeps_ite h1 (keeps_ite h1 (by exact h1)))

theorem execFabricTimekeeperSet_answers {s : State} (i : Inv s) (h : HostId) (c : CmdRec) :
    Answers (execFabricTimekeeperSet h c s) := by
  unfold execFabricTimekeeperSet
  exact State.inv_commandRes i _ _ _ _ (fun _ h1 => keeps_ite h1
    (keeps_ite h1 (keeps_ite h1 (keeps_ite h1 (by exact h1)))))

theorem execFabricWindowSet_answers {s : State} (i : Inv s) (h : HostId) (c : CmdRec) :
    Answers (execFabricWindowSet h c s) := by
  unfold execFabricWindowSet
  exact State.inv_commandRes i _ _ _ _ (fun _ h1 => keeps_ite h1 (State.inv_modJob h1 _ _))

theorem execFabricPeersSet_answers {s : State} (i : Inv s) (h : HostId) (c : CmdRec) (f : Faults) :
    Answers (execFabricPeersSet h c f s) := by
  unfold execFabricPeersSet
  refine State.inv_commandRes i _ _ _ _ (fun _ h1 => ?_)
  dsimp only
  split
  · exact h1
  · refine keeps_ite h1 ?_
    split
    next h3 => exact fst_of_eq h3 (State.inv_cmdJobRead h1 _ _ _ _ _)
    next h3 => exact State.inv_modJob (fst_of_eq h3 (State.inv_cmdJobRead h1 _ _ _ _ _)) _ _

theorem execFabricPortStatus_answers {s : State} (i : Inv s) (h : HostId) (c : CmdRec) :
    Answers (execFabricPortStatus h c s) := by
  unfold execFabricPortStatus
  refine State.inv_commandRes i _ _ _ _ (fun _ h1 => ?_)
  refine keeps_ite h1 ?_
  refine keeps_ite h1 ?_
  split
  next h2 => exact OptKeeps.of_eq h2 (State.hostWrite_keeps h1 _ _ _)
  · exact h1

theorem execFabricDomainStatus_answers {s : State} (i : Inv s) (h : HostId) (c : CmdRec) :
    Answers (execFabricDomainStatus h c s) := by
  unfold execFabricDomainStatus
  refine State.inv_commandRes i _ _ _ _ (fun _ h1 => ?_)
  refine keeps_ite h1 ?_
  split
  next h2 => exact OptKeeps.of_eq h2 (State.hostWrite_keeps h1 _ _ _)
  · exact h1

/-! ### Cache commands -/

theorem execKvPoolSet_answers {s : State} (i : Inv s) (h : HostId) (c : CmdRec) : Answers (execKvPoolSet h c s) := by
  unfold execKvPoolSet
  refine State.inv_commandRes i _ _ _ _ (fun _ h1 => ?_)
  split
  · exact h1
  · exact keeps_ite h1 (keeps_ite h1 (State.inv_setKv h1 _ _))

theorem kvAdmitBody_keeps {s : State} (i : Inv s) (c : CmdRec) : (kvAdmitBody c s).Keeps := by
  unfold kvAdmitBody
  split
  · exact i
  · split
    · exact i
    · refine keeps_ite i ?_
      refine keeps_ite i ?_
      split
      · exact i
      · exact State.inv_setKv (State.inv_jobPut i _ _ _) _ _

theorem kvReleaseBody_keeps {s : State} (i : Inv s) (c : CmdRec) : (kvReleaseBody c s).Keeps := by
  unfold kvReleaseBody
  dsimp only
  split
  · exact i
  · split
    · exact i
    · exact keeps_ite i (State.inv_setKv i _ _)

theorem kvUnpinBody_keeps {s : State} (i : Inv s) (c : CmdRec) : (kvUnpinBody c s).Keeps := by
  unfold kvUnpinBody
  dsimp only
  split
  · exact i
  · split
    · exact i
    · exact State.inv_setKv i _ _

theorem kvPinBody_keeps {s : State} (i : Inv s) (c : CmdRec) : (kvPinBody c s).Keeps := by
  unfold kvPinBody
  dsimp only
  split
  · exact i
  · split
    · exact i
    · exact keeps_ite (State.inv_setKv i _ _) (keeps_ite i i)

theorem seqBody_keeps {s : State} (i : Inv s) (op : Nat) (c : CmdRec) : (seqBody op c s).Keeps := by
  unfold seqBody
  refine keeps_ite ?_ ?_
  · exact kvAdmitBody_keeps i _
  · exact keeps_ite (kvReleaseBody_keeps i _) (keeps_ite (kvPinBody_keeps i _) (kvUnpinBody_keeps i _))

theorem seqCmd_keeps {s : State} (i : Inv s) (h : HostId) (op : Nat) (c : CmdRec) : (seqCmd h op c s).Keeps := by
  unfold seqCmd
  exact keeps_ite i (seqBody_keeps i _ _)

theorem execKvAdmit_answers {s : State} (i : Inv s) (h : HostId) (c : CmdRec) : Answers (execKvAdmit h c s) := by
  unfold execKvAdmit
  exact State.inv_commandRes i _ _ _ _ (fun _ h1 => seqCmd_keeps h1 _ _ _)

theorem execKvRelease_answers {s : State} (i : Inv s) (h : HostId) (c : CmdRec) : Answers (execKvRelease h c s) := by
  unfold execKvRelease
  exact State.inv_commandRes i _ _ _ _ (fun _ h1 => seqCmd_keeps h1 _ _ _)

theorem execKvPin_answers {s : State} (i : Inv s) (h : HostId) (c : CmdRec) : Answers (execKvPin h c s) := by
  unfold execKvPin
  exact State.inv_commandRes i _ _ _ _ (fun _ h1 => seqCmd_keeps h1 _ _ _)

theorem execKvUnpin_answers {s : State} (i : Inv s) (h : HostId) (c : CmdRec) : Answers (execKvUnpin h c s) := by
  unfold execKvUnpin
  exact State.inv_commandRes i _ _ _ _ (fun _ h1 => seqCmd_keeps h1 _ _ _)

theorem execKvPreempt_answers {s : State} (i : Inv s) (job : BitVec 4) (seq : BitVec 32) (f : Faults) :
    Answers (execKvPreempt job seq f s) := by
  unfold execKvPreempt
  dsimp only
  split
  · split
    · exact i
    · refine keeps_ite i ?_
      split
      · exact i
      next h3 => exact State.inv_post (State.inv_setKv
          (OptKeepsFst.of_eq h3 (State.moveSeq_keeps i _ _ _ _ _ _)) _ _) _
  · exact i

theorem execKvFerryBack_answers {s : State} (i : Inv s) (job : BitVec 4) (seq : BitVec 32) (f : Faults) :
    Answers (execKvFerryBack job seq f s) := by
  unfold execKvFerryBack
  dsimp only
  split
  · split
    · exact i
    · refine keeps_ite i ?_
      split
      · exact i
      next h3 => exact State.inv_runWaiting (State.inv_runWaiting
          (State.inv_completeBoth (State.inv_post (State.inv_setKv
            (OptKeepsFst.of_eq h3 (State.moveSeq_keeps i _ _ _ _ _ _)) _ _) _) _) _ _ _
              (fun _ _ h4 => seqBody_keeps h4 _ _)) _ _ _ (fun _ _ h4 => seqBody_keeps h4 _ _)
  · exact i

theorem State.inv_kvReturn {s : State} (i : Inv s) (j id : Nat) : Inv (s.kvReturn j id) := by
  unfold State.kvReturn
  split
  · split
    · exact State.inv_modTask (State.inv_setKv i _ _) _ _ _
    · exact i
  · exact i

/-! ### Media channels -/

theorem State.inv_readRecipes (f : Faults) (j : Nat) (pt : NMap Nat) (l : List Nat) {s : State} (i : Inv s) :
    Inv (s.readRecipes f j pt l).1 := by
  induction l generalizing s with
  | nil => exact i
  | cons a r ih =>
    unfold State.readRecipes
    split
    next e => exact fst_of_eq e (State.inv_cmdJobRead i _ _ _ _ _)
    next e =>
      have k := ih (fst_of_eq e (State.inv_cmdJobRead i _ _ _ _ _))
      split
      next e _ => exact fst_of_eq e k
      next e => exact fst_of_eq e k
      next e _ => exact fst_of_eq e k

theorem State.placeChan_keeps {s : State} (i : Inv s) (jb : Job) (ch : Chan) : (s.placeChan jb ch).Keeps := by
  unfold State.placeChan
  refine keeps_ite i ?_
  split
  · exact i
  · split <;> exact i

theorem execMediaChannelOpen_answers {s : State} (i : Inv s) (h : HostId) (c : CmdRec) (f : Faults) :
    Answers (execMediaChannelOpen h c f s) := by
  unfold execMediaChannelOpen
  refine State.inv_commandRes i _ _ _ _ (fun _ h1 => ?_)
  split
  · exact h1
  · refine keeps_ite h1 ?_
    refine keeps_ite h1 ?_
    split
    next h3 => exact fst_of_eq h3 (State.inv_cmdJobRead h1 _ _ _ _ _)
    next h3 =>
      have k := fst_of_eq h3 (State.inv_cmdJobRead h1 _ _ _ _ _)
      split
      · exact k
      · refine keeps_ite k ?_
        refine keeps_ite k ?_
        refine keeps_ite k ?_
        split
        next h5 => exact fst_of_eq h5 (State.inv_readRecipes _ _ _ _ k)
        next h5 => exact State.placeChan_keeps (fst_of_eq h5 (State.inv_readRecipes _ _ _ _ k)) _ _

theorem submitBody_keeps {s : State} (i : Inv s) (c : CmdRec) : (submitBody c s).Keeps := by
  unfold submitBody
  dsimp only
  split
  · exact i
  · exact keeps_ite i (keeps_ite i (keeps_ite i (State.inv_setChan i _ _)))

theorem closeBody_keeps {s : State} (i : Inv s) (c : CmdRec) : (closeBody c s).Keeps := by
  unfold closeBody
  dsimp only
  split
  · exact i
  · exact keeps_ite i (keeps_ite i (State.inv_setChan i _ _))

theorem chanBody_keeps {s : State} (i : Inv s) (op : Nat) (c : CmdRec) : (chanBody op c s).Keeps := by
  unfold chanBody
  exact keeps_ite i (keeps_ite (submitBody_keeps i _) (closeBody_keeps i _))

theorem chanCmd_keeps {s : State} (i : Inv s) (h : HostId) (op : Nat) (c : CmdRec) : (chanCmd h op c s).Keeps := by
  unfold chanCmd
  exact keeps_ite i (chanBody_keeps i _ _)

theorem execMediaSubmit_answers {s : State} (i : Inv s) (h : HostId) (c : CmdRec) :
    Answers (execMediaSubmit h c s) := by
  unfold execMediaSubmit
  exact State.inv_commandRes i _ _ _ _ (fun _ h1 => chanCmd_keeps h1 _ _ _)

theorem execMediaChannelClose_answers {s : State} (i : Inv s) (h : HostId) (c : CmdRec) :
    Answers (execMediaChannelClose h c s) := by
  unfold execMediaChannelClose
  exact State.inv_commandRes i _ _ _ _ (fun _ h1 => chanCmd_keeps h1 _ _ _)

theorem State.inv_mediaRead {s : State} (i : Inv s) (f : Faults) (half j : Nat) (pt : NMap Nat) (va n : Nat) :
    Inv (s.mediaRead f half j pt va n).1 := by
  unfold State.mediaRead
  split
  · exact i
  · exact State.inv_meet i _ _ _

theorem State.inv_readRecipe {s : State} (i : Inv s) (f : Faults) (half j : Nat) (pt : NMap Nat) (addr : Nat)
    (part : List Byte) (planes : Nat × Nat) : Inv (s.readRecipe f half j pt addr part planes).1 := by
  unfold State.readRecipe
  split
  next e => exact fst_of_eq e (State.inv_mediaRead i _ _ _ _ _ _)
  next e =>
    have first := fst_of_eq e (State.inv_mediaRead i _ _ _ _ _ _)
    split
    · exact first
    · split
      · exact first
      · split
        · exact first
        · extract_lets lensA meshA get l mh sz m b t
          have more : ∀ z on a n, Inv z.1 → Inv (get z on a n).1 := fun z on a n k => by
            dsimp only [get]
            split
            · exact k
            · split
              · exact State.inv_mediaRead k _ _ _ _ _ _
              · exact k
          have gl : Inv l.1 := more (_, some []) _ _ _ first
          have gm : Inv mh.1 := more l _ _ _ gl
          have gb : Inv b.1 := more m _ _ _ (more mh _ _ _ gm)
          have gt : Inv t.1 := more b _ _ _ gb
          split
          · exact gm
          · split
            · exact gm
            · split <;> exact gt

theorem State.inv_readParts (f : Faults) (half j : Nat) (pt : NMap Nat) (l : List (Nat × List Byte × (Nat × Nat)))
    {s : State} (i : Inv s) (k : Nat) : Inv (s.readParts f half j pt k l).1 := by
  induction l generalizing s k with
  | nil => exact i
  | cons e r ih =>
    obtain ⟨a, b, pl⟩ := e
    unfold State.readParts
    dsimp only
    split
    · exact State.inv_readRecipe i _ _ _ _ _ _ _
    · exact ih (State.inv_readRecipe i _ _ _ _ _ _ _) _

theorem State.inv_takeSample {s : State} (i : Inv s) (f : Faults) (n : Nat) (ch : Chan) (h : HostId) (o : OpenCmd)
    (jb : Job) : Inv (s.takeSample f n ch h o jb) := by
  unfold State.takeSample
  extract_lets half size va e b m ch1 x r s1
  have read : Inv e.1 := State.inv_mediaRead i _ _ _ _ _ _
  have taken : Inv r.1 := by
    dsimp only [r]
    split
    · exact read
    · split
      · exact read
      · have parts : Inv x.1 := State.inv_readParts _ _ _ _ _ read _
        split <;> exact parts
  have i1 : Inv s1 := State.inv_setChan taken _ _
  exact inv_ite i1 (State.inv_runWaiting (inv_of_mem (State.completeWhere_mem _ _ _) i1) _ _ _
    (fun _ _ k => chanBody_keeps k _ _))

theorem execMediaSampleTake_answers {s : State} (i : Inv s) (channel : BitVec 6) (f : Faults) :
    Answers (execMediaSampleTake channel f s) := by
  unfold execMediaSampleTake
  split
  · split
    · exact keeps_ite (State.inv_takeSample i _ _ _ _ _ _) i
    · exact i
  · exact i

theorem execMediaDecodeStart_answers {s : State} (i : Inv s) (half : BitVec 1) :
    Answers (execMediaDecodeStart half s) := by
  unfold execMediaDecodeStart
  refine keeps_ite i ?_
  split
  · exact i
  · split <;> exact i

theorem State.inv_partBytes {s : State} (i : Inv s) (f : Faults) (half j : Nat) (pt : NMap Nat) (p : PartD) :
    Inv (s.partBytes f half j pt p).1 := by
  have read := fun (a n : Nat) => State.inv_mediaRead i f half j pt a n
  unfold State.partBytes
  split
  · exact read _ _
  · dsimp only
    split
    · exact read _ _
    · refine foldl_keeps (fun z : State × Option (List (List Byte)) => Inv z.1) _ _ _ (fun z _ h => ?_) (read _ _)
      split
      · exact h
      · exact State.inv_mediaRead h _ _ _ _ _ _

theorem State.inv_decodeDone {s0 : State} (i : Inv s0) (f : Faults) (n : Nat) (ch : Chan) (m : Sample) (jb : Job) :
    Inv (s0.decodeDone f n ch m jb) := by
  unfold State.decodeDone
  dsimp only
  split
  · exact inv_of_mem (State.free_mem _) i
  · split
    · exact inv_of_mem (State.free_mem _) i
    · split <;> exact State.inv_setChan (State.inv_partBytes (inv_of_mem (State.free_mem _) i) _ _ _ _ _) _ _

theorem execMediaDecodeDone_answers {s : State} (i : Inv s) (channel : BitVec 6) (pos : BitVec 64) (f : Faults) :
    Answers (execMediaDecodeDone channel pos f s) := by
  unfold execMediaDecodeDone
  split
  · exact i
  · split
    · exact keeps_ite (State.inv_decodeDone i _ _ _ _ _) i
    · exact i

theorem State.inv_setStore {s : State} (i : Inv s) (pages : List Nat) (off : Nat) (d : List Byte) :
    Inv (s.setStore pages off d) := by
  unfold State.setStore
  exact foldl_keeps Inv _ _ _ (fun _ _ h => State.inv_store h _ _) i

theorem State.inv_issueBatch {s : State} (i : Inv s) (n : Nat) (ch : Chan) (slots : List Slot) (drops : List Drop)
    (final : Bool) : Inv (s.issueBatch n ch slots drops final) := by
  unfold State.issueBatch
  refine inv_ite ?_ ?_
  · exact State.inv_bump (State.inv_setChan (State.inv_setStore
      (foldl_keeps Inv _ _ _ (fun _ _ h => State.inv_setStore (State.inv_setStore h _ _ _) _ _ _) i) _ _ _) _ _) _ _ _
  · exact State.inv_setChan (State.inv_setStore (foldl_keeps Inv _ _ _
      (fun _ _ h => State.inv_setStore (State.inv_setStore h _ _ _) _ _ _) i) _ _ _) _ _

theorem State.issueLogged_keeps {s : State} (i : Inv s) (n : Nat) (ch : Chan) : OptKeeps (s.issueLogged n ch) := by
  unfold State.issueLogged
  cases s.loggedBatch ch.job n (ch.batches % ch.stepBatches) with
  | none => trivial
  | some m => exact OptKeeps.map (fun _ => State.inv_issueBatch (inv_ite (State.inv_modReplay i _) i) _ _ _ _ _)

theorem State.inv_issueBatches (n k : Nat) {s : State} (i : Inv s) : Inv (State.issueBatches n k s) := by
  induction k generalizing s with
  | zero => exact i
  | succ k ih =>
    unfold State.issueBatches
    split
    · exact i
    · refine inv_ite i (inv_ite ?_ ?_)
      · split
        · exact i
        next e => exact ih (OptKeeps.of_eq e (State.issueLogged_keeps i _ _))
      · split
        · exact i
        · exact ih (State.inv_issueBatch i _ _ _ _ _)

theorem State.inv_convoy {s : State} (i : Inv s) (n : Nat) : Inv (s.convoy n) := by
  unfold State.convoy
  split
  · exact i
  · exact State.inv_issueBatches _ _ (State.inv_setChan i _ _)

theorem State.inv_convoys {s : State} (i : Inv s) : Inv s.convoys := by
  unfold State.convoys
  exact foldl_keeps Inv _ _ _ (fun _ _ h => State.inv_convoy h _) i

theorem execLateDrop_answers {s : State} (i : Inv s) (channel : BitVec 6) (pos : BitVec 64) :
    Answers (execLateDrop channel pos s) := by
  unfold execLateDrop
  split
  · exact i
  · split
    · exact i
    · exact keeps_ite (State.inv_setChan i _ _) i

theorem State.inv_mapSets {s : State} (i : Inv s) (j : Nat) (chs : List Nat) : Inv (s.mapSets j chs) := by
  unfold State.mapSets
  refine foldl_keeps Inv _ _ _ (fun t a h => ?_) i
  split
  · exact h
  · exact State.inv_modJob (State.inv_setChan h _ _) _ _

theorem State.inv_freeSets {s : State} (i : Inv s) (j : Nat) (chs : List Nat) : Inv (s.freeSets j chs) := by
  unfold State.freeSets
  refine foldl_keeps Inv _ _ _ (fun t a h => ?_) i
  split
  · exact h
  · exact inv_ite (State.inv_modJob (by exact h) _ _) (State.inv_setChan h _ _)

/-! ### Placing legs -/

theorem State.inv_spillArea {s : State} (i : Inv s) (jb : Job) (core : Nat) : Inv (s.spillArea jb core) := by
  unfold State.spillArea
  exact foldl_keeps Inv _ _ _ (fun _ _ h => State.inv_scramble h _ _) i

theorem State.inv_spillTask {s : State} (i : Inv s) (arr vec : Bool) (core j : Nat) (t : TaskRun) :
    Inv (s.spillTask arr vec core j t) := by
  unfold State.spillTask
  split
  · exact i
  · refine inv_ite i ?_
    refine inv_ite ?_ ?_
    · exact State.inv_spillArea (State.inv_modTask (State.inv_setCore i _ _) _ _ _) _ _
    · exact inv_ite (State.inv_spillArea (State.inv_modTask (State.inv_setCore i _ _) _ _ _) _ _) i

theorem State.inv_spillOthers {s : State} (i : Inv s) (core j : Nat) (t : TaskRun) :
    Inv (s.spillOthers core j t) := by
  unfold State.spillOthers
  exact foldl_keeps Inv _ _ _ (fun _ _ h => inv_ite h (foldl_keeps Inv _ _ _
    (fun _ _ h1 => State.inv_spillTask h1 _ _ _ _ _) h)) i

theorem State.inv_restoreTask {s : State} (i : Inv s) (core : Nat) (t : TaskRun) : Inv (s.restoreTask core t) := by
  unfold State.restoreTask
  split
  · exact i
  · exact inv_ite (State.inv_setCore i _ _) (State.inv_setCore i _ _)

theorem State.keepPlace_keeps {s : State} (i : Inv s) (x : EngRun) (t : Train) (g : TrainGrp) :
    (s.keepPlace x t g).Keeps := by
  unfold State.keepPlace
  refine keeps_ite (State.inv_setEng (State.inv_setGroup i _ _) _ _) ?_
  refine keeps_ite i ?_
  refine keeps_ite ?_ ?_
  · exact State.inv_modJob i _ _
  · exact keeps_ite (State.inv_modJob i _ _) (State.inv_modEng (State.inv_post (State.inv_modJob i _ _) _) _ _)

theorem State.replayMissing_keeps {s : State} (i : Inv s) (x : EngRun) : OptKeeps (s.replayMissing x) := by
  unfold State.replayMissing
  refine keeps_ite ?_ ?_
  · exact trivial
  · exact keeps_ite trivial (inv_of_mem (State.resolveNotRun_mem _ _)
      (State.inv_modReplay (State.inv_modEng i _ _) _))

theorem State.inv_collReplay {s : State} (i : Inv s) (x : EngRun) (f : Faults) : Inv (s.collReplay x f) := by
  unfold State.collReplay
  split
  · have written := fun (l : List (Nat × Nat)) (d : List Byte) =>
      foldl_keeps (fun z : State × List Byte => Inv z.1)
        (fun (z : State × List Byte) p => (z.1.legPut x f p.1 (z.2.take p.2), z.2.drop p.2)) l (s, d)
        (fun _ _ h => State.inv_legPut h _ _ _ _) i
    exact State.inv_writeBound (State.inv_modEng (inv_ite (written _ _)
      (State.inv_modReplay (written _ _) _)) _ _) _ _ _
  · exact State.inv_badBody i _

theorem State.inv_markTurn {s : State} (i : Inv s) (g : GroupId) (j : Nat) : Inv (s.markTurn g j) := by
  unfold State.markTurn
  exact inv_ite i i

theorem State.inv_startSvc {s : State} (i : Inv s) (core : Nat) (c : Nat × DigPage) : Inv (s.startSvc core c) := by
  unfold State.startSvc
  refine State.inv_markTurn (State.inv_modTrain ?_ _ _) _ _
  exact foldl_keeps Inv _ _ _ (fun _ _ h => foldl_keeps Inv _ _ _ (fun _ _ k => State.inv_spillTask k _ _ _ _ _) h) i

theorem State.placeFirst_keeps {s : State} (i : Inv s) (f : Faults) (x : EngRun) : (s.placeFirst f x).Keeps := by
  unfold State.placeFirst
  refine keeps_ite i ?_
  refine keeps_ite (State.attPlace_keeps i _ _) ?_
  refine keeps_ite ?_ ?_
  · split
    next h => exact OptKeeps.of_eq h (State.replayMissing_keeps i _)
    · refine keeps_ite i ?_
      split
      · refine keeps_ite i ?_
        split
        · exact State.keepPlace_keeps i _ _ _
        · exact i
      · exact i
  · exact i

theorem State.inv_legBegin {s : State} (i : Inv s) (x : EngRun) (first : Bool) (f : Faults) :
    Inv (s.legBegin x first f) := by
  unfold State.legBegin
  refine inv_ite ?_ ?_
  · refine inv_ite (State.inv_matBegin i _ _) ?_
    refine inv_ite (State.inv_elemBegin i _ _) ?_
    refine inv_ite (State.inv_tapBegin i _) ?_
    refine inv_ite (State.inv_movBegin i _) ?_
    refine inv_ite (State.inv_attBegin i _ _) ?_
    refine inv_ite ?_ ?_
    · refine inv_ite (State.inv_collReplay i _ _) ?_
      split
      · exact inv_ite (State.inv_modEng i _ _) (State.inv_collBegin i _ _)
      · exact State.inv_collBegin i _ _
    · exact State.inv_updBegin i _ _
  · split
    · exact State.inv_matResume i _ _
    · exact inv_ite (State.inv_elemResume i _ _ _) i
    · exact State.inv_updResume i _ _ _
    · exact State.inv_collResume i _
    · exact i

theorem State.inv_useGrants {s : State} (i : Inv s) (g : GroupId) (j id : Nat) : Inv (s.useGrants g j id) := by
  unfold State.useGrants
  refine foldl_keeps Inv _ _ _ (fun t a h => ?_) i
  split
  · exact inv_ite h h
  · exact State.inv_ungrant h _

theorem State.inv_startLeg {s : State} (i : Inv s) (g : GroupId) (f : Faults) (c : Cand) :
    Inv (s.startLeg g f c) := by
  unfold State.startLeg
  dsimp only
  split
  · refine inv_ite (State.inv_fatalMeet i _ _ _) ?_
    split
    · refine State.inv_legBegin ?_ _ _ _
      refine State.inv_markTurn ?_ _ _
      refine State.inv_modTask ?_ _ _ _
      refine State.inv_useGrants ?_ _ _ _
      split
      · exact State.inv_fatalMeet i _ _ _
      · exact State.inv_fatalMeet i _ _ _
      · exact State.inv_restoreTask (State.inv_spillOthers (State.inv_fatalMeet i _ _ _) _ _ _) _ _
    · refine State.inv_markTurn ?_ _ _
      refine State.inv_modTask ?_ _ _ _
      refine State.inv_useGrants ?_ _ _ _
      split
      · exact State.inv_fatalMeet i _ _ _
      · exact State.inv_fatalMeet i _ _ _
      · exact State.inv_restoreTask (State.inv_spillOthers (State.inv_fatalMeet i _ _ _) _ _ _) _ _
  · exact i

theorem State.inv_startFirst (g : GroupId) (f : Faults) (l : List Cand) {s : State} (i : Inv s) :
    Inv (State.startFirst g f l s) := by
  induction l generalizing s with
  | nil => exact i
  | cons c rest ih =>
    unfold State.startFirst
    refine inv_ite (ih i) ?_
    split
    · split
      · exact i
      · refine inv_ite (foldl_keeps Inv _ _ _ (fun _ _ h => inv_of_mem (State.bpHit_mem _ _ _ _ _ _) h) i) ?_
        split
        next e => exact ih (AttGo.of_hold e (State.placeFirst_keeps i _ _))
        next e => exact State.inv_startLeg (AttGo.of_go e (State.placeFirst_keeps i _ _)) _ _ _
    · exact ih i

theorem execStartLeg_answers {s : State} (i : Inv s) (g : GroupId) (f : Faults) : Answers (execStartLeg g f s) := by
  unfold execStartLeg
  refine keeps_ite ?_ ?_
  · split
    · exact State.inv_startSvc i _ _
    · exact State.inv_startFirst _ _ _ (State.inv_fillQueues i)
  · exact i

/-! ### Scrub, links, drover restarts -/

theorem State.inv_scrubBad {s : State} (i : Inv s) (l : Nat) : Inv (s.scrubBad l) := by
  unfold State.scrubBad
  refine inv_ite ?_ ?_
  · exact State.inv_wear (State.inv_deviceFatal (inv_of_mem (State.countUnc_mem _ _)
      (inv_of_mem (State.mark_mem _ _) i)) _ _ _) _ _
  · exact State.inv_wear (State.inv_post (inv_of_mem (State.countUnc_mem _ _)
      (inv_of_mem (State.mark_mem _ _) i)) _) _ _

theorem execScrubLine_answers {s : State} (i : Inv s) (addr : BitVec 48) (o : LineRead) :
    Answers (execScrubLine addr o s) := by
  unfold execScrubLine
  refine keeps_ite i ?_
  split
  · exact i
  · exact State.inv_corrected i _ _ _
  · exact State.inv_scrubBad i _

theorem execLinkFlitReplay_answers {s : State} (i : Inv s) (l : LinkId) : Answers (execLinkFlitReplay l s) := by
  unfold execLinkFlitReplay
  exact keeps_ite i (State.inv_post (by exact i) _)

theorem execLinkFail_answers {s : State} (i : Inv s) (l : LinkId) : Answers (execLinkFail l s) := by
  unfold execLinkFail
  exact keeps_ite (State.inv_deviceFatal i _ _ _) i

theorem State.inv_linksTick {s : State} (i : Inv s) : Inv s.linksTick := by
  unfold State.linksTick
  exact i

theorem execDroverRestart_answers {s : State} (i : Inv s) (d : DieId) : Answers (execDroverRestart d s) := by
  unfold execDroverRestart
  refine keeps_ite i ?_
  refine keeps_ite ?_ ?_
  · exact State.inv_deviceFatal (by exact i) _ _ _
  · exact foldl_keeps Inv _ _ _ (fun _ _ h => State.inv_jobFatal h _ _ _) (State.inv_post (by exact i) _)

/-! ### Ends of legs, tasks and steps -/

theorem State.inv_observeFill {s : State} (i : Inv s) (sel : Nat → Bool) : Inv (s.observeFill sel) := by
  unfold State.observeFill
  exact i

theorem State.inv_legOver {s : State} (i : Inv s) (l : Option Leg) : Inv (s.legOver l) := by
  unfold State.legOver
  split
  · exact i
  · dsimp only
    split
    · exact State.inv_observeFill (inv_ite i (State.inv_boundaryApply i _)) _
    · exact inv_ite i (State.inv_boundaryApply i _)

theorem State.inv_dropGrant {s : State} (i : Inv s) (j : Nat) (t : TaskRun) : Inv (s.dropGrant j t) := by
  unfold State.dropGrant
  exact i

theorem State.inv_taskOver {s : State} (i : Inv s) (j : Nat) (t : TaskRun) : Inv (s.taskOver j t) := by
  unfold State.taskOver
  exact State.inv_dropGrant (State.inv_legOver i _) _ _

theorem State.inv_suspend {s : State} (i : Inv s) (j : Nat) (jb : Job) (t : TaskRun) (l : Leg) :
    Inv (s.suspend j jb t l) := by
  unfold State.suspend
  refine State.inv_legOver ?_ _
  refine inv_ite ?_ ?_
  · refine State.inv_post ?_ _
    refine State.inv_modTask ?_ _ _ _
    split
    · exact State.inv_collClock (State.inv_matClock i _) _
    · exact i
  · refine State.inv_modTask ?_ _ _ _
    split
    · exact State.inv_collClock (State.inv_matClock i _) _
    · exact i

theorem execLegSuspend_answers {s : State} (i : Inv s) (l : LegId) : Answers (execLegSuspend l s) := by
  unfold execLegSuspend
  dsimp only
  split
  · split
    · exact i
    · refine keeps_ite ?_ ?_
      · exact i
      · exact keeps_ite (State.inv_taskOver (State.inv_endAborted i _ _) _ _)
          (keeps_ite i (State.inv_suspend i _ _ _ _))
  · exact i

theorem State.inv_leadOverrun {s : State} (i : Inv s) (core : Nat) : Inv (s.leadOverrun core) := by
  unfold State.leadOverrun
  exact inv_ite i (State.inv_setCore i _ _)

theorem execStageOverrun_answers {s : State} (i : Inv s) (l : LegId) : Answers (execStageOverrun l s) := by
  unfold execStageOverrun
  dsimp only
  split
  · split
    · exact i
    · refine keeps_ite i ?_
      split
      · refine inv_ite ?_ ?_
        · exact State.inv_post (State.inv_modTask i _ _ _) _
        · exact State.inv_leadOverrun (State.inv_post (State.inv_modTask i _ _ _) _) _
      · exact State.inv_post (State.inv_modTask i _ _ _) _
  · exact i

theorem execLeadHoldEnd_answers {s : State} (i : Inv s) (core : BitVec 7) : Answers (execLeadHoldEnd core s) := by
  unfold execLeadHoldEnd
  dsimp only
  split
  · exact keeps_ite (State.inv_setCore i _ _) i
  · exact i

theorem execBackhaulHoldEnd_answers {s : State} (i : Inv s) (l : LegId) : Answers (execBackhaulHoldEnd l s) := by
  unfold execBackhaulHoldEnd
  split
  · split
    · exact keeps_ite (State.inv_modTask i _ _ _) i
    · exact i
  · exact i

theorem execGatherFillLimit_answers {s : State} (i : Inv s) (l : LegId) : Answers (execGatherFillLimit l s) := by
  unfold execGatherFillLimit
  dsimp only
  split
  · split
    · exact i
    · split
      · exact i
      · exact keeps_ite (State.inv_modTask i _ _ _) i
  · exact i

theorem State.inv_collLogged {s : State} (i : Inv s) (x : EngRun) : Inv (s.collLogged x) := by
  unfold State.collLogged
  split
  · exact State.inv_logColl i _ _ _ _ _ _ _
  · exact i

theorem execTaskComplete_answers {s : State} (i : Inv s) (l : LegId) (f : Faults) :
    Answers (execTaskComplete l f s) := by
  unfold execTaskComplete
  dsimp only
  split
  · exact i
  · refine keeps_ite i ?_
    refine keeps_ite ?_ ?_
    · exact State.inv_taskOver (State.inv_updDone i _ _) _ _
    · exact State.inv_taskOver (State.inv_wakeTasks (State.inv_endDone
        (State.inv_kvReturn (inv_ite (State.inv_haloAck i _ _)
          (inv_ite (State.inv_collLogged i _) i)) _ _) _ _) _ _) _ _

theorem execTaskFail_answers {s : State} (i : Inv s) (l : LegId) : Answers (execTaskFail l s) := by
  unfold execTaskFail
  dsimp only
  split
  · refine keeps_ite ?_ ?_
    · refine keeps_ite ?_ ?_
      · exact State.inv_taskOver (State.inv_updFailed i _ _) _ _
      · exact State.inv_taskOver (State.inv_endFailed (State.inv_kvReturn i _ _) _ _) _ _
    · exact i
  · exact i

theorem execStepComplete_answers {s : State} (i : Inv s) (job : BitVec 4) : Answers (execStepComplete job s) := by
  unfold execStepComplete
  dsimp only
  split
  · exact i
  · split
    · exact i
    · refine keeps_ite i ?_
      refine State.inv_modJob ?_ _ _
      refine inv_of_mem (State.notice_mem _ _ _ _ _) ?_
      refine State.inv_freeSets ?_ _ _
      refine inv_ite ?_ ?_
      · exact inv_of_mem (State.addReport_mem _ _) (State.inv_replayEnd (State.inv_logStep i _ _) _)
      · exact State.inv_replayEnd (State.inv_logStep i _ _) _

/-! ### Attestation -/

theorem State.inv_setConn {s : State} (i : Inv s) (t : SpdmT) (c : SpdmConn) : Inv (s.setConn t c) := by
  unfold State.setConn
  split <;> exact i

theorem inv_spdmVersion {s : State} (i : Inv s) (t : SpdmT) (m : List Byte) : Inv (spdmVersion s t m).1 := by
  unfold spdmVersion
  exact State.inv_setConn i _ _

theorem inv_spdmCapabilities {s : State} (i : Inv s) (t : SpdmT) (m : List Byte) :
    Inv (spdmCapabilities s t m).1 := by
  unfold spdmCapabilities
  dsimp only
  split
  · exact i
  · split
    · exact i
    · exact State.inv_setConn i _ _

theorem inv_spdmAlgorithms {s : State} (i : Inv s) (t : SpdmT) (m : List Byte) : Inv (spdmAlgorithms s t m).1 := by
  unfold spdmAlgorithms
  dsimp only
  split
  · exact i
  · split
    · exact i
    · exact State.inv_setConn i _ _

theorem inv_spdmDigests {s : State} (i : Inv s) (t : SpdmT) (m : List Byte) : Inv (spdmDigests s t m).1 := by
  unfold spdmDigests
  dsimp only
  split
  · exact i
  · exact State.inv_setConn i _ _

theorem inv_spdmCertificate {s : State} (i : Inv s) (t : SpdmT) (m : List Byte) : Inv (spdmCertificate s t m).1 := by
  unfold spdmCertificate
  dsimp only
  split
  · exact i
  · split
    · exact i
    · split
      · exact i
      · exact State.inv_setConn i _ _

theorem State.inv_rand32 {s : State} (i : Inv s) : Inv s.rand32.2 := by
  unfold State.rand32
  exact inv_of_mem (State.draw_mem _) i

theorem inv_spdmChallengeAuth {s : State} (i : Inv s) (t : SpdmT) (m : List Byte) :
    Inv (spdmChallengeAuth s t m).1 := by
  unfold spdmChallengeAuth
  dsimp only
  split
  · exact i
  · split
    · exact i
    · split
      · exact i
      · exact State.inv_setConn (State.inv_rand32 i) _ _

theorem inv_spdmMeasurements {s : State} (i : Inv s) (t : SpdmT) (m : List Byte) :
    Inv (spdmMeasurements s t m).1 := by
  unfold spdmMeasurements
  dsimp only
  split
  · exact i
  · split
    · exact i
    · split
      · exact i
      · split <;> exact State.inv_setConn (State.inv_rand32 i) _ _

theorem inv_spdmKeyExchange {s : State} (i : Inv s) (t : SpdmT) (m : List Byte) : Inv (spdmKeyExchange s t m).1 := by
  unfold spdmKeyExchange
  dsimp only
  split
  · exact i
  · split
    · exact i
    · split
      · exact i
      · split
        · exact i
        · exact State.inv_setConn (inv_of_mem (State.draw_mem _)
            (inv_of_mem (State.draw_mem _) (inv_of_mem (State.draw_mem _) (State.inv_rand32 i)))) _ _

theorem inv_spdmFinish {s : State} (i : Inv s) (t : SpdmT) (m : List Byte) : Inv (spdmFinish s t m).1 := by
  unfold spdmFinish
  dsimp only
  split
  · split <;> exact State.inv_setConn i _ _
  · exact i

theorem inv_spdmEnd {s : State} (i : Inv s) (t : SpdmT) (_m : List Byte) : Inv (spdmEnd s t _m).1 := by
  unfold spdmEnd
  dsimp only
  split
  · exact State.inv_setConn i _ _
  · exact i

theorem spdmBody_keeps {code : Nat} {f : State → SpdmT → List Byte → SpdmRes} (e : spdmBody code = some f) {s : State}
    (i : Inv s) (t : SpdmT) (m : List Byte) : Inv (f s t m).1 := by
  unfold spdmBody at e
  split at e
  · exact Option.some.inj e ▸ inv_spdmVersion i _ _
  · exact Option.some.inj e ▸ inv_spdmCapabilities i _ _
  · exact Option.some.inj e ▸ inv_spdmAlgorithms i _ _
  · exact Option.some.inj e ▸ inv_spdmDigests i _ _
  · exact Option.some.inj e ▸ inv_spdmCertificate i _ _
  · exact Option.some.inj e ▸ inv_spdmChallengeAuth i _ _
  · exact Option.some.inj e ▸ inv_spdmMeasurements i _ _
  · exact Option.some.inj e ▸ inv_spdmKeyExchange i _ _
  · exact Option.some.inj e ▸ inv_spdmFinish i _ _
  · exact Option.some.inj e ▸ inv_spdmEnd i _ _
  · cases e

theorem State.inv_spdm {s : State} (i : Inv s) (t : SpdmT) (m : List Byte) : Inv (s.spdm t m).1 := by
  unfold State.spdm
  extract_lets code
  split
  · exact i
  · split
    · exact i
    next e =>
      by_cases short : m.length < 4
      · rw [if_pos short]
        exact i
      · rw [if_neg short]
        by_cases version : fld m 0 1 ≠ (if code = 0x84 then 0x10 else 0x12)
        · rw [if_pos version]
          exact i
        · rw [if_neg version]
          exact spdmBody_keeps e i _ _

theorem State.inv_spdmRow {s : State} (i : Inv s) (t : SpdmT) (m : List Byte) (code : Nat) :
    Inv (s.spdmRow t m code) := by
  unfold State.spdmRow
  exact inv_ite (State.inv_setConn (State.inv_spdm i _ _) _ _) i

theorem execGetVersion_answers {s : State} (i : Inv s) (t : SpdmT) (msg : List Byte) :
    Answers (execGetVersion t msg s) := by
  unfold execGetVersion
  exact State.inv_spdmRow i _ _ _

theorem execGetCapabilities_answers {s : State} (i : Inv s) (t : SpdmT) (msg : List Byte) :
    Answers (execGetCapabilities t msg s) := by
  unfold execGetCapabilities
  exact State.inv_spdmRow i _ _ _

theorem execNegotiateAlgorithms_answers {s : State} (i : Inv s) (t : SpdmT) (msg : List Byte) :
    Answers (execNegotiateAlgorithms t msg s) := by
  unfold execNegotiateAlgorithms
  exact State.inv_spdmRow i _ _ _

theorem execGetDigests_answers {s : State} (i : Inv s) (t : SpdmT) (msg : List Byte) :
    Answers (execGetDigests t msg s) := by
  unfold execGetDigests
  exact State.inv_spdmRow i _ _ _

theorem execGetCertificate_answers {s : State} (i : Inv s) (t : SpdmT) (msg : List Byte) :
    Answers (execGetCertificate t msg s) := by
  unfold execGetCertificate
  exact State.inv_spdmRow i _ _ _

theorem execSpdmChallenge_answers {s : State} (i : Inv s) (t : SpdmT) (msg : List Byte) :
    Answers (execSpdmChallenge t msg s) := by
  unfold execSpdmChallenge
  exact State.inv_spdmRow i _ _ _

theorem execGetMeasurements_answers {s : State} (i : Inv s) (t : SpdmT) (msg : List Byte) :
    Answers (execGetMeasurements t msg s) := by
  unfold execGetMeasurements
  exact State.inv_spdmRow i _ _ _

theorem execKeyExchange_answers {s : State} (i : Inv s) (t : SpdmT) (msg : List Byte) :
    Answers (execKeyExchange t msg s) := by
  unfold execKeyExchange
  exact State.inv_spdmRow i _ _ _

theorem execFinish_answers {s : State} (i : Inv s) (t : SpdmT) (msg : List Byte) : Answers (execFinish t msg s) := by
  unfold execFinish
  exact State.inv_spdmRow i _ _ _

theorem execEndSession_answers {s : State} (i : Inv s) (t : SpdmT) (msg : List Byte) :
    Answers (execEndSession t msg s) := by
  unfold execEndSession
  exact State.inv_spdmRow i _ _ _

theorem execSpdmUnsupportedRequest_answers {s : State} (i : Inv s) (t : SpdmT) (msg : List Byte) :
    Answers (execSpdmUnsupportedRequest t msg s) := by
  unfold execSpdmUnsupportedRequest
  exact keeps_ite i (State.inv_spdmRow i _ _ _)

theorem execAttestGet_answers {s : State} (i : Inv s) (h : HostId) (c : CmdRec) : Answers (execAttestGet h c s) := by
  unfold execAttestGet
  refine State.inv_commandRes i _ _ _ _ (fun _ h1 => ?_)
  refine keeps_ite h1 ?_
  split
  · exact h1
  · refine keeps_ite (State.inv_setConn (State.inv_spdm h1 _ _) _ _) ?_
    split
    next h3 => exact OptKeeps.of_eq h3 (State.hostWrite_keeps (State.inv_setConn (State.inv_spdm h1 _ _) _ _) _ _ _)
    · exact State.inv_setConn (State.inv_spdm h1 _ _) _ _

theorem State.inv_ideAnswer {s : State} (i : Inv s) (h : HostId) (obj : Nat) (d : List Byte) :
    Inv (s.ideAnswer h obj d) := by
  unfold State.ideAnswer
  exact State.inv_setConn i _ _

theorem State.inv_ideRow {s : State} (i : Inv s) (h : HostId) (k : State → State) (o : ∀ t, Inv t → Inv (k t)) :
    Inv (s.ideRow h k) := by
  unfold State.ideRow
  exact inv_ite i (inv_ite (State.inv_setConn i _ _) (o _ i))

theorem execIdeKmQuery_answers {s : State} (i : Inv s) (h : HostId) : Answers (execIdeKmQuery h s) := by
  unfold execIdeKmQuery
  exact State.inv_ideRow i _ _ (fun _ h1 => State.inv_ideAnswer h1 _ _ _)

theorem State.inv_ideProg {s : State} (i : Inv s) (h : HostId) (stream k : Nat) (key : BitVec 256)
    (iv : BitVec 64) : Inv (s.ideProg h stream k key iv) := by
  unfold State.ideProg
  dsimp only
  split
  · exact inv_ite (State.inv_ideAnswer i _ _ _) (State.inv_ideAnswer (State.inv_setHost i _ _) _ _ _)
  · exact State.inv_ideAnswer (State.inv_setHost i _ _) _ _ _

theorem execIdeKmKeyProg_answers {s : State} (i : Inv s) (h : HostId) (stream : BitVec 8) (keySet rxTx : BitVec 1)
    (sub : BitVec 4) (key : BitVec 256) (iv : BitVec 64) :
    Answers (execIdeKmKeyProg h stream keySet rxTx sub key iv s) := by
  unfold execIdeKmKeyProg
  exact State.inv_ideRow i _ _ (fun _ h1 => State.inv_ideProg h1 _ _ _ _ _)

theorem State.inv_ideGo {s : State} (i : Inv s) (h : HostId) (stream k : Nat) (go : Bool) :
    Inv (s.ideGo h stream k go) := by
  unfold State.ideGo
  dsimp only
  split
  · exact inv_ite (State.inv_ideAnswer (State.inv_setHost i _ _) _ _ _) (State.inv_ideAnswer i _ _ _)
  · exact State.inv_ideAnswer i _ _ _

theorem execIdeKmKSetGo_answers {s : State} (i : Inv s) (h : HostId) (stream : BitVec 8) (keySet rxTx : BitVec 1)
    (sub : BitVec 4) : Answers (execIdeKmKSetGo h stream keySet rxTx sub s) := by
  unfold execIdeKmKSetGo
  exact State.inv_ideRow i _ _ (fun _ h1 => State.inv_ideGo h1 _ _ _ _)

theorem execIdeKmKSetStop_answers {s : State} (i : Inv s) (h : HostId) (stream : BitVec 8)
    (keySet rxTx : BitVec 1) (sub : BitVec 4) : Answers (execIdeKmKSetStop h stream keySet rxTx sub s) := by
  unfold execIdeKmKSetStop
  exact State.inv_ideRow i _ _ (fun _ h1 => State.inv_ideGo h1 _ _ _ _)

/-! ### The tick -/

theorem State.inv_newStage {s : State} (i : Inv s) : Inv s.newStage := by
  unfold State.newStage
  exact i

theorem State.inv_takePeriod {s : State} (i : Inv s) : Inv s.takePeriod := by
  unfold State.takePeriod
  split
  · exact i
  · exact State.inv_completeBoth (State.inv_setPeriod (by exact i) _) _

theorem State.inv_slew {s : State} (i : Inv s) : Inv s.slew := by
  unfold State.slew
  exact inv_ite i (State.inv_post (by exact i) _)

theorem State.inv_portsTick {s : State} (i : Inv s) : Inv s.portsTick := by
  unfold State.portsTick
  exact i

theorem State.inv_throttleDie {s : State} (i : Inv s) (u : ThermUnit) (serai : Bool) (k : Nat) (p : PowerUnit)
    (temp : Nat) : Inv (s.throttleDie u serai k p temp) := by
  unfold State.throttleDie
  exact inv_ite i (State.inv_post (by exact i) _)

theorem State.inv_throttleStack {s : State} (i : Inv s) (k temp : Nat) : Inv (s.throttleStack k temp) := by
  unfold State.throttleStack
  exact inv_ite i (State.inv_post (by exact i) _)

theorem State.inv_readSensors {s : State} (inv : Inv s) (i : TickIn) : Inv (s.readSensors i) := by
  unfold State.readSensors
  exact inv

theorem State.inv_allowances {s : State} (inv : Inv s) (i : TickIn) (periodUs : Nat) :
    Inv (s.allowances i periodUs) := by
  unfold State.allowances
  exact inv

theorem State.inv_thermals {s : State} (inv : Inv s) (i : TickIn) : Inv (s.thermals i) := by
  unfold State.thermals
  exact foldl_keeps Inv _ _ _ (fun _ _ h => State.inv_throttleStack h _ _)
    (foldl_keeps Inv _ _ _ (fun _ _ h => State.inv_throttleDie h _ _ _ _ _)
      (foldl_keeps Inv _ _ _ (fun _ _ h => State.inv_throttleDie h _ _ _ _ _) inv))

theorem State.inv_droverCheck {s : State} (i : Inv s) (missing : List DieId) : Inv (s.droverCheck missing) := by
  unfold State.droverCheck
  exact inv_ite i i

theorem State.inv_jobTick {s : State} (i : Inv s) (j : Nat) : Inv (s.jobTick j) := by
  unfold State.jobTick
  exact State.inv_wayPump (State.inv_wayLate (State.inv_keepTick (State.inv_modJob i _ _) _) _) _

theorem State.inv_deadlock {s : State} (i : Inv s) (j : Nat) : Inv (s.deadlock j) := by
  unfold State.deadlock
  split
  · exact i
  · exact inv_ite (foldl_keeps Inv _ _ _ (fun _ _ h1 => State.inv_taskFault h1 _ _ _ _) i) i

theorem State.inv_seenCtrs {s : State} (i : Inv s) (j : Nat) : Inv (s.seenCtrs j) := by
  unfold State.seenCtrs
  split
  · exact i
  · exact State.inv_modRun i _ _

theorem State.inv_beginStep {s : State} (i : Inv s) (j : Nat) : Inv (s.beginStep j) := by
  unfold State.beginStep
  split
  · exact i
  · split
    · exact i
    · split
      · exact i
      · refine inv_ite ?_ ?_
        · exact i
        · exact State.inv_wakeTasks (State.inv_modRun (State.inv_mapSets
            (State.inv_trainBegin (State.inv_replayBegin (State.inv_modJob i _ _) _ _) _ _ _) _ _) _ _) _ _

theorem State.inv_pauseShift {s : State} (i : Inv s) : Inv s.pauseShift := by
  unfold State.pauseShift
  exact i

theorem State.inv_beginSteps {s : State} (i : Inv s) : Inv s.beginSteps := by
  unfold State.beginSteps
  exact inv_ite i (foldl_keeps Inv _ _ _ (fun _ _ h => State.inv_beginStep h _) i)

theorem State.inv_turnRound {s : State} (i : Inv s) : Inv s.turnRound := by
  unfold State.turnRound
  exact i

theorem State.inv_tickUnits {s : State} (inv : Inv s) (i : TickIn) (first : Bool) (periodUs : Nat) :
    Inv (s.tickUnits i first periodUs) := by
  unfold State.tickUnits
  extract_lets js s1 s2 t2 s3 s4 u s5 s6 s7 s8
  have i1 : Inv s1 := State.inv_portsTick (State.inv_linksTick (State.inv_svcTick (State.inv_sampleAll inv)))
  have i2 : Inv t2 := State.inv_thermals (State.inv_readSensors i1 _) _
  have i3 : Inv s3 := inv_ite i2 (State.inv_allowances i2 _ _)
  have i4 : Inv s4 := foldl_keeps Inv _ _ _ (fun _ _ h => State.inv_jobTick h _) (State.inv_droverCheck i3 _)
  have iu : Inv u := inv_ite (State.inv_pauseShift i4) (State.inv_convoys i4)
  have i5 : Inv s5 := iu
  have i6 : Inv s6 := State.inv_beginSteps (foldl_keeps Inv _ _ _ (fun _ _ h => State.inv_deadlock h _)
    (State.inv_turnRound i5))
  have i7 : Inv s7 := State.inv_observeFill (foldl_keeps Inv _ _ _ (fun _ _ h => State.inv_seenCtrs h _) i6) _
  have i8 : Inv s8 := State.inv_completeBoth i7 _
  exact State.inv_pumpAll (State.inv_timeExchange (State.inv_bpStage i8))

theorem execTick_answers {s : State} (inv : Inv s) (i : TickIn) : Answers (execTick i s) := by
  unfold execTick
  refine keeps_ite inv ?_
  refine keeps_ite ?_ ?_
  · exact State.inv_newStage inv
  · exact State.inv_tickUnits (State.inv_slew (State.inv_takePeriod (State.inv_newStage inv))) _ _ _

/-! ### Every command -/

/-- Whatever command runs, the state that it answers keeps memory canonical. -/
theorem exec_answers {s : State} (i : Inv s) (c : Instr) : Answers (exec c s) := by
  cases c with
  | pwrokRise straps railsInRange => exact execPwrokRise_answers i straps railsInRange
  | bootPhaseDone => exact execBootPhaseDone_answers i
  | bootPhaseTimeout code => exact execBootPhaseTimeout_answers i code
  | pwrokFall => exact execPwrokFall_answers i
  | perstAssert h => exact execPerstAssert_answers i h
  | perstRelease h => exact execPerstRelease_answers i h
  | refclkLoss => exact execRefclkLoss_answers i
  | thermalTrip u temp => exact execThermalTrip_answers i u temp
  | pmbAlert rails => exact execPmbAlert_answers i rails
  | regulatorPoll rails => exact execRegulatorPoll_answers i rails
  | trstN => exact execTrstN_answers i
  | tick inp => exact execTick_answers i inp
  | lateDrop channel pos => exact execLateDrop_answers i channel pos
  | gatherFillLimit l => exact execGatherFillLimit_answers i l
  | droverRestart d => exact execDroverRestart_answers i d
  | leadHoldEnd core => exact execLeadHoldEnd_answers i core
  | backhaulHoldEnd l => exact execBackhaulHoldEnd_answers i l
  | startLeg g f => exact execStartLeg_answers i g f
  | legSuspend l => exact execLegSuspend_answers i l
  | stageOverrun l => exact execStageOverrun_answers i l
  | matrixTile core f => exact execMatrixTile_answers i core f
  | outputDrain core f => exact execOutputDrain_answers i core f
  | elementIteration core f => exact execElementIteration_answers i core f
  | tapSweepIteration core f => exact execTapSweepIteration_answers i core f
  | moverPiece core m f => exact execMoverPiece_answers i core m f
  | attentionPair core f => exact execAttentionPair_answers i core f
  | attentionFinish core => exact execAttentionFinish_answers i core
  | appendTokens core f => exact execAppendTokens_answers i core f
  | saddlebagFlush core f => exact execSaddlebagFlush_answers i core f
  | haloStampSeen core f => exact execHaloStampSeen_answers i core f
  | haloPublish core f => exact execHaloPublish_answers i core f
  | taskComplete l f => exact execTaskComplete_answers i l f
  | taskFail l => exact execTaskFail_answers i l
  | jobRelease job => exact execJobRelease_answers i job
  | groupSettle job group f => exact execGroupSettle_answers i job group f
  | stepClose job => exact execStepClose_answers i job
  | poisonTally job total => exact execPoisonTally_answers i job total
  | replicaTally job group roots => exact execReplicaTally_answers i job group roots
  | tallyBisectRound job group lower logs => exact execTallyBisectRound_answers i job group lower logs
  | stepComplete job => exact execStepComplete_answers i job
  | slowTierFetchDone job group part f => exact execSlowTierFetchDone_answers i job group part f
  | slowTierWriteback job group part f => exact execSlowTierWriteback_answers i job group part f
  | waystationCommit owner tag ordinal stage => exact execWaystationCommit_answers i owner tag ordinal stage
  | reshardStart job x => exact execReshardStart_answers i job x
  | reshardSwitch job confirm => exact execReshardSwitch_answers i job confirm
  | kvPreempt job seq f => exact execKvPreempt_answers i job seq f
  | kvFerryBack job seq f => exact execKvFerryBack_answers i job seq f
  | mediaSampleTake channel f => exact execMediaSampleTake_answers i channel f
  | mediaDecodeStart half => exact execMediaDecodeStart_answers i half
  | mediaDecodeDone channel pos f => exact execMediaDecodeDone_answers i channel pos f
  | collectiveChunkStep serai l f => exact execCollectiveChunkStep_answers i serai l f
  | collectivePeerTimeout l peer => exact execCollectivePeerTimeout_answers i l peer
  | transactionTimeout txn => exact execTransactionTimeout_answers i txn
  | portDownDiscard port => exact execPortDownDiscard_answers i port
  | fabricStallDetect port cls vl => exact execFabricStallDetect_answers i port cls vl
  | frameWrite fr => exact execFrameWrite_answers i fr
  | frameWriteAck fr => exact execFrameWriteAck_answers i fr
  | frameRead fr f => exact execFrameRead_answers i fr f
  | frameReadData fr => exact execFrameReadData_answers i fr
  | frameSignal fr => exact execFrameSignal_answers i fr
  | frameSignalAck fr => exact execFrameSignalAck_answers i fr
  | frameTxnNack fr => exact execFrameTxnNack_answers i fr
  | frameService fr => exact execFrameService_answers i fr
  | frameReservedType fr => exact execFrameReservedType_answers i fr
  | collectiveData fr => exact execCollectiveData_answers i fr
  | collectiveReady fr => exact execCollectiveReady_answers i fr
  | collectiveAck fr => exact execCollectiveAck_answers i fr
  | collectiveAbort fr => exact execCollectiveAbort_answers i fr
  | timeRequest fr => exact execTimeRequest_answers i fr
  | timeResponse fr => exact execTimeResponse_answers i fr
  | stageRenumber stage periodUs => exact execStageRenumber_answers i stage periodUs
  | periodChange => exact execPeriodChange_answers i
  | keySwitch => exact execKeySwitch_answers i
  | keyOldErase => exact execKeyOldErase_answers i
  | routeSwitch => exact execRouteSwitch_answers i
  | timekeeperSwitch => exact execTimekeeperSwitch_answers i
  | ctrlIdle c => exact execCtrlIdle_answers i c
  | ctrlAck c => exact execCtrlAck_answers i c
  | ctrlNak c => exact execCtrlNak_answers i c
  | ctrlCredit c => exact execCtrlCredit_answers i c
  | ctrlNarrow c => exact execCtrlNarrow_answers i c
  | controlFrameResend port ctype => exact execControlFrameResend_answers i port ctype
  | dataFrameReceiveFail port tagFail => exact execDataFrameReceiveFail_answers i port tagFail
  | codewordUncorrectable port wave => exact execCodewordUncorrectable_answers i port wave
  | wavelengthFail port wave => exact execWavelengthFail_answers i port wave
  | narrowComplete port => exact execNarrowComplete_answers i port
  | portAuthDown port => exact execPortAuthDown_answers i port
  | portLightSample port light => exact execPortLightSample_answers i port light
  | trainingPhaseDone port healthy => exact execTrainingPhaseDone_answers i port healthy
  | trainingMessage port msg => exact execTrainingMessage_answers i port msg
  | trainingTimeout port => exact execTrainingTimeout_answers i port
  | refusedRetry port => exact execRefusedRetry_answers i port
  | downRetrain port => exact execDownRetrain_answers i port
  | linkFlitReplay l => exact execLinkFlitReplay_answers i l
  | linkFail l => exact execLinkFail_answers i l
  | scrubLine addr o => exact execScrubLine_answers i addr o
  | parityFault addr group active => exact execParityFault_answers i addr group active
  | postedWriteTaken block => exact execPostedWriteTaken_answers i block
  | vrbTransactionDone r => exact execVrbTransactionDone_answers i r
  | msixDeferredSend h v => exact execMsixDeferredSend_answers i h v
  | msixPendingSend h v => exact execMsixPendingSend_answers i h v
  | takeoverSwitch => exact execTakeoverSwitch_answers i
  | activationPause => exact execActivationPause_answers i
  | activationResume switched => exact execActivationResume_answers i switched
  | confirmWindowExpiry => exact execConfirmWindowExpiry_answers i
  | mbxCmdTailWrite h value whole ide => exact execMbxCmdTailWrite_answers i h value whole ide
  | mbxCplHeadWrite h value whole ide => exact execMbxCplHeadWrite_answers i h value whole ide
  | devTimeLoRead h => exact execDevTimeLoRead_answers i h
  | devErrClear h value => exact execDevErrClear_answers i h value
  | apply w t value => exact execApply_answers i w t value
  | vrbCmdWrite h value => exact execVrbCmdWrite_answers i h value
  | vrbDroppedClear h value => exact execVrbDroppedClear_answers i h value
  | postedWrite w block off value => exact execPostedWrite_answers i w block off value
  | registerWrite w t value => exact execRegisterWrite_answers i w t value
  | bar4Read h off len ide f => exact execBar4Read_answers i h off len ide f
  | bar4Write h off data ide f => exact execBar4Write_answers i h off data ide f
  | mbxResync h c => exact execMbxResync_answers i h c
  | deviceConfig h c => exact execDeviceConfig_answers i h c
  | powerCapSet h c => exact execPowerCapSet_answers i h c
  | hostBPartitionSet h c => exact execHostBPartitionSet_answers i h c
  | caravaneerTakeover h c => exact execCaravaneerTakeover_answers i h c
  | eventMirrorSet h c => exact execEventMirrorSet_answers i h c
  | settingsSet h c => exact execSettingsSet_answers i h c
  | settingsGet h c => exact execSettingsGet_answers i h c
  | faultReportGet h c => exact execFaultReportGet_answers i h c
  | jobCreate h c => exact execJobCreate_answers i h c
  | jobDestroy h c => exact execJobDestroy_answers i h c
  | memMap h c => exact execMemMap_answers i h c
  | memUnmap h c => exact execMemUnmap_answers i h c
  | tasklistLoad h c f => exact execTasklistLoad_answers i h c f
  | tasklistUnload h c => exact execTasklistUnload_answers i h c
  | stepSubmit h c => exact execStepSubmit_answers i h c
  | replayLogSet h c => exact execReplayLogSet_answers i h c
  | kvPoolSet h c => exact execKvPoolSet_answers i h c
  | kvAdmit h c => exact execKvAdmit_answers i h c
  | kvRelease h c => exact execKvRelease_answers i h c
  | kvPin h c => exact execKvPin_answers i h c
  | kvUnpin h c => exact execKvUnpin_answers i h c
  | mediaChannelOpen h c f => exact execMediaChannelOpen_answers i h c f
  | mediaSubmit h c => exact execMediaSubmit_answers i h c
  | mediaChannelClose h c => exact execMediaChannelClose_answers i h c
  | trainStateSet h c f => exact execTrainStateSet_answers i h c f
  | variantLoad h c => exact execVariantLoad_answers i h c
  | variantUnload h c => exact execVariantUnload_answers i h c
  | collGroupSet h c f => exact execCollGroupSet_answers i h c f
  | jobMapSet h c f => exact execJobMapSet_answers i h c f
  | jobReshard h c f => exact execJobReshard_answers i h c f
  | waystationSet h c reserved => exact execWaystationSet_answers i h c reserved
  | waystationHost h c => exact execWaystationHost_answers i h c
  | waystationStatus h c => exact execWaystationStatus_answers i h c
  | waystationRestore h c image => exact execWaystationRestore_answers i h c image
  | fabricJoin h c => exact execFabricJoin_answers i h c
  | fabricLeave h c => exact execFabricLeave_answers i h c
  | fabricKeySet h c => exact execFabricKeySet_answers i h c
  | fabricKeySwitch h c => exact execFabricKeySwitch_answers i h c
  | fabricPortSet h c => exact execFabricPortSet_answers i h c
  | fabricRouteLoad h c => exact execFabricRouteLoad_answers i h c
  | fabricRouteSwitch h c => exact execFabricRouteSwitch_answers i h c
  | fabricTimekeeperSet h c => exact execFabricTimekeeperSet_answers i h c
  | fabricWindowSet h c => exact execFabricWindowSet_answers i h c
  | fabricPeersSet h c f => exact execFabricPeersSet_answers i h c f
  | fabricPortStatus h c => exact execFabricPortStatus_answers i h c
  | fabricDomainStatus h c => exact execFabricDomainStatus_answers i h c
  | updateBegin h c => exact execUpdateBegin_answers i h c
  | updateChunk h c => exact execUpdateChunk_answers i h c
  | updateStatus h c => exact execUpdateStatus_answers i h c
  | updateActivate h c => exact execUpdateActivate_answers i h c
  | updateConfirm h c => exact execUpdateConfirm_answers i h c
  | attestGet h c => exact execAttestGet_answers i h c
  | updManifestPiece total piece data => exact execUpdManifestPiece_answers i total piece data
  | updChunkPiece chunk piece data => exact execUpdChunkPiece_answers i chunk piece data
  | updStatus offset => exact execUpdStatus_answers i offset
  | updActivate => exact execUpdActivate_answers i
  | updConfirm => exact execUpdConfirm_answers i
  | getState => exact execGetState_answers i
  | getThermal => exact execGetThermal_answers i
  | getPower => exact execGetPower_answers i
  | setEndpointId eid => exact execSetEndpointId_answers i eid
  | getEndpointId => exact execGetEndpointId_answers i
  | getMctpVersionSupport msgType => exact execGetMctpVersionSupport_answers i msgType
  | getMessageTypeSupport => exact execGetMessageTypeSupport_answers i
  | getVersion t msg => exact execGetVersion_answers i t msg
  | getCapabilities t msg => exact execGetCapabilities_answers i t msg
  | negotiateAlgorithms t msg => exact execNegotiateAlgorithms_answers i t msg
  | getDigests t msg => exact execGetDigests_answers i t msg
  | getCertificate t msg => exact execGetCertificate_answers i t msg
  | spdmChallenge t msg => exact execSpdmChallenge_answers i t msg
  | getMeasurements t msg => exact execGetMeasurements_answers i t msg
  | keyExchange t msg => exact execKeyExchange_answers i t msg
  | finish t msg => exact execFinish_answers i t msg
  | endSession t msg => exact execEndSession_answers i t msg
  | ideKmQuery h => exact execIdeKmQuery_answers i h
  | ideKmKeyProg h stream keySet rxTx sub key iv => exact execIdeKmKeyProg_answers i h stream keySet rxTx sub key iv
  | ideKmKSetGo h stream keySet rxTx sub => exact execIdeKmKSetGo_answers i h stream keySet rxTx sub
  | ideKmKSetStop h stream keySet rxTx sub => exact execIdeKmKSetStop_answers i h stream keySet rxTx sub
  | dbgXferUpdate req => exact execDbgXferUpdate_answers i req
  | dbgXferCapture => exact execDbgXferCapture_answers i
  | dbgStatus => exact execDbgStatus_answers i
  | dbgChallenge => exact execDbgChallenge_answers i
  | dbgUnlockPiece => exact execDbgUnlockPiece_answers i
  | dbgLock => exact execDbgLock_answers i
  | dbgRead f => exact execDbgRead_answers i f
  | dbgWrite f => exact execDbgWrite_answers i f
  | dbgHalt => exact execDbgHalt_answers i
  | dbgStep => exact execDbgStep_answers i
  | dbgResume => exact execDbgResume_answers i
  | dbgHaltStatus => exact execDbgHaltStatus_answers i
  | dbgBpSet => exact execDbgBpSet_answers i
  | dbgBpClear => exact execDbgBpClear_answers i
  | dbgBpHit => exact execDbgBpHit_answers i
  | dbgReplayEnter => exact execDbgReplayEnter_answers i
  | dbgReplayExit => exact execDbgReplayExit_answers i
  | dbgReplayStatus => exact execDbgReplayStatus_answers i
  | flashProgramDone ok => exact execFlashProgramDone_answers i ok
  | activationVerifyDone failed => exact execActivationVerifyDone_answers i failed
  | controlFrameDiscard port tagFail => exact execControlFrameDiscard_answers i port tagFail
  | reservedOpcodeCommand h op c => exact execReservedOpcodeCommand_answers i h op c
  | dbgReservedOp => exact execDbgReservedOp_answers i
  | mctpUnknownRequest code => exact execMctpUnknownRequest_answers i code
  | spdmUnsupportedRequest t msg => exact execSpdmUnsupportedRequest_answers i t msg

/-- An idle cycle moves the clock alone. -/
theorem State.inv_idleCycle {s : State} (i : Inv s) : Inv s.idleCycle := by
  unfold State.idleCycle
  exact inv_ite i i

theorem step_answers {s : State} (i : Inv s) : Answers (step s) := by
  unfold step
  split
  · exact State.inv_idleCycle i
  · exact exec_answers (by exact i) _

/-- Settles O5: every command keeps memory canonical (`exec_answers`), and an idle cycle writes none. -/
theorem everyStepKeepsInvariant : Obligations.EveryStepKeepsInvariant := by
  unfold Obligations.EveryStepKeepsInvariant
  exact fun s t i e => Answers.of_next e (step_answers i)

end Sys2Proof.Machine
end

section
/-! The queue, the reset state, the event log and the marks of lines (R379, R394, R398, R413; log 9, log 28). -/
namespace Sys2Proof.Machine

/-! ### The queue and reset -/

/-- Settles O1: `step` matches on the queue. -/
theorem stepRunsFrontCommand : Obligations.StepRunsFrontCommand := by
  unfold Obligations.StepRunsFrontCommand
  intro c r s e
  rw [step, e]

/-- Settles O4: memory is empty at reset. -/
theorem invariantAtReset : Obligations.InvariantAtReset := Memory.wf_nil

theorem step_of_empty {s : State} (e : s.pending = []) : step s = .next s.idleCycle := by
  rw [step, e]

theorem State.idleCycle_of_low {s : State} (low : s.pwrok = false) : s.idleCycle = s := by
  rw [State.idleCycle, low, if_neg Bool.false_ne_true]

/-- Settles O2: with PWROK low nothing moves, and else `State.idleCycle` moves the clock, the offset and FAULT_N alone. -/
theorem emptyQueueIsOneCycle : Obligations.EmptyQueueIsOneCycle := by
  unfold Obligations.EmptyQueueIsOneCycle
  constructor
  · intro s e low
    rw [step_of_empty e, State.idleCycle_of_low low]
  · intro s e up
    have within : (s.ticking && decide (s.offset + 1 < s.periodCycles)) = true
        ↔ s.ticking = true ∧ s.offset + 1 < 850 * s.period := by
      rw [Bool.and_eq_true, decide_eq_true_iff, State.periodCycles, Nat.mul_comm]
    refine ⟨s.idleCycle, step_of_empty e, ?_⟩
    rw [State.idleCycle, if_pos up]
    exact ⟨rfl, rfl, if_congr within rfl rfl, rfl, rfl, rfl, rfl, rfl⟩

/-! ### The event log -/

theorem toLE_length (k n : Nat) : (toLE k n).length = k := by
  induction k generalizing n with
  | zero => rfl
  | succ k ih => rw [toLE, List.length_cons, ih]

theorem EventRec.bytes_length (e : EventRec) : e.bytes.length = 64 := by
  simp only [EventRec.bytes, List.length_append, toLE_length]

/-- A record in a mirror changes nothing below host memory. -/
theorem State.mirror_byte_below {s : State} (i : Inv s) (h : HostId) (e : EventRec) {a : Nat} (low : a < hostABase) :
    (s.mirror h e).byte a = s.byte a := by
  have base : hostABase ≤ hostBase h := by cases h <;> decide
  unfold State.mirror
  dsimp only
  split
  · rw [State.byte, State.setHost_mem]
    exact (State.byte_store i _ _ _).trans (if_neg (by omega))
  · rfl

theorem State.mirror_events (s : State) (h : HostId) (e : EventRec) : (s.mirror h e).events = s.events := by
  unfold State.mirror
  dsimp only
  split
  · exact State.setHost_events _ _ _
  · rfl

/-- The state that holds a numbered record in its slot of the device log, before the mirrors take it. -/
def State.logged (s : State) (r : EventRec) : State :=
  { s.store (logBase + 64 * (r.seq % 65536)) r.bytes with nextSeq := s.nextSeq + 1, events := s.events ++ [r] }

theorem State.inv_logged {s : State} (i : Inv s) (r : EventRec) : Inv (s.logged r) := State.inv_store i _ _

/-- The byte of a state with one more record: the record's own in its slot, else the old one. -/
theorem State.byte_logged {s : State} (i : Inv s) (r : EventRec) (a : Nat) :
    (s.logged r).byte a = if logBase + 64 * (r.seq % 65536) ≤ a ∧ a < logBase + 64 * (r.seq % 65536) + 64
      then r.bytes.getD (a - (logBase + 64 * (r.seq % 65536))) 0 else s.byte a := by
  have slot := State.byte_store i (logBase + 64 * (r.seq % 65536)) a r.bytes
  rwa [EventRec.bytes_length] at slot

/-- An event that the arbiter accepts is logged under its number and time, and then mirrored (R379). -/
theorem State.post_of_accepted {s : State} {e r : EventRec} (up : s.pwrok = true)
    (source : e.srcType ≠ 0 ∨ s.dbg.haltCvr = false ∧ s.cvrIntact = true)
    (record : r = { e with seq := s.nextSeq, time := ⟨s.stage, s.offset⟩ }) :
    s.post e = if r.job = 0xFF ∨ s.owner r.job = some .b then ((s.logged r).mirror .a r).mirror .b r
      else (s.logged r).mirror .a r := by
  have heard : (!s.pwrok || (e.srcType == 0 && (s.dbg.haltCvr || !s.cvrIntact))) = false := by
    rcases source with other | ⟨runs, intact⟩
    · simp [up, other]
    · simp [up, runs, intact]
  subst record
  rw [State.post, heard, if_neg Bool.false_ne_true]
  rfl

/-- Below host memory an accepted event changes what its record in the log changes. -/
theorem State.post_byte_below {s : State} {e r : EventRec} (i : Inv s) (up : s.pwrok = true)
    (source : e.srcType ≠ 0 ∨ s.dbg.haltCvr = false ∧ s.cvrIntact = true)
    (record : r = { e with seq := s.nextSeq, time := ⟨s.stage, s.offset⟩ }) {a : Nat} (low : a < hostABase) :
    (s.post e).byte a = (s.logged r).byte a := by
  have first := State.mirror_byte_below (State.inv_logged i r) .a r low
  rw [State.post_of_accepted up source record]
  split
  · exact (State.mirror_byte_below (State.inv_mirror (State.inv_logged i r) .a r) .b r low).trans first
  · exact first

/-- Settles O59: the record is logged (`State.post_of_accepted`), and a mirror touches host memory alone. -/
theorem eventIsWrittenToTheLog : Obligations.EventIsWrittenToTheLog := by
  unfold Obligations.EventIsWrittenToTheLog
  intro s e r i up source record
  have slot : logBase + 64 * (r.seq % 65536) = 0x0011FFC00000 + 64 * (s.nextSeq % 65536) := by rw [record]; rfl
  have below : 0x0011FFC00000 + 64 * (s.nextSeq % 65536) + 64 ≤ hostABase := by rw [hostABase]; omega
  have bytes {a : Nat} (low : a < hostABase) := (State.post_byte_below i up source record low).trans (State.byte_logged i r a)
  rw [slot] at bytes
  refine ⟨?_, ?_, State.post_jobs s e, fun k small => ?_, fun a low outside => ?_⟩
  · rw [State.post_of_accepted up source record]
    split <;> simp only [State.mirror_events, State.logged]
  · rw [State.post_of_accepted up source record]
    split <;> simp only [State.mirror_nextSeq, State.logged]
  · rw [bytes (by omega), if_pos (by omega), Nat.add_sub_cancel_left]
  · rw [bytes low, if_neg (by omega)]

/-! ### The marks of lines -/

theorem State.mem_marked_store (s : State) (a l : Nat) (d : List Byte) :
    l ∈ (s.store a d).marked ↔ l ∈ s.marked ∧ ¬(a ≤ l ∧ l + 64 ≤ a + d.length) := by
  simp only [State.store, List.mem_filter, Bool.not_eq_true', decide_eq_false_iff_not]

theorem State.mem_marked_mark {s : State} {l : Nat} (mem : (regionOf s.part l).isMem = true) : l ∈ (s.mark l).marked := by
  rw [State.mark, mem, Bool.true_and]
  by_cases held : l ∈ s.marked
  · simp [held]
  · simp [held]

/-- Settles O60: `State.store` filters the marks and `State.byte_store` gives the bytes. -/
theorem lineMarks : Obligations.LineMarks := by
  unfold Obligations.LineMarks
  refine ⟨State.mem_marked_store, fun s f l held => ?_, fun s l mem => ⟨State.mem_marked_mark mem, fun a => ?_⟩,
    fun s a d i => ⟨fun k small => ?_, fun x outside => ?_⟩⟩
  · rw [badLine, List.contains_iff_mem.mpr held, Bool.true_or, Bool.true_or]
  · rw [State.byte, State.mark_mem, State.byte]
  · rw [State.byte_store i, if_pos (by omega), Nat.add_sub_cancel_left, List.getD_eq_getElem _ _ small]
  · rw [State.byte_store i, if_neg (by omega)]

end Sys2Proof.Machine
end

section
/-! The management endpoint and the debug port's transfers (R429, R467, R468; log 30, log 37). -/
namespace Sys2Proof.Machine

theorem contains_mctpTypes (m : BitVec 8) : mctpTypes.contains m = true ↔ m = 0x00 ∨ m = 0x05 ∨ m = 0x7E := by
  simp [mctpTypes]

/-- Settles O25: each request's own guard holds, and its answer is the endpoint's `mctpAnswer`. -/
theorem managementRequestsAnswer : Obligations.ManagementRequestsAnswer := by
  unfold Obligations.ManagementRequestsAnswer
  intro s ans up isAnswer
  obtain rfl : ans = s.mctpAnswer := funext isAnswer
  refine ⟨if_pos up, if_pos up, if_pos up, fun e notZero notAll => ?_, fun e none => ?_, if_pos up, fun m supported => ?_,
    fun m notAny notCtl notSpdm notPci => ?_, if_pos up, fun code => if_pos up⟩
  · simp only [exec, execSetEndpointId, up, notZero, notAll, Bool.not_true, Bool.false_eq_true, or_self, if_false]
  · simp only [exec, execSetEndpointId, up, none, Bool.not_true, Bool.false_eq_true, if_false, if_true]
  · have known : m = 0xFF ∨ mctpTypes.contains m = true := supported.imp_right (contains_mctpTypes m).2
    simp only [exec, execGetMctpVersionSupport, up, known, Bool.not_true, Bool.false_eq_true, if_false, if_true]
  · have unknown : ¬ (m = 0xFF ∨ mctpTypes.contains m = true) := by
      simp only [contains_mctpTypes, notAny, notCtl, notSpdm, notPci, or_self, not_false_eq_true]
    simp only [exec, execGetMctpVersionSupport, up, unknown, Bool.not_true, Bool.false_eq_true, if_false]

/-- Settles O32: the port works, and the queue and the responses decide each transfer. -/
theorem debugTransfersComplete : Obligations.DebugTransfersComplete := by
  unfold Obligations.DebugTransfersComplete
  intro s up
  refine ⟨fun q idle => ?_, fun q request room => ?_, fun none => ?_, fun r rest queued => ?_, fun q rest queued reserved => ?_⟩
  · simp only [exec, execDbgXferUpdate, up, idle, Bool.not_true, Bool.false_eq_true, if_false, if_true]
  · simp only [exec, execDbgXferUpdate, up, request, Nat.not_le.2 room, Bool.not_true, Bool.false_eq_true, if_false]
  · simp only [exec, execDbgXferCapture, up, none, Bool.not_true, Bool.false_eq_true, if_false]
  · simp only [exec, execDbgXferCapture, up, queued, Bool.not_true, Bool.false_eq_true, if_false]
  · simp only [exec, execDbgReservedOp, up, queued, reserved, Bool.not_true, Bool.or_self, Bool.false_eq_true, if_false]

end Sys2Proof.Machine
end

section
/-! Update requests in their turn, from a host and over MCTP (R450, R455 to R459, R464). -/
namespace Sys2Proof.Machine

/-! ### The turn of a request -/

/-- Behind a flash write a command's request waits (R458). -/
theorem State.askUpd_behind {s : State} (waits : s.upd.flashQ ≠ []) (op : FlashOp) (h : HostId) (n : Nat) (k : OpenKind) :
    s.askUpd op h n k = .later (s.queueFlash op (.cmd h n)) k := by
  rw [State.askUpd, List.isEmpty_eq_false_iff.2 waits, Bool.not_false, if_pos rfl]

/-- Behind a flash write a request over MCTP waits (R458). -/
theorem State.askMctp_behind {s : State} (waits : s.upd.flashQ ≠ []) (op : FlashOp) : s.askMctp op = s.queueFlash op .mctp := by
  rw [State.askMctp, List.isEmpty_eq_false_iff.2 waits, Bool.not_false, if_pos rfl]

section
variable {s t : State} {op w : FlashOp} {h : HostId} {n st res : Nat} (free : s.upd.flashQ = [])
include free

/-- With no flash write before it a request has its turn at once: here it is answered. -/
theorem State.askUpd_answer (turn : s.runUpd op (.cmd h n) = .answer t st res) (k : OpenKind) :
    s.askUpd op h n k = .done t st res := by
  simp only [State.askUpd, free, turn, List.isEmpty_nil, Bool.not_true, Bool.false_eq_true, if_false]

theorem State.askUpd_opened (turn : s.runUpd op (.cmd h n) = .opened t) (k : OpenKind) : s.askUpd op h n k = .later t k := by
  simp only [State.askUpd, free, turn, List.isEmpty_nil, Bool.not_true, Bool.false_eq_true, if_false]

theorem State.askUpd_write (turn : s.runUpd op (.cmd h n) = .write w) (k : OpenKind) :
    s.askUpd op h n k = .later (s.queueFlash w (.cmd h n)) k := by
  simp only [State.askUpd, free, turn, List.isEmpty_nil, Bool.not_true, Bool.false_eq_true, if_false]

theorem State.askMctp_answer (turn : s.runUpd op .mctp = .answer t st res) : s.askMctp op = t.answerUpd op .mctp st res := by
  simp only [State.askMctp, free, turn, List.isEmpty_nil, Bool.not_true, Bool.false_eq_true, if_false]

theorem State.askMctp_opened (turn : s.runUpd op .mctp = .opened t) : s.askMctp op = t := by
  simp only [State.askMctp, free, turn, List.isEmpty_nil, Bool.not_true, Bool.false_eq_true, if_false]

theorem State.askMctp_write (turn : s.runUpd op .mctp = .write w) : s.askMctp op = s.queueFlash w .mctp := by
  simp only [State.askMctp, free, turn, List.isEmpty_nil, Bool.not_true, Bool.false_eq_true, if_false]

end

/-! ### What each request does in its turn -/

section
variable {s : State} {a : Asker}

/-- A manifest that passes its checks and is not the delivery's own is written (R455). -/
theorem State.runUpd_manifest_new {b : List Byte} (idle : s.updBusy = false) (noTrial : s.upd.trial = false)
    (passes : manifestStatus s b = 0) (new : ∀ d, s.flash.delivery = some d → d.sha ≠ sha512 b) :
    s.runUpd (.manifest b) a = .write (.manifest b) := by
  simp only [State.runUpd, idle, Machine.updBegin, noTrial, passes, ne_eq, not_true_eq_false, Bool.false_eq_true, if_false]
  cases held : s.flash.delivery with
  | none => rfl
  | some d => exact congrArg (dlvRes s) (if_neg (new d held))

/-- The delivery's own manifest is answered at once (R455). -/
theorem State.runUpd_manifest_same {b : List Byte} {d : Delivery} (idle : s.updBusy = false) (noTrial : s.upd.trial = false)
    (passes : manifestStatus s b = 0) (held : s.flash.delivery = some d) (same : d.sha = sha512 b) :
    s.runUpd (.manifest b) a = .answer s 0 0 := by
  simp only [State.runUpd, idle, Machine.updBegin, noTrial, passes, held, same, ne_eq, not_true_eq_false, Bool.false_eq_true, if_false,
    if_true]
  rfl

section
variable {d : Delivery} {m : Manifest} {i : Nat} {b : List Byte} (held : s.flash.delivery = some d)
  (manifest : s.deliveryManifest = some m) (inside : i < d.chunks) (hash : sha512 b = nth m.hashes i)
include held manifest inside hash

/-- A chunk of the delivery is written unless it is held already (R456). -/
theorem updChunk_eq : updChunk s i b = if d.held.contains i then .inl 0 else .inr (.chunk i b) := by
  simp only [updChunk, held, manifest, Nat.not_le.2 inside, hash, ne_eq, not_true_eq_false, if_false]

/-- The turn of a chunk that a host command delivers. -/
theorem State.runUpd_chunkAt {h : HostId} {p : Nat} (idle : s.updBusy = false) (read : s.hostRead h p (m.chunkLen i) = some b) :
    s.runUpd (.chunkAt h p i) a = dlvRes s (if d.held.contains i then .inl 0 else .inr (.chunk i b)) := by
  simp only [State.runUpd, idle, State.runChunk, held, manifest, Nat.not_le.2 inside, read, Bool.false_eq_true, if_false,
    updChunk_eq held manifest inside hash]

/-- The turn of a chunk whose pieces came over MCTP. -/
theorem State.runUpd_chunk (idle : s.updBusy = false) :
    s.runUpd (.chunk i b) a = dlvRes s (if d.held.contains i then .inl 0 else .inr (.chunk i b)) := by
  simp only [State.runUpd, idle, Bool.false_eq_true, if_false, updChunk_eq held manifest inside hash]

end

/-- UPDATE_STATUS with no delivery record (R456). -/
theorem State.runUpd_status_none {h : HostId} {p n : Nat} (idle : s.updBusy = false) (none : s.flash.delivery = none) :
    s.runUpd (.status h p n) a = .answer s 0 0 := by
  simp only [State.runUpd, idle, State.runStatus, none, Bool.false_eq_true, if_false]

/-- UPDATE_STATUS writes the bitmap and answers the chunks held and CHUNKS (R456). -/
theorem State.runUpd_status_some {t : State} {d : Delivery} {h : HostId} {p n : Nat} (idle : s.updBusy = false)
    (held : s.flash.delivery = some d) (write : s.hostWrite h p (d.bitmap.take n) = some t) :
    s.runUpd (.status h p n) a = .answer t 0 (d.held.length + d.chunks * 2 ^ 32) := by
  simp only [State.runUpd, idle, State.runStatus, held, write, Bool.false_eq_true, if_false]

theorem State.runUpd_statusFrom {o : Nat} (idle : s.updBusy = false) : s.runUpd (.statusFrom o) a = .answer s 0 0 := by
  simp only [State.runUpd, idle, Bool.false_eq_true, if_false]

/-- An activation whose preconditions hold is open (R459). -/
theorem State.runUpd_activate_ok (idle : s.updBusy = false) (ok : s.activateStatus = 0) :
    s.runUpd .activate a = .opened (s.startActivation a) := by
  simp only [State.runUpd, idle, ok, ne_eq, not_true_eq_false, Bool.false_eq_true, if_false]

theorem State.runUpd_activate_refused {st : Nat} (idle : s.updBusy = false) (status : s.activateStatus = st) (bad : st ≠ 0) :
    s.runUpd .activate a = .answer s st 0 := by
  simp only [State.runUpd, idle, status, bad, ne_eq, not_false_eq_true, Bool.false_eq_true, if_false, if_true]

/-- The turn of a confirmation (R464). -/
theorem State.runUpd_confirm (idle : s.updBusy = false) : s.runUpd .confirm a = .answer s.confirm.1 s.confirm.2 0 := by
  simp only [State.runUpd, idle, Bool.false_eq_true, if_false]

/-- A confirmation of a running trial (R464, log 73). -/
theorem State.confirm_of_trial (trial : s.upd.trial = true) :
    s.confirm = (State.burnSvn { s with
      upd := { s.upd with trial := false }
      flash := { s.flash.writeRecord { s.flash.recordD with confirmed := s.upd.running, trial := false } with
        delivery := none } }, 0) := by
  simp only [State.confirm, trial, if_true]

theorem State.confirm_of_noTrial (noTrial : s.upd.trial = false) : s.confirm = (s, 0x0015) := by
  simp only [State.confirm, noTrial, Bool.false_eq_true, if_false]

/-- A setting stored in the running firmware's format is in force (R450, R451). -/
theorem State.setting_of_stored {n v : Nat} (stored : mget s.flash.settings.vals n = some (settingFormat, v)) :
    s.setting n = v := by
  simp only [State.setting, stored, if_true]

/-- A setting that is stored as it is asked for is answered at once (R450). -/
theorem State.runUpd_setting_same {n v : Nat} (stored : mget s.flash.settings.vals n = some (settingFormat, v)) :
    s.runUpd (.setting n v) a = .answer s 0 0 := by
  simp only [State.runUpd, State.runSetting, stored, Option.getD_some, if_true]

/-- A setting of another value is written (R450). -/
theorem State.runUpd_setting_new {n v : Nat} (other : s.setting n ≠ v) : s.runUpd (.setting n v) a = .write (.setting n v) := by
  refine if_neg fun same => other ?_
  cases stored : mget s.flash.settings.vals n with
  | none => simpa only [stored, Option.getD_none, Prod.mk.injEq, true_and] using same
  | some p =>
    refine State.setting_of_stored ?_
    rw [stored, ← same, stored, Option.getD_some]

end

/-! ### The preconditions of an activation -/

section
variable {s : State} (runs : s.anyHalted = false) (noReplay : s.dbg.replay = none)
include runs noReplay

theorem State.activateStatus_of_trial (trial : s.upd.trial = true) : s.activateStatus = 0x0016 := by
  simp only [State.activateStatus, runs, noReplay, trial, Option.isSome_none, Bool.or_self, Bool.false_eq_true, if_false, if_true]

section
variable (noTrial : s.upd.trial = false)
include noTrial

theorem State.activateStatus_of_noDelivery (none : s.flash.delivery = none) : s.activateStatus = 0x0015 := by
  simp only [State.activateStatus, runs, noReplay, noTrial, none, Option.isSome_none, Bool.or_self, Bool.false_eq_true, if_false]

theorem State.activateStatus_of_missingChunk {d : Delivery} (held : s.flash.delivery = some d)
    (lacks : d.held.length < d.chunks) : s.activateStatus = 0x0015 := by
  simp only [State.activateStatus, runs, noReplay, noTrial, held, lacks, Option.isSome_none, Bool.or_self, Bool.false_eq_true,
    if_false, if_true]

theorem State.activateStatus_of_reshardOpen {d : Delivery} (held : s.flash.delivery = some d)
    (complete : d.chunks ≤ d.held.length) (reshard : s.reshardOpen = true) : s.activateStatus = 0x0001 := by
  simp only [State.activateStatus, runs, noReplay, noTrial, held, Nat.not_lt.2 complete, reshard, Option.isSome_none,
    Bool.or_self, Bool.false_eq_true, if_false, if_true]

end

end

/-! ### Commands of a host -/

section
variable {h : HostId} {c : CmdRec} {s b : State}

/-- UPDATE_BEGIN whose manifest can be read asks for its turn (R455). -/
theorem exec_updateBegin_asks {bytes : List Byte} (starts : Runs specUpdateBegin h c s b) (idle : b.updBusy = false)
    (aligned : c.par 0x08 0 3 = 0) (short : c.par 0x10 0 32 ≤ 65536)
    (read : b.hostRead h (c.par 0x08 0 64) (c.par 0x10 0 32) = some bytes) :
    exec (.updateBegin h c) s
      = .next (cmdAnswer specUpdateBegin.op h c (b.askUpd (.manifest bytes) h c.hsn.toNat .flash)) := by
  refine congrArg Host.Outcome.next (starts.command_eq ?_)
  simp only [idle, aligned, Nat.not_lt.2 short, read, ne_eq, not_true_eq_false, or_self, Bool.false_eq_true, if_false]

/-- UPDATE_CHUNK with an aligned address asks for its turn (R456). -/
theorem exec_updateChunk_asks (starts : Runs specUpdateChunk h c s b) (idle : b.updBusy = false) (aligned : c.par 0x08 0 3 = 0) :
    exec (.updateChunk h c) s = .next (cmdAnswer specUpdateChunk.op h c
      (b.askUpd (.chunkAt h (c.par 0x08 0 64) (c.par 0x10 0 32)) h c.hsn.toNat .flash)) := by
  refine congrArg Host.Outcome.next (starts.command_eq ?_)
  simp only [idle, aligned, ne_eq, not_true_eq_false, Bool.false_eq_true, if_false]

/-- UPDATE_STATUS with an aligned address asks for its turn (R456). -/
theorem exec_updateStatus_asks (starts : Runs specUpdateStatus h c s b) (idle : b.updBusy = false) (aligned : c.par 0x08 0 3 = 0) :
    exec (.updateStatus h c) s = .next (cmdAnswer specUpdateStatus.op h c
      (b.askUpd (.status h (c.par 0x08 0 64) (c.par 0x10 0 32)) h c.hsn.toNat .flash)) := by
  refine congrArg Host.Outcome.next (starts.command_eq ?_)
  simp only [idle, aligned, ne_eq, not_true_eq_false, Bool.false_eq_true, if_false]

/-- UPDATE_ACTIVATE asks for its turn (R459). -/
theorem exec_updateActivate_asks (starts : Runs specUpdateActivate h c s b) :
    exec (.updateActivate h c) s
      = .next (cmdAnswer specUpdateActivate.op h c (b.askUpd .activate h c.hsn.toNat .activate)) :=
  congrArg Host.Outcome.next (starts.command_eq rfl)

/-- UPDATE_CONFIRM asks for its turn (R464). -/
theorem exec_updateConfirm_asks (starts : Runs specUpdateConfirm h c s b) :
    exec (.updateConfirm h c) s
      = .next (cmdAnswer specUpdateConfirm.op h c (b.askUpd .confirm h c.hsn.toNat .flash)) :=
  congrArg Host.Outcome.next (starts.command_eq rfl)

/-- SETTINGS_SET of a known setting to a value in its range asks for its turn (R450). -/
theorem exec_settingsSet_asks {d lo hi : Nat} (starts : Runs specSettingsSet h c s b)
    (range : settingRange (c.par 0x08 0 16) = some (d, lo, hi)) (least : lo ≤ c.par 0x10 0 64) (most : c.par 0x10 0 64 ≤ hi) :
    exec (.settingsSet h c) s = .next (cmdAnswer specSettingsSet.op h c
      (b.askUpd (.setting (c.par 0x08 0 16) (c.par 0x10 0 64)) h c.hsn.toNat .flash)) := by
  refine congrArg Host.Outcome.next (starts.command_eq ?_)
  simp only [range, Nat.not_lt.2 least, Nat.not_lt.2 most, or_self, if_false]

end

/-- Settles O35: `State.activateStatus` takes the preconditions in R459's order, and the request has its turn at once. -/
theorem activationPreconditions : Obligations.ActivationPreconditions := by
  unfold Obligations.ActivationPreconditions
  intro h c s b starts free idle runs noReplay st which
  have status : b.activateStatus = st ∧ st ≠ 0 := by
    rcases which with ⟨trial, rfl⟩ | ⟨noTrial, missing, rfl⟩ | ⟨noTrial, ⟨d, held, complete⟩, reshard, rfl⟩
    · exact ⟨State.activateStatus_of_trial runs noReplay trial, by decide⟩
    · rcases missing with none | ⟨d, held, lacks⟩
      · exact ⟨State.activateStatus_of_noDelivery runs noReplay noTrial none, by decide⟩
      · exact ⟨State.activateStatus_of_missingChunk runs noReplay noTrial held lacks, by decide⟩
    · exact ⟨State.activateStatus_of_reshardOpen runs noReplay noTrial held complete reshard, by decide⟩
  rw [exec_updateActivate_asks starts, State.askUpd_answer free (State.runUpd_activate_refused idle status.1 status.2)]
  rfl

/-- Settles O16: the request waits behind a flash write, or takes its turn, and the turn's own rule gives its end. -/
theorem updateCommandsComplete : Obligations.UpdateCommandsComplete := by
  refine ⟨?begin, ?chunk, ?status, ?activate, ?confirm, ?set, ?get, ?attest⟩
  case begin =>
    intro h c s b bytes starts idle aligned short read
    rw [exec_updateBegin_asks starts idle aligned short read]
    refine ⟨fun waitsOrNew => ?_, fun d free noTrial passes held same => ?_⟩
    · by_cases free : b.upd.flashQ = []
      · obtain ⟨noTrial, passes, new⟩ := waitsOrNew.resolve_left (fun waits => waits free)
        rw [State.askUpd_write free (State.runUpd_manifest_new idle noTrial passes new), opened]
      · rw [State.askUpd_behind free, opened]
    · rw [State.askUpd_answer free (State.runUpd_manifest_same idle noTrial passes held same), completed]
  case chunk =>
    intro h c s b starts idle aligned
    rw [exec_updateChunk_asks starts idle aligned]
    refine ⟨fun waits => ?_, fun d m bytes free held manifest inside read hash => ?_⟩
    · rw [State.askUpd_behind waits, opened]
    · have turn := State.runUpd_chunkAt (a := .cmd h c.hsn.toNat) held manifest inside hash idle read
      refine ⟨fun new => ?_, fun known => ?_⟩
      · rw [new] at turn
        rw [State.askUpd_write free turn, opened]
      · rw [known] at turn
        rw [State.askUpd_answer free turn, completed]
  case status =>
    intro h c s b starts idle aligned
    rw [exec_updateStatus_asks starts idle aligned]
    refine ⟨fun waits => ?_, fun free none => ?_, fun d t free held write => ?_⟩
    · rw [State.askUpd_behind waits, opened]
    · rw [State.askUpd_answer free (State.runUpd_status_none idle none), completed]
    · rw [State.askUpd_answer free (State.runUpd_status_some idle held write), completed]
  case activate =>
    intro h c s b starts
    rw [exec_updateActivate_asks starts]
    refine ⟨fun waits => ?_, fun free idle ok => ?_⟩
    · rw [State.askUpd_behind waits, opened]
    · rw [State.askUpd_opened free (State.runUpd_activate_ok idle ok), opened, State.startActivation]
  case confirm =>
    intro h c s b starts
    rw [exec_updateConfirm_asks starts]
    refine ⟨fun waits => ?_, fun free idle trial => ?_⟩
    · rw [State.askUpd_behind waits, opened]
    · rw [State.askUpd_answer free (State.runUpd_confirm idle), State.confirm_of_trial trial, completed]
  case set =>
    intro h c s b d lo hi starts range least most
    rw [exec_settingsSet_asks starts range least most]
    refine ⟨fun waitsOrOther => ?_, fun free stored => ?_⟩
    · by_cases free : b.upd.flashQ = []
      · have other := waitsOrOther.resolve_left (fun waits => waits free)
        rw [State.askUpd_write free (State.runUpd_setting_new other), opened]
      · rw [State.askUpd_behind free, opened]
    · rw [State.askUpd_answer free (State.runUpd_setting_same stored), completed]
  case get =>
    intro h c s b starts known
    exact congrArg Host.Outcome.next (starts.command_completed (if_pos known))
  case attest =>
    intro h c s b m u starts aligned respAligned read fits write
    refine congrArg Host.Outcome.next (starts.command_completed ?_)
    simp only [aligned, respAligned, read, Nat.not_lt.2 fits, write, ne_eq, not_true_eq_false, or_self, if_false]

/-! ### Requests over MCTP -/

section
variable {s : State} (takes : TakesUpdate s)
include takes

/-- An update request that the endpoint takes meets none of the refusals that all update requests share (R457). -/
theorem TakesUpdate.guards : (!(s.mctpUp && s.ready && s.cvrIntact && !s.dbg.haltCvr)) = false
    ∧ ¬(s.setting 3 ≠ 1 ∨ s.fatal = true) ∧ s.updBusy = false := by
  obtain ⟨up, ready, intact, runs, path, alive, idle⟩ := takes
  simp [up, ready, intact, runs, path, alive, idle]

theorem TakesUpdate.idle : s.updBusy = false := by
  obtain ⟨_, _, idle⟩ := takes.guards
  exact idle

/-- A manifest piece that fits is kept; the last one starts the delivery (R457). -/
theorem exec_updManifestPiece_kept {total : BitVec 32} {piece : BitVec 6} {data : List Byte} (short : total.toNat ≤ 65536)
    (fits : pieceOk total.toNat piece.toNat data = true) (same : s.upd.pieceTotal = total.toNat) :
    exec (.updManifestPiece total piece data) s =
      if allPieces total.toNat (mset s.upd.pieces piece.toNat data) = true then
        .next (State.askMctp { s with upd := { s.upd with pieceTotal := 0, pieces := [] } }
          (.manifest (joinPieces total.toNat (mset s.upd.pieces piece.toNat data))))
      else .next (State.mctpAnswer { s with upd := { s.upd with pieces := mset s.upd.pieces piece.toNat data } } (toLE 2 0)) := by
  obtain ⟨up, accepted, idle⟩ := takes.guards
  simp only [exec, execUpdManifestPiece, up, accepted, idle, Nat.not_lt.2 short, fits, same, Bool.not_true, Bool.false_eq_true,
    or_self, if_false, if_true]

/-- A chunk piece that fits is kept; the last one delivers the chunk (R457). -/
theorem exec_updChunkPiece_kept {chunk : BitVec 32} {piece : BitVec 6} {data : List Byte} {d : Delivery} {m : Manifest}
    (held : s.flash.delivery = some d) (manifest : s.deliveryManifest = some m) (inside : chunk.toNat < d.chunks)
    (fits : pieceOk (m.chunkLen chunk.toNat) piece.toNat data = true) (same : s.upd.chunkNo = chunk.toNat) :
    exec (.updChunkPiece chunk piece data) s =
      if allPieces (m.chunkLen chunk.toNat) (mset s.upd.chunkPieces piece.toNat data) = true then
        .next (State.askMctp { s with upd := { s.upd with chunkPieces := [] } }
          (.chunk chunk.toNat (joinPieces (m.chunkLen chunk.toNat) (mset s.upd.chunkPieces piece.toNat data))))
      else .next (State.mctpAnswer { s with upd := { s.upd with chunkPieces := mset s.upd.chunkPieces piece.toNat data } }
        (toLE 2 0)) := by
  obtain ⟨up, accepted, idle⟩ := takes.guards
  simp only [exec, execUpdChunkPiece, up, accepted, idle, held, manifest, Nat.not_le.2 inside, fits, same, Bool.not_true,
    Bool.false_eq_true, or_self, if_false, if_true]

theorem exec_updStatus_asks (o : BitVec 16) : exec (.updStatus o) s = .next (s.askMctp (.statusFrom o.toNat)) := by
  obtain ⟨up, accepted, _⟩ := takes.guards
  simp only [exec, execUpdStatus, up, accepted, Bool.false_eq_true, if_false]

theorem exec_updActivate_asks (allowed : s.setting 4 = 1) : exec .updActivate s = .next (s.askMctp .activate) := by
  obtain ⟨up, accepted, _⟩ := takes.guards
  rw [not_or] at accepted
  simp only [exec, execUpdActivate, up, accepted, allowed, ne_eq, not_true_eq_false, or_self, Bool.false_eq_true, if_false]

theorem exec_updConfirm_asks (allowed : s.setting 4 = 1) (noFallback : s.upd.fallback = false) :
    exec .updConfirm s = .next (s.askMctp .confirm) := by
  obtain ⟨up, accepted, _⟩ := takes.guards
  rw [not_or] at accepted
  simp only [exec, execUpdConfirm, up, accepted, allowed, noFallback, ne_eq, not_true_eq_false, or_self, Bool.false_eq_true, if_false]

end

/-- Settles O34: a piece is kept, and a complete delivery or a request takes its turn, as a host's command does. -/
theorem updateRequestsAnswer : Obligations.UpdateRequestsAnswer := by
  refine ⟨?manifest, ?chunk, ?status, ?activate, ?confirm⟩
  case manifest =>
    intro total piece data s takes short fits same
    rw [exec_updManifestPiece_kept takes short fits same]
    refine ⟨fun more => by rw [more]; rfl, fun u bytes hu all hbytes waitsOrNew => ?_⟩
    rw [if_pos all, ← hu, ← hbytes]
    have kept : u.upd.flashQ = s.upd.flashQ ∧ u.upd.trial = s.upd.trial ∧ u.updBusy = s.updBusy
        ∧ u.flash.delivery = s.flash.delivery := by
      rw [hu]
      exact ⟨rfl, rfl, rfl, rfl⟩
    obtain ⟨queue, trial, busy, delivery⟩ := kept
    rw [← queue, ← trial, ← delivery] at waitsOrNew
    by_cases free : u.upd.flashQ = []
    · obtain ⟨noTrial, passes, new⟩ := waitsOrNew.resolve_left (fun waits => waits free)
      rw [State.askMctp_write free (State.runUpd_manifest_new (busy.trans takes.idle) noTrial passes new)]
    · rw [State.askMctp_behind free]
  case chunk =>
    intro chunk piece data s d m takes held manifest inside fits same
    rw [exec_updChunkPiece_kept takes held manifest inside fits same]
    refine ⟨fun more => by rw [more]; rfl, fun u bytes hu all hbytes waitsOrNew => ?_⟩
    rw [if_pos all, ← hu, ← hbytes]
    have kept : u.upd.flashQ = s.upd.flashQ ∧ u.updBusy = s.updBusy ∧ u.flash.delivery = s.flash.delivery
        ∧ u.deliveryManifest = s.deliveryManifest := by
      rw [hu]
      exact ⟨rfl, rfl, rfl, rfl⟩
    obtain ⟨queue, busy, delivery, sameManifest⟩ := kept
    rw [← queue] at waitsOrNew
    by_cases free : u.upd.flashQ = []
    · obtain ⟨hash, new⟩ := waitsOrNew.resolve_left (fun waits => waits free)
      have turn := State.runUpd_chunk (a := .mctp) (delivery.trans held) (sameManifest.trans manifest) inside hash
        (busy.trans takes.idle)
      rw [new] at turn
      rw [State.askMctp_write free turn]
    · rw [State.askMctp_behind free]
  case status =>
    intro o s takes
    have turn := State.runUpd_statusFrom (a := .mctp) (o := o.toNat) takes.idle
    rw [exec_updStatus_asks takes]
    refine ⟨fun waits => by rw [State.askMctp_behind waits], fun free none => ?_, fun d free held => ?_⟩
    · rw [State.askMctp_answer free turn, State.answerUpd, if_pos rfl, State.statusBytes, none]
    · rw [State.askMctp_answer free turn, State.answerUpd, if_pos rfl, State.statusBytes, held]
  case activate =>
    intro s takes allowed
    rw [exec_updActivate_asks takes allowed]
    refine ⟨fun waits => by rw [State.askMctp_behind waits], fun free ok => ?_⟩
    rw [State.askMctp_opened free (State.runUpd_activate_ok takes.idle ok), State.startActivation]
  case confirm =>
    intro s takes allowed noFallback
    have turn := State.runUpd_confirm (a := .mctp) takes.idle
    rw [exec_updConfirm_asks takes allowed noFallback]
    refine ⟨fun waits => by rw [State.askMctp_behind waits], fun free trial => ?_, fun free noTrial => ?_⟩
    · rw [State.askMctp_answer free turn, State.confirm_of_trial trial]
      rfl
    · rw [State.askMctp_answer free turn, State.confirm_of_noTrial noTrial]
      rfl

end Sys2Proof.Machine
end

section
/-! The boot's phases and the memory that they leave (R432 to R439, R443, R444; log 5). -/
namespace Sys2Proof.Machine

/-! ### The phases -/

section
variable {s : State} (up : s.pwrok = true) (alive : s.fatal = false)
include up alive

/-- A device that is powered and not fatal boots. -/
theorem State.boots : (!s.pwrok || s.fatal) = false := by
  rw [up, alive]
  rfl

/-- The end of phase 3: the bank's components and the settings are checked (R444, R451). -/
theorem exec_bootPhaseDone_three (phase : s.phase = 3) : exec .bootPhaseDone s = .next s.bootFirmware := by
  simp only [exec, execBootPhaseDone, State.boots up alive, phase, Bool.false_eq_true, if_false]
  rfl

/-- The end of phase 4: HBM is zero and unmarked (R435). -/
theorem exec_bootPhaseDone_four (phase : s.phase = 4) :
    exec .bootPhaseDone s = .next { s with
      mem := s.mem.filter (fun p => !isHbm p.1), marked := s.marked.filter (fun l => !isHbm l), phase := 5 } := by
  simp only [exec, execBootPhaseDone, State.boots up alive, phase, Bool.false_eq_true, if_false]
  rfl

/-- The end of phase 7: the device is ready. -/
theorem exec_bootPhaseDone_seven (phase : s.phase = 7) : exec .bootPhaseDone s = .next s.bootReady := by
  simp only [exec, execBootPhaseDone, State.boots up alive, phase, Bool.false_eq_true, if_false]
  rfl

/-- A phase that can stop with a code stops with it, and with a bad component its bank is marked BAD (R434, R444). -/
theorem exec_bootPhaseTimeout_stops {code : BitVec 8} (stops : s.mayStop code.toNat = true) :
    exec (.bootPhaseTimeout code) s = .next (if code = 0x31 then s.bootBad else s.bootStop code.toNat) := by
  simp only [exec, execBootPhaseTimeout, up, alive, stops, Bool.not_false, Bool.and_self, if_true]

end

/-- Phase 3 can always stop with a bad component (R444). -/
theorem State.mayStop_badComponent {s : State} (phase : s.phase = 3) : s.mayStop (0x31 : BitVec 8).toNat = true := by
  unfold State.mayStop
  rw [phase]
  rfl

/-- Settles O22: the number of the phase picks the rule, and the checks of that phase decide. -/
theorem bootCommandsComplete : Obligations.BootCommandsComplete := by
  refine ⟨?rise, ?done, ?bad, ?timeout, ?fall⟩
  case rise =>
    intro straps s low
    constructor
    · simp only [exec, execPwrokRise, low, Bool.false_eq_true, if_false, if_true]
    · simp only [exec, execPwrokRise, low, Bool.false_eq_true, if_false]
      rfl
  case done =>
    intro s up alive
    have boots := State.boots up alive
    refine ⟨fun phase => ?_, fun phase recovery => ?_, fun phase normal none => ?_, fun bk f phase normal selected => ?_,
      fun phase ok => ?_, fun phase => ?_, fun phase => ?_⟩
    · simp only [exec, execBootPhaseDone, boots, phase, Bool.false_eq_true, if_false]
      rfl
    · simp only [exec, execBootPhaseDone, boots, phase, recovery, Bool.false_eq_true, if_false]
      rfl
    · simp only [exec, execBootPhaseDone, boots, phase, normal, none, Bool.false_eq_true, if_false]
      rfl
    · simp only [exec, execBootPhaseDone, boots, phase, normal, selected, Bool.false_eq_true, if_false]
      rfl
    · rw [exec_bootPhaseDone_three up alive phase, State.bootFirmware, if_pos ok]
    · simp only [exec, execBootPhaseDone, boots, phase, Bool.false_eq_true, if_false]
      rfl
    · simp only [exec, execBootPhaseDone, boots, phase, Bool.false_eq_true, if_false]
      rfl
  case bad =>
    intro s up alive phase differs
    rw [exec_bootPhaseDone_three up alive phase, State.bootFirmware, differs, if_neg Bool.false_ne_true,
      exec_bootPhaseTimeout_stops up alive (State.mayStop_badComponent phase), if_pos rfl]
  case timeout =>
    intro code s up alive stops
    rw [exec_bootPhaseTimeout_stops up alive stops]
    refine ⟨fun other => ?_, fun badComponent => ?_⟩
    · rw [if_neg other, State.bootStop, BitVec.ofNat_toNat, BitVec.setWidth_eq]
    · rw [if_pos badComponent, State.bootBad, badComponent]
      rfl
  case fall =>
    intro s
    exact ⟨rfl, rfl, rfl, rfl, rfl, rfl, rfl, rfl⟩

/-! ### Memory -/

theorem mget_filter {α : Type} (m : NMap α) (keep : Nat → Bool) (k : Nat) :
    mget (m.filter (fun p => keep p.1)) k = if keep k then mget m k else none := by
  induction m with
  | nil => simp [mget]
  | cons p r ih =>
    obtain ⟨a, v⟩ := p
    by_cases kept : keep a = true
    · rw [List.filter_cons_of_pos (p := fun q : Nat × α => keep q.1) kept, mget, mget, ih]
      split
      · next here => rw [← here, if_pos kept]
      · rfl
    · rw [List.filter_cons_of_neg (p := fun q : Nat × α => keep q.1) kept, ih, mget]
      by_cases here : a = k
      · rw [← here, if_neg kept, if_neg kept]
      · rw [if_neg here]

/-- A byte of memory from which addresses are taken out. -/
theorem memByte_filter (m : NMap Byte) (keep : Nat → Bool) (a : Nat) :
    memByte (m.filter (fun p => keep p.1)) a = if keep a then memByte m a else 0 := by
  rw [memByte, mgetD, mget_filter]
  split <;> rfl

/-- An event changes no byte from the end of the log to the start of host memory (R379). -/
theorem State.post_byte_device {s : State} (i : Inv s) (e : EventRec) {a : Nat} (aboveLog : depotBase ≤ a) (low : a < hostABase) :
    (s.post e).byte a = s.byte a := by
  by_cases accepted : s.pwrok = true ∧ (e.srcType ≠ 0 ∨ s.dbg.haltCvr = false ∧ s.cvrIntact = true)
  · rw [State.post_byte_below i accepted.1 accepted.2 rfl low, State.byte_logged i, if_neg]
    simp only [depotBase, logBase] at *
    omega
  · have held : (!s.pwrok || (e.srcType == 0 && (s.dbg.haltCvr || !s.cvrIntact))) = true := by
      revert accepted
      cases s.pwrok <;> cases s.dbg.haltCvr <;> cases s.cvrIntact <;> simp
    rw [State.post, if_pos held]

theorem State.mirror_marked_nil {s : State} (none : s.marked = []) (h : HostId) (e : EventRec) : (s.mirror h e).marked = [] := by
  unfold State.mirror
  dsimp only
  split
  · rw [State.setHost_marked, State.store_marked, none, List.filter_nil]
  · exact none

/-- An event marks no line. -/
theorem State.post_marked_nil {s : State} (none : s.marked = []) (e : EventRec) : (s.post e).marked = [] := by
  have logged (a n : Nat) (d : List Byte) (l : List EventRec) :
      ({ s.store a d with nextSeq := n, events := l } : State).marked = [] := by
    rw [show ({ s.store a d with nextSeq := n, events := l } : State).marked = (s.store a d).marked from rfl, State.store_marked,
      none, List.filter_nil]
  unfold State.post
  dsimp only
  split
  · exact none
  · split
    · exact State.mirror_marked_nil (State.mirror_marked_nil (logged ..) ..) ..
    · exact State.mirror_marked_nil (logged ..) ..

/-- Device memory outside HBM as self test leaves it: zero, and no line marked (R435). -/
def State.sramClear (s : State) : Prop :=
  Inv s ∧ s.marked = [] ∧ ∀ a, depotBase ≤ a → a < regBase → s.byte a = 0

theorem State.sramClear_post {s : State} (clear : s.sramClear) (e : EventRec) : (s.post e).sramClear := by
  obtain ⟨i, none, zero⟩ := clear
  refine ⟨State.inv_post i e, State.post_marked_nil none e, fun a sram low => ?_⟩
  rw [State.post_byte_device i e sram (low.trans (by decide)), zero a sram low]

theorem State.sramClear_postSettings {s : State} (clear : s.sramClear) : s.postSettings.sramClear :=
  foldl_keeps State.sramClear _ _ _ (fun _ _ keeps => State.sramClear_post keeps _) clear

theorem State.sramClear_burnSvn {s : State} (clear : s.sramClear) : s.burnSvn.sramClear := by
  unfold State.burnSvn
  split <;> exact clear

/-- The end of phase 7 before the owed fuse bits and events: SRAM zero and READY (R433, R435). -/
def State.selfTested (s : State) : State :=
  { s with
    mem := s.mem.filter (fun p => !isSram p.1), marked := [], pageRecs := []
    ports := (List.range s.part.ports).map (fun k => (k, { Port.init with st := .dark })), phase := 8, ready := true }

/-- The events that are owed at READY: EV_FIRMWARE_FALLBACK and the settings to report (R444, R451). -/
def State.bootNotes (s : State) : State :=
  (if s.fallbackNote then s.post { s.ev 0x0605 with arg0 := b2n s.upd.running } else s).postSettings

/-- READY is the end of the self test, then the fuse bits, then the events that are owed. -/
theorem State.bootReady_eq (s : State) : s.bootReady = s.selfTested.burnSvn.bootNotes := by
  unfold State.bootReady State.bootNotes State.selfTested
  rfl

theorem State.sramClear_selfTested {s : State} (i : Inv s) : s.selfTested.sramClear := by
  refine ⟨Memory.wf_filter i _, rfl, fun a sram low => ?_⟩
  have taken : (!isSram a) = false := by simp [isSram, sram, low]
  exact (memByte_filter s.mem (fun k => !isSram k) a).trans (by rw [taken, if_neg Bool.false_ne_true])

theorem State.sramClear_bootReady {s : State} (i : Inv s) : s.bootReady.sramClear := by
  have burnt := State.sramClear_burnSvn (State.sramClear_selfTested i)
  rw [State.bootReady_eq, State.bootNotes]
  refine State.sramClear_postSettings ?_
  split
  · exact State.sramClear_post burnt _
  · exact burnt

/-- READY comes in phase 8 with no page error record (R402, R433). -/
theorem State.bootReady_phase (s : State) : s.bootReady.phase = 8 ∧ s.bootReady.ready = true ∧ s.bootReady.pageRecs = [] := by
  have burnt : s.selfTested.burnSvn.phase = 8 ∧ s.selfTested.burnSvn.ready = true ∧ s.selfTested.burnSvn.pageRecs = [] := by
    unfold State.burnSvn
    split <;> exact ⟨rfl, rfl, rfl⟩
  have reported : s.bootReady.silent = s.selfTested.burnSvn.silent := by
    rw [State.bootReady_eq, State.bootNotes, State.silent_postSettings, apply_ite State.silent, State.silent_post, ite_self]
  obtain ⟨phase, ready, none⟩ := burnt
  exact ⟨(State.eq_of_silent reported State.phase).trans phase, (State.eq_of_silent reported State.ready).trans ready,
    (State.eq_of_silent reported State.pageRecs).trans none⟩

/-- Settles O23: phases 4 and 7 and PWROK falling take their ranges out of memory, and events write below SRAM or to hosts. -/
theorem deviceMemoryIsZeroAfterBoot : Obligations.DeviceMemoryIsZeroAfterBoot := by
  refine ⟨fun s i up alive => ⟨fun phase => ?four, fun phase => ?seven⟩, fun s i => ?fall⟩
  case four =>
    have bytes (a : Nat) := memByte_filter s.mem (fun k => !isHbm k) a
    refine ⟨_, exec_bootPhaseDone_four up alive phase, rfl, fun a hbm => ⟨?_, ?_⟩, fun a above => ?_⟩
    · exact (bytes a).trans (if_neg (by simp [isHbm, hbm]))
    · simp [List.mem_filter, isHbm, hbm]
    · exact (bytes a).trans (if_pos (by simp [isHbm, above]))
  case seven =>
    obtain ⟨_, unmarked, zero⟩ := State.sramClear_bootReady i
    obtain ⟨eight, ready, noRecords⟩ := s.bootReady_phase
    exact ⟨_, exec_bootPhaseDone_seven up alive phase, eight, ready, zero, unmarked, noRecords⟩
  case fall =>
    have bytes (a : Nat) := memByte_filter s.mem (fun k => decide (hostABase ≤ k)) a
    refine ⟨s.cold, rfl, fun a device => ?_, fun a host => ?_⟩
    · exact (bytes a).trans (if_neg (by simp [device]))
    · exact (bytes a).trans (if_pos (by simp [host]))

end Sys2Proof.Machine
end

section
/-! The debug requests of their own level (R467 to R473, R475, R478, R481; log 37). -/
namespace Sys2Proof.Machine

/-- A debug request that passes the shared checks ends with the answer of its own part (R467). -/
theorem Requests.ends {s b t : State} {q : BitVec 512} {d : DbgSpec} {st res : Nat} {data : List Byte} (asked : Requests s q d b)
    {body : BitVec 512 → State → DbgRes} (own : body q b = (t, st, res, data)) :
    (.next (s.request d body) : Host.Outcome State Fault Refusal) = .next (t.answer q st res data) := by
  rw [State.request_runs asked, own]

/-- A read of memory with no uncorrectable and no corrected line accounts for nothing (R472). -/
theorem State.debugMeet_clean {s : State} {f : Faults} {ls : List Nat} (noneBad : badLines s f ls = [])
    (noneCorrected : f.corr = []) : { s.meet dbgReader f ls with marked := s.marked } = s := by
  rw [State.meet_clean noneBad noneCorrected]

/-- The only job of a device. -/
theorem State.job_of_single {s : State} {j : Nat} {jb : Job} (only : s.jobs = [(j, jb)]) : s.job j = some jb := by
  rw [State.job, only, mget, if_pos rfl]

/-- Settles O33: each request runs its own part, whose checks hold one after another. -/
theorem debugRequestsComplete : Obligations.DebugRequestsComplete := by
  refine ⟨?status, ?challenge, ?piece, ?lock, ?read, ?write, ?halt, ?step, ?resume, ?haltStatus, ?bpSet, ?bpClear, ?bpHit, ?enter,
    ?exit, ?replay⟩
  case status => exact fun s q b asked => asked.ends rfl
  case challenge =>
    intro s q b asked
    refine ⟨fun failed => asked.ends (if_pos failed), fun fresh => ?_⟩
    exact ⟨_, _, asked.ends (if_neg (Nat.not_le.2 fresh)), rfl, rfl, rfl, rfl⟩
  case piece =>
    intro s q b m n lv ps u asked hlv hps allowed level key nonce sameLevel hu
    subst hlv hps hu
    have known : ¬(bits (reqArg q) 8 2 ≠ 1 ∧ bits (reqArg q) 8 2 ≠ 2) := by omega
    refine ⟨fun more => asked.ends ?_, fun all bad => asked.ends ?_, fun all good => asked.ends ?_⟩
    · simp only [allowed, known, key, nonce, sameLevel, more, if_false, if_true]
    · simp only [allowed, known, key, nonce, sameLevel, Nat.not_lt.2 all, bad, if_false, if_true, Bool.false_eq_true]
    · simp only [allowed, known, key, nonce, sameLevel, Nat.not_lt.2 all, good, if_false, if_true]
  case lock =>
    intro s q b asked noReplay
    refine asked.ends ?_
    simp only [noReplay, Option.any_none, Bool.false_eq_true, if_false]
  case read =>
    intro f s q b asked ok reach
    refine ⟨fun regs => asked.ends ?_, fun memory noneBad noneCorrected => asked.ends ?_⟩
    · simp only [ok, reach, regs, Bool.not_true, Bool.false_eq_true, if_false, if_true]
    · simp only [ok, reach, memory, noneBad, State.debugMeet_clean noneBad noneCorrected, List.isEmpty_nil, Bool.not_true,
        Bool.false_eq_true, if_false, if_true]
  case write =>
    intro f s q b asked ok reach memory
    refine asked.ends ?_
    simp only [ok, reach, memory, Bool.not_true, Bool.false_eq_true, if_false]
  case halt =>
    intro s q b u asked target
    refine asked.ends ?_
    simp only [target, if_true]
  case step =>
    intro s q b u asked target halted single
    refine ⟨fun cvr => asked.ends ?_, fun other noGrant => asked.ends ?_⟩
    · subst cvr
      simp only [target, halted, reduceCtorEq, Bool.not_true, Bool.false_eq_true, if_false, if_true]
    · simp only [target, single, halted, other, noGrant, Bool.not_true, Bool.false_eq_true, if_false]
  case resume =>
    intro s q b u asked target
    refine asked.ends ?_
    simp only [target, if_true]
  case haltStatus => exact fun s q b asked => asked.ends rfl
  case bpSet =>
    intro s q b p asked parsed
    refine asked.ends ?_
    simp only [parsed]
  case bpClear => exact fun s q b asked => asked.ends rfl
  case bpHit =>
    intro s q b p asked set
    refine asked.ends ?_
    simp only [set]
  case enter =>
    intro s q b j jb asked inSpace hj only noQueue noRun alone noReplay
    subst hj
    refine asked.ends ?_
    simp only [Nat.not_le.2 inSpace, State.job_of_single only, only, alone, noQueue, noRun, noReplay, List.length_singleton,
      List.isEmpty_nil, bne_self_eq_false, Bool.not_true, Option.isSome_none, Bool.or_self, Bool.false_eq_true, if_false]
  case exit =>
    intro s q b r asked replay stopped
    refine asked.ends ?_
    simp only [replay, stopped, Bool.false_eq_true, if_false]
  case replay =>
    intro s q b r asked replay
    refine asked.ends ?_
    simp only [replay]

end Sys2Proof.Machine
end

section
/-! The SPDM requests on their transports (R445 to R449, R461; log 1, log 26). -/
namespace Sys2Proof.Machine

@[simp] theorem State.conn_setConn (s : State) (t : SpdmT) (c : SpdmConn) : (s.setConn t c).conn t = c := by
  cases t with
  | doe h => cases h <;> rfl
  | attest h => cases h <;> rfl
  | mctp => rfl

/-! ### One request -/

/-- A supported request that passes the shared checks is answered by its own part (R447, R448). -/
theorem State.spdmRow_asks {s : State} {t : SpdmT} {m : List Byte} {code : Nat} (asks : Asks s t m code)
    {own : State → SpdmT → List Byte → SpdmRes} (supported : spdmBody code = some own) {u : State} {r : List Byte}
    (ends : own s t m = (u, r)) : s.spdmRow t m code = spdmReply u t r := by
  obtain ⟨up, awake, isCode, long, version⟩ := asks
  have answered : s.spdm t m = (u, r) := by
    simp only [State.spdm, awake, isCode, supported, Nat.not_lt.2 long, version, ends, ne_eq, not_true_eq_false,
      Bool.false_eq_true, if_false]
  simp only [State.spdmRow, up, isCode, answered, beq_self_eq_true, Bool.and_self, if_true, spdmReply]

/-- Pieces of four bytes, as the algorithm structures of an answer are. -/
theorem length_algStructs (n : Nat) (f : Nat → List Byte) (four : ∀ k, (f k).length = 4) :
    ((List.range n).flatMap f).length = 4 * n := by
  rw [List.length_flatMap, List.map_congr_left (g := fun _ => 4) (fun k _ => four k), List.map_const', List.sum_replicate,
    List.length_range, smul_eq_mul, Nat.mul_comm]

section
variable {s : State} {t : SpdmT} {m : List Byte}

theorem spdmCapabilities_first (ver : (s.conn t).ver = true) (first : (s.conn t).caps = false) (fits : m.length = 20) :
    ∃ u r, spdmCapabilities s t m = (u, r) ∧ r.take 2 = [0x12, 0x61] ∧ r.length = 20 ∧ (u.conn t).caps = true := by
  refine ⟨_, _, by simp only [spdmCapabilities, ver, first, fits, Bool.not_true, Bool.or_self, Bool.false_eq_true, ne_eq,
    not_true_eq_false, if_false]; rfl, rfl, ?_, by rw [State.conn_setConn]⟩
  simp only [List.length_append, toLE_length, List.length_cons, List.length_nil]

theorem spdmAlgorithms_first (caps : (s.conn t).caps = true) (first : (s.conn t).algs = false) (whole : fld m 4 2 = m.length)
    (room : 32 + 4 * fld m 2 1 ≤ m.length) :
    ∃ u r, spdmAlgorithms s t m = (u, r) ∧ r.take 2 = [0x12, 0x63] ∧ r.length = 36 + 4 * fld m 2 1 ∧ (u.conn t).algs = true := by
  have fits : ¬(m.length < 32 ∨ m.length ≠ fld m 4 2 ∨ m.length < 32 + 4 * fld m 2 1) := by omega
  refine ⟨_, _, by simp only [spdmAlgorithms, caps, first, fits, Bool.not_true, Bool.or_self, Bool.false_eq_true, if_false]; rfl,
    rfl, ?_, by rw [State.conn_setConn]⟩
  have structs := length_algStructs (fld m 2 1) (fun k => toLE 1 (fld m (m.length - 4 * fld m 2 1 + 4 * k) 1) ++ toLE 1 0x20
    ++ toLE 2 (algSelect (fld m (m.length - 4 * fld m 2 1 + 4 * k) 1) (fld m (m.length - 4 * fld m 2 1 + 4 * k + 2) 2)))
    (fun k => by simp only [List.length_append, toLE_length])
  simp only [List.length_append, toLE_length, List.length_cons, List.length_nil, zeros, List.length_replicate, structs]

theorem spdmDigests_answer (algs : (s.conn t).algs = true) :
    ∃ u, spdmDigests s t m
      = (u, [0x12, 0x01, 0, Byte.of (b2n s.slot0)] ++ (if s.slot0 then sha512 s.spdmChain else [])) := by
  exact ⟨_, by simp only [spdmDigests, algs, Bool.not_true, Bool.false_eq_true, if_false]; rfl⟩

section
variable (algs : (s.conn t).algs = true) (provisioned : s.slot0 = true) (zero : fld m 2 1 % 16 = 0)
include algs provisioned zero

/-- GET_CERTIFICATE answers a part of the chain and how much is left (R446). -/
theorem spdmCertificate_answer (long : 8 ≤ m.length) (inside : fld m 4 2 ≤ s.spdmChain.length) {d : List Byte}
    (part : d = (s.spdmChain.drop (fld m 4 2)).take (min (fld m 6 2) 4088)) :
    ∃ u, spdmCertificate s t m
      = (u, [0x12, 0x02, 0, 0] ++ toLE 2 d.length ++ toLE 2 (s.spdmChain.length - fld m 4 2 - d.length) ++ d) := by
  have fits : ¬(fld m 2 1 % 16 ≠ 0 ∨ m.length < 8 ∨ s.spdmChain.length < fld m 4 2) := by omega
  subst part
  exact ⟨_, by simp only [spdmCertificate, algs, provisioned, fits, Bool.not_true, Bool.false_eq_true, if_false]; rfl⟩

/-- CHALLENGE answers signed bytes, and the certificate transcript starts over (R446, R447). -/
theorem spdmChallengeAuth_answer (long : 36 ≤ m.length) :
    ∃ u body sig, spdmChallengeAuth s t m = (u, body ++ sig)
      ∧ body = [0x12, 0x03, 0, 0x01] ++ sha512 s.spdmChain ++ s.rand32.1 ++ s.measSummary (fld m 3 1) ++ zeros 2
      ∧ sig = s.spdmSign ctxAuth ((s.conn t).vca ++ (s.conn t).msgB ++ m ++ body) ∧ (u.conn t).msgB = [] := by
  have fits : ¬(fld m 2 1 % 16 ≠ 0 ∨ m.length < 36) := by omega
  exact ⟨_, _, _, by simp only [spdmChallengeAuth, algs, provisioned, fits, Bool.not_true, Bool.false_eq_true, if_false]; rfl,
    rfl, rfl, by rw [State.conn_setConn]⟩

end

/-- An unsigned GET_MEASUREMENTS answers the selected blocks (R449). -/
theorem spdmMeasurements_unsigned (algs : (s.conn t).algs = true) (noSign : bit (fld m 2 1) 0 = false) {op : Nat}
    (isOp : fld m 3 1 = op) (known : ¬(12 < op ∧ op ≠ 0xFF)) {sel : List (List Byte)}
    (selected : (if op = 0 then [] else if op = 0xFF then s.measurements else [nth s.measurements (op - 1)]) = sel) :
    ∃ u, spdmMeasurements s t m = (u, [0x12, 0x60, Byte.of (if op = 0 then 12 else 0), 0] ++ toLE 1 sel.length
      ++ toLE 3 sel.flatten.length ++ sel.flatten ++ s.rand32.1 ++ zeros 2) := by
  subst isOp selected
  exact ⟨_, by simp only [spdmMeasurements, algs, noSign, known, Bool.not_true, Bool.false_and, Bool.false_eq_true, if_false]; rfl⟩

/-- KEY_EXCHANGE opens a session that is not finished (R447, R448). -/
theorem spdmKeyExchange_first (session : ∀ h, t ≠ .attest h) (algs : (s.conn t).algs = true) (none : (s.conn t).session = none)
    (zero : fld m 3 1 % 16 = 0) (long : 138 ≤ m.length) :
    ∃ u r id k, spdmKeyExchange s t m = (u, r) ∧ r.take 2 = [0x12, 0x64] ∧ (u.conn t).session = some (id, false, k) := by
  have fits : ¬(fld m 3 1 % 16 ≠ 0 ∨ m.length < 138) := by omega
  unfold spdmKeyExchange
  dsimp only
  split
  · next h => exact absurd rfl (session h)
  · simp only [algs, none, fits, Bool.not_true, Option.isSome_none, Bool.false_eq_true, if_false]
    exact ⟨_, _, _, _, rfl, rfl, by rw [State.conn_setConn]⟩

theorem spdmFinish_proved {id : Nat} {k : BitVec 384} (session : (s.conn t).session = some (id, false, k))
    (proof : (m.drop 4).take 64 = hmac512 (toLE 48 k.toNat) (m.take 4)) :
    spdmFinish s t m = (s.setConn t { s.conn t with session := some (id, true, k) }, [0x12, 0x65, 0, 0]) := by
  simp only [spdmFinish, session, proof, if_true]
  rfl

theorem spdmFinish_refused {id : Nat} {k : BitVec 384} (session : (s.conn t).session = some (id, false, k))
    (wrong : (m.drop 4).take 64 ≠ hmac512 (toLE 48 k.toNat) (m.take 4)) :
    spdmFinish s t m = (s.setConn t { s.conn t with session := none }, [0x12, 0x7F, 0x06, 0]) := by
  simp only [spdmFinish, session, wrong, if_false]
  rfl

theorem spdmEnd_finished {id : Nat} {k : BitVec 384} (session : (s.conn t).session = some (id, true, k)) :
    spdmEnd s t m = (s.setConn t { s.conn t with session := none }, [0x12, 0x6C, 0, 0]) := by
  simp only [spdmEnd, session]
  rfl

end

/-- The responder supports the requests of the table alone (R447). -/
theorem spdmBody_unsupported {code : Nat} (outside : spdmCodes.contains code = false) : spdmBody code = none := by
  simp [spdmCodes] at outside
  simp [spdmBody, outside]

/-- Settles O30: each code has its own part, which passes its checks down to its answer. -/
theorem attestationRequestsAnswer : Obligations.AttestationRequestsAnswer := by
  refine ⟨?version, ?capabilities, ?algorithms, ?digests, ?certificate, ?challenge, ?measurements, ?exchange, ?attest, ?finish,
    ?endSession, ?unsupported⟩
  case version =>
    intro t m s asks
    exact ⟨_, congrArg Host.Outcome.next (State.spdmRow_asks asks rfl rfl), by rw [State.conn_setConn],
      by rw [State.conn_setConn]; rfl, by rw [State.conn_setConn]; rfl⟩
  case capabilities =>
    intro t m s asks ver first fits
    obtain ⟨u, r, ends, head, length, caps⟩ := spdmCapabilities_first ver first fits
    exact ⟨u, r, congrArg Host.Outcome.next (State.spdmRow_asks asks rfl ends), head, length, caps⟩
  case algorithms =>
    intro t m s asks caps first whole room
    obtain ⟨u, r, ends, head, length, algs⟩ := spdmAlgorithms_first caps first whole room
    exact ⟨u, r, congrArg Host.Outcome.next (State.spdmRow_asks asks rfl ends), head, length, algs⟩
  case digests =>
    intro t m s asks algs
    obtain ⟨u, ends⟩ := spdmDigests_answer (m := m) algs
    exact ⟨u, congrArg Host.Outcome.next (State.spdmRow_asks asks rfl ends)⟩
  case certificate =>
    intro t m s d asks algs provisioned zero long inside part
    obtain ⟨u, ends⟩ := spdmCertificate_answer algs provisioned zero long inside part
    exact ⟨u, congrArg Host.Outcome.next (State.spdmRow_asks asks rfl ends)⟩
  case challenge =>
    intro t m s asks algs provisioned zero long
    obtain ⟨u, body, sig, ends, isBody, isSig, fresh⟩ := spdmChallengeAuth_answer algs provisioned zero long
    exact ⟨u, body, sig, congrArg Host.Outcome.next (State.spdmRow_asks asks rfl ends), isBody, isSig, fresh⟩
  case measurements =>
    intro t m s asks algs noSign
    refine ⟨fun count => ?_, fun k small block => ?_⟩
    · obtain ⟨u, ends⟩ := spdmMeasurements_unsigned algs noSign count (by decide) (if_pos rfl)
      exact ⟨u, congrArg Host.Outcome.next (State.spdmRow_asks asks rfl ends)⟩
    · have selected : (if k + 1 = 0 then [] else if k + 1 = 0xFF then s.measurements else [nth s.measurements (k + 1 - 1)])
          = [nth s.measurements k] := by
        rw [if_neg (by omega), if_neg (by omega), Nat.add_sub_cancel]
      obtain ⟨u, ends⟩ := spdmMeasurements_unsigned algs noSign block (by omega) selected
      rw [if_neg (by omega), List.flatten_singleton] at ends
      exact ⟨u, congrArg Host.Outcome.next (State.spdmRow_asks asks rfl ends)⟩
  case exchange =>
    intro t m s session asks algs none zero long
    obtain ⟨u, r, id, k, ends, head, opened⟩ := spdmKeyExchange_first session algs none zero long
    exact ⟨u, r, id, k, congrArg Host.Outcome.next (State.spdmRow_asks asks rfl ends), head, opened⟩
  case attest =>
    intro h m s asks
    exact congrArg Host.Outcome.next (State.spdmRow_asks asks rfl rfl)
  case finish =>
    intro t m s id k asks session
    refine ⟨fun proof => ?_, fun wrong => ?_⟩
    · exact ⟨_, congrArg Host.Outcome.next (State.spdmRow_asks asks rfl (spdmFinish_proved session proof)),
        by rw [State.conn_setConn]⟩
    · exact ⟨_, congrArg Host.Outcome.next (State.spdmRow_asks asks rfl (spdmFinish_refused session wrong)),
        by rw [State.conn_setConn]⟩
  case endSession =>
    intro t m s id k asks session
    exact ⟨_, congrArg Host.Outcome.next (State.spdmRow_asks asks rfl (spdmEnd_finished session)), by rw [State.conn_setConn]⟩
  case unsupported =>
    intro t m s up awake outside
    have answered : s.spdm t m = (s, spdmError 0x07 (fld m 1 1)) := by
      simp only [State.spdm, awake, spdmBody_unsupported outside, Bool.false_eq_true, if_false]
    simp only [exec, execSpdmUnsupportedRequest, outside, State.spdmRow, up, answered, beq_self_eq_true, Bool.and_self,
      Bool.false_eq_true, if_false, if_true]
    rfl

end Sys2Proof.Machine
end
